-- ==== Sys2Proof/Word.lean ====
section
/-! DEFINITION. The word types of the KM4096 and the sparse map by number that the state is made of. -/

namespace Sys2Proof

/-- A byte, the smallest unit of storage (R84). -/
abbrev Byte := BitVec 8

/-- A 32-bit instruction word, micro-order, command word or scalar s register (R9, R146). -/
abbrev Word := BitVec 32

/-- A 64-bit register, address or record word. -/
abbrev DWord := BitVec 64

/-- A 256 B vector, row or queue entry (R268). -/
abbrev VReg := BitVec 2048

/-- A lane mask (R146, R270). -/
abbrev Mask := BitVec 128

/-- A descriptor register d0 to d7 (R146). -/
abbrev DReg := BitVec 768

/-- A sparse map from numbers: entries in ascending key order; a key that is not listed holds the map's
default, which each reader names. -/
abbrev SMap (α : Type) := List (Nat × α)

end Sys2Proof
end

