-- ==== Sys2Proof/Syntax.lean ====
section
/-! DEFINITION. The instructions, command kinds and module events of the KM4096: one constructor per row of the
opcode table (R221, R228 to R239, and the steps of 95_what_each_step_holds). Encoded rows carry their fields
as bit vectors of the widths the encoding tables give; command and event rows carry the core, unit or
message they act on. -/

namespace Sys2Proof

/-- The four engine command queues of a core (R227, R259). -/
inductive Engine where
  | matrix
  | copy
  | collective
  | mule
  deriving DecidableEq, Repr

/-- The agents of R84 and R186 that issue words, hold fault records or own accesses. -/
inductive Agent where
  | control
  | firmware
  | load
  | compute
  | store
  | mule
  | matrixEngine
  | copyEngine
  | tensorMove
  | collectiveEngine
  | image
  | accPort
  | hub
  deriving DecidableEq, Repr

/-- The target of a register write with no behaviour of its own: a system register of the issuing core
(R260, R341) or a BAR0 offset of a function (R342, R343). -/
inductive RegTarget where
  | sys (number : Nat)
  | bar0 (fn offset : Nat)
  deriving DecidableEq, Repr

/-- What REMOTE_FLAG_OPERATION acts on: the operation of this module at an index, which leaves its die or reaches its target, or a flag add
that a peer has sent, with its launch id, core, flag and value (R116 to R122). -/
inductive FlagEvent where
  | own (index : Nat)
  | peer (lid : Word) (core flag : Nat) (value : Word)
  deriving DecidableEq, Repr

/-- What READY tells a window's slot: that it opens, or that a switch nearer to the root has refused the join which came by a port, for the
registrant of a number, with a status (R206, R207). -/
inductive JoinAnswer where
  | opens (tag : Nat)
  | refused (tag port num status : Nat)
  deriving DecidableEq, Repr

/-- By which port of the switch a join comes in, and the fabric id of the module that it comes from (R206, R207): for a port of this module's
dies, the module's own. -/
structure Ingress where
  port : Nat
  origin : BitVec 16 := 0
  deriving DecidableEq, Repr, Inhabited

/-- What a window's completion signal brings from its root: DROPS, and the words that each registrant's stream has, by the registrant's
window record (R217, R332). -/
structure WinEnd where
  drops : Nat := 0
  lengths : List (BitVec 256 × Nat) := []
  deriving DecidableEq, Repr, Inhabited

/-- What the power controller has measured in a closing interval beside the matrix-rail current (R367 to R369): the module's power in W, the
temperature of each die in °C, and how much of the power above the cap went into ballast k-steps, in W. -/
structure Reading where
  power : Nat := 0
  heat : List Nat := []
  ballast : Nat := 0
  deriving DecidableEq, Repr, Inhabited

/-- What the controller orders of an idle matrix engine (R369): a ballast k-step on a core, as the matrix-rail current would fall by `fall` A
within the interval. -/
structure Ballast where
  core : Nat
  fall : Nat
  deriving DecidableEq, Repr, Inhabited

/-- How a power-on goes (R371): whether Rinty's images and the configuration blob verify, and the HBM stacks that fail their training. -/
structure PowerUp where
  verified : Bool
  failed : List Nat := []
  deriving DecidableEq, Repr, Inhabited

/-- Every row of the opcode table. -/
inductive Instr where
  -- Control stream (R223 to R230).
  | add (d : BitVec 5) (a : BitVec 5) (b : BitVec 5)
  | sub (d : BitVec 5) (a : BitVec 5) (b : BitVec 5)
  | and (d : BitVec 5) (a : BitVec 5) (b : BitVec 5)
  | or (d : BitVec 5) (a : BitVec 5) (b : BitVec 5)
  | xor (d : BitVec 5) (a : BitVec 5) (b : BitVec 5)
  | andn (d : BitVec 5) (a : BitVec 5) (b : BitVec 5)
  | sll (d : BitVec 5) (a : BitVec 5) (b : BitVec 5)
  | srl (d : BitVec 5) (a : BitVec 5) (b : BitVec 5)
  | sra (d : BitVec 5) (a : BitVec 5) (b : BitVec 5)
  | mul (d : BitVec 5) (a : BitVec 5) (b : BitVec 5)
  | mulh (d : BitVec 5) (a : BitVec 5) (b : BitVec 5)
  | mulhn (d : BitVec 5) (a : BitVec 5) (b : BitVec 5)
  | min (d : BitVec 5) (a : BitVec 5) (b : BitVec 5)
  | max (d : BitVec 5) (a : BitVec 5) (b : BitVec 5)
  | minn (d : BitVec 5) (a : BitVec 5) (b : BitVec 5)
  | maxn (d : BitVec 5) (a : BitVec 5) (b : BitVec 5)
  | clz (d : BitVec 5) (a : BitVec 5)
  | popc (d : BitVec 5) (a : BitVec 5)
  | ceq (d : BitVec 3) (a : BitVec 5) (b : BitVec 5)
  | cne (d : BitVec 3) (a : BitVec 5) (b : BitVec 5)
  | clt (d : BitVec 3) (a : BitVec 5) (b : BitVec 5)
  | cge (d : BitVec 3) (a : BitVec 5) (b : BitVec 5)
  | cltn (d : BitVec 3) (a : BitVec 5) (b : BitVec 5)
  | cgen (d : BitVec 3) (a : BitVec 5) (b : BitVec 5)
  | pand (d : BitVec 3) (a : BitVec 3) (b : BitVec 3)
  | por (d : BitVec 3) (a : BitVec 3) (b : BitVec 3)
  | pxor (d : BitVec 3) (a : BitVec 3) (b : BitVec 3)
  | pandn (d : BitVec 3) (a : BitVec 3) (b : BitVec 3)
  | addi (d : BitVec 5) (a : BitVec 5) (i : BitVec 16)
  | andi (d : BitVec 5) (a : BitVec 5) (i : BitVec 16)
  | ori (d : BitVec 5) (a : BitVec 5) (i : BitVec 16)
  | xori (d : BitVec 5) (a : BitVec 5) (i : BitVec 16)
  | slli (d : BitVec 5) (a : BitVec 5) (i : BitVec 6)
  | srli (d : BitVec 5) (a : BitVec 5) (i : BitVec 6)
  | srai (d : BitVec 5) (a : BitVec 5) (i : BitVec 6)
  | ceqi (d : BitVec 3) (a : BitVec 5) (i : BitVec 16)
  | clti (d : BitVec 3) (a : BitVec 5) (i : BitVec 16)
  | cltni (d : BitVec 3) (a : BitVec 5) (i : BitVec 16)
  | ld (d : BitVec 5) (b : BitVec 5) (k : BitVec 1) (z : BitVec 2) (s : BitVec 2) (o : BitVec 11)
  | ldn (d : BitVec 5) (b : BitVec 5) (k : BitVec 1) (z : BitVec 2) (s : BitVec 2) (o : BitVec 11)
  | st (d : BitVec 5) (b : BitVec 5) (k : BitVec 1) (z : BitVec 2) (s : BitVec 2) (o : BitVec 11)
  | atomAdd (d : BitVec 5) (a : BitVec 5) (b : BitVec 5) (s : BitVec 2) (o : BitVec 5) (z : BitVec 1)
  | atomSwap (d : BitVec 5) (a : BitVec 5) (b : BitVec 5) (s : BitVec 2) (o : BitVec 5) (z : BitVec 1)
  | atomCas (d : BitVec 5) (a : BitVec 5) (b : BitVec 5) (s : BitVec 2) (o : BitVec 5) (z : BitVec 1)
  | atomAnd (d : BitVec 5) (a : BitVec 5) (b : BitVec 5) (s : BitVec 2) (o : BitVec 5) (z : BitVec 1)
  | atomOr (d : BitVec 5) (a : BitVec 5) (b : BitVec 5) (s : BitVec 2) (o : BitVec 5) (z : BitVec 1)
  | atomXor (d : BitVec 5) (a : BitVec 5) (b : BitVec 5) (s : BitVec 2) (o : BitVec 5) (z : BitVec 1)
  | atomMin (d : BitVec 5) (a : BitVec 5) (b : BitVec 5) (s : BitVec 2) (o : BitVec 5) (z : BitVec 1)
  | atomMax (d : BitVec 5) (a : BitVec 5) (b : BitVec 5) (s : BitVec 2) (o : BitVec 5) (z : BitVec 1)
  | br (p : BitVec 3) (s : BitVec 1) (o : BitVec 22)
  | call (p : BitVec 3) (s : BitVec 1) (o : BitVec 22)
  | jr (d : BitVec 5) (a : BitVec 5)
  | loop (d : BitVec 5) (i : BitVec 16)
  | mfsr (d : BitVec 5) (n : BitVec 1) (p : BitVec 3) (r : BitVec 12)
  | mtsr (a : BitVec 5) (n : BitVec 1) (p : BitVec 3) (r : BitVec 12)
  | dset (d : BitVec 3) (a : BitVec 5) (s : BitVec 10)
  | dget (d : BitVec 5) (a : BitVec 3) (s : BitVec 10)
  | sqstart (a : BitVec 5) (t : BitVec 2)
  | sqstop (t : BitVec 2)
  | sqbase (a : BitVec 5) (t : BitVec 2)
  | sqstat (d : BitVec 5) (t : BitVec 2)
  | tsig (k : BitVec 4)
  | twait (k : BitVec 4)
  | twaitnb (d : BitVec 3) (k : BitVec 4)
  | fset (a : BitVec 5) (f : BitVec 5) (o : BitVec 5)
  | fadd (a : BitVec 5) (f : BitVec 5) (o : BitVec 5)
  | fawait (d : BitVec 5) (a : BitVec 5) (f : BitVec 5) (o : BitVec 5)
  | fradd (t : BitVec 5) (a : BitVec 5) (f : BitVec 5) (o : BitVec 5)
  | fmcast (t : BitVec 5) (a : BitVec 5) (f : BitVec 5) (o : BitVec 5)
  | fread (d : BitVec 5) (f : BitVec 5)
  | tagwany (d : BitVec 5) (b : BitVec 5)
  | tagwall (d : BitVec 5) (b : BitVec 5)
  | tagffr (d : BitVec 5) (b : BitVec 5)
  | tagclr (b : BitVec 5)
  | rgprod (d : BitVec 5) (b : BitVec 5) (o : BitVec 5)
  | rgpub (a : BitVec 5) (b : BitVec 5) (o : BitVec 5)
  | rgcons (d : BitVec 5) (b : BitVec 5) (o : BitVec 5)
  | rgrel (a : BitVec 5) (b : BitVec 5) (o : BitVec 5)
  | barinit (a : BitVec 5) (f : BitVec 5) (o : BitVec 5)
  | barinitf (a : BitVec 5) (f : BitVec 5) (o : BitVec 5)
  | baradd (t : BitVec 5) (a : BitVec 5) (f : BitVec 5) (o : BitVec 5)
  | barcast (t : BitVec 5) (a : BitVec 5) (f : BitVec 5) (o : BitVec 5)
  | fenceRel (o : BitVec 5)
  | fenceAcq (o : BitVec 5)
  | fenceFull (o : BitVec 5)
  | fenceX
  | waita (d : BitVec 5) (a : BitVec 5) (b : BitVec 5) (o : BitVec 5)
  | waitanb (d : BitVec 5) (a : BitVec 5) (b : BitVec 5) (o : BitVec 5)
  | rent (d : BitVec 5) (a : BitVec 5) (b : BitVec 5)
  | renew (d : BitVec 5) (a : BitVec 5) (b : BitVec 5)
  | prepay (d : BitVec 5) (a : BitVec 5) (b : BitVec 5)
  | sublet (d : BitVec 5) (a : BitVec 5) (b : BitVec 5)
  | adopt (d : BitVec 5) (a : BitVec 5) (b : BitVec 5)
  | vacate (d : BitVec 5) (a : BitVec 5)
  | lstat (d : BitVec 5) (a : BitVec 5)
  | exit
  | exitAbandon
  | fcall (a : BitVec 5)
  | eret (a : BitVec 5) (b : BitVec 5)
  | pinval (d : BitVec 5) (a : BitVec 5) (b : BitVec 5)
  | dispMx (w : BitVec 1) (k : BitVec 4) (s : BitVec 1) (j : BitVec 4) (a : BitVec 3) (b : BitVec 3) (c : BitVec 5)
  | dispCp (w : BitVec 1) (k : BitVec 4) (s : BitVec 1) (j : BitVec 4) (a : BitVec 3) (b : BitVec 3) (c : BitVec 5)
  | dispCl (w : BitVec 1) (k : BitVec 4) (s : BitVec 1) (j : BitVec 4) (a : BitVec 3) (b : BitVec 3) (c : BitVec 5)
  | dispMl (w : BitVec 1) (k : BitVec 4) (s : BitVec 1) (j : BitVec 4) (a : BitVec 3) (b : BitVec 3) (c : BitVec 5)
  | xpfx (i : BitVec 16)
  -- Vector micro-orders (R231 to R234, R275).
  | vmov (d : BitVec 6) (a : BitVec 6) (h : BitVec 1) (j : BitVec 1) (m : BitVec 3) (g : BitVec 1)
  | vrd (d : BitVec 6) (a : BitVec 6) (l : BitVec 1) (h : BitVec 1) (j : BitVec 1) (m : BitVec 3) (g : BitVec 1)
  | vwr (d : BitVec 6) (a : BitVec 6) (l : BitVec 1) (h : BitVec 1) (j : BitVec 1) (m : BitVec 3) (g : BitVec 1)
  | vsel (d : BitVec 6) (a : BitVec 6) (b : BitVec 6) (h : BitVec 1) (j : BitVec 1) (m : BitVec 3) (g : BitVec 1)
  | mand (d : BitVec 3) (a : BitVec 3) (b : BitVec 3) (g : BitVec 1)
  | mor (d : BitVec 3) (a : BitVec 3) (b : BitVec 3) (g : BitVec 1)
  | mxor (d : BitVec 3) (a : BitVec 3) (b : BitVec 3) (g : BitVec 1)
  | mandn (d : BitVec 3) (a : BitVec 3) (b : BitVec 3) (g : BitVec 1)
  | vaddI (t : BitVec 1) (d : BitVec 6) (a : BitVec 6) (b : BitVec 6) (h : BitVec 1) (j : BitVec 1) (m : BitVec 3) (g : BitVec 1)
  | vaddSat (t : BitVec 1) (d : BitVec 6) (a : BitVec 6) (b : BitVec 6) (h : BitVec 1) (j : BitVec 1) (m : BitVec 3) (g : BitVec 1)
  | vsubI (t : BitVec 1) (d : BitVec 6) (a : BitVec 6) (b : BitVec 6) (h : BitVec 1) (j : BitVec 1) (m : BitVec 3) (g : BitVec 1)
  | vsubSat (t : BitVec 1) (d : BitVec 6) (a : BitVec 6) (b : BitVec 6) (h : BitVec 1) (j : BitVec 1) (m : BitVec 3) (g : BitVec 1)
  | vmulI (t : BitVec 1) (d : BitVec 6) (a : BitVec 6) (b : BitVec 6) (h : BitVec 1) (j : BitVec 1) (m : BitVec 3) (g : BitVec 1)
  | vmulSat (t : BitVec 1) (d : BitVec 6) (a : BitVec 6) (b : BitVec 6) (h : BitVec 1) (j : BitVec 1) (m : BitVec 3) (g : BitVec 1)
  | vminI (t : BitVec 1) (d : BitVec 6) (a : BitVec 6) (b : BitVec 6) (h : BitVec 1) (j : BitVec 1) (m : BitVec 3) (g : BitVec 1)
  | vmaxI (t : BitVec 1) (d : BitVec 6) (a : BitVec 6) (b : BitVec 6) (h : BitVec 1) (j : BitVec 1) (m : BitVec 3) (g : BitVec 1)
  | vand (t : BitVec 1) (d : BitVec 6) (a : BitVec 6) (b : BitVec 6) (h : BitVec 1) (j : BitVec 1) (m : BitVec 3) (g : BitVec 1)
  | vor (t : BitVec 1) (d : BitVec 6) (a : BitVec 6) (b : BitVec 6) (h : BitVec 1) (j : BitVec 1) (m : BitVec 3) (g : BitVec 1)
  | vxor (t : BitVec 1) (d : BitVec 6) (a : BitVec 6) (b : BitVec 6) (h : BitVec 1) (j : BitVec 1) (m : BitVec 3) (g : BitVec 1)
  | vshl (t : BitVec 1) (d : BitVec 6) (a : BitVec 6) (b : BitVec 6) (h : BitVec 1) (j : BitVec 1) (m : BitVec 3) (g : BitVec 1)
  | vshr (t : BitVec 1) (d : BitVec 6) (a : BitVec 6) (b : BitVec 6) (h : BitVec 1) (j : BitVec 1) (m : BitVec 3) (g : BitVec 1)
  | vsra (t : BitVec 1) (d : BitVec 6) (a : BitVec 6) (b : BitVec 6) (h : BitVec 1) (j : BitVec 1) (m : BitVec 3) (g : BitVec 1)
  | vceqI (t : BitVec 1) (d : BitVec 6) (a : BitVec 6) (b : BitVec 6) (h : BitVec 1) (j : BitVec 1) (m : BitVec 3) (g : BitVec 1)
  | vcltI (t : BitVec 1) (d : BitVec 6) (a : BitVec 6) (b : BitVec 6) (h : BitVec 1) (j : BitVec 1) (m : BitVec 3) (g : BitVec 1)
  | vaddF (t : BitVec 2) (r : BitVec 2) (d : BitVec 6) (a : BitVec 6) (b : BitVec 6) (h : BitVec 1) (j : BitVec 1) (m : BitVec 3) (g : BitVec 1)
  | vsubF (t : BitVec 2) (r : BitVec 2) (d : BitVec 6) (a : BitVec 6) (b : BitVec 6) (h : BitVec 1) (j : BitVec 1) (m : BitVec 3) (g : BitVec 1)
  | vmulF (t : BitVec 2) (r : BitVec 2) (d : BitVec 6) (a : BitVec 6) (b : BitVec 6) (h : BitVec 1) (j : BitVec 1) (m : BitVec 3) (g : BitVec 1)
  | vfma (t : BitVec 2) (r : BitVec 2) (d : BitVec 6) (a : BitVec 6) (b : BitVec 6) (h : BitVec 1) (j : BitVec 1) (m : BitVec 3) (g : BitVec 1)
  | vminF (t : BitVec 2) (d : BitVec 6) (a : BitVec 6) (b : BitVec 6) (h : BitVec 1) (j : BitVec 1) (m : BitVec 3) (g : BitVec 1)
  | vmaxF (t : BitVec 2) (d : BitVec 6) (a : BitVec 6) (b : BitVec 6) (h : BitVec 1) (j : BitVec 1) (m : BitVec 3) (g : BitVec 1)
  | vcltF (t : BitVec 2) (d : BitVec 6) (a : BitVec 6) (b : BitVec 6) (h : BitVec 1) (j : BitVec 1) (m : BitVec 3) (g : BitVec 1)
  | vceqF (t : BitVec 2) (d : BitVec 6) (a : BitVec 6) (b : BitVec 6) (h : BitVec 1) (j : BitVec 1) (m : BitVec 3) (g : BitVec 1)
  | vcvt (s : BitVec 3) (d : BitVec 6) (a : BitVec 6) (r : BitVec 2) (u : BitVec 1) (f : BitVec 3) (h : BitVec 1) (j : BitVec 1) (m : BitVec 3) (g : BitVec 1)
  | vpack (d : BitVec 6) (a : BitVec 6) (r : BitVec 2) (u : BitVec 1) (f : BitVec 3) (h : BitVec 1) (j : BitVec 1) (m : BitVec 3) (g : BitVec 1)
  | vunpk (d : BitVec 6) (a : BitVec 6) (p : BitVec 3) (f : BitVec 3) (h : BitVec 1) (j : BitVec 1) (m : BitVec 3) (g : BitVec 1)
  | vexp2 (t : BitVec 2) (d : BitVec 6) (a : BitVec 6) (h : BitVec 1) (m : BitVec 3) (g : BitVec 1)
  | vrcp (t : BitVec 2) (d : BitVec 6) (a : BitVec 6) (h : BitVec 1) (m : BitVec 3) (g : BitVec 1)
  | vrsq (t : BitVec 2) (d : BitVec 6) (a : BitVec 6) (h : BitVec 1) (m : BitVec 3) (g : BitVec 1)
  | vrsum (t : BitVec 2) (d : BitVec 6) (a : BitVec 6) (h : BitVec 1) (m : BitVec 3) (g : BitVec 1)
  | vrmax (t : BitVec 2) (d : BitVec 6) (a : BitVec 6) (h : BitVec 1) (m : BitVec 3) (g : BitVec 1)
  | vrmin (t : BitVec 2) (d : BitVec 6) (a : BitVec 6) (h : BitVec 1) (m : BitVec 3) (g : BitVec 1)
  | vsnap (d : BitVec 6) (a : BitVec 6) (s : BitVec 4) (m : BitVec 3) (g : BitVec 1)
  | vrot (c : BitVec 4)
  | vstg (n : BitVec 4)
  | vlane (s : BitVec 4) (a : BitVec 6) (l : BitVec 7) (g : BitVec 1)
  | vbcast (d : BitVec 6) (s : BitVec 4) (m : BitVec 3) (g : BitVec 1)
  | vsetwb (s : BitVec 4) (i : BitVec 16)
  | vsetacc (m : BitVec 2)
  | saddi (d : BitVec 4) (s : BitVec 4) (i : BitVec 16)
  | sadd (d : BitVec 4) (s : BitVec 4) (b : BitVec 4)
  | smovi (d : BitVec 4) (i : BitVec 16)
  | smoviHi (d : BitVec 4) (i : BitVec 16)
  | vhalt
  | vtsig (k : BitVec 4)
  | vtwait (k : BitVec 4)
  | vfenceRel (o : BitVec 5)
  | vfenceAcq (o : BitVec 5)
  | vfenceFull (o : BitVec 5)
  | vfenceX
  | vmfsr (d : BitVec 4) (n : BitVec 1) (r : BitVec 12)
  | vmtsr (s : BitVec 4) (n : BitVec 1) (r : BitVec 12)
  | vloop (d : BitVec 4) (i : BitVec 16)
  | vbnz (s : BitVec 4) (i : BitVec 16)
  | vjmp (i : BitVec 16)
  -- Access micro-orders (R235, R236).
  | anop
  | ldq (q : BitVec 4) (b : BitVec 4) (i : BitVec 4) (p : BitVec 1) (k : BitVec 1) (o : BitVec 12)
  | stq (q : BitVec 4) (b : BitVec 4) (i : BitVec 4) (p : BitVec 1) (k : BitVec 1) (o : BitVec 12)
  | pref (b : BitVec 4) (i : BitVec 4) (p : BitVec 1) (k : BitVec 1) (o : BitVec 12)
  | ald (d : BitVec 4) (b : BitVec 4) (i : BitVec 4) (p : BitVec 1) (k : BitVec 1) (o : BitVec 12)
  | aaddi (d : BitVec 4) (b : BitVec 4) (i : BitVec 18)
  | aadd (d : BitVec 4) (b : BitVec 4) (i : BitVec 4)
  | asub (d : BitVec 4) (b : BitVec 4) (i : BitVec 4)
  | aslli (d : BitVec 4) (b : BitVec 4) (n : BitVec 6)
  | aseth (d : BitVec 4) (i : BitVec 18)
  | aandi (d : BitVec 4) (b : BitVec 4) (i : BitVec 18)
  | ajmp (o : BitVec 16)
  | abnz (b : BitVec 4) (o : BitVec 16)
  | aloop (b : BitVec 4) (o : BitVec 16)
  | atsig (k : BitVec 4)
  | atwait (k : BitVec 4)
  | ahalt
  | afenceRel (o : BitVec 5)
  | afenceAcq (o : BitVec 5)
  | afenceFull (o : BitVec 5)
  | afenceX
  | amfsr (d : BitVec 4) (n : BitVec 1) (r : BitVec 12)
  | amtsr (d : BitVec 4) (b : BitVec 4) (n : BitVec 1) (r : BitVec 12)
  | arprod (d : BitVec 4) (b : BitVec 4)
  | arpub (d : BitVec 4) (b : BitVec 4)
  | arcons (d : BitVec 4) (b : BitVec 4)
  | arrel (d : BitVec 4) (b : BitVec 4)
  -- Mule words (R237).
  | muleNop
  | muleHalt
  | mulePost (a : BitVec 3) (n : BitVec 10)
  | muleJmp (t : BitVec 10)
  | muleLoop (d : BitVec 3) (t : BitVec 10)
  | muleBnz (a : BitVec 3) (t : BitVec 10)
  | muleSeti (d : BitVec 3) (i : BitVec 18)
  | muleAddi (d : BitVec 3) (a : BitVec 3) (i : BitVec 18)
  | muleAdd (d : BitVec 3) (a : BitVec 3) (b : BitVec 3)
  | muleAgdim (a : BitVec 3) (b : BitVec 3) (f : BitVec 1) (e : BitVec 2)
  | muleAgind (a : BitVec 3) (f : BitVec 1) (e : BitVec 2)
  | muleAgrun (d : BitVec 3)
  | muleMx (a : BitVec 3) (b : BitVec 3) (o : BitVec 2)
  | muleMxw
  | muleEx (a : BitVec 3) (b : BitVec 3) (t : BitVec 2) (f : BitVec 2)
  | muleCp (a : BitVec 3) (b : BitVec 3) (d : BitVec 1) (s : BitVec 1) (g : BitVec 6)
  | muleTagw (a : BitVec 3) (b : BitVec 3)
  | muleFwait (a : BitVec 3) (o : BitVec 5) (f : BitVec 5)
  | muleFset (a : BitVec 3) (o : BitVec 5) (f : BitVec 5)
  | muleFence (o : BitVec 5) (k : BitVec 2)
  | muleLd (d : BitVec 3) (a : BitVec 3) (i : BitVec 18)
  | muleSt (a : BitVec 3) (b : BitVec 3) (i : BitVec 18)
  | muleMfsr (d : BitVec 3) (n : BitVec 12)
  | muleMtsr (a : BitVec 3) (n : BitVec 12)
  -- Engine command kinds (R239): the kind is dequeued from its queue of the core named and started.
  | nest (core : Nat)
  | fmtld (core : Nat)
  | cstld (core : Nat)
  | copy (core : Nat)
  | copyr (core : Nat)
  | tmove (core : Nat)
  | coll (core : Nat)
  | join (core : Nat)
  | rstore (core : Nat)
  | spred (core : Nat)
  | dispx (core : Nat)
  | abort (core : Nat)
  | accreg (core : Nat)
  | accfree (core : Nat)
  | xbreg (core : Nat)
  | mrun (core : Nat)
  | mload (core : Nat)
  -- Register writes and reads with behaviour of their own, and module events.
  | inputFifoAppend (engine : Engine) (word : Word)
  | outputFifoPop (engine : Engine) (dest : Nat)
  | mxgo (value : DWord)
  | mlgo (value : DWord)
  | fstatWrite (value : Word)
  | pshareWrite (core : Nat) (value : DWord)
  | paceWrite (engine : Engine) (value : DWord)
  | preempt (value : DWord)
  | endtask (value : DWord)
  | registerWrite (target : RegTarget) (value : DWord)
  | ringRegisterWrite (fn ring : Nat) (value : DWord)
  | secondStageEntryWrite (entry : Nat) (upper : DWord)
  | packetConsume (fn ring : Nat)
  | operatorChain (fn ring count : Nat)
  | accountOpen (fn ring count : Nat)
  | accountCredit (fn ring count : Nat)
  | accountWithdraw (fn ring count : Nat)
  | accountFreeze (fn ring count : Nat)
  | accountThaw (fn ring count : Nat)
  | accountSetlow (fn ring count : Nat)
  | accountClose (fn ring count : Nat)
  | accountRead (fn ring count : Nat)
  | prefixExport (fn ring count : Nat)
  | prefixImport (fn ring count : Nat)
  | noOpPacket (fn ring count : Nat)
  | pageInvalidation (fn ring count : Nat)
  | attestationRequest (fn ring count : Nat)
  | recordExpansion (fn ring count : Nat)
  | functionLevelReset (fn : Nat)
  | powerOn (how : PowerUp)
  | hostWrite (fn gpa : Nat) (data : List Byte)
  | hostRead (fn gpa length : Nat)
  | pcieCompletion (access : Nat) (ok : Bool)
  | pcieCompletionTimeout (access : Nat)
  | pageWalk (access : Nat)
  | migrationStoreRetry (access : Nat)
  | invalidationComplete (index : Nat)
  | dataAccessPerform (access : Nat)
  | slotWriteApply (core slot : Nat)
  | expiryMark (core slot : Nat)
  | codeRegionCrossing (core : Nat) (agent : Agent)
  | messageQueueAppend (access : Nat)
  | mqAcknowledgement (index : Nat)
  | resumeNotice (index : Nat)
  | mqPollResend (core slot : Nat)
  | ringClaimGrant (home desc : Nat)
  | accumulateWrite (access : Nat) (arrival : Option (Nat × Nat × DWord × Nat × List Byte))
  | waitaPoll (index : Nat)
  | tickBoundary (unit tick : Nat)
  | leaseExpiry (unit lease : Nat)
  | hubDebit (index : Nat)
  | rentDebitGrant (index : Nat)
  | deferredDebitRefusal (unit lease : Nat)
  | meterRefusal (core : Nat)
  | scrubComplete (unit lease : Nat)
  | tokenSignalApply (core index : Nat)
  | sequencerUnblock (core : Nat) (agent : Agent)
  | lossOfDecoupling (core block : Nat)
  | commandDequeue (core : Nat) (engine : Engine)
  | commandCompletion (core : Nat) (engine : Engine) (index : Nat)
  | matrixKstep (core : Nat)
  | hadamardPrepass (core : Nat)
  | drainRowWrite (core : Nat)
  | copyBeat (core index : Nat)
  | ballastKstep (order : Ballast)
  | crossDieWriteApply (access : Nat) (arrival : Option (Nat × Nat × List Byte))
  | appliedVectorUpdate (die : Nat)
  | remoteFlagOperation (event : FlagEvent)
  | oxVectorExamine (die launch : Nat)
  | launchSelection (die : Nat)
  | taskStart (core : Nat)
  | imageStore (die : Nat)
  | taskRetirement (core : Nat)
  | launchCompletion (die launch : Nat)
  | preemptionRequest (core cause : Nat)
  | taskSaveComplete (core : Nat)
  | taskRestore (core : Nat)
  | trapEntry (core : Nat)
  | deferredFault (core : Nat) (agent : Agent)
  | firmwareContextFault (core kind opf : Nat)
  | watchdog (core : Nat)
  | joinArrival (switch : Nat) (ingress : Ingress) (record : BitVec 256) (tag : Nat)
  | ready (switch wid : Nat) (answer : JoinAnswer)
  | windowAbort (switch wid tag : Nat)
  | denseContribution (switch wid tag port line : Nat) (key : DWord) (count : Nat) (data : VReg)
  | ganderInputWord (switch wid tag port : Nat) (word : DWord)
  | ganderBlockEmit (switch wid tag : Nat)
  | windowResultWrite (wid tag num offset : Nat) (data : List Byte)
  | windowCompletion (switch wid tag : Nat) (ended : WinEnd)
  | dispatchRowArrival (buffer : Nat) (row : List Byte)
  | linkFailure (link : Nat)
  | controlIntervalBoundary (current : Nat) (reading : Reading)
  | clockRelock
  | collectiveSend (core index : Nat)
  | linkTrained (link peer port lanes : Nat)
  deriving DecidableEq, Repr

end Sys2Proof
end

