-- ==== Sys2Proof/WellFormed.lean ====
section
/-! DEFINITION. Which instructions are well formed: the operand values that the encoding chapters reserve whatever the
state (R222 to R239, and the entries of the instruction chapters). Rules that depend on ACCM.MODE or on a
register are checked where the instruction issues. -/

namespace Sys2Proof

/-- The fields that a fault record's operand field names (R186). -/
inductive Field where
  | d
  | a
  | b
  | imm
  | pred
  | gate
  | strength
  | obs
  | width
  | typ
  | hold
  | opcode
  | engine
  deriving DecidableEq, Repr

/-- The number of a field in OPF [5:0] (R186). -/
def Field.code : Field → Nat
  | .d => 1
  | .a => 2
  | .b => 3
  | .imm => 4
  | .pred => 5
  | .gate => 6
  | .strength => 7
  | .obs => 8
  | .width => 9
  | .typ => 10
  | .hold => 11
  | .opcode => 12
  | .engine => 13

/-- The first of several named breaches. -/
def firstBreach : List (Bool × Field) → Option Field
  | [] => none
  | (true, f) :: _ => some f
  | (false, _) :: r => firstBreach r

/-- An operand value that names w0 to w15 (R232). -/
def isWindow (v : BitVec 6) : Bool := decide (48 ≤ v.toNat)
/-- An operand value that names a queue (R232). -/
def isQueue (v : BitVec 6) : Bool := decide (32 ≤ v.toNat ∧ v.toNat < 48)

/-- A system-register number of R260 or R341. -/
def isSysReg (r : BitVec 12) : Bool :=
  let n := r.toNat
  decide (n ≤ 7 ∨ (0x40 ≤ n ∧ n ≤ 0x8B) ∨ (0x100 ≤ n ∧ n ≤ 0x11F) ∨ (0x180 ≤ n ∧ n ≤ 0x190) ∨ n = 0x1A0 ∨
    (0x800 ≤ n ∧ n ≤ 0x806) ∨ n = 0x808 ∨ (0x810 ≤ n ∧ n ≤ 0x832) ∨ n = 0x840 ∨ n = 0x841 ∨
    (0x850 ≤ n ∧ n ≤ 0x856))

/-- MXIN, CPIN, CLIN or MLIN (R260). -/
def isInFifo (r : BitVec 12) : Bool := decide (0x80 ≤ r.toNat ∧ r.toNat ≤ 0x86 ∧ r.toNat % 2 = 0)
/-- MXOUT, CPOUT, CLOUT or MLOUT (R260). -/
def isOutFifo (r : BitVec 12) : Bool := decide (0x81 ≤ r.toNat ∧ r.toNat ≤ 0x87 ∧ r.toNat % 2 = 1)

/-- A selector of `DSET` or `DGET` (R257, R258, R310). -/
def isSelector (s : BitVec 10) : Bool :=
  let k := s.toNat / 256
  let i := s.toNat % 256
  decide ((k = 0 ∧ i ≤ 34) ∨ (k = 1 ∧ i ≤ 12) ∨ (k = 2 ∧ i ≤ 12) ∨ (k = 3 ∧ i ≤ 11))

/-- The width in bytes of a format code of R234. -/
def fmtWidth (f : Nat) : Nat :=
  match f with
  | 0 => 4
  | 5 => 4
  | 1 => 2
  | 2 => 2
  | 6 => 2
  | 8 => 8
  | _ => 1

/-- A register that `VMFSR` or `VMTSR` moves as a pair (R291). -/
def isPairReg (r : BitVec 12) : Bool :=
  decide (r.toNat = 0 ∨ r.toNat = 3 ∨ r.toNat = 6 ∨ r.toNat = 7) || isOutFifo r

/-- A register the compute sequencer reaches (R291). -/
def isVectorReg (r : BitVec 12) : Bool := decide (r.toNat ≤ 7 ∧ r.toNat ≠ 5) || isInFifo r || isOutFifo r

/-- A register `AMFSR` reaches (R307). -/
def isAccessReg (r : BitVec 12) : Bool :=
  decide ((r.toNat ≤ 7 ∧ r.toNat ≠ 5) ∨ (0x40 ≤ r.toNat ∧ r.toNat ≤ 0x7F)) || isInFifo r || isOutFifo r

/-- The rules of a format-M load (R106, R224, R255). -/
def loadCheck (unsigned : Bool) (z s : BitVec 2) : Option Field :=
  firstBreach [(unsigned && z == 3, .width), (s == 2, .strength)]

/-- The hold-bit rule of R232 for two sources. -/
def holdCheck (a b : BitVec 6) (h j : BitVec 1) : Option Field :=
  firstBreach [(h == 1 && !isWindow a, .hold), (j == 1 && !isWindow b, .hold)]

/-- The hold-bit rule for one source; a hold bit of a field that is no source is reserved (assumption 9). -/
def holdCheck1 (a : BitVec 6) (h j : BitVec 1) : Option Field :=
  firstBreach [(h == 1 && !isWindow a, .hold), (j == 1, .hold)]

/-- The first breach of two checks. -/
def both (x y : Option Field) : Option Field := match x with | some f => some f | none => y

/-- An atomic with strength weak and a mask is reserved (R229). -/
def atomCheck (s : BitVec 2) (o : BitVec 5) : Option Field := firstBreach [(s == 0 && o != 0, .obs)]

/-- The first operand field that the encoding chapters reserve, or none (R222). -/
def Instr.check : Instr → Option Field
  | .ldn _ _ _ z s _ => loadCheck true z s
  | .ld _ _ _ z s _ => loadCheck false z s
  | .st _ _ _ _ s _ => firstBreach [(s == 1, .strength)]
  | .atomAdd _ _ _ s o _ => atomCheck s o
  | .atomSwap _ _ _ s o _ => atomCheck s o
  | .atomCas _ _ _ s o _ => atomCheck s o
  | .atomAnd _ _ _ s o _ => atomCheck s o
  | .atomOr _ _ _ s o _ => atomCheck s o
  | .atomXor _ _ _ s o _ => atomCheck s o
  | .atomMin _ _ _ s o _ => atomCheck s o
  | .atomMax _ _ _ s o _ => atomCheck s o
  | .br _ _ o => firstBreach [(o.toNat % 4 != 0, .imm)]
  | .call _ _ o => firstBreach [(o.toNat % 4 != 0, .imm)]
  | .loop d i => firstBreach [(d == 0, .d), (i.toNat % 4 != 0, .imm)]
  | .mfsr _ n p r =>
    firstBreach [(!isSysReg r, .imm), (n == 0 && p != 0, .pred), (n == 1 && !isOutFifo r, .imm)]
  | .mtsr _ n p r =>
    firstBreach [(!isSysReg r, .imm), (n == 0 && p != 0, .pred),
      (n == 1 && !(isInFifo r || r == 0x190 || r == 0x1A0), .imm)]
  | .dset _ _ s => firstBreach [(!isSelector s, .opcode)]
  | .dget _ _ s => firstBreach [(!isSelector s, .opcode)]
  | .sqstart _ t => firstBreach [(t == 0, .opcode)]
  | .sqstop t => firstBreach [(t == 0, .opcode)]
  | .sqbase _ t => firstBreach [(t == 0, .opcode)]
  | .sqstat _ t => firstBreach [(t == 0, .opcode)]
  | .sublet _ _ b => firstBreach [(b == 31, .b)]
  | .lstat d _ => firstBreach [(d == 0 || d == 31, .d)]
  | .pinval _ _ b => firstBreach [(b == 31, .b)]
  | .dispMx _ _ _ _ _ _ c => firstBreach [(c == 0, .imm)]
  | .dispCp _ _ _ _ _ _ c => firstBreach [(c == 0, .imm)]
  | .dispCl _ _ _ _ _ _ c => firstBreach [(c == 0, .imm)]
  | .dispMl _ _ _ _ _ _ c => firstBreach [(c == 0, .imm)]
  | .vmov _ a h j _ _ => holdCheck1 a h j
  | .vrd d a l h j _ _ =>
    both (firstBreach [(decide (32 ≤ d.toNat), .d), (!isWindow a, .a), (l == 1 && h == 1, .hold)])
      (holdCheck1 a h j)
  | .vwr d a _ h j _ _ =>
    both (firstBreach [(!isWindow d, .d), (decide (32 ≤ a.toNat), .a)]) (holdCheck1 a h j)
  | .vsel _ a b h j _ _ => holdCheck a b h j
  | .vaddI _ _ a b h j _ _ => holdCheck a b h j
  | .vaddSat _ _ a b h j _ _ => holdCheck a b h j
  | .vsubI _ _ a b h j _ _ => holdCheck a b h j
  | .vsubSat _ _ a b h j _ _ => holdCheck a b h j
  | .vmulI _ _ a b h j _ _ => holdCheck a b h j
  | .vmulSat _ _ a b h j _ _ => holdCheck a b h j
  | .vminI _ _ a b h j _ _ => holdCheck a b h j
  | .vmaxI _ _ a b h j _ _ => holdCheck a b h j
  | .vand _ _ a b h j _ _ => holdCheck a b h j
  | .vor _ _ a b h j _ _ => holdCheck a b h j
  | .vxor _ _ a b h j _ _ => holdCheck a b h j
  | .vshl _ _ a b h j _ _ => holdCheck a b h j
  | .vshr _ _ a b h j _ _ => holdCheck a b h j
  | .vsra _ _ a b h j _ _ => holdCheck a b h j
  | .vceqI _ d a b h j _ _ => both (firstBreach [(decide (8 ≤ d.toNat), .d)]) (holdCheck a b h j)
  | .vcltI _ d a b h j _ _ => both (firstBreach [(decide (8 ≤ d.toNat), .d)]) (holdCheck a b h j)
  | .vaddF t _ _ a b h j _ _ => both (firstBreach [(t == 3, .opcode)]) (holdCheck a b h j)
  | .vsubF t _ _ a b h j _ _ => both (firstBreach [(t == 3, .opcode)]) (holdCheck a b h j)
  | .vmulF t _ _ a b h j _ _ => both (firstBreach [(t == 3, .opcode)]) (holdCheck a b h j)
  | .vfma t _ d a b h j _ _ => both (firstBreach [(t == 3, .opcode), (isQueue d, .d)]) (holdCheck a b h j)
  | .vminF t _ a b h j _ _ => both (firstBreach [(t == 3, .opcode)]) (holdCheck a b h j)
  | .vmaxF t _ a b h j _ _ => both (firstBreach [(t == 3, .opcode)]) (holdCheck a b h j)
  | .vcltF t d a b h j _ _ =>
    both (firstBreach [(t == 3, .opcode), (decide (8 ≤ d.toNat), .d)]) (holdCheck a b h j)
  | .vceqF t d a b h j _ _ =>
    both (firstBreach [(t == 3, .opcode), (decide (8 ≤ d.toNat), .d)]) (holdCheck a b h j)
  | .vcvt s _ a _ _ f h j _ _ =>
    both (firstBreach [(s == f || fmtWidth s.toNat != fmtWidth f.toNat, .b)]) (holdCheck1 a h j)
  | .vpack d a _ _ _ h j _ _ => both (firstBreach [(isQueue d, .d)]) (holdCheck1 a h j)
  | .vunpk _ a _ _ h j _ _ => holdCheck1 a h j
  | .vexp2 t _ a h _ _ => both (firstBreach [(t == 3, .opcode)]) (holdCheck1 a h 0)
  | .vrcp t _ a h _ _ => both (firstBreach [(t == 3, .opcode)]) (holdCheck1 a h 0)
  | .vrsq t _ a h _ _ => both (firstBreach [(t == 3, .opcode)]) (holdCheck1 a h 0)
  | .vrsum _ _ a h _ _ => holdCheck1 a h 0
  | .vrmax _ _ a h _ _ => holdCheck1 a h 0
  | .vrmin _ _ a h _ _ => holdCheck1 a h 0
  | .vsnap _ a _ _ _ => firstBreach [(!isWindow a, .a)]
  | .vrot c => firstBreach [(c == 15, .a)]
  | .vmfsr d n r =>
    firstBreach [(!isVectorReg r, .imm), (n == 1 && !(isInFifo r || isOutFifo r), .imm), (n == 1 && isInFifo r, .imm),
      (isPairReg r && d.toNat % 2 == 1, .d)]
  | .vmtsr _ n r =>
    firstBreach [(!isVectorReg r || r == 0 || isOutFifo r, .imm), (n == 1 && !isInFifo r, .imm)]
  | .vloop d _ => firstBreach [(d == 15, .d)]
  | .ldq q _ _ _ _ _ => firstBreach [(decide (8 ≤ q.toNat), .d)]
  | .stq q _ _ _ _ _ => firstBreach [(decide (q.toNat < 8), .d)]
  | .amfsr _ n r => firstBreach [(!isAccessReg r, .imm), (n == 1 && !isOutFifo r, .imm)]
  | .amtsr _ _ n r => firstBreach [(!isInFifo r, .imm), (n == 1 && !isInFifo r, .imm)]
  | .muleAgdim _ _ f e => firstBreach [(f == 1 && e != 0, .imm)]
  | .muleAgind a f e => firstBreach [(f == 1 && (a != 0 || e != 0), .a)]
  | .muleMx _ _ o => firstBreach [(o == 3, .imm)]
  | .muleEx _ _ t f => firstBreach [(t == 3 || f == 3, .imm)]
  | .muleFence o k => firstBreach [(k == 3 && o != 0, .imm)]
  | .muleMfsr _ n => firstBreach [(!(n == 1 || n == 6 || n == 0x80 || n == 0x82), .imm)]
  | .muleMtsr _ n => firstBreach [(!(n == 0x80 || n == 0x82), .imm)]
  | _ => none

/-- An instruction none of whose operand fields is reserved. -/
def Instr.wf (i : Instr) : Bool := i.check.isNone

end Sys2Proof
end

