-- ==== Sys2Proof/Decode.lean ====
section
/-! DEFINITION. The decoder, total on every 32-bit word of each of the four fetched spaces (R221 to R237), rejecting by the
name of the field at fault (R186, R222), and the encoder written from the same tables. -/

namespace Sys2Proof

/-- The four fetched spaces (R221). -/
inductive Space where
  | control
  | vector
  | access
  | mule
  deriving DecidableEq, Repr

/-- Bits [lo + k − 1 : lo] of a word. -/
def fld (n lo k : Nat) : BitVec k := BitVec.ofNat k (n / 2 ^ lo)

/-- A row of the encoding table is met: its must-be-zero bits are checked in order, then its operand fields
(R222). -/
def row (n : Nat) (zs : List (Nat × Nat × Field)) (i : Instr) : Except Field Instr :=
  match zs.find? (fun z => decide (n / 2 ^ z.1 % 2 ^ z.2.1 ≠ 0)) with
  | some z => .error z.2.2
  | none =>
    match i.check with
    | some f => .error f
    | none => .ok i

/-- Control words of major opcode 0x00 (R228 to R230). -/
def decodeControl00 (n : Nat) : Except Field Instr :=
  if n / 2 ^ 26 % 2 ^ 6 = 0x0 ∧ n / 2 ^ 0 % 2 ^ 11 = 0x0 then row n [] (.add (fld n 21 5) (fld n 16 5) (fld n 11 5)) else
  if n / 2 ^ 26 % 2 ^ 6 = 0x0 ∧ n / 2 ^ 0 % 2 ^ 11 = 0x1 then row n [] (.sub (fld n 21 5) (fld n 16 5) (fld n 11 5)) else
  if n / 2 ^ 26 % 2 ^ 6 = 0x0 ∧ n / 2 ^ 0 % 2 ^ 11 = 0x2 then row n [] (.and (fld n 21 5) (fld n 16 5) (fld n 11 5)) else
  if n / 2 ^ 26 % 2 ^ 6 = 0x0 ∧ n / 2 ^ 0 % 2 ^ 11 = 0x3 then row n [] (.or (fld n 21 5) (fld n 16 5) (fld n 11 5)) else
  if n / 2 ^ 26 % 2 ^ 6 = 0x0 ∧ n / 2 ^ 0 % 2 ^ 11 = 0x4 then row n [] (.xor (fld n 21 5) (fld n 16 5) (fld n 11 5)) else
  if n / 2 ^ 26 % 2 ^ 6 = 0x0 ∧ n / 2 ^ 0 % 2 ^ 11 = 0x5 then row n [] (.andn (fld n 21 5) (fld n 16 5) (fld n 11 5)) else
  if n / 2 ^ 26 % 2 ^ 6 = 0x0 ∧ n / 2 ^ 0 % 2 ^ 11 = 0x6 then row n [] (.sll (fld n 21 5) (fld n 16 5) (fld n 11 5)) else
  if n / 2 ^ 26 % 2 ^ 6 = 0x0 ∧ n / 2 ^ 0 % 2 ^ 11 = 0x7 then row n [] (.srl (fld n 21 5) (fld n 16 5) (fld n 11 5)) else
  if n / 2 ^ 26 % 2 ^ 6 = 0x0 ∧ n / 2 ^ 0 % 2 ^ 11 = 0x8 then row n [] (.sra (fld n 21 5) (fld n 16 5) (fld n 11 5)) else
  if n / 2 ^ 26 % 2 ^ 6 = 0x0 ∧ n / 2 ^ 0 % 2 ^ 11 = 0x9 then row n [] (.mul (fld n 21 5) (fld n 16 5) (fld n 11 5)) else
  if n / 2 ^ 26 % 2 ^ 6 = 0x0 ∧ n / 2 ^ 0 % 2 ^ 11 = 0xa then row n [] (.mulh (fld n 21 5) (fld n 16 5) (fld n 11 5)) else
  if n / 2 ^ 26 % 2 ^ 6 = 0x0 ∧ n / 2 ^ 0 % 2 ^ 11 = 0xb then row n [] (.mulhn (fld n 21 5) (fld n 16 5) (fld n 11 5)) else
  if n / 2 ^ 26 % 2 ^ 6 = 0x0 ∧ n / 2 ^ 0 % 2 ^ 11 = 0xc then row n [] (.min (fld n 21 5) (fld n 16 5) (fld n 11 5)) else
  if n / 2 ^ 26 % 2 ^ 6 = 0x0 ∧ n / 2 ^ 0 % 2 ^ 11 = 0xd then row n [] (.max (fld n 21 5) (fld n 16 5) (fld n 11 5)) else
  if n / 2 ^ 26 % 2 ^ 6 = 0x0 ∧ n / 2 ^ 0 % 2 ^ 11 = 0xe then row n [] (.minn (fld n 21 5) (fld n 16 5) (fld n 11 5)) else
  if n / 2 ^ 26 % 2 ^ 6 = 0x0 ∧ n / 2 ^ 0 % 2 ^ 11 = 0xf then row n [] (.maxn (fld n 21 5) (fld n 16 5) (fld n 11 5)) else
  if n / 2 ^ 26 % 2 ^ 6 = 0x0 ∧ n / 2 ^ 0 % 2 ^ 11 = 0x10 then row n [(11, 5, .b)] (.clz (fld n 21 5) (fld n 16 5)) else
  if n / 2 ^ 26 % 2 ^ 6 = 0x0 ∧ n / 2 ^ 0 % 2 ^ 11 = 0x11 then row n [(11, 5, .b)] (.popc (fld n 21 5) (fld n 16 5)) else
  .error .opcode

/-- Control words of major opcode 0x01 (R228 to R230). -/
def decodeControl01 (n : Nat) : Except Field Instr :=
  if n / 2 ^ 26 % 2 ^ 6 = 0x1 ∧ n / 2 ^ 0 % 2 ^ 11 = 0x0 then row n [(24, 2, .d)] (.ceq (fld n 21 3) (fld n 16 5) (fld n 11 5)) else
  if n / 2 ^ 26 % 2 ^ 6 = 0x1 ∧ n / 2 ^ 0 % 2 ^ 11 = 0x1 then row n [(24, 2, .d)] (.cne (fld n 21 3) (fld n 16 5) (fld n 11 5)) else
  if n / 2 ^ 26 % 2 ^ 6 = 0x1 ∧ n / 2 ^ 0 % 2 ^ 11 = 0x2 then row n [(24, 2, .d)] (.clt (fld n 21 3) (fld n 16 5) (fld n 11 5)) else
  if n / 2 ^ 26 % 2 ^ 6 = 0x1 ∧ n / 2 ^ 0 % 2 ^ 11 = 0x3 then row n [(24, 2, .d)] (.cge (fld n 21 3) (fld n 16 5) (fld n 11 5)) else
  if n / 2 ^ 26 % 2 ^ 6 = 0x1 ∧ n / 2 ^ 0 % 2 ^ 11 = 0x4 then row n [(24, 2, .d)] (.cltn (fld n 21 3) (fld n 16 5) (fld n 11 5)) else
  if n / 2 ^ 26 % 2 ^ 6 = 0x1 ∧ n / 2 ^ 0 % 2 ^ 11 = 0x5 then row n [(24, 2, .d)] (.cgen (fld n 21 3) (fld n 16 5) (fld n 11 5)) else
  if n / 2 ^ 26 % 2 ^ 6 = 0x1 ∧ n / 2 ^ 0 % 2 ^ 11 = 0x8 then row n [(24, 2, .d), (19, 2, .a), (14, 2, .b)] (.pand (fld n 21 3) (fld n 16 3) (fld n 11 3)) else
  if n / 2 ^ 26 % 2 ^ 6 = 0x1 ∧ n / 2 ^ 0 % 2 ^ 11 = 0x9 then row n [(24, 2, .d), (19, 2, .a), (14, 2, .b)] (.por (fld n 21 3) (fld n 16 3) (fld n 11 3)) else
  if n / 2 ^ 26 % 2 ^ 6 = 0x1 ∧ n / 2 ^ 0 % 2 ^ 11 = 0xa then row n [(24, 2, .d), (19, 2, .a), (14, 2, .b)] (.pxor (fld n 21 3) (fld n 16 3) (fld n 11 3)) else
  if n / 2 ^ 26 % 2 ^ 6 = 0x1 ∧ n / 2 ^ 0 % 2 ^ 11 = 0xb then row n [(24, 2, .d), (19, 2, .a), (14, 2, .b)] (.pandn (fld n 21 3) (fld n 16 3) (fld n 11 3)) else
  .error .opcode

/-- Control words of major opcode 0x0f (R228 to R230). -/
def decodeControl0f (n : Nat) : Except Field Instr :=
  if n / 2 ^ 26 % 2 ^ 6 = 0xf ∧ n / 2 ^ 0 % 2 ^ 3 = 0x0 then row n [] (.atomAdd (fld n 21 5) (fld n 16 5) (fld n 11 5) (fld n 9 2) (fld n 4 5) (fld n 3 1)) else
  if n / 2 ^ 26 % 2 ^ 6 = 0xf ∧ n / 2 ^ 0 % 2 ^ 3 = 0x1 then row n [] (.atomSwap (fld n 21 5) (fld n 16 5) (fld n 11 5) (fld n 9 2) (fld n 4 5) (fld n 3 1)) else
  if n / 2 ^ 26 % 2 ^ 6 = 0xf ∧ n / 2 ^ 0 % 2 ^ 3 = 0x2 then row n [] (.atomCas (fld n 21 5) (fld n 16 5) (fld n 11 5) (fld n 9 2) (fld n 4 5) (fld n 3 1)) else
  if n / 2 ^ 26 % 2 ^ 6 = 0xf ∧ n / 2 ^ 0 % 2 ^ 3 = 0x3 then row n [] (.atomAnd (fld n 21 5) (fld n 16 5) (fld n 11 5) (fld n 9 2) (fld n 4 5) (fld n 3 1)) else
  if n / 2 ^ 26 % 2 ^ 6 = 0xf ∧ n / 2 ^ 0 % 2 ^ 3 = 0x4 then row n [] (.atomOr (fld n 21 5) (fld n 16 5) (fld n 11 5) (fld n 9 2) (fld n 4 5) (fld n 3 1)) else
  if n / 2 ^ 26 % 2 ^ 6 = 0xf ∧ n / 2 ^ 0 % 2 ^ 3 = 0x5 then row n [] (.atomXor (fld n 21 5) (fld n 16 5) (fld n 11 5) (fld n 9 2) (fld n 4 5) (fld n 3 1)) else
  if n / 2 ^ 26 % 2 ^ 6 = 0xf ∧ n / 2 ^ 0 % 2 ^ 3 = 0x6 then row n [] (.atomMin (fld n 21 5) (fld n 16 5) (fld n 11 5) (fld n 9 2) (fld n 4 5) (fld n 3 1)) else
  if n / 2 ^ 26 % 2 ^ 6 = 0xf ∧ n / 2 ^ 0 % 2 ^ 3 = 0x7 then row n [] (.atomMax (fld n 21 5) (fld n 16 5) (fld n 11 5) (fld n 9 2) (fld n 4 5) (fld n 3 1)) else
  .error .opcode

/-- Control words of major opcode 0x16 (R228 to R230). -/
def decodeControl16 (n : Nat) : Except Field Instr :=
  if n / 2 ^ 26 % 2 ^ 6 = 0x16 ∧ n / 2 ^ 10 % 2 ^ 1 = 0x0 then row n [(24, 2, .d), (11, 5, .b)] (.dset (fld n 21 3) (fld n 16 5) (fld n 0 10)) else
  if n / 2 ^ 26 % 2 ^ 6 = 0x16 ∧ n / 2 ^ 10 % 2 ^ 1 = 0x1 then row n [(19, 2, .a), (11, 5, .b)] (.dget (fld n 21 5) (fld n 16 3) (fld n 0 10)) else
  .error .opcode

/-- Control words of major opcode 0x17 (R228 to R230). -/
def decodeControl17 (n : Nat) : Except Field Instr :=
  if n / 2 ^ 26 % 2 ^ 6 = 0x17 ∧ n / 2 ^ 0 % 2 ^ 2 = 0x0 then row n [(21, 5, .d), (11, 5, .b), (4, 7, .opcode)] (.sqstart (fld n 16 5) (fld n 2 2)) else
  if n / 2 ^ 26 % 2 ^ 6 = 0x17 ∧ n / 2 ^ 0 % 2 ^ 2 = 0x1 then row n [(21, 5, .d), (16, 5, .a), (11, 5, .b), (4, 7, .opcode)] (.sqstop (fld n 2 2)) else
  if n / 2 ^ 26 % 2 ^ 6 = 0x17 ∧ n / 2 ^ 0 % 2 ^ 2 = 0x2 then row n [(21, 5, .d), (11, 5, .b), (4, 7, .opcode)] (.sqbase (fld n 16 5) (fld n 2 2)) else
  if n / 2 ^ 26 % 2 ^ 6 = 0x17 ∧ n / 2 ^ 0 % 2 ^ 2 = 0x3 then row n [(16, 5, .a), (11, 5, .b), (4, 7, .opcode)] (.sqstat (fld n 21 5) (fld n 2 2)) else
  .error .opcode

/-- Control words of major opcode 0x18 (R228 to R230). -/
def decodeControl18 (n : Nat) : Except Field Instr :=
  if n / 2 ^ 26 % 2 ^ 6 = 0x18 ∧ n / 2 ^ 0 % 2 ^ 6 = 0x0 then row n [(21, 5, .d), (16, 5, .a), (15, 1, .b), (6, 5, .obs)] (.tsig (fld n 11 4)) else
  if n / 2 ^ 26 % 2 ^ 6 = 0x18 ∧ n / 2 ^ 0 % 2 ^ 6 = 0x1 then row n [(21, 5, .d), (16, 5, .a), (15, 1, .b), (6, 5, .obs)] (.twait (fld n 11 4)) else
  if n / 2 ^ 26 % 2 ^ 6 = 0x18 ∧ n / 2 ^ 0 % 2 ^ 6 = 0x2 then row n [(24, 2, .d), (16, 5, .a), (15, 1, .b), (6, 5, .obs)] (.twaitnb (fld n 21 3) (fld n 11 4)) else
  if n / 2 ^ 26 % 2 ^ 6 = 0x18 ∧ n / 2 ^ 0 % 2 ^ 6 = 0x4 then row n [(21, 5, .d)] (.fset (fld n 16 5) (fld n 11 5) (fld n 6 5)) else
  if n / 2 ^ 26 % 2 ^ 6 = 0x18 ∧ n / 2 ^ 0 % 2 ^ 6 = 0x5 then row n [(21, 5, .d)] (.fadd (fld n 16 5) (fld n 11 5) (fld n 6 5)) else
  if n / 2 ^ 26 % 2 ^ 6 = 0x18 ∧ n / 2 ^ 0 % 2 ^ 6 = 0x6 then row n [] (.fawait (fld n 21 5) (fld n 16 5) (fld n 11 5) (fld n 6 5)) else
  if n / 2 ^ 26 % 2 ^ 6 = 0x18 ∧ n / 2 ^ 0 % 2 ^ 6 = 0x7 then row n [] (.fradd (fld n 21 5) (fld n 16 5) (fld n 11 5) (fld n 6 5)) else
  if n / 2 ^ 26 % 2 ^ 6 = 0x18 ∧ n / 2 ^ 0 % 2 ^ 6 = 0x8 then row n [] (.fmcast (fld n 21 5) (fld n 16 5) (fld n 11 5) (fld n 6 5)) else
  if n / 2 ^ 26 % 2 ^ 6 = 0x18 ∧ n / 2 ^ 0 % 2 ^ 6 = 0x9 then row n [(16, 5, .a), (6, 5, .obs)] (.fread (fld n 21 5) (fld n 11 5)) else
  if n / 2 ^ 26 % 2 ^ 6 = 0x18 ∧ n / 2 ^ 0 % 2 ^ 6 = 0xc then row n [(16, 5, .a), (6, 5, .obs)] (.tagwany (fld n 21 5) (fld n 11 5)) else
  if n / 2 ^ 26 % 2 ^ 6 = 0x18 ∧ n / 2 ^ 0 % 2 ^ 6 = 0xd then row n [(16, 5, .a), (6, 5, .obs)] (.tagwall (fld n 21 5) (fld n 11 5)) else
  if n / 2 ^ 26 % 2 ^ 6 = 0x18 ∧ n / 2 ^ 0 % 2 ^ 6 = 0xe then row n [(16, 5, .a), (6, 5, .obs)] (.tagffr (fld n 21 5) (fld n 11 5)) else
  if n / 2 ^ 26 % 2 ^ 6 = 0x18 ∧ n / 2 ^ 0 % 2 ^ 6 = 0xf then row n [(21, 5, .d), (16, 5, .a), (6, 5, .obs)] (.tagclr (fld n 11 5)) else
  if n / 2 ^ 26 % 2 ^ 6 = 0x18 ∧ n / 2 ^ 0 % 2 ^ 6 = 0x10 then row n [(16, 5, .a)] (.rgprod (fld n 21 5) (fld n 11 5) (fld n 6 5)) else
  if n / 2 ^ 26 % 2 ^ 6 = 0x18 ∧ n / 2 ^ 0 % 2 ^ 6 = 0x11 then row n [(21, 5, .d)] (.rgpub (fld n 16 5) (fld n 11 5) (fld n 6 5)) else
  if n / 2 ^ 26 % 2 ^ 6 = 0x18 ∧ n / 2 ^ 0 % 2 ^ 6 = 0x12 then row n [(16, 5, .a)] (.rgcons (fld n 21 5) (fld n 11 5) (fld n 6 5)) else
  if n / 2 ^ 26 % 2 ^ 6 = 0x18 ∧ n / 2 ^ 0 % 2 ^ 6 = 0x13 then row n [(21, 5, .d)] (.rgrel (fld n 16 5) (fld n 11 5) (fld n 6 5)) else
  if n / 2 ^ 26 % 2 ^ 6 = 0x18 ∧ n / 2 ^ 0 % 2 ^ 6 = 0x18 then row n [(21, 5, .d)] (.barinit (fld n 16 5) (fld n 11 5) (fld n 6 5)) else
  if n / 2 ^ 26 % 2 ^ 6 = 0x18 ∧ n / 2 ^ 0 % 2 ^ 6 = 0x19 then row n [(21, 5, .d)] (.barinitf (fld n 16 5) (fld n 11 5) (fld n 6 5)) else
  if n / 2 ^ 26 % 2 ^ 6 = 0x18 ∧ n / 2 ^ 0 % 2 ^ 6 = 0x1a then row n [] (.baradd (fld n 21 5) (fld n 16 5) (fld n 11 5) (fld n 6 5)) else
  if n / 2 ^ 26 % 2 ^ 6 = 0x18 ∧ n / 2 ^ 0 % 2 ^ 6 = 0x1b then row n [] (.barcast (fld n 21 5) (fld n 16 5) (fld n 11 5) (fld n 6 5)) else
  if n / 2 ^ 26 % 2 ^ 6 = 0x18 ∧ n / 2 ^ 0 % 2 ^ 6 = 0x20 then row n [(21, 5, .d), (16, 5, .a), (11, 5, .b)] (.fenceRel (fld n 6 5)) else
  if n / 2 ^ 26 % 2 ^ 6 = 0x18 ∧ n / 2 ^ 0 % 2 ^ 6 = 0x21 then row n [(21, 5, .d), (16, 5, .a), (11, 5, .b)] (.fenceAcq (fld n 6 5)) else
  if n / 2 ^ 26 % 2 ^ 6 = 0x18 ∧ n / 2 ^ 0 % 2 ^ 6 = 0x22 then row n [(21, 5, .d), (16, 5, .a), (11, 5, .b)] (.fenceFull (fld n 6 5)) else
  if n / 2 ^ 26 % 2 ^ 6 = 0x18 ∧ n / 2 ^ 0 % 2 ^ 6 = 0x23 then row n [(21, 5, .d), (16, 5, .a), (11, 5, .b), (6, 5, .obs)] .fenceX else
  if n / 2 ^ 26 % 2 ^ 6 = 0x18 ∧ n / 2 ^ 0 % 2 ^ 6 = 0x24 then row n [] (.waita (fld n 21 5) (fld n 16 5) (fld n 11 5) (fld n 6 5)) else
  if n / 2 ^ 26 % 2 ^ 6 = 0x18 ∧ n / 2 ^ 0 % 2 ^ 6 = 0x25 then row n [] (.waitanb (fld n 21 5) (fld n 16 5) (fld n 11 5) (fld n 6 5)) else
  .error .opcode

/-- Control words of major opcode 0x19 (R228 to R230). -/
def decodeControl19 (n : Nat) : Except Field Instr :=
  if n / 2 ^ 26 % 2 ^ 6 = 0x19 ∧ n / 2 ^ 0 % 2 ^ 6 = 0x0 then row n [(6, 5, .obs)] (.rent (fld n 21 5) (fld n 16 5) (fld n 11 5)) else
  if n / 2 ^ 26 % 2 ^ 6 = 0x19 ∧ n / 2 ^ 0 % 2 ^ 6 = 0x1 then row n [(6, 5, .obs)] (.renew (fld n 21 5) (fld n 16 5) (fld n 11 5)) else
  if n / 2 ^ 26 % 2 ^ 6 = 0x19 ∧ n / 2 ^ 0 % 2 ^ 6 = 0x2 then row n [(6, 5, .obs)] (.prepay (fld n 21 5) (fld n 16 5) (fld n 11 5)) else
  if n / 2 ^ 26 % 2 ^ 6 = 0x19 ∧ n / 2 ^ 0 % 2 ^ 6 = 0x3 then row n [(6, 5, .obs)] (.sublet (fld n 21 5) (fld n 16 5) (fld n 11 5)) else
  if n / 2 ^ 26 % 2 ^ 6 = 0x19 ∧ n / 2 ^ 0 % 2 ^ 6 = 0x4 then row n [(6, 5, .obs)] (.adopt (fld n 21 5) (fld n 16 5) (fld n 11 5)) else
  if n / 2 ^ 26 % 2 ^ 6 = 0x19 ∧ n / 2 ^ 0 % 2 ^ 6 = 0x5 then row n [(11, 5, .b), (6, 5, .obs)] (.vacate (fld n 21 5) (fld n 16 5)) else
  if n / 2 ^ 26 % 2 ^ 6 = 0x19 ∧ n / 2 ^ 0 % 2 ^ 6 = 0x6 then row n [(11, 5, .b), (6, 5, .obs)] (.lstat (fld n 21 5) (fld n 16 5)) else
  .error .opcode

/-- Control words of major opcode 0x1a (R228 to R230). -/
def decodeControl1a (n : Nat) : Except Field Instr :=
  if n / 2 ^ 26 % 2 ^ 6 = 0x1a ∧ n / 2 ^ 0 % 2 ^ 6 = 0x0 then row n [(21, 5, .d), (16, 5, .a), (11, 5, .b), (6, 5, .obs)] .exit else
  if n / 2 ^ 26 % 2 ^ 6 = 0x1a ∧ n / 2 ^ 0 % 2 ^ 6 = 0x1 then row n [(21, 5, .d), (16, 5, .a), (11, 5, .b), (6, 5, .obs)] .exitAbandon else
  if n / 2 ^ 26 % 2 ^ 6 = 0x1a ∧ n / 2 ^ 0 % 2 ^ 6 = 0x2 then row n [(21, 5, .d), (11, 5, .b), (6, 5, .obs)] (.fcall (fld n 16 5)) else
  if n / 2 ^ 26 % 2 ^ 6 = 0x1a ∧ n / 2 ^ 0 % 2 ^ 6 = 0x3 then row n [(21, 5, .d), (6, 5, .obs)] (.eret (fld n 16 5) (fld n 11 5)) else
  if n / 2 ^ 26 % 2 ^ 6 = 0x1a ∧ n / 2 ^ 0 % 2 ^ 6 = 0x4 then row n [(6, 5, .obs)] (.pinval (fld n 21 5) (fld n 16 5) (fld n 11 5)) else
  .error .opcode

/-- Control words of major opcode 0x20 (R228 to R230). -/
def decodeControl20 (n : Nat) : Except Field Instr :=
  if n / 2 ^ 24 % 2 ^ 8 = 0x80 then row n [(0, 3, .opcode)] (.dispMx (fld n 23 1) (fld n 19 4) (fld n 18 1) (fld n 14 4) (fld n 11 3) (fld n 8 3) (fld n 3 5)) else
  if n / 2 ^ 24 % 2 ^ 8 = 0x81 then row n [(0, 3, .opcode)] (.dispCp (fld n 23 1) (fld n 19 4) (fld n 18 1) (fld n 14 4) (fld n 11 3) (fld n 8 3) (fld n 3 5)) else
  if n / 2 ^ 24 % 2 ^ 8 = 0x82 then row n [(0, 3, .opcode)] (.dispCl (fld n 23 1) (fld n 19 4) (fld n 18 1) (fld n 14 4) (fld n 11 3) (fld n 8 3) (fld n 3 5)) else
  if n / 2 ^ 24 % 2 ^ 8 = 0x83 then row n [(0, 3, .opcode)] (.dispMl (fld n 23 1) (fld n 19 4) (fld n 18 1) (fld n 14 4) (fld n 11 3) (fld n 8 3) (fld n 3 5)) else
  .error .opcode

/-- The decoder of the control stream (R223 to R230). -/
def decodeControl (word : Word) : Except Field Instr :=
  let n := word.toNat
  if n / 2 ^ 26 = 0x0 then decodeControl00 n else
  if n / 2 ^ 26 = 0x1 then decodeControl01 n else
  if n / 2 ^ 26 = 0x2 then row n [] (.addi (fld n 21 5) (fld n 16 5) (fld n 0 16)) else
  if n / 2 ^ 26 = 0x3 then row n [] (.andi (fld n 21 5) (fld n 16 5) (fld n 0 16)) else
  if n / 2 ^ 26 = 0x4 then row n [] (.ori (fld n 21 5) (fld n 16 5) (fld n 0 16)) else
  if n / 2 ^ 26 = 0x5 then row n [] (.xori (fld n 21 5) (fld n 16 5) (fld n 0 16)) else
  if n / 2 ^ 26 = 0x6 then row n [(6, 10, .imm)] (.slli (fld n 21 5) (fld n 16 5) (fld n 0 6)) else
  if n / 2 ^ 26 = 0x7 then row n [(6, 10, .imm)] (.srli (fld n 21 5) (fld n 16 5) (fld n 0 6)) else
  if n / 2 ^ 26 = 0x8 then row n [(6, 10, .imm)] (.srai (fld n 21 5) (fld n 16 5) (fld n 0 6)) else
  if n / 2 ^ 26 = 0x9 then row n [(24, 2, .d)] (.ceqi (fld n 21 3) (fld n 16 5) (fld n 0 16)) else
  if n / 2 ^ 26 = 0xa then row n [(24, 2, .d)] (.clti (fld n 21 3) (fld n 16 5) (fld n 0 16)) else
  if n / 2 ^ 26 = 0xb then row n [(24, 2, .d)] (.cltni (fld n 21 3) (fld n 16 5) (fld n 0 16)) else
  if n / 2 ^ 26 = 0xc then row n [] (.ld (fld n 21 5) (fld n 16 5) (fld n 15 1) (fld n 13 2) (fld n 11 2) (fld n 0 11)) else
  if n / 2 ^ 26 = 0xd then row n [] (.ldn (fld n 21 5) (fld n 16 5) (fld n 15 1) (fld n 13 2) (fld n 11 2) (fld n 0 11)) else
  if n / 2 ^ 26 = 0xe then row n [] (.st (fld n 21 5) (fld n 16 5) (fld n 15 1) (fld n 13 2) (fld n 11 2) (fld n 0 11)) else
  if n / 2 ^ 26 = 0xf then decodeControl0f n else
  if n / 2 ^ 26 = 0x10 then row n [] (.br (fld n 23 3) (fld n 22 1) (fld n 0 22)) else
  if n / 2 ^ 26 = 0x11 then row n [] (.call (fld n 23 3) (fld n 22 1) (fld n 0 22)) else
  if n / 2 ^ 26 = 0x12 then row n [(11, 5, .b), (0, 11, .opcode)] (.jr (fld n 21 5) (fld n 16 5)) else
  if n / 2 ^ 26 = 0x13 then row n [(16, 5, .a)] (.loop (fld n 21 5) (fld n 0 16)) else
  if n / 2 ^ 26 = 0x14 then row n [(16, 5, .a)] (.mfsr (fld n 21 5) (fld n 15 1) (fld n 12 3) (fld n 0 12)) else
  if n / 2 ^ 26 = 0x15 then row n [(21, 5, .d)] (.mtsr (fld n 16 5) (fld n 15 1) (fld n 12 3) (fld n 0 12)) else
  if n / 2 ^ 26 = 0x16 then decodeControl16 n else
  if n / 2 ^ 26 = 0x17 then decodeControl17 n else
  if n / 2 ^ 26 = 0x18 then decodeControl18 n else
  if n / 2 ^ 26 = 0x19 then decodeControl19 n else
  if n / 2 ^ 26 = 0x1a then decodeControl1a n else
  if n / 2 ^ 26 = 0x20 then decodeControl20 n else
  if n / 2 ^ 26 = 0x3e then row n [(16, 10, .opcode)] (.xpfx (fld n 0 16)) else
  .error .opcode

/-- Vector words whose opcode begins with 0 in its top two bits (R233). -/
def decodeVector0 (n : Nat) : Except Field Instr :=
  if n / 2 ^ 24 % 2 ^ 8 = 0x0 then row n [(6, 6, .b)] (.vmov (fld n 18 6) (fld n 12 6) (fld n 5 1) (fld n 4 1) (fld n 1 3) (fld n 0 1)) else
  if n / 2 ^ 24 % 2 ^ 8 = 0x1 then row n [(7, 5, .b)] (.vrd (fld n 18 6) (fld n 12 6) (fld n 6 1) (fld n 5 1) (fld n 4 1) (fld n 1 3) (fld n 0 1)) else
  if n / 2 ^ 24 % 2 ^ 8 = 0x2 then row n [(7, 5, .b)] (.vwr (fld n 18 6) (fld n 12 6) (fld n 6 1) (fld n 5 1) (fld n 4 1) (fld n 1 3) (fld n 0 1)) else
  if n / 2 ^ 24 % 2 ^ 8 = 0x3 then row n [] (.vsel (fld n 18 6) (fld n 12 6) (fld n 6 6) (fld n 5 1) (fld n 4 1) (fld n 1 3) (fld n 0 1)) else
  if n / 2 ^ 24 % 2 ^ 8 = 0x4 then row n [(21, 3, .d), (15, 3, .a), (9, 3, .b), (4, 2, .hold), (1, 3, .pred)] (.mand (fld n 18 3) (fld n 12 3) (fld n 6 3) (fld n 0 1)) else
  if n / 2 ^ 24 % 2 ^ 8 = 0x5 then row n [(21, 3, .d), (15, 3, .a), (9, 3, .b), (4, 2, .hold), (1, 3, .pred)] (.mor (fld n 18 3) (fld n 12 3) (fld n 6 3) (fld n 0 1)) else
  if n / 2 ^ 24 % 2 ^ 8 = 0x6 then row n [(21, 3, .d), (15, 3, .a), (9, 3, .b), (4, 2, .hold), (1, 3, .pred)] (.mxor (fld n 18 3) (fld n 12 3) (fld n 6 3) (fld n 0 1)) else
  if n / 2 ^ 24 % 2 ^ 8 = 0x7 then row n [(21, 3, .d), (15, 3, .a), (9, 3, .b), (4, 2, .hold), (1, 3, .pred)] (.mandn (fld n 18 3) (fld n 12 3) (fld n 6 3) (fld n 0 1)) else
  if n / 2 ^ 29 % 2 ^ 3 = 0x1 ∧ n / 2 ^ 24 % 2 ^ 4 = 0x0 then row n [] (.vaddI (fld n 28 1) (fld n 18 6) (fld n 12 6) (fld n 6 6) (fld n 5 1) (fld n 4 1) (fld n 1 3) (fld n 0 1)) else
  if n / 2 ^ 29 % 2 ^ 3 = 0x1 ∧ n / 2 ^ 24 % 2 ^ 4 = 0x1 then row n [] (.vaddSat (fld n 28 1) (fld n 18 6) (fld n 12 6) (fld n 6 6) (fld n 5 1) (fld n 4 1) (fld n 1 3) (fld n 0 1)) else
  if n / 2 ^ 29 % 2 ^ 3 = 0x1 ∧ n / 2 ^ 24 % 2 ^ 4 = 0x2 then row n [] (.vsubI (fld n 28 1) (fld n 18 6) (fld n 12 6) (fld n 6 6) (fld n 5 1) (fld n 4 1) (fld n 1 3) (fld n 0 1)) else
  if n / 2 ^ 29 % 2 ^ 3 = 0x1 ∧ n / 2 ^ 24 % 2 ^ 4 = 0x3 then row n [] (.vsubSat (fld n 28 1) (fld n 18 6) (fld n 12 6) (fld n 6 6) (fld n 5 1) (fld n 4 1) (fld n 1 3) (fld n 0 1)) else
  if n / 2 ^ 29 % 2 ^ 3 = 0x1 ∧ n / 2 ^ 24 % 2 ^ 4 = 0x4 then row n [] (.vmulI (fld n 28 1) (fld n 18 6) (fld n 12 6) (fld n 6 6) (fld n 5 1) (fld n 4 1) (fld n 1 3) (fld n 0 1)) else
  if n / 2 ^ 29 % 2 ^ 3 = 0x1 ∧ n / 2 ^ 24 % 2 ^ 4 = 0x5 then row n [] (.vmulSat (fld n 28 1) (fld n 18 6) (fld n 12 6) (fld n 6 6) (fld n 5 1) (fld n 4 1) (fld n 1 3) (fld n 0 1)) else
  if n / 2 ^ 29 % 2 ^ 3 = 0x1 ∧ n / 2 ^ 24 % 2 ^ 4 = 0x6 then row n [] (.vminI (fld n 28 1) (fld n 18 6) (fld n 12 6) (fld n 6 6) (fld n 5 1) (fld n 4 1) (fld n 1 3) (fld n 0 1)) else
  if n / 2 ^ 29 % 2 ^ 3 = 0x1 ∧ n / 2 ^ 24 % 2 ^ 4 = 0x7 then row n [] (.vmaxI (fld n 28 1) (fld n 18 6) (fld n 12 6) (fld n 6 6) (fld n 5 1) (fld n 4 1) (fld n 1 3) (fld n 0 1)) else
  if n / 2 ^ 29 % 2 ^ 3 = 0x1 ∧ n / 2 ^ 24 % 2 ^ 4 = 0x8 then row n [] (.vand (fld n 28 1) (fld n 18 6) (fld n 12 6) (fld n 6 6) (fld n 5 1) (fld n 4 1) (fld n 1 3) (fld n 0 1)) else
  if n / 2 ^ 29 % 2 ^ 3 = 0x1 ∧ n / 2 ^ 24 % 2 ^ 4 = 0x9 then row n [] (.vor (fld n 28 1) (fld n 18 6) (fld n 12 6) (fld n 6 6) (fld n 5 1) (fld n 4 1) (fld n 1 3) (fld n 0 1)) else
  if n / 2 ^ 29 % 2 ^ 3 = 0x1 ∧ n / 2 ^ 24 % 2 ^ 4 = 0xa then row n [] (.vxor (fld n 28 1) (fld n 18 6) (fld n 12 6) (fld n 6 6) (fld n 5 1) (fld n 4 1) (fld n 1 3) (fld n 0 1)) else
  if n / 2 ^ 29 % 2 ^ 3 = 0x1 ∧ n / 2 ^ 24 % 2 ^ 4 = 0xb then row n [] (.vshl (fld n 28 1) (fld n 18 6) (fld n 12 6) (fld n 6 6) (fld n 5 1) (fld n 4 1) (fld n 1 3) (fld n 0 1)) else
  if n / 2 ^ 29 % 2 ^ 3 = 0x1 ∧ n / 2 ^ 24 % 2 ^ 4 = 0xc then row n [] (.vshr (fld n 28 1) (fld n 18 6) (fld n 12 6) (fld n 6 6) (fld n 5 1) (fld n 4 1) (fld n 1 3) (fld n 0 1)) else
  if n / 2 ^ 29 % 2 ^ 3 = 0x1 ∧ n / 2 ^ 24 % 2 ^ 4 = 0xd then row n [] (.vsra (fld n 28 1) (fld n 18 6) (fld n 12 6) (fld n 6 6) (fld n 5 1) (fld n 4 1) (fld n 1 3) (fld n 0 1)) else
  if n / 2 ^ 29 % 2 ^ 3 = 0x1 ∧ n / 2 ^ 24 % 2 ^ 4 = 0xe then row n [] (.vceqI (fld n 28 1) (fld n 18 6) (fld n 12 6) (fld n 6 6) (fld n 5 1) (fld n 4 1) (fld n 1 3) (fld n 0 1)) else
  if n / 2 ^ 29 % 2 ^ 3 = 0x1 ∧ n / 2 ^ 24 % 2 ^ 4 = 0xf then row n [] (.vcltI (fld n 28 1) (fld n 18 6) (fld n 12 6) (fld n 6 6) (fld n 5 1) (fld n 4 1) (fld n 1 3) (fld n 0 1)) else
  .error .opcode

/-- Vector words whose opcode begins with 1 in its top two bits (R233). -/
def decodeVector1 (n : Nat) : Except Field Instr :=
  if n / 2 ^ 30 % 2 ^ 2 = 0x1 ∧ n / 2 ^ 26 % 2 ^ 2 = 0x0 then row n [] (.vaddF (fld n 28 2) (fld n 24 2) (fld n 18 6) (fld n 12 6) (fld n 6 6) (fld n 5 1) (fld n 4 1) (fld n 1 3) (fld n 0 1)) else
  if n / 2 ^ 30 % 2 ^ 2 = 0x1 ∧ n / 2 ^ 26 % 2 ^ 2 = 0x1 then row n [] (.vsubF (fld n 28 2) (fld n 24 2) (fld n 18 6) (fld n 12 6) (fld n 6 6) (fld n 5 1) (fld n 4 1) (fld n 1 3) (fld n 0 1)) else
  if n / 2 ^ 30 % 2 ^ 2 = 0x1 ∧ n / 2 ^ 26 % 2 ^ 2 = 0x2 then row n [] (.vmulF (fld n 28 2) (fld n 24 2) (fld n 18 6) (fld n 12 6) (fld n 6 6) (fld n 5 1) (fld n 4 1) (fld n 1 3) (fld n 0 1)) else
  if n / 2 ^ 30 % 2 ^ 2 = 0x1 ∧ n / 2 ^ 26 % 2 ^ 2 = 0x3 then row n [] (.vfma (fld n 28 2) (fld n 24 2) (fld n 18 6) (fld n 12 6) (fld n 6 6) (fld n 5 1) (fld n 4 1) (fld n 1 3) (fld n 0 1)) else
  .error .opcode

/-- Vector words whose opcode begins with 2 in its top two bits (R233). -/
def decodeVector2 (n : Nat) : Except Field Instr :=
  if n / 2 ^ 28 % 2 ^ 4 = 0x8 ∧ n / 2 ^ 24 % 2 ^ 2 = 0x0 then row n [] (.vminF (fld n 26 2) (fld n 18 6) (fld n 12 6) (fld n 6 6) (fld n 5 1) (fld n 4 1) (fld n 1 3) (fld n 0 1)) else
  if n / 2 ^ 28 % 2 ^ 4 = 0x8 ∧ n / 2 ^ 24 % 2 ^ 2 = 0x1 then row n [] (.vmaxF (fld n 26 2) (fld n 18 6) (fld n 12 6) (fld n 6 6) (fld n 5 1) (fld n 4 1) (fld n 1 3) (fld n 0 1)) else
  if n / 2 ^ 28 % 2 ^ 4 = 0x8 ∧ n / 2 ^ 24 % 2 ^ 2 = 0x2 then row n [] (.vcltF (fld n 26 2) (fld n 18 6) (fld n 12 6) (fld n 6 6) (fld n 5 1) (fld n 4 1) (fld n 1 3) (fld n 0 1)) else
  if n / 2 ^ 28 % 2 ^ 4 = 0x8 ∧ n / 2 ^ 24 % 2 ^ 2 = 0x3 then row n [] (.vceqF (fld n 26 2) (fld n 18 6) (fld n 12 6) (fld n 6 6) (fld n 5 1) (fld n 4 1) (fld n 1 3) (fld n 0 1)) else
  if n / 2 ^ 27 % 2 ^ 5 = 0x12 then row n [] (.vcvt (fld n 24 3) (fld n 18 6) (fld n 12 6) (fld n 10 2) (fld n 9 1) (fld n 6 3) (fld n 5 1) (fld n 4 1) (fld n 1 3) (fld n 0 1)) else
  if n / 2 ^ 24 % 2 ^ 8 = 0x98 then row n [] (.vpack (fld n 18 6) (fld n 12 6) (fld n 10 2) (fld n 9 1) (fld n 6 3) (fld n 5 1) (fld n 4 1) (fld n 1 3) (fld n 0 1)) else
  if n / 2 ^ 24 % 2 ^ 8 = 0x99 then row n [] (.vunpk (fld n 18 6) (fld n 12 6) (fld n 9 3) (fld n 6 3) (fld n 5 1) (fld n 4 1) (fld n 1 3) (fld n 0 1)) else
  if n / 2 ^ 26 % 2 ^ 6 = 0x28 then row n [(6, 6, .b), (4, 1, .hold)] (.vexp2 (fld n 24 2) (fld n 18 6) (fld n 12 6) (fld n 5 1) (fld n 1 3) (fld n 0 1)) else
  if n / 2 ^ 26 % 2 ^ 6 = 0x29 then row n [(6, 6, .b), (4, 1, .hold)] (.vrcp (fld n 24 2) (fld n 18 6) (fld n 12 6) (fld n 5 1) (fld n 1 3) (fld n 0 1)) else
  if n / 2 ^ 26 % 2 ^ 6 = 0x2a then row n [(6, 6, .b), (4, 1, .hold)] (.vrsq (fld n 24 2) (fld n 18 6) (fld n 12 6) (fld n 5 1) (fld n 1 3) (fld n 0 1)) else
  if n / 2 ^ 26 % 2 ^ 6 = 0x2c then row n [(6, 6, .b), (4, 1, .hold)] (.vrsum (fld n 24 2) (fld n 18 6) (fld n 12 6) (fld n 5 1) (fld n 1 3) (fld n 0 1)) else
  if n / 2 ^ 26 % 2 ^ 6 = 0x2d then row n [(6, 6, .b), (4, 1, .hold)] (.vrmax (fld n 24 2) (fld n 18 6) (fld n 12 6) (fld n 5 1) (fld n 1 3) (fld n 0 1)) else
  if n / 2 ^ 26 % 2 ^ 6 = 0x2e then row n [(6, 6, .b), (4, 1, .hold)] (.vrmin (fld n 24 2) (fld n 18 6) (fld n 12 6) (fld n 5 1) (fld n 1 3) (fld n 0 1)) else
  .error .opcode

/-- Vector words whose opcode begins with 3 in its top two bits (R233). -/
def decodeVector3 (n : Nat) : Except Field Instr :=
  if n / 2 ^ 24 % 2 ^ 8 = 0xc0 then row n [(10, 2, .b), (4, 2, .hold)] (.vsnap (fld n 18 6) (fld n 12 6) (fld n 6 4) (fld n 1 3) (fld n 0 1)) else
  if n / 2 ^ 24 % 2 ^ 8 = 0xc4 then row n [(20, 4, .d), (0, 16, .imm)] (.vrot (fld n 16 4)) else
  if n / 2 ^ 24 % 2 ^ 8 = 0xc5 then row n [(20, 4, .d), (16, 4, .a), (4, 12, .imm)] (.vstg (fld n 0 4)) else
  if n / 2 ^ 24 % 2 ^ 8 = 0xd0 then row n [(22, 2, .d), (4, 1, .hold), (1, 3, .pred)] (.vlane (fld n 18 4) (fld n 12 6) (fld n 5 7) (fld n 0 1)) else
  if n / 2 ^ 24 % 2 ^ 8 = 0xd1 then row n [(12, 2, .a), (6, 6, .b), (4, 2, .hold)] (.vbcast (fld n 18 6) (fld n 14 4) (fld n 1 3) (fld n 0 1)) else
  if n / 2 ^ 24 % 2 ^ 8 = 0xd2 then row n [(20, 4, .d)] (.vsetwb (fld n 16 4) (fld n 0 16)) else
  if n / 2 ^ 24 % 2 ^ 8 = 0xd3 then row n [(20, 4, .d), (16, 4, .a), (2, 14, .imm)] (.vsetacc (fld n 0 2)) else
  if n / 2 ^ 24 % 2 ^ 8 = 0xd4 then row n [] (.saddi (fld n 20 4) (fld n 16 4) (fld n 0 16)) else
  if n / 2 ^ 24 % 2 ^ 8 = 0xd5 then row n [(0, 12, .imm)] (.sadd (fld n 20 4) (fld n 16 4) (fld n 12 4)) else
  if n / 2 ^ 24 % 2 ^ 8 = 0xd6 ∧ n / 2 ^ 19 % 2 ^ 1 = 0x0 then row n [(16, 3, .a)] (.smovi (fld n 20 4) (fld n 0 16)) else
  if n / 2 ^ 24 % 2 ^ 8 = 0xd6 ∧ n / 2 ^ 19 % 2 ^ 1 = 0x1 then row n [(16, 3, .a)] (.smoviHi (fld n 20 4) (fld n 0 16)) else
  if n / 2 ^ 24 % 2 ^ 8 = 0xd7 then row n [(20, 4, .d), (16, 4, .a), (0, 16, .imm)] .vhalt else
  if n / 2 ^ 24 % 2 ^ 8 = 0xd8 then row n [(20, 4, .d), (0, 16, .imm)] (.vtsig (fld n 16 4)) else
  if n / 2 ^ 24 % 2 ^ 8 = 0xd9 then row n [(20, 4, .d), (0, 16, .imm)] (.vtwait (fld n 16 4)) else
  if n / 2 ^ 22 % 2 ^ 10 = 0x368 then row n [(21, 1, .d), (0, 16, .imm)] (.vfenceRel (fld n 16 5)) else
  if n / 2 ^ 22 % 2 ^ 10 = 0x369 then row n [(21, 1, .d), (0, 16, .imm)] (.vfenceAcq (fld n 16 5)) else
  if n / 2 ^ 22 % 2 ^ 10 = 0x36a then row n [(21, 1, .d), (0, 16, .imm)] (.vfenceFull (fld n 16 5)) else
  if n / 2 ^ 22 % 2 ^ 10 = 0x36b then row n [(20, 2, .d), (16, 4, .a), (0, 16, .imm)] .vfenceX else
  if n / 2 ^ 24 % 2 ^ 8 = 0xdb then row n [(16, 4, .a), (12, 3, .imm)] (.vmfsr (fld n 20 4) (fld n 15 1) (fld n 0 12)) else
  if n / 2 ^ 24 % 2 ^ 8 = 0xdc then row n [(20, 4, .d), (12, 3, .imm)] (.vmtsr (fld n 16 4) (fld n 15 1) (fld n 0 12)) else
  if n / 2 ^ 24 % 2 ^ 8 = 0xe0 then row n [(16, 4, .a)] (.vloop (fld n 20 4) (fld n 0 16)) else
  if n / 2 ^ 24 % 2 ^ 8 = 0xe1 then row n [(20, 4, .d)] (.vbnz (fld n 16 4) (fld n 0 16)) else
  if n / 2 ^ 24 % 2 ^ 8 = 0xe2 then row n [(20, 4, .d), (16, 4, .a)] (.vjmp (fld n 0 16)) else
  .error .opcode

/-- The decoder of vector micro-orders (R231 to R234, R275). -/
def decodeVector (word : Word) : Except Field Instr :=
  let n := word.toNat
  if n / 2 ^ 30 = 0 then decodeVector0 n else
  if n / 2 ^ 30 = 1 then decodeVector1 n else
  if n / 2 ^ 30 = 2 then decodeVector2 n else
  if n / 2 ^ 30 = 3 then decodeVector3 n else
  .error .opcode

/-- The decoder of access micro-orders (R235, R236), on the word as a number. -/
def decodeAccessNat (n : Nat) : Except Field Instr :=
  if n / 2 ^ 26 % 2 ^ 6 = 0x0 then row n [(22, 4, .d), (18, 4, .b), (0, 18, .imm)] .anop else
  if n / 2 ^ 26 % 2 ^ 6 = 0x1 then row n [] (.ldq (fld n 22 4) (fld n 18 4) (fld n 14 4) (fld n 13 1) (fld n 12 1) (fld n 0 12)) else
  if n / 2 ^ 26 % 2 ^ 6 = 0x2 then row n [] (.stq (fld n 22 4) (fld n 18 4) (fld n 14 4) (fld n 13 1) (fld n 12 1) (fld n 0 12)) else
  if n / 2 ^ 26 % 2 ^ 6 = 0x3 then row n [(22, 4, .d)] (.pref (fld n 18 4) (fld n 14 4) (fld n 13 1) (fld n 12 1) (fld n 0 12)) else
  if n / 2 ^ 26 % 2 ^ 6 = 0x4 then row n [] (.ald (fld n 22 4) (fld n 18 4) (fld n 14 4) (fld n 13 1) (fld n 12 1) (fld n 0 12)) else
  if n / 2 ^ 26 % 2 ^ 6 = 0x8 then row n [] (.aaddi (fld n 22 4) (fld n 18 4) (fld n 0 18)) else
  if n / 2 ^ 26 % 2 ^ 6 = 0x9 then row n [(0, 14, .imm)] (.aadd (fld n 22 4) (fld n 18 4) (fld n 14 4)) else
  if n / 2 ^ 26 % 2 ^ 6 = 0xa then row n [(0, 14, .imm)] (.asub (fld n 22 4) (fld n 18 4) (fld n 14 4)) else
  if n / 2 ^ 26 % 2 ^ 6 = 0xb then row n [(6, 12, .imm)] (.aslli (fld n 22 4) (fld n 18 4) (fld n 0 6)) else
  if n / 2 ^ 26 % 2 ^ 6 = 0xc then row n [(18, 4, .b)] (.aseth (fld n 22 4) (fld n 0 18)) else
  if n / 2 ^ 26 % 2 ^ 6 = 0xd then row n [] (.aandi (fld n 22 4) (fld n 18 4) (fld n 0 18)) else
  if n / 2 ^ 26 % 2 ^ 6 = 0x10 then row n [(22, 4, .b), (16, 6, .imm)] (.ajmp (fld n 0 16)) else
  if n / 2 ^ 26 % 2 ^ 6 = 0x11 then row n [(16, 6, .imm)] (.abnz (fld n 22 4) (fld n 0 16)) else
  if n / 2 ^ 26 % 2 ^ 6 = 0x12 then row n [(16, 6, .imm)] (.aloop (fld n 22 4) (fld n 0 16)) else
  if n / 2 ^ 26 % 2 ^ 6 = 0x18 then row n [(0, 22, .imm)] (.atsig (fld n 22 4)) else
  if n / 2 ^ 26 % 2 ^ 6 = 0x19 then row n [(0, 22, .imm)] (.atwait (fld n 22 4)) else
  if n / 2 ^ 26 % 2 ^ 6 = 0x1a then row n [(22, 4, .d), (18, 4, .b), (0, 18, .imm)] .ahalt else
  if n / 2 ^ 26 % 2 ^ 6 = 0x1b ∧ n / 2 ^ 5 % 2 ^ 2 = 0x0 then row n [(22, 4, .d), (18, 4, .b), (7, 11, .imm)] (.afenceRel (fld n 0 5)) else
  if n / 2 ^ 26 % 2 ^ 6 = 0x1b ∧ n / 2 ^ 5 % 2 ^ 2 = 0x1 then row n [(22, 4, .d), (18, 4, .b), (7, 11, .imm)] (.afenceAcq (fld n 0 5)) else
  if n / 2 ^ 26 % 2 ^ 6 = 0x1b ∧ n / 2 ^ 5 % 2 ^ 2 = 0x2 then row n [(22, 4, .d), (18, 4, .b), (7, 11, .imm)] (.afenceFull (fld n 0 5)) else
  if n / 2 ^ 26 % 2 ^ 6 = 0x1b ∧ n / 2 ^ 5 % 2 ^ 2 = 0x3 then row n [(22, 4, .d), (18, 4, .b), (7, 11, .imm), (0, 5, .imm)] .afenceX else
  if n / 2 ^ 26 % 2 ^ 6 = 0x1c then row n [(18, 4, .b), (13, 5, .imm)] (.amfsr (fld n 22 4) (fld n 12 1) (fld n 0 12)) else
  if n / 2 ^ 26 % 2 ^ 6 = 0x1d then row n [(13, 5, .imm)] (.amtsr (fld n 22 4) (fld n 18 4) (fld n 12 1) (fld n 0 12)) else
  if n / 2 ^ 26 % 2 ^ 6 = 0x20 then row n [(0, 18, .imm)] (.arprod (fld n 22 4) (fld n 18 4)) else
  if n / 2 ^ 26 % 2 ^ 6 = 0x21 then row n [(0, 18, .imm)] (.arpub (fld n 22 4) (fld n 18 4)) else
  if n / 2 ^ 26 % 2 ^ 6 = 0x22 then row n [(0, 18, .imm)] (.arcons (fld n 22 4) (fld n 18 4)) else
  if n / 2 ^ 26 % 2 ^ 6 = 0x23 then row n [(0, 18, .imm)] (.arrel (fld n 22 4) (fld n 18 4)) else
  .error .opcode

/-- The decoder of access micro-orders (R235, R236). -/
def decodeAccess (word : Word) : Except Field Instr := decodeAccessNat word.toNat

/-- The decoder of Mule words (R237), on the word as a number. -/
def decodeMuleNat (n : Nat) : Except Field Instr :=
  if n / 2 ^ 27 % 2 ^ 5 = 0x0 then row n [(24, 3, .d), (21, 3, .a), (18, 3, .b), (0, 18, .imm)] .muleNop else
  if n / 2 ^ 27 % 2 ^ 5 = 0x1 then row n [(24, 3, .d), (21, 3, .a), (18, 3, .b), (0, 18, .imm)] .muleHalt else
  if n / 2 ^ 27 % 2 ^ 5 = 0x2 then row n [(24, 3, .d), (18, 3, .b), (10, 8, .imm)] (.mulePost (fld n 21 3) (fld n 0 10)) else
  if n / 2 ^ 27 % 2 ^ 5 = 0x3 then row n [(24, 3, .d), (21, 3, .a), (18, 3, .b), (10, 8, .imm)] (.muleJmp (fld n 0 10)) else
  if n / 2 ^ 27 % 2 ^ 5 = 0x4 then row n [(21, 3, .a), (18, 3, .b), (10, 8, .imm)] (.muleLoop (fld n 24 3) (fld n 0 10)) else
  if n / 2 ^ 27 % 2 ^ 5 = 0x5 then row n [(24, 3, .d), (18, 3, .b), (10, 8, .imm)] (.muleBnz (fld n 21 3) (fld n 0 10)) else
  if n / 2 ^ 27 % 2 ^ 5 = 0x6 then row n [(21, 3, .a), (18, 3, .b)] (.muleSeti (fld n 24 3) (fld n 0 18)) else
  if n / 2 ^ 27 % 2 ^ 5 = 0x7 then row n [(18, 3, .b)] (.muleAddi (fld n 24 3) (fld n 21 3) (fld n 0 18)) else
  if n / 2 ^ 27 % 2 ^ 5 = 0x8 then row n [(0, 18, .imm)] (.muleAdd (fld n 24 3) (fld n 21 3) (fld n 18 3)) else
  if n / 2 ^ 27 % 2 ^ 5 = 0x9 then row n [(24, 3, .d), (3, 15, .imm)] (.muleAgdim (fld n 21 3) (fld n 18 3) (fld n 2 1) (fld n 0 2)) else
  if n / 2 ^ 27 % 2 ^ 5 = 0xa then row n [(24, 3, .d), (18, 3, .b), (3, 15, .imm)] (.muleAgind (fld n 21 3) (fld n 2 1) (fld n 0 2)) else
  if n / 2 ^ 27 % 2 ^ 5 = 0xb then row n [(21, 3, .a), (18, 3, .b), (0, 18, .imm)] (.muleAgrun (fld n 24 3)) else
  if n / 2 ^ 27 % 2 ^ 5 = 0xc then row n [(24, 3, .d), (2, 16, .imm)] (.muleMx (fld n 21 3) (fld n 18 3) (fld n 0 2)) else
  if n / 2 ^ 27 % 2 ^ 5 = 0xd then row n [(24, 3, .d), (21, 3, .a), (18, 3, .b), (0, 18, .imm)] .muleMxw else
  if n / 2 ^ 27 % 2 ^ 5 = 0xe then row n [(24, 3, .d), (4, 14, .imm)] (.muleEx (fld n 21 3) (fld n 18 3) (fld n 2 2) (fld n 0 2)) else
  if n / 2 ^ 27 % 2 ^ 5 = 0xf then row n [(24, 3, .d), (8, 10, .imm)] (.muleCp (fld n 21 3) (fld n 18 3) (fld n 7 1) (fld n 6 1) (fld n 0 6)) else
  if n / 2 ^ 27 % 2 ^ 5 = 0x10 then row n [(24, 3, .d), (0, 18, .imm)] (.muleTagw (fld n 21 3) (fld n 18 3)) else
  if n / 2 ^ 27 % 2 ^ 5 = 0x11 then row n [(24, 3, .d), (18, 3, .b), (10, 8, .imm)] (.muleFwait (fld n 21 3) (fld n 5 5) (fld n 0 5)) else
  if n / 2 ^ 27 % 2 ^ 5 = 0x12 then row n [(24, 3, .d), (18, 3, .b), (10, 8, .imm)] (.muleFset (fld n 21 3) (fld n 5 5) (fld n 0 5)) else
  if n / 2 ^ 27 % 2 ^ 5 = 0x13 then row n [(24, 3, .d), (21, 3, .a), (18, 3, .b), (7, 11, .imm)] (.muleFence (fld n 2 5) (fld n 0 2)) else
  if n / 2 ^ 27 % 2 ^ 5 = 0x14 then row n [(18, 3, .b)] (.muleLd (fld n 24 3) (fld n 21 3) (fld n 0 18)) else
  if n / 2 ^ 27 % 2 ^ 5 = 0x15 then row n [(24, 3, .d)] (.muleSt (fld n 21 3) (fld n 18 3) (fld n 0 18)) else
  if n / 2 ^ 27 % 2 ^ 5 = 0x16 then row n [(21, 3, .a), (18, 3, .b), (12, 6, .imm)] (.muleMfsr (fld n 24 3) (fld n 0 12)) else
  if n / 2 ^ 27 % 2 ^ 5 = 0x17 then row n [(24, 3, .d), (18, 3, .b), (12, 6, .imm)] (.muleMtsr (fld n 21 3) (fld n 0 12)) else
  .error .opcode

/-- The decoder of Mule words (R237). -/
def decodeMule (word : Word) : Except Field Instr := decodeMuleNat word.toNat

/-- The decoder of a space. -/
def decodeIn : Space → Word → Except Field Instr
  | .control, w => decodeControl w
  | .vector, w => decodeVector w
  | .access, w => decodeAccess w
  | .mule, w => decodeMule w

/-- The space of an encoded instruction; events and engine commands have none (R221). -/
def Instr.space : Instr → Option Space
  | .add .. => some .control
  | .sub .. => some .control
  | .and .. => some .control
  | .or .. => some .control
  | .xor .. => some .control
  | .andn .. => some .control
  | .sll .. => some .control
  | .srl .. => some .control
  | .sra .. => some .control
  | .mul .. => some .control
  | .mulh .. => some .control
  | .mulhn .. => some .control
  | .min .. => some .control
  | .max .. => some .control
  | .minn .. => some .control
  | .maxn .. => some .control
  | .clz .. => some .control
  | .popc .. => some .control
  | .ceq .. => some .control
  | .cne .. => some .control
  | .clt .. => some .control
  | .cge .. => some .control
  | .cltn .. => some .control
  | .cgen .. => some .control
  | .pand .. => some .control
  | .por .. => some .control
  | .pxor .. => some .control
  | .pandn .. => some .control
  | .addi .. => some .control
  | .andi .. => some .control
  | .ori .. => some .control
  | .xori .. => some .control
  | .slli .. => some .control
  | .srli .. => some .control
  | .srai .. => some .control
  | .ceqi .. => some .control
  | .clti .. => some .control
  | .cltni .. => some .control
  | .ld .. => some .control
  | .ldn .. => some .control
  | .st .. => some .control
  | .atomAdd .. => some .control
  | .atomSwap .. => some .control
  | .atomCas .. => some .control
  | .atomAnd .. => some .control
  | .atomOr .. => some .control
  | .atomXor .. => some .control
  | .atomMin .. => some .control
  | .atomMax .. => some .control
  | .br .. => some .control
  | .call .. => some .control
  | .jr .. => some .control
  | .loop .. => some .control
  | .mfsr .. => some .control
  | .mtsr .. => some .control
  | .dset .. => some .control
  | .dget .. => some .control
  | .sqstart .. => some .control
  | .sqstop .. => some .control
  | .sqbase .. => some .control
  | .sqstat .. => some .control
  | .tsig .. => some .control
  | .twait .. => some .control
  | .twaitnb .. => some .control
  | .fset .. => some .control
  | .fadd .. => some .control
  | .fawait .. => some .control
  | .fradd .. => some .control
  | .fmcast .. => some .control
  | .fread .. => some .control
  | .tagwany .. => some .control
  | .tagwall .. => some .control
  | .tagffr .. => some .control
  | .tagclr .. => some .control
  | .rgprod .. => some .control
  | .rgpub .. => some .control
  | .rgcons .. => some .control
  | .rgrel .. => some .control
  | .barinit .. => some .control
  | .barinitf .. => some .control
  | .baradd .. => some .control
  | .barcast .. => some .control
  | .fenceRel .. => some .control
  | .fenceAcq .. => some .control
  | .fenceFull .. => some .control
  | .fenceX .. => some .control
  | .waita .. => some .control
  | .waitanb .. => some .control
  | .rent .. => some .control
  | .renew .. => some .control
  | .prepay .. => some .control
  | .sublet .. => some .control
  | .adopt .. => some .control
  | .vacate .. => some .control
  | .lstat .. => some .control
  | .exit .. => some .control
  | .exitAbandon .. => some .control
  | .fcall .. => some .control
  | .eret .. => some .control
  | .pinval .. => some .control
  | .dispMx .. => some .control
  | .dispCp .. => some .control
  | .dispCl .. => some .control
  | .dispMl .. => some .control
  | .xpfx .. => some .control
  | .vmov .. => some .vector
  | .vrd .. => some .vector
  | .vwr .. => some .vector
  | .vsel .. => some .vector
  | .mand .. => some .vector
  | .mor .. => some .vector
  | .mxor .. => some .vector
  | .mandn .. => some .vector
  | .vaddI .. => some .vector
  | .vaddSat .. => some .vector
  | .vsubI .. => some .vector
  | .vsubSat .. => some .vector
  | .vmulI .. => some .vector
  | .vmulSat .. => some .vector
  | .vminI .. => some .vector
  | .vmaxI .. => some .vector
  | .vand .. => some .vector
  | .vor .. => some .vector
  | .vxor .. => some .vector
  | .vshl .. => some .vector
  | .vshr .. => some .vector
  | .vsra .. => some .vector
  | .vceqI .. => some .vector
  | .vcltI .. => some .vector
  | .vaddF .. => some .vector
  | .vsubF .. => some .vector
  | .vmulF .. => some .vector
  | .vfma .. => some .vector
  | .vminF .. => some .vector
  | .vmaxF .. => some .vector
  | .vcltF .. => some .vector
  | .vceqF .. => some .vector
  | .vcvt .. => some .vector
  | .vpack .. => some .vector
  | .vunpk .. => some .vector
  | .vexp2 .. => some .vector
  | .vrcp .. => some .vector
  | .vrsq .. => some .vector
  | .vrsum .. => some .vector
  | .vrmax .. => some .vector
  | .vrmin .. => some .vector
  | .vsnap .. => some .vector
  | .vrot .. => some .vector
  | .vstg .. => some .vector
  | .vlane .. => some .vector
  | .vbcast .. => some .vector
  | .vsetwb .. => some .vector
  | .vsetacc .. => some .vector
  | .saddi .. => some .vector
  | .sadd .. => some .vector
  | .smovi .. => some .vector
  | .smoviHi .. => some .vector
  | .vhalt .. => some .vector
  | .vtsig .. => some .vector
  | .vtwait .. => some .vector
  | .vfenceRel .. => some .vector
  | .vfenceAcq .. => some .vector
  | .vfenceFull .. => some .vector
  | .vfenceX .. => some .vector
  | .vmfsr .. => some .vector
  | .vmtsr .. => some .vector
  | .vloop .. => some .vector
  | .vbnz .. => some .vector
  | .vjmp .. => some .vector
  | .anop .. => some .access
  | .ldq .. => some .access
  | .stq .. => some .access
  | .pref .. => some .access
  | .ald .. => some .access
  | .aaddi .. => some .access
  | .aadd .. => some .access
  | .asub .. => some .access
  | .aslli .. => some .access
  | .aseth .. => some .access
  | .aandi .. => some .access
  | .ajmp .. => some .access
  | .abnz .. => some .access
  | .aloop .. => some .access
  | .atsig .. => some .access
  | .atwait .. => some .access
  | .ahalt .. => some .access
  | .afenceRel .. => some .access
  | .afenceAcq .. => some .access
  | .afenceFull .. => some .access
  | .afenceX .. => some .access
  | .amfsr .. => some .access
  | .amtsr .. => some .access
  | .arprod .. => some .access
  | .arpub .. => some .access
  | .arcons .. => some .access
  | .arrel .. => some .access
  | .muleNop .. => some .mule
  | .muleHalt .. => some .mule
  | .mulePost .. => some .mule
  | .muleJmp .. => some .mule
  | .muleLoop .. => some .mule
  | .muleBnz .. => some .mule
  | .muleSeti .. => some .mule
  | .muleAddi .. => some .mule
  | .muleAdd .. => some .mule
  | .muleAgdim .. => some .mule
  | .muleAgind .. => some .mule
  | .muleAgrun .. => some .mule
  | .muleMx .. => some .mule
  | .muleMxw .. => some .mule
  | .muleEx .. => some .mule
  | .muleCp .. => some .mule
  | .muleTagw .. => some .mule
  | .muleFwait .. => some .mule
  | .muleFset .. => some .mule
  | .muleFence .. => some .mule
  | .muleLd .. => some .mule
  | .muleSt .. => some .mule
  | .muleMfsr .. => some .mule
  | .muleMtsr .. => some .mule
  | .nest .. => none
  | .fmtld .. => none
  | .cstld .. => none
  | .copy .. => none
  | .copyr .. => none
  | .tmove .. => none
  | .coll .. => none
  | .join .. => none
  | .rstore .. => none
  | .spred .. => none
  | .dispx .. => none
  | .abort .. => none
  | .accreg .. => none
  | .accfree .. => none
  | .xbreg .. => none
  | .mrun .. => none
  | .mload .. => none
  | .inputFifoAppend .. => none
  | .outputFifoPop .. => none
  | .mxgo .. => none
  | .mlgo .. => none
  | .fstatWrite .. => none
  | .pshareWrite .. => none
  | .paceWrite .. => none
  | .preempt .. => none
  | .endtask .. => none
  | .registerWrite .. => none
  | .ringRegisterWrite .. => none
  | .secondStageEntryWrite .. => none
  | .packetConsume .. => none
  | .operatorChain .. => none
  | .accountOpen .. => none
  | .accountCredit .. => none
  | .accountWithdraw .. => none
  | .accountFreeze .. => none
  | .accountThaw .. => none
  | .accountSetlow .. => none
  | .accountClose .. => none
  | .accountRead .. => none
  | .prefixExport .. => none
  | .prefixImport .. => none
  | .noOpPacket .. => none
  | .pageInvalidation .. => none
  | .attestationRequest .. => none
  | .recordExpansion .. => none
  | .functionLevelReset .. => none
  | .powerOn .. => none
  | .hostWrite .. => none
  | .hostRead .. => none
  | .pcieCompletion .. => none
  | .pcieCompletionTimeout .. => none
  | .pageWalk .. => none
  | .migrationStoreRetry .. => none
  | .invalidationComplete .. => none
  | .dataAccessPerform .. => none
  | .slotWriteApply .. => none
  | .expiryMark .. => none
  | .codeRegionCrossing .. => none
  | .messageQueueAppend .. => none
  | .mqAcknowledgement .. => none
  | .resumeNotice .. => none
  | .mqPollResend .. => none
  | .ringClaimGrant .. => none
  | .accumulateWrite .. => none
  | .waitaPoll .. => none
  | .tickBoundary .. => none
  | .leaseExpiry .. => none
  | .hubDebit .. => none
  | .rentDebitGrant .. => none
  | .deferredDebitRefusal .. => none
  | .meterRefusal .. => none
  | .scrubComplete .. => none
  | .tokenSignalApply .. => none
  | .sequencerUnblock .. => none
  | .lossOfDecoupling .. => none
  | .commandDequeue .. => none
  | .commandCompletion .. => none
  | .matrixKstep .. => none
  | .hadamardPrepass .. => none
  | .drainRowWrite .. => none
  | .copyBeat .. => none
  | .ballastKstep .. => none
  | .crossDieWriteApply .. => none
  | .appliedVectorUpdate .. => none
  | .remoteFlagOperation .. => none
  | .oxVectorExamine .. => none
  | .launchSelection .. => none
  | .taskStart .. => none
  | .imageStore .. => none
  | .taskRetirement .. => none
  | .launchCompletion .. => none
  | .preemptionRequest .. => none
  | .taskSaveComplete .. => none
  | .taskRestore .. => none
  | .trapEntry .. => none
  | .deferredFault .. => none
  | .firmwareContextFault .. => none
  | .watchdog .. => none
  | .joinArrival .. => none
  | .ready .. => none
  | .windowAbort .. => none
  | .denseContribution .. => none
  | .ganderInputWord .. => none
  | .ganderBlockEmit .. => none
  | .windowResultWrite .. => none
  | .windowCompletion .. => none
  | .dispatchRowArrival .. => none
  | .linkFailure .. => none
  | .controlIntervalBoundary .. => none
  | .clockRelock .. => none
  | .collectiveSend .. => none
  | .linkTrained .. => none

/-- A field at bit `lo` above the fields already placed. -/
def place {k : Nat} (v : BitVec k) (lo n : Nat) : Nat := v.toNat * 2 ^ lo + n

/-- The word of an instruction (R223 to R237); an instruction with no encoding has the word 0. -/
def encode : Instr → Word
  | .add d a b => BitVec.ofNat 32 (place d 21 (place a 16 (place b 11 0x0)))
  | .sub d a b => BitVec.ofNat 32 (place d 21 (place a 16 (place b 11 0x1)))
  | .and d a b => BitVec.ofNat 32 (place d 21 (place a 16 (place b 11 0x2)))
  | .or d a b => BitVec.ofNat 32 (place d 21 (place a 16 (place b 11 0x3)))
  | .xor d a b => BitVec.ofNat 32 (place d 21 (place a 16 (place b 11 0x4)))
  | .andn d a b => BitVec.ofNat 32 (place d 21 (place a 16 (place b 11 0x5)))
  | .sll d a b => BitVec.ofNat 32 (place d 21 (place a 16 (place b 11 0x6)))
  | .srl d a b => BitVec.ofNat 32 (place d 21 (place a 16 (place b 11 0x7)))
  | .sra d a b => BitVec.ofNat 32 (place d 21 (place a 16 (place b 11 0x8)))
  | .mul d a b => BitVec.ofNat 32 (place d 21 (place a 16 (place b 11 0x9)))
  | .mulh d a b => BitVec.ofNat 32 (place d 21 (place a 16 (place b 11 0xa)))
  | .mulhn d a b => BitVec.ofNat 32 (place d 21 (place a 16 (place b 11 0xb)))
  | .min d a b => BitVec.ofNat 32 (place d 21 (place a 16 (place b 11 0xc)))
  | .max d a b => BitVec.ofNat 32 (place d 21 (place a 16 (place b 11 0xd)))
  | .minn d a b => BitVec.ofNat 32 (place d 21 (place a 16 (place b 11 0xe)))
  | .maxn d a b => BitVec.ofNat 32 (place d 21 (place a 16 (place b 11 0xf)))
  | .clz d a => BitVec.ofNat 32 (place d 21 (place a 16 0x10))
  | .popc d a => BitVec.ofNat 32 (place d 21 (place a 16 0x11))
  | .ceq d a b => BitVec.ofNat 32 (place d 21 (place a 16 (place b 11 0x4000000)))
  | .cne d a b => BitVec.ofNat 32 (place d 21 (place a 16 (place b 11 0x4000001)))
  | .clt d a b => BitVec.ofNat 32 (place d 21 (place a 16 (place b 11 0x4000002)))
  | .cge d a b => BitVec.ofNat 32 (place d 21 (place a 16 (place b 11 0x4000003)))
  | .cltn d a b => BitVec.ofNat 32 (place d 21 (place a 16 (place b 11 0x4000004)))
  | .cgen d a b => BitVec.ofNat 32 (place d 21 (place a 16 (place b 11 0x4000005)))
  | .pand d a b => BitVec.ofNat 32 (place d 21 (place a 16 (place b 11 0x4000008)))
  | .por d a b => BitVec.ofNat 32 (place d 21 (place a 16 (place b 11 0x4000009)))
  | .pxor d a b => BitVec.ofNat 32 (place d 21 (place a 16 (place b 11 0x400000a)))
  | .pandn d a b => BitVec.ofNat 32 (place d 21 (place a 16 (place b 11 0x400000b)))
  | .addi d a i => BitVec.ofNat 32 (place d 21 (place a 16 (place i 0 0x8000000)))
  | .andi d a i => BitVec.ofNat 32 (place d 21 (place a 16 (place i 0 0xc000000)))
  | .ori d a i => BitVec.ofNat 32 (place d 21 (place a 16 (place i 0 0x10000000)))
  | .xori d a i => BitVec.ofNat 32 (place d 21 (place a 16 (place i 0 0x14000000)))
  | .slli d a i => BitVec.ofNat 32 (place d 21 (place a 16 (place i 0 0x18000000)))
  | .srli d a i => BitVec.ofNat 32 (place d 21 (place a 16 (place i 0 0x1c000000)))
  | .srai d a i => BitVec.ofNat 32 (place d 21 (place a 16 (place i 0 0x20000000)))
  | .ceqi d a i => BitVec.ofNat 32 (place d 21 (place a 16 (place i 0 0x24000000)))
  | .clti d a i => BitVec.ofNat 32 (place d 21 (place a 16 (place i 0 0x28000000)))
  | .cltni d a i => BitVec.ofNat 32 (place d 21 (place a 16 (place i 0 0x2c000000)))
  | .ld d b k z s o => BitVec.ofNat 32 (place d 21 (place b 16 (place k 15 (place z 13 (place s 11 (place o 0 0x30000000))))))
  | .ldn d b k z s o => BitVec.ofNat 32 (place d 21 (place b 16 (place k 15 (place z 13 (place s 11 (place o 0 0x34000000))))))
  | .st d b k z s o => BitVec.ofNat 32 (place d 21 (place b 16 (place k 15 (place z 13 (place s 11 (place o 0 0x38000000))))))
  | .atomAdd d a b s o z => BitVec.ofNat 32 (place d 21 (place a 16 (place b 11 (place s 9 (place o 4 (place z 3 0x3c000000))))))
  | .atomSwap d a b s o z => BitVec.ofNat 32 (place d 21 (place a 16 (place b 11 (place s 9 (place o 4 (place z 3 0x3c000001))))))
  | .atomCas d a b s o z => BitVec.ofNat 32 (place d 21 (place a 16 (place b 11 (place s 9 (place o 4 (place z 3 0x3c000002))))))
  | .atomAnd d a b s o z => BitVec.ofNat 32 (place d 21 (place a 16 (place b 11 (place s 9 (place o 4 (place z 3 0x3c000003))))))
  | .atomOr d a b s o z => BitVec.ofNat 32 (place d 21 (place a 16 (place b 11 (place s 9 (place o 4 (place z 3 0x3c000004))))))
  | .atomXor d a b s o z => BitVec.ofNat 32 (place d 21 (place a 16 (place b 11 (place s 9 (place o 4 (place z 3 0x3c000005))))))
  | .atomMin d a b s o z => BitVec.ofNat 32 (place d 21 (place a 16 (place b 11 (place s 9 (place o 4 (place z 3 0x3c000006))))))
  | .atomMax d a b s o z => BitVec.ofNat 32 (place d 21 (place a 16 (place b 11 (place s 9 (place o 4 (place z 3 0x3c000007))))))
  | .br p s o => BitVec.ofNat 32 (place p 23 (place s 22 (place o 0 0x40000000)))
  | .call p s o => BitVec.ofNat 32 (place p 23 (place s 22 (place o 0 0x44000000)))
  | .jr d a => BitVec.ofNat 32 (place d 21 (place a 16 0x48000000))
  | .loop d i => BitVec.ofNat 32 (place d 21 (place i 0 0x4c000000))
  | .mfsr d n p r => BitVec.ofNat 32 (place d 21 (place n 15 (place p 12 (place r 0 0x50000000))))
  | .mtsr a n p r => BitVec.ofNat 32 (place a 16 (place n 15 (place p 12 (place r 0 0x54000000))))
  | .dset d a s => BitVec.ofNat 32 (place d 21 (place a 16 (place s 0 0x58000000)))
  | .dget d a s => BitVec.ofNat 32 (place d 21 (place a 16 (place s 0 0x58000400)))
  | .sqstart a t => BitVec.ofNat 32 (place a 16 (place t 2 0x5c000000))
  | .sqstop t => BitVec.ofNat 32 (place t 2 0x5c000001)
  | .sqbase a t => BitVec.ofNat 32 (place a 16 (place t 2 0x5c000002))
  | .sqstat d t => BitVec.ofNat 32 (place d 21 (place t 2 0x5c000003))
  | .tsig k => BitVec.ofNat 32 (place k 11 0x60000000)
  | .twait k => BitVec.ofNat 32 (place k 11 0x60000001)
  | .twaitnb d k => BitVec.ofNat 32 (place d 21 (place k 11 0x60000002))
  | .fset a f o => BitVec.ofNat 32 (place a 16 (place f 11 (place o 6 0x60000004)))
  | .fadd a f o => BitVec.ofNat 32 (place a 16 (place f 11 (place o 6 0x60000005)))
  | .fawait d a f o => BitVec.ofNat 32 (place d 21 (place a 16 (place f 11 (place o 6 0x60000006))))
  | .fradd t a f o => BitVec.ofNat 32 (place t 21 (place a 16 (place f 11 (place o 6 0x60000007))))
  | .fmcast t a f o => BitVec.ofNat 32 (place t 21 (place a 16 (place f 11 (place o 6 0x60000008))))
  | .fread d f => BitVec.ofNat 32 (place d 21 (place f 11 0x60000009))
  | .tagwany d b => BitVec.ofNat 32 (place d 21 (place b 11 0x6000000c))
  | .tagwall d b => BitVec.ofNat 32 (place d 21 (place b 11 0x6000000d))
  | .tagffr d b => BitVec.ofNat 32 (place d 21 (place b 11 0x6000000e))
  | .tagclr b => BitVec.ofNat 32 (place b 11 0x6000000f)
  | .rgprod d b o => BitVec.ofNat 32 (place d 21 (place b 11 (place o 6 0x60000010)))
  | .rgpub a b o => BitVec.ofNat 32 (place a 16 (place b 11 (place o 6 0x60000011)))
  | .rgcons d b o => BitVec.ofNat 32 (place d 21 (place b 11 (place o 6 0x60000012)))
  | .rgrel a b o => BitVec.ofNat 32 (place a 16 (place b 11 (place o 6 0x60000013)))
  | .barinit a f o => BitVec.ofNat 32 (place a 16 (place f 11 (place o 6 0x60000018)))
  | .barinitf a f o => BitVec.ofNat 32 (place a 16 (place f 11 (place o 6 0x60000019)))
  | .baradd t a f o => BitVec.ofNat 32 (place t 21 (place a 16 (place f 11 (place o 6 0x6000001a))))
  | .barcast t a f o => BitVec.ofNat 32 (place t 21 (place a 16 (place f 11 (place o 6 0x6000001b))))
  | .fenceRel o => BitVec.ofNat 32 (place o 6 0x60000020)
  | .fenceAcq o => BitVec.ofNat 32 (place o 6 0x60000021)
  | .fenceFull o => BitVec.ofNat 32 (place o 6 0x60000022)
  | .fenceX => 0x60000023
  | .waita d a b o => BitVec.ofNat 32 (place d 21 (place a 16 (place b 11 (place o 6 0x60000024))))
  | .waitanb d a b o => BitVec.ofNat 32 (place d 21 (place a 16 (place b 11 (place o 6 0x60000025))))
  | .rent d a b => BitVec.ofNat 32 (place d 21 (place a 16 (place b 11 0x64000000)))
  | .renew d a b => BitVec.ofNat 32 (place d 21 (place a 16 (place b 11 0x64000001)))
  | .prepay d a b => BitVec.ofNat 32 (place d 21 (place a 16 (place b 11 0x64000002)))
  | .sublet d a b => BitVec.ofNat 32 (place d 21 (place a 16 (place b 11 0x64000003)))
  | .adopt d a b => BitVec.ofNat 32 (place d 21 (place a 16 (place b 11 0x64000004)))
  | .vacate d a => BitVec.ofNat 32 (place d 21 (place a 16 0x64000005))
  | .lstat d a => BitVec.ofNat 32 (place d 21 (place a 16 0x64000006))
  | .exit => 0x68000000
  | .exitAbandon => 0x68000001
  | .fcall a => BitVec.ofNat 32 (place a 16 0x68000002)
  | .eret a b => BitVec.ofNat 32 (place a 16 (place b 11 0x68000003))
  | .pinval d a b => BitVec.ofNat 32 (place d 21 (place a 16 (place b 11 0x68000004)))
  | .dispMx w k s j a b c => BitVec.ofNat 32 (place w 23 (place k 19 (place s 18 (place j 14 (place a 11 (place b 8 (place c 3 0x80000000)))))))
  | .dispCp w k s j a b c => BitVec.ofNat 32 (place w 23 (place k 19 (place s 18 (place j 14 (place a 11 (place b 8 (place c 3 0x81000000)))))))
  | .dispCl w k s j a b c => BitVec.ofNat 32 (place w 23 (place k 19 (place s 18 (place j 14 (place a 11 (place b 8 (place c 3 0x82000000)))))))
  | .dispMl w k s j a b c => BitVec.ofNat 32 (place w 23 (place k 19 (place s 18 (place j 14 (place a 11 (place b 8 (place c 3 0x83000000)))))))
  | .xpfx i => BitVec.ofNat 32 (place i 0 0xf8000000)
  | .vmov d a h j m g => BitVec.ofNat 32 (place d 18 (place a 12 (place h 5 (place j 4 (place m 1 (place g 0 0x0))))))
  | .vrd d a l h j m g => BitVec.ofNat 32 (place d 18 (place a 12 (place l 6 (place h 5 (place j 4 (place m 1 (place g 0 0x1000000)))))))
  | .vwr d a l h j m g => BitVec.ofNat 32 (place d 18 (place a 12 (place l 6 (place h 5 (place j 4 (place m 1 (place g 0 0x2000000)))))))
  | .vsel d a b h j m g => BitVec.ofNat 32 (place d 18 (place a 12 (place b 6 (place h 5 (place j 4 (place m 1 (place g 0 0x3000000)))))))
  | .mand d a b g => BitVec.ofNat 32 (place d 18 (place a 12 (place b 6 (place g 0 0x4000000))))
  | .mor d a b g => BitVec.ofNat 32 (place d 18 (place a 12 (place b 6 (place g 0 0x5000000))))
  | .mxor d a b g => BitVec.ofNat 32 (place d 18 (place a 12 (place b 6 (place g 0 0x6000000))))
  | .mandn d a b g => BitVec.ofNat 32 (place d 18 (place a 12 (place b 6 (place g 0 0x7000000))))
  | .vaddI t d a b h j m g => BitVec.ofNat 32 (place t 28 (place d 18 (place a 12 (place b 6 (place h 5 (place j 4 (place m 1 (place g 0 0x20000000))))))))
  | .vaddSat t d a b h j m g => BitVec.ofNat 32 (place t 28 (place d 18 (place a 12 (place b 6 (place h 5 (place j 4 (place m 1 (place g 0 0x21000000))))))))
  | .vsubI t d a b h j m g => BitVec.ofNat 32 (place t 28 (place d 18 (place a 12 (place b 6 (place h 5 (place j 4 (place m 1 (place g 0 0x22000000))))))))
  | .vsubSat t d a b h j m g => BitVec.ofNat 32 (place t 28 (place d 18 (place a 12 (place b 6 (place h 5 (place j 4 (place m 1 (place g 0 0x23000000))))))))
  | .vmulI t d a b h j m g => BitVec.ofNat 32 (place t 28 (place d 18 (place a 12 (place b 6 (place h 5 (place j 4 (place m 1 (place g 0 0x24000000))))))))
  | .vmulSat t d a b h j m g => BitVec.ofNat 32 (place t 28 (place d 18 (place a 12 (place b 6 (place h 5 (place j 4 (place m 1 (place g 0 0x25000000))))))))
  | .vminI t d a b h j m g => BitVec.ofNat 32 (place t 28 (place d 18 (place a 12 (place b 6 (place h 5 (place j 4 (place m 1 (place g 0 0x26000000))))))))
  | .vmaxI t d a b h j m g => BitVec.ofNat 32 (place t 28 (place d 18 (place a 12 (place b 6 (place h 5 (place j 4 (place m 1 (place g 0 0x27000000))))))))
  | .vand t d a b h j m g => BitVec.ofNat 32 (place t 28 (place d 18 (place a 12 (place b 6 (place h 5 (place j 4 (place m 1 (place g 0 0x28000000))))))))
  | .vor t d a b h j m g => BitVec.ofNat 32 (place t 28 (place d 18 (place a 12 (place b 6 (place h 5 (place j 4 (place m 1 (place g 0 0x29000000))))))))
  | .vxor t d a b h j m g => BitVec.ofNat 32 (place t 28 (place d 18 (place a 12 (place b 6 (place h 5 (place j 4 (place m 1 (place g 0 0x2a000000))))))))
  | .vshl t d a b h j m g => BitVec.ofNat 32 (place t 28 (place d 18 (place a 12 (place b 6 (place h 5 (place j 4 (place m 1 (place g 0 0x2b000000))))))))
  | .vshr t d a b h j m g => BitVec.ofNat 32 (place t 28 (place d 18 (place a 12 (place b 6 (place h 5 (place j 4 (place m 1 (place g 0 0x2c000000))))))))
  | .vsra t d a b h j m g => BitVec.ofNat 32 (place t 28 (place d 18 (place a 12 (place b 6 (place h 5 (place j 4 (place m 1 (place g 0 0x2d000000))))))))
  | .vceqI t d a b h j m g => BitVec.ofNat 32 (place t 28 (place d 18 (place a 12 (place b 6 (place h 5 (place j 4 (place m 1 (place g 0 0x2e000000))))))))
  | .vcltI t d a b h j m g => BitVec.ofNat 32 (place t 28 (place d 18 (place a 12 (place b 6 (place h 5 (place j 4 (place m 1 (place g 0 0x2f000000))))))))
  | .vaddF t r d a b h j m g => BitVec.ofNat 32 (place t 28 (place r 24 (place d 18 (place a 12 (place b 6 (place h 5 (place j 4 (place m 1 (place g 0 0x40000000)))))))))
  | .vsubF t r d a b h j m g => BitVec.ofNat 32 (place t 28 (place r 24 (place d 18 (place a 12 (place b 6 (place h 5 (place j 4 (place m 1 (place g 0 0x44000000)))))))))
  | .vmulF t r d a b h j m g => BitVec.ofNat 32 (place t 28 (place r 24 (place d 18 (place a 12 (place b 6 (place h 5 (place j 4 (place m 1 (place g 0 0x48000000)))))))))
  | .vfma t r d a b h j m g => BitVec.ofNat 32 (place t 28 (place r 24 (place d 18 (place a 12 (place b 6 (place h 5 (place j 4 (place m 1 (place g 0 0x4c000000)))))))))
  | .vminF t d a b h j m g => BitVec.ofNat 32 (place t 26 (place d 18 (place a 12 (place b 6 (place h 5 (place j 4 (place m 1 (place g 0 0x80000000))))))))
  | .vmaxF t d a b h j m g => BitVec.ofNat 32 (place t 26 (place d 18 (place a 12 (place b 6 (place h 5 (place j 4 (place m 1 (place g 0 0x81000000))))))))
  | .vcltF t d a b h j m g => BitVec.ofNat 32 (place t 26 (place d 18 (place a 12 (place b 6 (place h 5 (place j 4 (place m 1 (place g 0 0x82000000))))))))
  | .vceqF t d a b h j m g => BitVec.ofNat 32 (place t 26 (place d 18 (place a 12 (place b 6 (place h 5 (place j 4 (place m 1 (place g 0 0x83000000))))))))
  | .vcvt s d a r u f h j m g => BitVec.ofNat 32 (place s 24 (place d 18 (place a 12 (place r 10 (place u 9 (place f 6 (place h 5 (place j 4 (place m 1 (place g 0 0x90000000))))))))))
  | .vpack d a r u f h j m g => BitVec.ofNat 32 (place d 18 (place a 12 (place r 10 (place u 9 (place f 6 (place h 5 (place j 4 (place m 1 (place g 0 0x98000000)))))))))
  | .vunpk d a p f h j m g => BitVec.ofNat 32 (place d 18 (place a 12 (place p 9 (place f 6 (place h 5 (place j 4 (place m 1 (place g 0 0x99000000))))))))
  | .vexp2 t d a h m g => BitVec.ofNat 32 (place t 24 (place d 18 (place a 12 (place h 5 (place m 1 (place g 0 0xa0000000))))))
  | .vrcp t d a h m g => BitVec.ofNat 32 (place t 24 (place d 18 (place a 12 (place h 5 (place m 1 (place g 0 0xa4000000))))))
  | .vrsq t d a h m g => BitVec.ofNat 32 (place t 24 (place d 18 (place a 12 (place h 5 (place m 1 (place g 0 0xa8000000))))))
  | .vrsum t d a h m g => BitVec.ofNat 32 (place t 24 (place d 18 (place a 12 (place h 5 (place m 1 (place g 0 0xb0000000))))))
  | .vrmax t d a h m g => BitVec.ofNat 32 (place t 24 (place d 18 (place a 12 (place h 5 (place m 1 (place g 0 0xb4000000))))))
  | .vrmin t d a h m g => BitVec.ofNat 32 (place t 24 (place d 18 (place a 12 (place h 5 (place m 1 (place g 0 0xb8000000))))))
  | .vsnap d a s m g => BitVec.ofNat 32 (place d 18 (place a 12 (place s 6 (place m 1 (place g 0 0xc0000000)))))
  | .vrot c => BitVec.ofNat 32 (place c 16 0xc4000000)
  | .vstg n => BitVec.ofNat 32 (place n 0 0xc5000000)
  | .vlane s a l g => BitVec.ofNat 32 (place s 18 (place a 12 (place l 5 (place g 0 0xd0000000))))
  | .vbcast d s m g => BitVec.ofNat 32 (place d 18 (place s 14 (place m 1 (place g 0 0xd1000000))))
  | .vsetwb s i => BitVec.ofNat 32 (place s 16 (place i 0 0xd2000000))
  | .vsetacc m => BitVec.ofNat 32 (place m 0 0xd3000000)
  | .saddi d s i => BitVec.ofNat 32 (place d 20 (place s 16 (place i 0 0xd4000000)))
  | .sadd d s b => BitVec.ofNat 32 (place d 20 (place s 16 (place b 12 0xd5000000)))
  | .smovi d i => BitVec.ofNat 32 (place d 20 (place i 0 0xd6000000))
  | .smoviHi d i => BitVec.ofNat 32 (place d 20 (place i 0 0xd6080000))
  | .vhalt => 0xd7000000
  | .vtsig k => BitVec.ofNat 32 (place k 16 0xd8000000)
  | .vtwait k => BitVec.ofNat 32 (place k 16 0xd9000000)
  | .vfenceRel o => BitVec.ofNat 32 (place o 16 0xda000000)
  | .vfenceAcq o => BitVec.ofNat 32 (place o 16 0xda400000)
  | .vfenceFull o => BitVec.ofNat 32 (place o 16 0xda800000)
  | .vfenceX => 0xdac00000
  | .vmfsr d n r => BitVec.ofNat 32 (place d 20 (place n 15 (place r 0 0xdb000000)))
  | .vmtsr s n r => BitVec.ofNat 32 (place s 16 (place n 15 (place r 0 0xdc000000)))
  | .vloop d i => BitVec.ofNat 32 (place d 20 (place i 0 0xe0000000))
  | .vbnz s i => BitVec.ofNat 32 (place s 16 (place i 0 0xe1000000))
  | .vjmp i => BitVec.ofNat 32 (place i 0 0xe2000000)
  | .anop => 0x0
  | .ldq q b i p k o => BitVec.ofNat 32 (place q 22 (place b 18 (place i 14 (place p 13 (place k 12 (place o 0 0x4000000))))))
  | .stq q b i p k o => BitVec.ofNat 32 (place q 22 (place b 18 (place i 14 (place p 13 (place k 12 (place o 0 0x8000000))))))
  | .pref b i p k o => BitVec.ofNat 32 (place b 18 (place i 14 (place p 13 (place k 12 (place o 0 0xc000000)))))
  | .ald d b i p k o => BitVec.ofNat 32 (place d 22 (place b 18 (place i 14 (place p 13 (place k 12 (place o 0 0x10000000))))))
  | .aaddi d b i => BitVec.ofNat 32 (place d 22 (place b 18 (place i 0 0x20000000)))
  | .aadd d b i => BitVec.ofNat 32 (place d 22 (place b 18 (place i 14 0x24000000)))
  | .asub d b i => BitVec.ofNat 32 (place d 22 (place b 18 (place i 14 0x28000000)))
  | .aslli d b n => BitVec.ofNat 32 (place d 22 (place b 18 (place n 0 0x2c000000)))
  | .aseth d i => BitVec.ofNat 32 (place d 22 (place i 0 0x30000000))
  | .aandi d b i => BitVec.ofNat 32 (place d 22 (place b 18 (place i 0 0x34000000)))
  | .ajmp o => BitVec.ofNat 32 (place o 0 0x40000000)
  | .abnz b o => BitVec.ofNat 32 (place b 22 (place o 0 0x44000000))
  | .aloop b o => BitVec.ofNat 32 (place b 22 (place o 0 0x48000000))
  | .atsig k => BitVec.ofNat 32 (place k 22 0x60000000)
  | .atwait k => BitVec.ofNat 32 (place k 22 0x64000000)
  | .ahalt => 0x68000000
  | .afenceRel o => BitVec.ofNat 32 (place o 0 0x6c000000)
  | .afenceAcq o => BitVec.ofNat 32 (place o 0 0x6c000020)
  | .afenceFull o => BitVec.ofNat 32 (place o 0 0x6c000040)
  | .afenceX => 0x6c000060
  | .amfsr d n r => BitVec.ofNat 32 (place d 22 (place n 12 (place r 0 0x70000000)))
  | .amtsr d b n r => BitVec.ofNat 32 (place d 22 (place b 18 (place n 12 (place r 0 0x74000000))))
  | .arprod d b => BitVec.ofNat 32 (place d 22 (place b 18 0x80000000))
  | .arpub d b => BitVec.ofNat 32 (place d 22 (place b 18 0x84000000))
  | .arcons d b => BitVec.ofNat 32 (place d 22 (place b 18 0x88000000))
  | .arrel d b => BitVec.ofNat 32 (place d 22 (place b 18 0x8c000000))
  | .muleNop => 0x0
  | .muleHalt => 0x8000000
  | .mulePost a n => BitVec.ofNat 32 (place a 21 (place n 0 0x10000000))
  | .muleJmp t => BitVec.ofNat 32 (place t 0 0x18000000)
  | .muleLoop d t => BitVec.ofNat 32 (place d 24 (place t 0 0x20000000))
  | .muleBnz a t => BitVec.ofNat 32 (place a 21 (place t 0 0x28000000))
  | .muleSeti d i => BitVec.ofNat 32 (place d 24 (place i 0 0x30000000))
  | .muleAddi d a i => BitVec.ofNat 32 (place d 24 (place a 21 (place i 0 0x38000000)))
  | .muleAdd d a b => BitVec.ofNat 32 (place d 24 (place a 21 (place b 18 0x40000000)))
  | .muleAgdim a b f e => BitVec.ofNat 32 (place a 21 (place b 18 (place f 2 (place e 0 0x48000000))))
  | .muleAgind a f e => BitVec.ofNat 32 (place a 21 (place f 2 (place e 0 0x50000000)))
  | .muleAgrun d => BitVec.ofNat 32 (place d 24 0x58000000)
  | .muleMx a b o => BitVec.ofNat 32 (place a 21 (place b 18 (place o 0 0x60000000)))
  | .muleMxw => 0x68000000
  | .muleEx a b t f => BitVec.ofNat 32 (place a 21 (place b 18 (place t 2 (place f 0 0x70000000))))
  | .muleCp a b d s g => BitVec.ofNat 32 (place a 21 (place b 18 (place d 7 (place s 6 (place g 0 0x78000000)))))
  | .muleTagw a b => BitVec.ofNat 32 (place a 21 (place b 18 0x80000000))
  | .muleFwait a o f => BitVec.ofNat 32 (place a 21 (place o 5 (place f 0 0x88000000)))
  | .muleFset a o f => BitVec.ofNat 32 (place a 21 (place o 5 (place f 0 0x90000000)))
  | .muleFence o k => BitVec.ofNat 32 (place o 2 (place k 0 0x98000000))
  | .muleLd d a i => BitVec.ofNat 32 (place d 24 (place a 21 (place i 0 0xa0000000)))
  | .muleSt a b i => BitVec.ofNat 32 (place a 21 (place b 18 (place i 0 0xa8000000)))
  | .muleMfsr d n => BitVec.ofNat 32 (place d 24 (place n 0 0xb0000000))
  | .muleMtsr a n => BitVec.ofNat 32 (place a 21 (place n 0 0xb8000000))
  | .nest .. => 0
  | .fmtld .. => 0
  | .cstld .. => 0
  | .copy .. => 0
  | .copyr .. => 0
  | .tmove .. => 0
  | .coll .. => 0
  | .join .. => 0
  | .rstore .. => 0
  | .spred .. => 0
  | .dispx .. => 0
  | .abort .. => 0
  | .accreg .. => 0
  | .accfree .. => 0
  | .xbreg .. => 0
  | .mrun .. => 0
  | .mload .. => 0
  | .inputFifoAppend .. => 0
  | .outputFifoPop .. => 0
  | .mxgo .. => 0
  | .mlgo .. => 0
  | .fstatWrite .. => 0
  | .pshareWrite .. => 0
  | .paceWrite .. => 0
  | .preempt .. => 0
  | .endtask .. => 0
  | .registerWrite .. => 0
  | .ringRegisterWrite .. => 0
  | .secondStageEntryWrite .. => 0
  | .packetConsume .. => 0
  | .operatorChain .. => 0
  | .accountOpen .. => 0
  | .accountCredit .. => 0
  | .accountWithdraw .. => 0
  | .accountFreeze .. => 0
  | .accountThaw .. => 0
  | .accountSetlow .. => 0
  | .accountClose .. => 0
  | .accountRead .. => 0
  | .prefixExport .. => 0
  | .prefixImport .. => 0
  | .noOpPacket .. => 0
  | .pageInvalidation .. => 0
  | .attestationRequest .. => 0
  | .recordExpansion .. => 0
  | .functionLevelReset .. => 0
  | .powerOn .. => 0
  | .hostWrite .. => 0
  | .hostRead .. => 0
  | .pcieCompletion .. => 0
  | .pcieCompletionTimeout .. => 0
  | .pageWalk .. => 0
  | .migrationStoreRetry .. => 0
  | .invalidationComplete .. => 0
  | .dataAccessPerform .. => 0
  | .slotWriteApply .. => 0
  | .expiryMark .. => 0
  | .codeRegionCrossing .. => 0
  | .messageQueueAppend .. => 0
  | .mqAcknowledgement .. => 0
  | .resumeNotice .. => 0
  | .mqPollResend .. => 0
  | .ringClaimGrant .. => 0
  | .accumulateWrite .. => 0
  | .waitaPoll .. => 0
  | .tickBoundary .. => 0
  | .leaseExpiry .. => 0
  | .hubDebit .. => 0
  | .rentDebitGrant .. => 0
  | .deferredDebitRefusal .. => 0
  | .meterRefusal .. => 0
  | .scrubComplete .. => 0
  | .tokenSignalApply .. => 0
  | .sequencerUnblock .. => 0
  | .lossOfDecoupling .. => 0
  | .commandDequeue .. => 0
  | .commandCompletion .. => 0
  | .matrixKstep .. => 0
  | .hadamardPrepass .. => 0
  | .drainRowWrite .. => 0
  | .copyBeat .. => 0
  | .ballastKstep .. => 0
  | .crossDieWriteApply .. => 0
  | .appliedVectorUpdate .. => 0
  | .remoteFlagOperation .. => 0
  | .oxVectorExamine .. => 0
  | .launchSelection .. => 0
  | .taskStart .. => 0
  | .imageStore .. => 0
  | .taskRetirement .. => 0
  | .launchCompletion .. => 0
  | .preemptionRequest .. => 0
  | .taskSaveComplete .. => 0
  | .taskRestore .. => 0
  | .trapEntry .. => 0
  | .deferredFault .. => 0
  | .firmwareContextFault .. => 0
  | .watchdog .. => 0
  | .joinArrival .. => 0
  | .ready .. => 0
  | .windowAbort .. => 0
  | .denseContribution .. => 0
  | .ganderInputWord .. => 0
  | .ganderBlockEmit .. => 0
  | .windowResultWrite .. => 0
  | .windowCompletion .. => 0
  | .dispatchRowArrival .. => 0
  | .linkFailure .. => 0
  | .controlIntervalBoundary .. => 0
  | .clockRelock => 0
  | .collectiveSend .. => 0
  | .linkTrained .. => 0

/-- The bits of an instruction's word that its row of the opcode table leaves to operands. -/
def operandBits : Instr → Nat
  | .fenceX .. | .exit .. | .exitAbandon .. | .vhalt .. | .vfenceX .. | .anop .. | .ahalt .. | .afenceX .. | .muleNop ..
  | .muleHalt .. | .muleMxw .. => 0
  | .sqstop .. | .vsetacc .. => 2
  | .muleAgrun .. => 3
  | .tsig .. | .twait .. | .vrot .. | .vstg .. | .vtsig .. | .vtwait .. | .atsig .. | .atwait .. => 4
  | .tagclr .. | .fenceRel .. | .fenceAcq .. | .fenceFull .. | .fcall .. | .vfenceRel .. | .vfenceAcq ..
  | .vfenceFull .. | .afenceRel .. | .afenceAcq .. | .afenceFull .. => 5
  | .muleAgind .. | .muleTagw .. => 6
  | .sqstart .. | .sqbase .. | .sqstat .. | .twaitnb .. | .muleFence .. => 7
  | .arprod .. | .arpub .. | .arcons .. | .arrel .. | .muleMx .. => 8
  | .pand .. | .por .. | .pxor .. | .pandn .. | .muleAdd .. | .muleAgdim .. => 9
  | .clz .. | .popc .. | .jr .. | .fread .. | .tagwany .. | .tagwall .. | .tagffr .. | .vacate .. | .lstat .. | .eret ..
  | .mand .. | .mor .. | .mxor .. | .mandn .. | .muleJmp .. | .muleEx .. => 10
  | .sadd .. | .aadd .. | .asub .. => 12
  | .ceq .. | .cne .. | .clt .. | .cge .. | .cltn .. | .cgen .. | .mulePost .. | .muleLoop .. | .muleBnz ..
  | .muleFwait .. | .muleFset .. => 13
  | .vbcast .. | .aslli .. | .muleCp .. => 14
  | .add .. | .sub .. | .and .. | .or .. | .xor .. | .andn .. | .sll .. | .srl .. | .sra .. | .mul .. | .mulh ..
  | .mulhn .. | .min .. | .max .. | .minn .. | .maxn .. | .fset .. | .fadd .. | .rgprod .. | .rgpub .. | .rgcons ..
  | .rgrel .. | .barinit .. | .barinitf .. | .rent .. | .renew .. | .prepay .. | .sublet .. | .adopt .. | .pinval ..
  | .muleMfsr .. | .muleMtsr .. => 15
  | .slli .. | .srli .. | .srai .. | .xpfx .. | .vjmp .. | .ajmp .. => 16
  | .vmfsr .. | .vmtsr .. | .amfsr .. => 17
  | .dset .. | .dget .. | .vmov .. | .vlane .. => 18
  | .vrd .. | .vwr .. | .vexp2 .. | .vrcp .. | .vrsq .. | .vrsum .. | .vrmax .. | .vrmin .. => 19
  | .fawait .. | .fradd .. | .fmcast .. | .baradd .. | .barcast .. | .waita .. | .waitanb .. | .vsnap .. | .vsetwb ..
  | .smovi .. | .smoviHi .. | .vloop .. | .vbnz .. | .abnz .. | .aloop .. => 20
  | .loop .. | .mfsr .. | .mtsr .. | .dispMx .. | .dispCp .. | .dispCl .. | .dispMl .. | .amtsr .. | .muleSeti .. => 21
  | .pref .. | .aseth .. => 22
  | .atomAdd .. | .atomSwap .. | .atomCas .. | .atomAnd .. | .atomOr .. | .atomXor .. | .atomMin .. | .atomMax .. => 23
  | .ceqi .. | .clti .. | .cltni .. | .vsel .. | .vpack .. | .vunpk .. | .saddi .. | .muleAddi .. | .muleLd ..
  | .muleSt .. => 24
  | .vaddI .. | .vaddSat .. | .vsubI .. | .vsubSat .. | .vmulI .. | .vmulSat .. | .vminI .. | .vmaxI .. | .vand ..
  | .vor .. | .vxor .. | .vshl .. | .vshr .. | .vsra .. | .vceqI .. | .vcltI .. => 25
  | .addi .. | .andi .. | .ori .. | .xori .. | .ld .. | .ldn .. | .st .. | .br .. | .call .. | .vminF .. | .vmaxF ..
  | .vcltF .. | .vceqF .. | .ldq .. | .stq .. | .ald .. | .aaddi .. | .aandi .. => 26
  | .vcvt .. => 27
  | .vaddF .. | .vsubF .. | .vmulF .. | .vfma .. => 28
  | _ => 32

/-- The better of two readings of a word: the one whose row leaves fewer bits to operands, or the first. -/
def moreFixed (a b : Option (Space × Instr)) : Option (Space × Instr) :=
  match a, b with
  | some x, some y => if operandBits y.2 < operandBits x.2 then b else a
  | none, y => y
  | x, none => x

/-- The reading of a word in one space. -/
def readIn (sp : Space) (w : Word) : Option (Space × Instr) :=
  match decodeIn sp w with
  | .ok i => some (sp, i)
  | .error _ => none

/-- The instruction read from a word alone: a word does not name its space (R221), so of the spaces that read it the one whose row
fixes the most bits is taken, and among equals the first of Mule, access, vector, control (assumption 6). -/
def decodeAny (w : Word) : Option (Space × Instr) :=
  moreFixed (moreFixed (moreFixed (readIn .mule w) (readIn .access w)) (readIn .vector w)) (readIn .control w)

/-- The instruction of a word numbered as the opcode table numbers bits: bit 0 is the least significant bit of
the first byte (R9, R221). -/
def decodeTableWord (nbits w : Nat) : Option Instr :=
  if nbits = 0 then none else (decodeAny (BitVec.ofNat 32 w)).map (·.2)

end Sys2Proof
end

