-- ==== Sys2Proof/Config.lean ====
section
/-! DEFINITION. What the manual leaves to an implementation or leaves open: free values (constants with no body),
the cryptographic functions that the manual names and other standards define, and the script entry that says
which agent of the module moves next. -/

namespace Sys2Proof

/-- One turn of the module: the arithmetic clocks and reference clocks that pass before it, the agent that
moves, and what it does: `none` issues the agent's next bundle, micro-order or word; `some event` is a module
event. `errors` are the 8 B units in which an uncorrectable error shows in this turn, `corrected` the cores that
correct one, and `regError` which of the registers and queue entries that the agent's words read shows one, by its place among them; with a command's dequeue it
is the command's own queue entry (R201). `acks` are the numbers of
the peer-bound operations whose homes acknowledge them in this turn (R124), and `specs` the cores and addresses of accesses that the
hardware makes ahead of the program, of its control stream (`true`) or of its load sequencer's data (R30). `measured` is what the power
controller reads, the matrix-rail current first, where a control interval has ended (R363, R367). `hostErr` says that a fetch of the
turn from host memory comes back with an error status (`true`) or not at all (R29). `insert` is a vector micro-order that the firmware context
of the turn's core inserts into its compute stream, with the row of the transfer buffer that takes its result (R156). `dac` counts only while
the arithmetic clock runs and `drc` only while it relocks, since otherwise the point ties the one to the other (R363). Which agent moves next,
and when these happen, is open (R88, R110): see assumptions 1, 75, 88 to 91. -/
structure Turn where
  dac : Nat := 0
  drc : Nat := 0
  core : Nat := 0
  agent : Agent := .control
  event : Option Instr := none
  errors : List Nat := []
  corrected : List Nat := []
  regError : Option Nat := none
  acks : List Nat := []
  specs : List (Nat × Bool × DWord) := []
  hostErr : Option Bool := none
  insert : Option (Word × Nat) := none
  measured : Nat × Reading := (0, {})
  deriving DecidableEq, Repr

namespace Config

/-- Free value: the turn that follows when the state's script is empty (assumption 1). -/
opaque drcOf : Nat → Nat

/-- Free value: the core that moves when the script is empty (assumption 1). -/
opaque coreOf : Nat → Nat

/-- Free value: which agent of the core moves when the script is empty (assumption 1). -/
opaque agentOf : Nat → Fin 6

/-- Free value: the 8 B units in which an uncorrectable error shows when the script is empty (R201, assumption 75). -/
opaque errorsOf : Nat → List Nat

/-- Free value: the cores that correct an error when the script is empty (R201, assumption 75). -/
opaque correctedOf : Nat → List Nat

/-- Free value: the register or queue entry in which an uncorrectable error shows when the script is empty (R201, assumption 75). -/
opaque regErrorOf : Nat → Option Nat

/-- Free value: a fresh value for each number, for results the manual does not state (assumption 2). -/
opaque freeValue : Nat → VReg

/-- Free value: the peer-bound operations that are acknowledged when the script is empty (R124, assumption 88). -/
opaque acksOf : Nat → List Nat

/-- Free value: the accesses made ahead of the program when the script is empty (R30, assumption 89). -/
opaque specsOf : Nat → List (Nat × Bool × DWord)

/-- Free value: how a fetch from host memory fails when the script is empty (R29, assumption 91). -/
opaque hostErrOf : Nat → Option Bool

/-- Free value: what the power controller reads at the end of a control interval when the script is empty (R363, R367, assumption 36). -/
opaque measuredOf : Nat → Nat × Reading

/-- Free value: the micro-order that firmware inserts when the script is empty (R156, assumption 90). -/
opaque insertOf : Nat → Option (Word × Nat)

/-- Free value: what a 256 B data unit of HBM, by its number, gives under another key than the one that it was written under, as the counter
of free values stands (R45, assumption 76). -/
opaque deciphered : Nat → Nat → VReg

/-- Free value: whether a module or switch, by its fabric id, lies on the way to another (R206, assumption 15). -/
opaque leadsOn : BitVec 16 → BitVec 16 → Bool

/-- SHA-384 (R354, R358): fixed by its own standard, not by the manual (assumption 7). -/
opaque sha384 : List Byte → BitVec 384

/-- The ECDSA P-384 signature with SHA-384 under the group key (R354, assumption 7). -/
opaque groupSign : List Byte → BitVec 768

/-- Whether a signature verifies under the group key (R355, assumption 7). -/
opaque groupVerify : List Byte → BitVec 768 → Bool

/-- The ECDSA P-384 signature under the identity key (R357, R359, assumption 7). -/
opaque identitySign : List Byte → BitVec 768

/-- The vendor certificate of the identity key (R357), as its bytes (assumption 7). -/
opaque vendorCert : List Byte

/-- The digests of Rinty's images and of the configuration blob (R359, assumption 7). -/
opaque imageDigest : Nat → BitVec 384

/-- The revision of the part (R362, assumption 7). -/
opaque revision : BitVec 16

end Config

end Sys2Proof
end

