-- ==== Sys2Proof/Machine/State.lean ====
section
/-! DEFINITION. The state of one KM4096 module as plain data, the reasons a step can stop, and the state after
reset. A field's rule of the manual stands in its comment. -/

namespace Sys2Proof.Machine

/-- Why the model stops with a fault. -/
inductive Fault where
  /-- Raised by nothing: an event that names a die, core, rent unit, ring or function the module does not have (R2, R57,
  R342) does not happen (assumption 1). Safe: no meaning stops the machine. -/
  | noSuchUnit
  deriving DecidableEq, Repr

/-- Why the model gives no meaning. -/
inductive Refusal where
  /-- Raised by an arm of `exec` for an instruction not yet modelled. Safe: nothing is claimed of it. -/
  | notModelled (mnemonic : String)
  deriving DecidableEq, Repr

/-- A fault record (R185). -/
structure FaultRec where
  tick : BitVec 48 := 0
  addr : DWord := 0
  step : DWord := 0
  word : BitVec 2 := 0
  seg : BitVec 6 := 0
  opf : BitVec 8 := 0
  kind : BitVec 8 := 0
  cls : BitVec 4 := 0
  seq : BitVec 4 := 0
  die : BitVec 3 := 0
  cl : BitVec 5 := 0
  core : BitVec 4 := 0
  defer : Bool := false
  multi : Bool := false
  dc : Bool := false
  img : Bool := false
  lid : Word := 0
  deriving DecidableEq, Repr

/-- The target of a result: a register, row, queue entry, token or system register (R192). -/
inductive Target where
  | none
  | x (n : Nat)
  | p (n : Nat)
  | d (n : Nat)
  | aLoad (n : Nat)
  | aStore (n : Nat)
  | s (n : Nat)
  | m (n : Nat)
  | v (n : Nat)
  | row (n : Nat)
  | qent (q entry : Nat)
  | token (n : Nat)
  | g (n : Nat)
  | fwx (n : Nat)
  | fwp (n : Nat)
  | aga
  | sys (n : Nat)
  | flagSet (n : Nat)
  | flagAdd (n : Nat)
  | cst (n half : Nat)
  | mstore (n : Nat)
  | beat (element : Nat)
  deriving DecidableEq, Repr

/-- A result in flight, or captured in a snapshot buffer (R151, R191, R192): where it lands, its value, the
lanes it writes with their width in bytes, the FSTAT bits it sets, the cycles that remain, for a token signal
the accesses that must have performed first and, for a main-file row, the write's number among the accesses (R84). -/
structure InFlight where
  target : Target
  data : VReg
  mask : Mask := BitVec.allOnes 128
  lane : Nat := 0
  fst : BitVec 5 := 0
  left : Nat := 1
  after : List Nat := []
  id : Nat := 0
  deriving DecidableEq, Repr

/-- Why an agent is BLOCKED (R86, R90 to R100, R148, R320 to R327): operations that must perform first, registers that are still
to be written, a token at 0 or at 255, a signal that a full token holds, a queue to pop or push, an output or input FIFO, tags of which
one or all must be set, a flag to reach a value, a claim or request that its home has not granted, the limits of a message queue's writer,
a claim of the store sequencer's 8 pending stores, its far loads (R199), or the commands or nests of Mule's program. -/
inductive Cause where
  | none
  | ops (ids : List Nat)
  | registers (l : List Target)
  | tokenEmpty (k : Nat)
  | tokenFull (k : Nat)
  | signal
  | pop (q : Nat)
  | push (q : Nat)
  | output (e : Nat)
  | input (e : Nat)
  | tags (mask : DWord) (all : Bool)
  | flag (f : Nat) (value : Word)
  | grant
  | message (slot : Nat)
  | pendingStores
  | farLoads
  | commands
  | nests
  deriving DecidableEq, Repr

/-- The states of a sequencer (R148). -/
inductive SeqSt where
  | idle
  | run
  | blocked
  | halted
  | faulted
  deriving DecidableEq, Repr

/-- What every sequencer has: state, step counter, engine-program base, a pending stop, results in flight, its
snapshot buffer with the entries that firmware has written as they stand (R146, R148, R191, R341), the LM value of the segment it last
issued from (R150), why it is BLOCKED, with what every word of a blocked bundle waits for (R149), and the ac in which it was started (R264). -/
structure Seq where
  st : SeqSt := .idle
  cause : Cause := .none
  more : List Cause := []
  started : Option Nat := none
  step : DWord := 0
  epbase : DWord := 0
  stopPending : Bool := false
  pipe : List InFlight := []
  snap : List InFlight := []
  snapRaw : SMap (BitVec 2240) := []
  lm : Option Bool := none
  deriving DecidableEq, Repr

/-- An entry of a data queue (R92, R94); its push releases the accesses of `after`. -/
structure QEntry where
  id : Nat
  data : VReg := 0
  mask : Mask := 0
  ready : Bool := false
  blocks : List Nat := []
  va : Option DWord := none
  skew : Bool := false
  marked : Bool := false
  step : DWord := 0
  after : List Nat := []
  deriving DecidableEq, Repr

/-- A token: its count, how many waits have subtracted from it, and its parties (R90, R246). -/
structure Token where
  count : BitVec 8 := 0
  taken : Nat := 0
  used : Bool := false
  prod : BitVec 2 := 0
  cons : BitVec 2 := 0
  deriving DecidableEq, Repr

/-- A token signal whose cycle has ended (R90): the token and the accesses that must have performed first. -/
structure Signal where
  token : Nat
  after : List Nat := []
  deriving DecidableEq, Repr

/-- Mule's address generator (R318, R319). -/
structure AddrGen where
  base : DWord := 0
  count : SMap Nat := []
  stride : SMap Word := []
  ind : Option Nat := none
  table : Word := 0
  counter : SMap Nat := []
  exhausted : Bool := false
  deriving DecidableEq, Repr

/-- Mule (R316, R317). -/
structure Mule where
  st : SeqSt := .halted
  cause : Cause := .none
  step : Nat := 0
  store : SMap Word := []
  g : SMap Word := []
  mslot : Nat := 0
  gen : AddrGen := {}
  aga : DWord := 0
  pipe : List InFlight := []
  deriving DecidableEq, Repr

/-- How a command reached its queue (R292, R314). -/
inductive Path where
  | disp
  | fifo
  | go
  | mule
  deriving DecidableEq, Repr

/-- A command (R97, R227, R238): its words, and the records, the shadow bank and the row scales by format-table
index (R142) captured at its push. `woken` says that an update has met its flag await (R324). -/
structure Cmd where
  id : Nat := 0
  words : List Word := []
  recA : DReg := 0
  recB : DReg := 0
  waitTok : Option Nat := none
  sigTok : Option Nat := none
  path : Path := .disp
  pusher : Agent := .control
  after : List Nat := []
  nt : SMap Word := []
  fmt : SMap DWord := []
  scales : SMap VReg := []
  woken : Bool := false
  deriving DecidableEq, Repr

/-- The progress of a nest (R296, R298, R300). -/
structure NestSt where
  done : Nat := 0
  touched : List Nat := []
  rotated : Bool := false
  drainSlot : Nat := 0
  drainRow : Nat := 0
  rows : SMap VReg := []
  matrix : SMap (BitVec 4096) := []
  deriving DecidableEq, Repr

/-- The progress of a copy or tensor move (R313, R314): the first window point and the number of the beat in hand, the
beats to skip and, while its sources are read, the point after it, its destination address, and its elements: the offset
from that address and the value, with the element width of the source. -/
structure CopySt where
  point : Nat := 0
  beat : Nat := 0
  skip : Nat := 0
  forming : Bool := false
  next : Nat := 0
  va : DWord := 0
  width : Nat := 1
  elems : List (Nat × Nat) := []
  deriving DecidableEq, Repr

/-- The progress of a collective command (R331 to R337): the beats, words or peer steps sent, the registrant whose join it waits for
(R208), the window that it contributes to (by id and tenant tag), the bytes that peers have sent it, the accumulate entries that it has
registered (R219), and, for a command that reads a layout, the beat in hand as in
`CopySt`. -/
structure CollSt where
  sent : Nat := 0
  point : Nat := 0
  waiting : Option Nat := none
  into : Option (Nat × Nat) := none
  arrived : Nat := 0
  entries : Nat := 0
  forming : Bool := false
  next : Nat := 0
  va : DWord := 0
  width : Nat := 1
  elems : List (Nat × Nat) := []
  deriving DecidableEq, Repr

/-- What a running command is doing; `io` waits for reads of its own; `ended` holds its status and value until its completion (R98). -/
inductive RunSt where
  | nest (n : NestSt)
  | copy (c : CopySt)
  | coll (c : CollSt)
  | io
  | mule
  | ended (status : BitVec 8) (value : BitVec 42)
  deriving DecidableEq, Repr

/-- A dequeued command with its number among those its engine dequeued (R186), whether it writes its tag at
completion (R53), whether it has done the tag step of its completion and whether it has done all but place its element (R98), the leases it
holds, each by rent unit and handle (R77), and how far a nest had come that has ended and owns its slot until it retires (R37). -/
structure Running where
  cmd : Cmd
  num : Nat := 0
  st : RunSt
  actions : Bool := true
  tagged : Bool := false
  acted : Bool := false
  holds : List (Nat × Nat) := []
  nested : Option NestSt := none
  deriving DecidableEq, Repr

/-- One engine of a core: command queue, running commands, output FIFO, assembly buffers by agent, pacing gap
and the ac of its last dequeue (R97 to R100, R370), the ac until which a ballast k-step holds it (R369), the commands it has dequeued
(R186), the elements that its output FIFO has given (R100), and of the copy engine (0) and the tensor-move unit (1) the transfer that took
the last turn and the ac of the last beat's write (R315). -/
structure EngineSt where
  queue : List Cmd := []
  running : List Running := []
  out : List DWord := []
  popped : Nat := 0
  beatTurn : SMap Nat := []
  beatAc : SMap Nat := []
  asm : SMap (List Word) := []
  gap : BitVec 16 := 0
  lastDequeue : Option Nat := none
  busyTill : Nat := 0
  count : Nat := 0
  deriving DecidableEq, Repr

/-- The rent operations (R66 to R73), with their operands. -/
inductive RentOp where
  | rent (tier ngran n slot : Nat) (sync pg : Bool) (stack : Nat) (table : Nat)
  | renew (n : Nat)
  | prepay (q u : Nat)
  | sublet (offset length grantee n : Nat) (gr gw : Bool)
  | adopt (handle slot : Nat)
  | vacate (slot : Nat) (marked : Bool)
  | lstat
  deriving DecidableEq, Repr

/-- What an access in transit does at its home. A wait on an address has what it compares with, whether it may wait, and whether it is one of
those that read the word again and again (R327). -/
inductive AccKind where
  | load (signed : Bool)
  | prefetch
  | store
  | atomic (op : Nat) (cmp : DWord)
  | message
  | accumulate (fmt : Nat) (key : DWord)
  | waita (cmp : DWord) (park polls : Bool)
  | ring (op : Nat) (count : Word)
  | rent (op : RentOp)
  | fetch
  deriving DecidableEq, Repr

/-- What the load and store sequencers go back to at a fault (R199): a0 to a15, the step, the results in flight and, for the store
sequencer, the `STQ`s that it had issued. -/
structure Ckpt where
  regs : SMap DWord
  step : DWord
  pipe : List InFlight
  stores : Nat := 0
  deriving DecidableEq, Repr

/-- An access on its way to its home (R84 to R87, R107, R122): who issued it and where, the lease it carries
(R14), its virtual address and the byte offsets it touches, the places of those bytes once they are known, whether it waits for a migration and may look again (R26), the bytes
it stores, where its result goes, the operations that must have performed before it, a fault met on the way, the
command it belongs to and, when it crosses dies, its stamp. `lag` counts the sequencer cycles that must still end before it may perform
(R154), `frees` the operations that its slot write releases (R18), `stage` is the second stage as it stood at its lookup (R28), and `first`
says that it was held at a fault and performs before its sequencer issues again (R199). -/
structure Access where
  id : Nat := 0
  core : Nat := 0
  agent : Agent := .control
  kind : AccKind := .store
  va : DWord := 0
  slot : Nat := 0
  unit : Nat := 0
  lease : Nat := 0
  lgen : BitVec 8 := 0
  acct : Nat := 0
  vf : Nat := 0
  tier : Nat := 0
  pageable : Bool := false
  table : Nat := 0
  walk : Bool := false
  migWait : Bool := false
  migGo : Bool := false
  offs : List Nat := []
  places : List Nat := []
  data : List Byte := []
  dest : Target := .none
  acq : BitVec 5 := 0
  sc : Bool := false
  after : List Nat := []
  stamp : Option (List Nat) := none
  held : Bool := false
  collective : Bool := false
  exec : Bool := false
  image : Bool := false
  cd : Bool := false
  cmd : Nat := 0
  bad : Option FaultRec := none
  step : DWord := 0
  word : BitVec 2 := 0
  opf : BitVec 8 := 0
  ckpt : Option Ckpt := none
  lid : Word := 0
  lag : Nat := 0
  frees : List Nat := []
  stage : BitVec 128 := 0
  first : Bool := false
  deriving DecidableEq, Repr

/-- The writer's state for one message-queue slot (R48). -/
structure MqWriter where
  unacked : Nat := 0
  stop : Bool := false
  kept : List Access := []
  pollAt : Option Nat := none
  deriving DecidableEq, Repr

/-- A row of the operand buffer (R272): row number, value, micro-orders of its window that remain. -/
structure HeldRow where
  row : Nat
  value : VReg
  left : Nat
  deriving DecidableEq, Repr

/-- What names a task: its launch, gang, crew and vector (R161, R165, R168, R169). -/
structure TaskId where
  launch : Nat := 0
  lid : Word := 0
  vf : Nat := 0
  acct : Nat := 0
  nslot : Nat := 0
  unit : Nat := 0
  gangRank : Nat := 0
  gangCount : Nat := 1
  crewRank : Nat := 0
  crewCount : Nat := 1
  vector : List Nat := []
  stab : BitVec 16 := 1
  stimg : Nat := 0
  entry : DWord := 0
  synct : Nat := 0
  deriving DecidableEq, Repr

/-- The registers of the sequencers (R146, R147, R272). -/
structure Regs where
  x : SMap DWord := []
  p : SMap Bool := []
  d : SMap DReg := []
  aLoad : SMap DWord := []
  aStore : SMap DWord := []
  sreg : SMap Word := []
  m : SMap Mask := []
  v : SMap VReg := []
  vwb : Nat := 0
  vrb : BitVec 4 := 0
  mode : BitVec 2 := 0
  held : List HeldRow := []
  deriving DecidableEq, Repr

/-- A flag await that holds an agent BLOCKED (R324): its word, flag and value, and whether an update has met it. -/
structure FlagWait where
  agent : Agent
  word : BitVec 2
  flag : Nat
  value : Word
  woken : Bool := false
  deriving DecidableEq, Repr

/-- The state of the core that a task owns beside its registers (R146, R263, R302), the flag awaits that hold an
agent BLOCKED (R324), and the agents that have made a release or full fence with the bit H (R125). `retired` has the ac of the last retirement of a tag, and the
bits that retirements set in it (R325). -/
structure Shared where
  token : SMap Token := []
  signals : List Signal := []
  flag : SMap Word := []
  queue : SMap (List QEntry) := []
  tags : DWord := 0
  retired : Nat × DWord := (0, 0)
  tagrec : SMap DWord := []
  fstat : BitVec 5 := 0
  decloss : Word := 0
  specmiss : DWord := 0
  nt : SMap Word := []
  fmt : SMap DWord := []
  matrix : SMap (BitVec 4096) := []
  mq : SMap MqWriter := []
  awaiting : List FlagWait := []
  hostFence : List Agent := []
  deriving DecidableEq, Repr

/-- A primary row Lamb holds (R173, R176): the core and nest it came from, the row number and its bytes, the
vector of its task, the element next to write and the write within it. -/
structure ImageRow where
  core : Nat
  launch : Nat
  vector : List Nat
  row : Nat
  data : VReg
  fmt : Nat
  num : Nat
  elem : Nat := 1
  write : Nat := 0
  held : Bool := false
  deriving DecidableEq, Repr

/-- A granted request of a blocked bundle (R320): the word it belongs to and the value it returns. -/
structure Granted where
  core : Nat
  step : DWord := 0
  agent : Agent
  word : BitVec 2
  value : DWord
  deriving DecidableEq, Repr

/-- The slots that the firmware context has taken from a task's sequencers (R157), by slot code: the ac at which the window at hand begins
(while the task is saved, the acs of the window that had passed), the slots taken in that window, those taken in a row, and the ac of the
last one. -/
structure Share where
  window : Nat := 0
  used : SMap Nat := []
  run : SMap Nat := []
  last : SMap Nat := []
  deriving DecidableEq, Repr

/-- Everything that is saved when a task is pre-empted and restored when it resumes (R195, R198); while it is saved, also its
pending stores (R199), its grants (R320), the image rows held at a fault (R178) and its save area (R197). `stqs`
counts the `STQ`s that the store sequencer has issued on its way to its step, and `stqsDone` those whose entries it has popped: after a
fault it passes those in between again without popping (R199). `ends` is the record with which the task ends once it is on a core again (R344,
assumption 64). -/
structure TaskCtx where
  id : TaskId := {}
  regs : Regs := {}
  shared : Shared := {}
  ctl : Seq := { st := .run }
  load : Seq := {}
  compute : Seq := {}
  store : Seq := {}
  mule : Mule := {}
  mx : EngineSt := {}
  cp : EngineSt := {}
  cl : EngineSt := {}
  ml : EngineSt := {}
  suspended : Bool := false
  tstep : DWord := 0
  pending : SMap FaultRec := []
  heldFaults : List FaultRec := []
  waitPage : Option (Nat × Nat) := none
  images : List ImageRow := []
  area : Nat := 0
  heldStores : List Access := []
  granted : List Granted := []
  stqs : Nat := 0
  stqsDone : Nat := 0
  share : Share := {}
  ends : Option FaultRec := none
  deriving DecidableEq, Repr

/-- The firmware context and the registers it alone reaches (R155, R190, R341). -/
structure Firmware where
  x : SMap DWord := []
  p : SMap Bool := []
  pc : DWord := 0
  buffer : SMap VReg := []
  pipe : List InFlight := []
  tsel : BitVec 4 := 0
  snapSeq : BitVec 2 := 0
  snapEntry : BitVec 6 := 0
  fwrec : FaultRec := {}
  fwv : Bool := false
  fwvec : DWord := 0
  fwret : DWord := 0
  halted : Bool := false
  deriving DecidableEq, Repr

/-- A translation-buffer entry (R23). -/
structure TlbEntry where
  slot : Nat
  lgen : BitVec 8
  page : Nat
  leaf : DWord
  pte : Nat
  deriving DecidableEq, Repr

/-- The states of a task on a core (R161); `free` holds no task. -/
inductive Residency where
  | free
  | placing
  | resident
  | retiring (abandon : Bool)
  | stopping (cause : Nat)
  | restoring
  deriving DecidableEq, Repr

/-- One core (R2, R13, R23, R155, R157, R161, R201, R202). By slot code (`slotCode`), `issuedAt` keeps the ac in which an issue slot was
last taken (R145, R154, R156) and `refill` the cycles that a taken transfer still costs its agent (R154). `badRegs` are the registers and
queue entries that an uncorrectable error has poisoned (R201). -/
structure Core where
  residency : Residency := .free
  task : TaskCtx := {}
  table : SMap (BitVec 256) := []
  expired : SMap Bool := []
  tlb : List TlbEntry := []
  fw : Firmware := {}
  pshare : Word := 0x0410
  issuedAt : SMap Nat := []
  refill : SMap Nat := []
  badRegs : List Target := []
  cecnt : Word := 0
  idleSince : Nat := 0
  preempt : Option Nat := none
  faultStatus : Option FaultRec := none
  status : Nat := 0
  reported : Bool := false
  deriving DecidableEq, Repr

/-- The states of a lease (R62, R74). -/
inductive LeaseSt where
  | free
  | active
  | deferred
  | ended
  | scrub
  deriving DecidableEq, Repr

/-- A lease record (R62). `base` is the first byte's place in the flat memory (`Ops`), or the level-1 table's
for a pageable lease. -/
structure Lease where
  st : LeaseSt := .free
  esc : Nat := 0
  paid : Nat := 0
  quant : Nat := 0
  ngran : Nat := 0
  base : Nat := 0
  acct : Nat := 0
  headl : Nat := 0
  lgen : BitVec 8 := 0
  tier : Nat := 0
  pg : Bool := false
  sync : Bool := false
  sub : Bool := false
  enote : Bool := false
  gr : Bool := false
  gw : Bool := false
  holds : Nat := 0
  freedAt : Nat := 0
  vf : Nat := 0
  cancelled : Bool := false
  deriving DecidableEq, Repr

/-- A rent unit (R57, R75): its records, the last boundary it processed and the tier-3 granules it must zero
before it issues them again (R81). -/
structure RentUnit where
  leases : SMap Lease := []
  ticked : Nat := 0
  unzeroed : List (Nat × Nat) := []
  deriving DecidableEq, Repr

/-- An account record (R59). -/
structure Account where
  allow : Nat := 0
  spent : Nat := 0
  vf : Nat := 0
  keyid : Nat := 0
  ast : Nat := 0
  nlease : Nat := 0
  lowm : Nat := 0
  ntask : Nat := 0
  deriving DecidableEq, Repr

/-- A fault that has returned from a home and waits for its agent's boundary (R188, R199). -/
structure Deferred where
  core : Nat
  agent : Agent
  info : FaultRec
  ckpt : Option Ckpt := none
  access : Nat := 0
  entry : Nat := 0
  deriving DecidableEq, Repr

/-- An agent parked at a home: an address waiter or a ring claim (R326, R327). -/
structure Waiter where
  access : Access
  poll : Option Nat := none
  deriving DecidableEq, Repr

/-- A debit sent to the hub and what depends on it (R60, R67, R75, R78, R82, R197). -/
inductive DebitFor where
  | op (access : Access) (handle base : Nat)
  | deferredTick (unit lease : Nat) (lgen : BitVec 8)
  | meter (core : Nat) (task : TaskId)
  | saveArea (launch unit rank : Nat)
  deriving DecidableEq, Repr

/-- A request at or on its way to the hub; `granted` is set once the hub has answered. -/
structure Debit where
  acct : Nat
  amount : Nat
  purpose : DebitFor
  granted : Option Bool := none
  deriving DecidableEq, Repr

/-- A remote flag operation on its way (R116, R118, R120): set or add, target by core or by rank. -/
structure RemoteFlag where
  id : Nat := 0
  source : Nat
  agent : Agent := .control
  launch : Nat
  target : Nat
  byRank : Option (Nat × Nat × Nat) := none
  peer : Option (BitVec 16) := none
  flag : Nat
  value : Word
  add : Bool
  after : List Nat := []
  stamp : Option (List Nat) := none
  deriving DecidableEq, Repr

/-- A pending slot write (R18): core, slot, new descriptor, the operation that waits for it and the operations that it releases. -/
structure SlotWrite where
  core : Nat
  slot : Nat
  desc : BitVec 256
  op : Nat
  after : List Nat := []
  deriving DecidableEq, Repr

/-- A rent operation that has performed and still waits to complete, with the results it returns: its slot write is being applied
(R18), or an operation that its completion releases has not performed (R128). -/
structure SlotOp where
  op : Nat
  access : Access
  value : DWord
  value2 : DWord := 0
  deriving DecidableEq, Repr

/-- An expiry mark on its way (R31), with the last tick by whose end it is applied. -/
structure Mark where
  core : Nat
  slot : Nat
  unit : Nat
  lease : Nat
  lgen : BitVec 8
  due : Nat := 0
  deriving DecidableEq, Repr

/-- A message acknowledgement, refusal or resume notice on its way to a writer, which is a task and its slot (R48), from the queue whose
descriptor lies at `queue`. -/
structure MqNotice where
  queue : Nat := 0
  core : Nat
  slot : Nat
  who : TaskId := {}
  free : Nat
  refused : Option Access := none
  poll : Bool := false
  deriving DecidableEq, Repr

/-- A writer listed for a resume notice (R48). -/
structure MqListed where
  queue : Nat
  core : Nat
  slot : Nat
  who : TaskId := {}
  deriving DecidableEq, Repr

/-- An accumulate-port entry (R54) with the keys it has recorded and the command that brought each (R211), the launch
that registered it, and, for a `COLL`'s own entry, its command and that it has no flag (R219). `port` numbers the cluster store (0 to 255) or
stack (256 to 263). -/
structure AccEntry where
  port : Nat
  index : Nat := 0
  flag : Nat := 0
  fcore : Nat := 0
  lgen : BitVec 8 := 0
  lease : Nat := 0
  unit : Nat := 0
  ready : Bool := false
  late : Bool := false
  op : Nat := 0
  tlen : Nat := 0
  tbase : Nat := 0
  count : Nat := 0
  expect : Nat := 0
  keys : List (DWord × Nat) := []
  launch : Nat := 0
  flagged : Bool := true
  cmd : Nat := 0
  deriving DecidableEq, Repr

/-- A page invalidation in progress (R24, R353): what it covers, the accesses it waits for and who is told. -/
structure Inval where
  fn : Nat
  lid : Word
  slot : Nat
  first : Nat
  length : Nat
  after : List Nat := []
  held : Bool := false
  packet : Option (Nat × Nat × Nat) := none
  reply : Option (Nat × Target) := none
  deriving DecidableEq, Repr

/-- A launch record (R165), its fields in the manual's order from the low end. -/
structure LaunchRec where
  entry : DWord := 0
  symw : DWord := 0
  rank : Nat := 0
  crew : Nat := 0
  gsize : Nat := 0
  nslot : Nat := 0
  acct : Nat := 0
  lid : Word := 0
  oslot : Nat := 0
  cdim : Nat := 0
  rdim : Nat := 0
  prio : Nat := 0
  order : Nat := 0
  die : Nat := 0
  coremask : BitVec 16 := 0
  obase : Nat := 0
  clmask : Word := 0
  ors : Nat := 0
  stimg : Nat := 0
  synct : Nat := 0
  ext : List Nat := []
  ots : List Int := []
  reservedZero : Bool := true
  deriving DecidableEq, Repr

/-- An element of a symmetry group (R172, R175): level l of its image is sgn l * t (perm l) + off l modulo the
extent of l. -/
structure SymElem where
  perm : List Nat
  neg : List Bool
  off : List Nat
  deriving DecidableEq, Repr

/-- A formed gang or crew (R168): the vectors and stabilisers of its members in rank order. -/
structure LaunchUnit where
  num : Nat := 0
  members : List (List Nat × BitVec 16) := []
  deriving DecidableEq, Repr

/-- A saved task (R118, R161, R163, R197): its context, the core it left and whether no task of the launch has been placed there
since, whether it held a segment of that core, and whether its save area's last debit was granted. -/
structure SavedTask where
  ctx : TaskCtx
  core : Nat
  onCore : Bool := true
  pinned : Bool
  debitOk : Bool := true
  deriving DecidableEq, Repr

/-- An admitted launch of a die (R166, R167, R179 to R183). -/
structure Launch where
  id : Nat
  fn : Nat
  lrec : LaunchRec
  elems : List SymElem := []
  chi : List Bool := []
  cls : Nat := 0
  pos : Nat := 0
  forming : List (List Nat × BitVec 16) := []
  formed : Option LaunchUnit := none
  nextUnit : Nat := 0
  exhausted : Bool := false
  skips : Nat := 0
  fits : Nat := 0
  live : Nat := 0
  unitSizes : SMap (List Nat) := []
  saved : List SavedTask := []
  faulted : Option FaultRec := none
  aborted : Bool := false
  refused : Bool := false
  chain : Nat × Nat × Nat := (0, 0, 0)
  deriving DecidableEq, Repr

/-- One compute die (R118, R122, R167, R180 to R182, R189, R202, R351). `oxLast` and `oxAc` are the launch and the ac of the vector that Ox
examined last (R167). -/
structure Die where
  launches : List Launch := []
  lamb : List ImageRow := []
  flagLost : Word := 0
  clock : List Nat := [0, 0, 0, 0, 0, 0, 0, 0, 0]
  applied : List Nat := [0, 0, 0, 0, 0, 0, 0, 0, 0]
  appliedMail : List (List Nat) := []
  log : List FaultRec := []
  logDropped : Nat := 0
  wdlim : Nat := 1073741824
  dlshare : SMap Nat := []
  served : SMap Nat := []
  lastServed : Nat := 255
  reservation : Option (Nat × List Nat) := none
  requests : List Nat := []
  irq : SMap DWord := []
  oxLast : Option Nat := none
  oxAc : Option Nat := none
  deriving DecidableEq, Repr

/-- The states of a reduction slot (R209). -/
inductive SlotSt where
  | free
  | joining
  | opened
  | aborted
  deriving DecidableEq, Repr

/-- One ingress port of a reduction slot: its weight, and for a sparse window the reader's position, the block whose body
it reads, the last header and index accepted, the key of the stream in hand and a header that waits (R206, R211, R213,
R216). -/
structure WinPort where
  port : Nat
  weight : Nat := 0
  left : Nat := 0
  dropping : Bool := false
  block : Nat := 0
  dense : Bool := false
  last : Option Nat := none
  lastIdx : Option Nat := none
  headers : Nat := 0
  trailer : Bool := false
  key : Option DWord := none
  skipping : Bool := false
  waiting : Option Nat := none
  deriving DecidableEq, Repr

/-- A block under merge (R214, R216): its number, whether it is dense, and each port's values by index. -/
structure MergeBlock where
  num : Nat
  dense : Bool := false
  forced : Bool := false
  values : SMap (SMap Word) := []
  deriving DecidableEq, Repr

/-- A reduction slot of the hub switch (R205 to R217): its lines under sum with their counts, the lines finished, the keys
recorded with their lines, and the blocks under merge. -/
structure WinSlot where
  wid : Nat
  tag : Nat
  wrec : BitVec 256
  st : SlotSt := .joining
  ports : List WinPort := []
  lines : SMap (List Nat × Nat) := []
  finished : List Nat := []
  keys : List (DWord × Nat) := []
  drops : Nat := 0
  blocks : List MergeBlock := []
  seqerr : Bool := false
  early : Bool := false
  ovf : Bool := false
  trunc : Bool := false
  outBlocks : Nat := 0
  trailerOut : Bool := false
  deriving DecidableEq, Repr

/-- A registrant of a window (R206, R217, R332): its number, the `JOIN` and the task that joined, its record, the status once fixed, and
what a result has written to it: the bytes of an unfinished 256 B, the words and blocks, and, of a result that comes from another switch,
the body words to come and whether the trailer has come. At the window's end it has the status and DROPS of its element, and the number of
the flag add that goes before it, and `dropped` is the DROPS of its module's slot, which is free before the window ends (R211). One whose join
came through a link of this root has that link, and nothing of the task. -/
structure Registrant where
  num : Nat
  wid : Nat
  tag : Nat
  core : Nat
  launch : Nat
  unit : Nat
  gang : Nat
  crew : Nat
  lid : Word
  vf : Nat
  wrec : BitVec 256
  ntf : Bool
  cmd : Nat
  status : Option Nat := none
  pend : List Byte := []
  words : Nat := 0
  blocks : Nat := 0
  trunc : Bool := false
  failed : Bool := false
  left : Nat := 0
  ended : Bool := false
  fin : Option (BitVec 8 × Nat) := none
  flagOp : Nat := 0
  link : Option Nat := none
  dropped : Nat := 0
  deriving DecidableEq, Repr

/-- The grant of the last free slot of the switch (R207): the rc in which the join came, the fabric id of the module that it comes from, its
window, its tenant tag, its port, and the registrant that waits for it. -/
structure SlotGrant where
  cycle : Nat
  origin : BitVec 16
  wid : Nat
  tag : Nat
  port : Nat
  num : Nat
  deriving DecidableEq, Repr

/-- Traffic of the hub switch: joins, aborts, dense lines and sparse words of this module's cores on their way to their
slot, results on their way to a registrant (R208, R210, R217), and what leaves through a link (R116, R206, R219, R220). An abort, a
dispatched row, a flag operation and an exchange's write that leave have numbers, and stay until they are acknowledged (R124, R209, R220,
R334). -/
inductive Flit where
  | join (port : Nat) (record : BitVec 256) (tag num : Nat) (outside : Bool)
  | abort (wid tag : Nat)
  | dense (wid tag port line : Nat) (key : DWord) (count : Nat) (data : VReg) (cmd : Nat)
  | word (wid tag port : Nat) (word : DWord) (key : DWord) (cmd : Nat)
  | result (wid tag num offset : Nat) (data : List Byte)
  | outJoin (link : Nat) (record : BitVec 256) (tag : Nat)
  | outReady (link wid tag : Nat)
  | outStatus (link wid tag status : Nat)
  | outAbort (id link wid tag : Nat)
  | outDense (link wid tag line count : Nat) (data : VReg)
  | outWord (link wid tag : Nat) (word : DWord)
  | outResult (link wid tag dbase offset : Nat) (data : List Byte)
  | outEnd (link wid tag drops : Nat) (lengths : List (BitVec 256 × Nat))
  | outRow (id cmd link : Nat) (dests : List (BitVec 16 × Nat)) (row : List Byte)
  | outFlag (id source : Nat) (agent : Agent) (link : Nat) (fid : BitVec 16) (lid : Word) (core flag : Nat) (value : Word)
  | outWrite (id cmd link : Nat) (fid : BitVec 16) (gpa : Nat) (key : DWord) (accumulate : Bool) (data : List Byte)
  deriving DecidableEq, Repr

/-- A packet that the front end has consumed and that has not completed (R347): its count and bits, whether it has started, SESSION
as it stood (R356), and the CODE, DETAIL and bytes 16 to 47 that its completion record will hold once its work is done. -/
structure Packet where
  count : Nat
  body : BitVec 2048
  started : Bool := false
  session : BitVec 512 := 0
  result : Option (Nat × Nat × Nat) := none
  deriving DecidableEq, Repr

/-- A running chain of operator records (R349, R350): the packet's record, the running launch record (address, bits, launch)
and whether it is the packet's own, the shadow bank (address, bits, admitted), the launches completed and the address of
a record that is still to be expanded. `ending` has the CODE and the bytes 16 to 47 with which the chain ends once its last record has been
signalled. -/
structure Chain where
  count : Nat
  packet : BitVec 2048
  active : Option (Nat × BitVec 2048 × Nat) := none
  first : Bool := true
  shadow : Option (Nat × BitVec 2048 × Bool) := none
  ops : Nat := 0
  pendingNext : Option Nat := none
  ending : Option (Nat × Nat) := none
  deriving DecidableEq, Repr

/-- One command ring of a function (R345, R347), with the loop counts of its front end (R350). -/
structure Ring where
  reg : DWord := 0
  head : Nat := 0
  packets : List Packet := []
  chains : List Chain := []
  loops : List (Nat × Nat) := []
  deriving DecidableEq, Repr

/-- The registers of one function (R28, R342, R343, R356, R365), with the words of its MSI-X table, the vectors that it has sent, the
request that stood when an interval boundary came that is still to be acted on, and whether a virtual function is enabled (R371). `pended`
are the pending bits of its vectors. -/
structure Function where
  sstage : BitVec 128 := 0
  staged : DWord := 0
  spbase : DWord := 0
  spsize : DWord := 0
  hpbase : DWord := 0
  hpsize : DWord := 0
  session : BitVec 512 := 0
  psreq : BitVec 3 := 0
  psreqDue : Option (BitVec 3) := none
  vcur : BitVec 3 := 0
  throt : Bool := false
  rings : SMap Ring := []
  msix : List Nat := []
  msixTab : SMap DWord := []
  pended : List Nat := []
  enabled : Bool := false
  deriving DecidableEq, Repr

/-- A scale-up link (R362). -/
structure Link where
  state : Nat := 0
  peer : Nat := 0
  port : Nat := 0
  lanes : Nat := 0
  deriving DecidableEq, Repr

/-- An expert buffer (R336), with its NEXT and DROPS; one that is not registered only counts the rows it drops. -/
structure XBuf where
  live : Bool := true
  addr : Nat
  unit : Nat
  lease : Nat
  lgen : BitVec 8
  tier : Nat := 3
  esz : Nat
  count : Nat
  next : Nat := 0
  drops : Nat := 0
  deriving DecidableEq, Repr

/-- The hub (R28, R59, R122, R203, R343, R363 to R370). `owed` is the ballast power above the cap that the closing interval's budget is short
of (R369), `untrained` the HBM stacks that failed their training at power-on (R371), and `granted` the last grant of the switch's last free
slot (R207). -/
structure Hub where
  accounts : SMap Account := []
  notices : List (Nat × Nat) := []
  functions : SMap Function := []
  configErrors : Nat := 0
  applied : List Nat := [0, 0, 0, 0, 0, 0, 0, 0, 0]
  clock : List Nat := [0, 0, 0, 0, 0, 0, 0, 0, 0]
  done : List (Nat × Nat) := []
  pcap : Nat := 4800
  ilim : Nat := 3000
  slew : Nat := 200
  pssel : BitVec 13 := 0
  sesssel : BitVec 8 := 0
  point : Nat := 15
  paceFloor : Nat := 0
  relocking : Bool := false
  relockAt : Nat := 0
  owed : Nat := 0
  untrained : List Nat := []
  interval : Nat := 0
  psmap : Word := 0x77777777
  psmapDue : Option Word := none
  links : SMap Link := []
  xbufs : SMap XBuf := []
  keys : List Nat := []
  reported : List (Nat × Nat) := []
  hostRead : List Byte := []
  recovery : Bool := false
  granted : Option SlotGrant := none
  deriving DecidableEq, Repr

/-- The signed configuration (R46, R203, R206, R357, R362): this module's fabric id, the tenant tag of each function, and what the map of
disabled units names: cores, the pseudo-channels of each stack, all of them for an absent one, and die control cores. `thermal` gives the
thermal limits of dies in °C (R367); a die that it does not list has none (assumption 36). -/
structure SignedConfig where
  fabricId : BitVec 16 := 0
  tags : SMap (BitVec 16) := []
  disabled : List Nat := []
  channelsOff : SMap (BitVec 256) := []
  dcsOff : List (Nat × Nat) := []
  thermal : SMap Nat := []
  deriving DecidableEq, Repr

/-- What the word now issuing has met: nothing, a wait, or a fault (the model's own field). -/
inductive Sig where
  | none
  | blocked
  | fault (rec : FaultRec)
  deriving DecidableEq, Repr

/-- What a bundle does once its four words have issued (R149): it ends the task (R159, R160), or ends the trap of an agent (R339). -/
inductive Leave where
  | none
  | exit
  | abandon
  | eret (agent : Agent) (step : DWord) (toIdle : Bool)
  deriving DecidableEq, Repr

/-- The issuing agent (the model's own field): core, agent, word of the bundle, the prefix that waits for the
next word (R226), the transfer the bundle makes, a firmware call it makes, an exit or return it makes, the first number that the bundle's own accesses may take,
the free entries of the command queues
before the bundle (R262), the firmware registers that the bundle writes as it ends (R149), how a fetch from host memory fails (R29), which of
the registers and queue entries that the word reads shows an uncorrectable error (R201), and what the word has met. -/
structure Cursor where
  core : Nat := 0
  agent : Agent := .control
  word : BitVec 2 := 0
  pfx : Option (BitVec 16) := none
  target : Option DWord := none
  call : Option FaultRec := none
  leave : Leave := .none
  since : Option Nat := none
  free : List Nat := []
  late : List (Nat × DWord) := []
  host : Option Bool := none
  struck : Option Nat := none
  sig : Sig := .none
  deriving DecidableEq, Repr

/-- The state of the module. `phase` is the part of a reference clock that has passed, in units of 1 / (20 × the point's frequency in GHz)
ns (R363). `acCores` and `acMem` are the cores and the memory as they stood when the ac at hand began, which is what its token, queue and
engine-port operations see (R40, R90, R92). `early` are the function, address and bytes of an exchange's words that came before the
command that receives them had started (R219). All are the model's own. -/
structure State where
  turns : List Turn := []
  cur : Cursor := {}
  freeCnt : Nat := 0
  nextId : Nat := 1
  rc : Nat := 0
  ac : Nat := 0
  phase : Nat := 0
  acCores : SMap Core := []
  acMem : Option (List Host.Cell) := none
  mem : List Host.Cell := []
  poison : List Nat := []
  struck : List Nat := []
  keyed : SMap Nat := []
  cores : SMap Core := []
  dies : SMap Die := []
  units : SMap RentUnit := []
  hub : Hub := {}
  cfg : SignedConfig := {}
  transit : List Access := []
  deferred : List Deferred := []
  waiters : List Waiter := []
  granted : List Granted := []
  debits : List Debit := []
  remote : List RemoteFlag := []
  slotWrites : List SlotWrite := []
  slotOps : List SlotOp := []
  marks : List Mark := []
  mqNotices : List MqNotice := []
  mqListed : List MqListed := []
  accEntries : List AccEntry := []
  invals : List Inval := []
  winSlots : List WinSlot := []
  registrants : List Registrant := []
  early : List (Nat × Nat × Nat) := []
  flits : List Flit := []
  deriving DecidableEq, Repr

/-- The module at the end of bring-up (R371): time starts from zero, memory lists nothing, no core holds a task,
no account is open, and every register stands at the value of its field's default, which INVENTORY.md lists
with its rule. -/
def State.reset : State := {}

end Sys2Proof.Machine
end

