-- ==== Sys2Proof/Machine/Ops.lean ====
section
/-! DEFINITION. Named operations over maps, memory and registers; results in flight and their landing (R151); taking
a fault or trap as one shared operation (R185 to R191) and the return from one (R193, R339). -/

namespace Sys2Proof

/-- The value of key `k`, or `d` when the key is not listed. -/
def SMap.get {α : Type} (m : SMap α) (k : Nat) (d : α) : α :=
  match m with
  | [] => d
  | (k', v) :: r => if k' = k then v else SMap.get r k d

/-- `m` with key `k` holding `v`, in ascending key order. -/
def SMap.set {α : Type} (m : SMap α) (k : Nat) (v : α) : SMap α :=
  match m with
  | [] => [(k, v)]
  | (k', v') :: r =>
    if k < k' then (k, v) :: (k', v') :: r
    else if k' = k then (k, v) :: r
    else (k', v') :: SMap.set r k v

/-- The listed value of key `k`. -/
def SMap.find {α : Type} (m : SMap α) (k : Nat) : Option α :=
  match m with
  | [] => none
  | (k', v) :: r => if k' = k then some v else SMap.find r k

/-- `m` without key `k`. -/
def SMap.erase {α : Type} (m : SMap α) (k : Nat) : SMap α := m.filter (fun e => e.1 != k)

end Sys2Proof

namespace Sys2Proof.Machine

open Sys2Proof

/-! ### Memory (R32, R39, R42, R44): one flat list of cells. An unlisted byte reads as zero (assumption 4). -/

/-- The form of the memory list: addresses strictly rising and no listed byte zero. -/
def Memory.wf : List Host.Cell → Bool
  | [] => true
  | [(_, b)] => b != 0
  | (a, b) :: (a', b') :: r => b != 0 && decide (a < a') && Memory.wf ((a', b') :: r)

/-- One byte of memory. -/
def Memory.read (m : List Host.Cell) (a : Nat) : Byte :=
  match m with
  | [] => 0
  | (a', b) :: r => if a' = a then b else if a < a' then 0 else Memory.read r a

/-- Memory with byte `b` at address `a`, in its form. -/
def Memory.write (m : List Host.Cell) (a : Nat) (b : Byte) : List Host.Cell :=
  match m with
  | [] => if b = 0 then [] else [(a, b)]
  | (a', b') :: r =>
    if a < a' then (if b = 0 then (a', b') :: r else (a, b) :: (a', b') :: r)
    else if a' = a then (if b = 0 then r else (a, b) :: r)
    else (a', b') :: Memory.write r a b

/-- `n` bytes from address `a`, lowest first. -/
def Memory.readBytes (m : List Host.Cell) (a : Nat) : Nat → List Byte
  | 0 => []
  | n + 1 => Memory.read m a :: Memory.readBytes m (a + 1) n

/-- The bytes stored from address `a` upwards. -/
def Memory.writeBytes (m : List Host.Cell) (a : Nat) : List Byte → List Host.Cell
  | [] => m
  | b :: r => Memory.writeBytes (Memory.write m a b) (a + 1) r

/-- Bytes as a number, little-endian (R9). -/
def ofBytes : List Byte → Nat
  | [] => 0
  | b :: r => b.toNat + 256 * ofBytes r

/-- The low `n` bytes of a number, little-endian (R9). -/
def toBytes (v : Nat) : Nat → List Byte
  | 0 => []
  | n + 1 => BitVec.ofNat 8 v :: toBytes (v / 256) n

/-- `n` bytes at `a` as a number. -/
def Memory.readNat (m : List Host.Cell) (a n : Nat) : Nat := ofBytes (Memory.readBytes m a n)

/-- The low `n` bytes of `v` stored at `a`. -/
def Memory.writeNat (m : List Host.Cell) (a n v : Nat) : List Host.Cell :=
  Memory.writeBytes m a (toBytes v n)

/-- Bytes `i ≥ 0` of `v` stored at `a + i` where bit `i` of `en` is set, for `i < n`. -/
def Memory.writeMasked (m : List Host.Cell) (a : Nat) (v en : Nat) : Nat → List Host.Cell
  | 0 => m
  | n + 1 =>
    Memory.writeMasked (if en % 2 = 1 then Memory.write m a (BitVec.ofNat 8 v) else m)
      (a + 1) (v / 256) (en / 2) n

/-- Memory with `len` bytes from `lo` zeroed (R81). -/
def Memory.zero (m : List Host.Cell) (lo len : Nat) : List Host.Cell :=
  m.filter (fun c => decide (c.1 < lo ∨ lo + len ≤ c.1))

/-- Memory with `len` bytes from `dst` holding those from `src` (the restore of R198). -/
def Memory.copy (m : List Host.Cell) (src dst len : Nat) : List Host.Cell :=
  let cells := m.filter (fun c => decide (src ≤ c.1 ∧ c.1 < src + len))
  cells.foldl (fun acc c => Memory.write acc (c.1 - src + dst) c.2) (Memory.zero m dst len)

/-- Memory with `len` bytes moved from `src` to `dst` and `src` zeroed (the spill of R195). -/
def Memory.move (m : List Host.Cell) (src dst len : Nat) : List Host.Cell :=
  Memory.zero (Memory.copy m src dst len) src len

/-- Memory `m` with the `len` bytes from `lo` as memory `n` has them. -/
def Memory.take (m n : List Host.Cell) (lo len : Nat) : List Host.Cell :=
  m.filter (fun c => decide (c.1 < lo)) ++ n.filter (fun c => decide (lo ≤ c.1 ∧ c.1 < lo + len)) ++ m.filter (fun c => decide (lo + len ≤ c.1))

/-- Place of byte `a` of core `c`'s near store (R39). -/
def nearPlace (c a : Nat) : Nat := 2 ^ 40 + c * 2 ^ 21 + a
/-- Place of byte `a` of cluster store `cl` (die × 32 + cluster; R44). -/
def clusterPlace (cl a : Nat) : Nat := 2 ^ 41 + cl * 2 ^ 23 + a
/-- Place of byte `a` of core `c`'s vector main file (R34). -/
def filePlace (c a : Nat) : Nat := 2 ^ 42 + c * 2 ^ 22 + a
/-- Place of host bus address `a` (R29). -/
def hostPlace (a : Nat) : Nat := 2 ^ 64 + a

/-- Tier-local near-store byte reached by a skewed access to `a` (R42). -/
def skewAddr (a : Nat) : Nat :=
  let g := if a < 0xC0000 then 0 else 0xC0000
  let o := a - g
  let b := o / 8192 * 8192
  let i := (o - b) / 256
  let j := (o - b) / 8 % 32
  g + b + i * 256 + (i + j) % 32 * 8 + o % 8

/-- The tier a place lies in. -/
def placeTier (p : Nat) : Nat :=
  if 2 ^ 64 ≤ p then 4 else if 2 ^ 42 ≤ p then 0 else if 2 ^ 41 ≤ p then 2 else if 2 ^ 40 ≤ p then 1 else 3

/-- The die whose home keeps a place; the hub's is 8 (R32, R121). -/
def placeDie (p : Nat) : Nat :=
  match placeTier p with
  | 0 => (p - 2 ^ 42) / 2 ^ 22 / 512
  | 1 => (p - 2 ^ 40) / 2 ^ 21 / 512
  | 2 => (p - 2 ^ 41) / 2 ^ 23 / 32
  | 3 => p / 2 ^ 36
  | _ => 8

/-! ### Bit fields -/

/-- Bits [lo + n − 1 : lo] of a number. -/
def bits (v lo n : Nat) : Nat := v / 2 ^ lo % 2 ^ n

/-- The two's-complement value of the low `n` bits of `v`. -/
def sext (v n : Nat) : Int :=
  let u := v % 2 ^ n
  if u < 2 ^ (n - 1) then (u : Int) else (u : Int) - (2 ^ n : Nat)

/-- An integer modulo 2 ^ n as a bit vector. -/
def wrap (n : Nat) (i : Int) : BitVec n := BitVec.ofInt n i

/-! ### Cores, tasks and their registers -/

/-- The die of a core number (R2): the cores are numbered from 0 to 4095, and die control core n of die d is 4096 + 8 d + n (assumption 92). -/
def coreDie (c : Nat) : Nat := if c < 4096 then c / 512 else (c - 4096) / 8

/-- Whether a number is a die control core's (R2). -/
def isDc (c : Nat) : Bool := decide (4096 ≤ c)

/-- Core `c`. -/
def State.core (s : State) (c : Nat) : Core := s.cores.get c {}

/-- `s` with core `c` replaced. -/
def State.setCore (s : State) (c : Nat) (k : Core) : State := { s with cores := s.cores.set c k }

/-- `s` with core `c` changed by `f`. -/
def State.updCore (s : State) (c : Nat) (f : Core → Core) : State := s.setCore c (f (s.core c))

/-- `s` with the task on core `c` changed by `f`. -/
def State.updTask (s : State) (c : Nat) (f : TaskCtx → TaskCtx) : State :=
  s.updCore c (fun k => { k with task := f k.task })

/-- The task on core `c`. -/
def State.task (s : State) (c : Nat) : TaskCtx := (s.core c).task

/-- The task on core `c` as it stood when the ac at hand began (R40, R90, R92), if it is the one that stands there now. -/
def State.was (s : State) (c : Nat) : TaskCtx :=
  match s.acCores.find c with
  | some k => if k.task.id = (s.task c).id then k.task else s.task c
  | none => s.task c

/-- The memory as it stood when the ac at hand began (R40). -/
def State.portMem (s : State) : List Host.Cell := s.acMem.getD s.mem

/-- Die `d`. -/
def State.die (s : State) (d : Nat) : Die := s.dies.get d {}

/-- `s` with die `d` changed by `f`. -/
def State.updDie (s : State) (d : Nat) (f : Die → Die) : State :=
  { s with dies := s.dies.set d (f (s.die d)) }

/-- Rent unit `u`. -/
def State.unit (s : State) (u : Nat) : RentUnit := s.units.get u {}

/-- `s` with rent unit `u` changed by `f`. -/
def State.updUnit (s : State) (u : Nat) (f : RentUnit → RentUnit) : State :=
  { s with units := s.units.set u (f (s.unit u)) }

/-- Lease record `h` of rent unit `u`. -/
def State.lease (s : State) (u h : Nat) : Lease := (s.unit u).leases.get h {}

/-- `s` with lease record `h` of rent unit `u` changed by `f`. -/
def State.updLease (s : State) (u h : Nat) (f : Lease → Lease) : State :=
  s.updUnit u (fun r => { r with leases := r.leases.set h (f (r.leases.get h {})) })

/-- Account `a`. -/
def State.account (s : State) (a : Nat) : Account := s.hub.accounts.get a {}

/-- `s` with account `a` changed by `f`. -/
def State.updAccount (s : State) (a : Nat) (f : Account → Account) : State :=
  { s with hub := { s.hub with accounts := s.hub.accounts.set a (f (s.account a)) } }

/-- Function `n`'s registers. -/
def State.fn (s : State) (n : Nat) : Function := s.hub.functions.get n {}

/-- `s` with function `n`'s registers changed by `f`. -/
def State.updFn (s : State) (n : Nat) (f : Function → Function) : State :=
  { s with hub := { s.hub with functions := s.hub.functions.set n (f (s.fn n)) } }

/-- The current tick number, of 48 bits (R58). -/
def State.tick (s : State) : Nat := s.rc / 1024 % 2 ^ 48

/-- The issuing core's task. -/
def State.me (s : State) : TaskCtx := s.task s.cur.core

/-- `s` with the issuing core's task changed. -/
def State.updMe (s : State) (f : TaskCtx → TaskCtx) : State := s.updTask s.cur.core f

/-- `s` with the registers of the task on core `c` changed. -/
def State.updRegs (s : State) (c : Nat) (f : Regs → Regs) : State :=
  s.updTask c (fun t => { t with regs := f t.regs })

/-- `s` with the shared task state of core `c` changed. -/
def State.updShared (s : State) (c : Nat) (f : Shared → Shared) : State :=
  s.updTask c (fun t => { t with shared := f t.shared })

/-- The next fresh number. -/
def State.bumpId (s : State) : State := { s with nextId := s.nextId + 1 }

/-- The place of the byte `a` bits of the issuing core's main file row `r` (R34). -/
def rowPlace (c r : Nat) : Nat := filePlace c (256 * r)

/-! ### Errors (R201) -/

/-- Whether an 8 B unit holds one of some places. -/
def inUnits (ps : List Nat) (u : Nat) : Bool := ps.any (fun p => p / 8 == u)

/-- Whether an 8 B unit meets the `len` bytes at `lo`. -/
def inRange (lo len u : Nat) : Bool := decide (lo < 8 * u + 8 ∧ 8 * u < lo + len)

/-- Whether some place lies in a unit that is poisoned or shows an uncorrectable error in this turn (R201). -/
def State.poisoned (s : State) (ps : List Nat) : Bool := (s.poison ++ s.struck).any (inUnits ps)

/-- Whether some byte of the `len` at `lo` lies in a poisoned 8 B unit (R201). -/
def State.poisonedIn (s : State) (lo len : Nat) : Bool := (s.poison ++ s.struck).any (inRange lo len)

/-- The kind of the machine check of a read that `hit` describes (R184, R201): of an error that shows in this turn in HBM or in SRAM, or
of a unit poisoned before. -/
def State.checkKind (s : State) (hit : Nat → Bool) : Nat :=
  if s.poison.any hit then 6 else if s.struck.any (fun u => hit u && placeTier (8 * u) == 3) then 2 else 1

/-- Whether the `len` bytes at `lo` hold a whole 8 B unit. -/
def wholeIn (lo len u : Nat) : Bool := decide (lo ≤ 8 * u ∧ 8 * u + 8 ≤ lo + len)

/-- Whether some places hold a whole 8 B unit. -/
def wholeOf (ps : List Nat) (u : Nat) : Bool := (List.range 8).all (fun i => ps.contains (8 * u + i))

/-- Whole units that are written lose their errors (R201). -/
def State.clean (s : State) (hit : Nat → Bool) : State :=
  { s with poison := s.poison.filter (fun u => !hit u), struck := s.struck.filter (fun u => !hit u) }

/-- Row `r` of core `c`'s main file as it stands. -/
def State.readRow (s : State) (c r : Nat) : VReg :=
  BitVec.ofNat 2048 (Memory.readNat s.mem (rowPlace c r) 256)

/-- Whether the issuing agent is the firmware context (R155). -/
def State.isFw (s : State) : Bool := s.cur.agent == .firmware

/-- Register x`n` of the issuing context; x0 reads as zero (R146, R247). -/
def State.x (s : State) (n : BitVec 5) : DWord :=
  if n = 0 then 0
  else if s.isFw then (s.core s.cur.core).fw.x.get n.toNat 0
  else s.me.regs.x.get n.toNat 0

/-- Predicate p`n` of the issuing context; p0 reads as true (R146). -/
def State.p (s : State) (n : BitVec 3) : Bool :=
  if n = 0 then true
  else if s.isFw then (s.core s.cur.core).fw.p.get n.toNat false
  else s.me.regs.p.get n.toNat false

/-- Descriptor register d`n` (R146). The firmware context sees none of the program's (R155): what it reads is a free value
(assumption 79). -/
def State.d (s : State) (n : BitVec 3) : DReg :=
  if s.isFw then (Config.freeValue (s.freeCnt + n.toNat)).setWidth 768 else s.me.regs.d.get n.toNat 0

/-- Eight free values have been given out, one for each descriptor register (R155). -/
def State.useD (s : State) : State := if s.isFw then { s with freeCnt := s.freeCnt + 8 } else s

/-- Register a`n` of the issuing access sequencer (R146). -/
def State.a (s : State) (n : BitVec 4) : DWord :=
  if s.cur.agent = .store then s.me.regs.aStore.get n.toNat 0 else s.me.regs.aLoad.get n.toNat 0

/-- Scalar register s`n` of the compute sequencer (R146). -/
def State.sreg (s : State) (n : BitVec 4) : Word := s.me.regs.sreg.get n.toNat 0

/-- Mask m`n` of a task; m0 reads as all true (R146). -/
def Regs.mask (r : Regs) (n : Nat) : Mask :=
  if n = 0 then BitVec.allOnes 128 else r.m.get n 0

/-- Mule register g`n`; g0 reads as zero (R316). -/
def State.g (s : State) (n : BitVec 3) : Word :=
  if n = 0 then 0 else s.me.mule.g.get n.toNat 0

/-- The target that names a`n` of the issuing access sequencer. -/
def State.aTarget (s : State) (n : BitVec 4) : Target :=
  if s.cur.agent = .store then .aStore n.toNat else .aLoad n.toNat

/-! ### Sequencers -/

/-- The sequencer state of an agent of a task; Mule and the engines have none and read as the control
sequencer's. -/
def TaskCtx.seq (t : TaskCtx) (a : Agent) : Seq :=
  match a with
  | .load => t.load
  | .compute => t.compute
  | .store => t.store
  | _ => t.ctl

/-- The task with an agent's sequencer state replaced. -/
def TaskCtx.setSeq (t : TaskCtx) (a : Agent) (q : Seq) : TaskCtx :=
  match a with
  | .load => { t with load := q }
  | .compute => { t with compute := q }
  | .store => { t with store := q }
  | _ => { t with ctl := q }

/-- The task with an agent's sequencer state changed. -/
def TaskCtx.updSeq (t : TaskCtx) (a : Agent) (f : Seq → Seq) : TaskCtx := t.setSeq a (f (t.seq a))

/-- Whether an agent's sequencer last issued from a scoreboard region (R153). -/
def State.scoreboard (s : State) : Bool :=
  s.isFw || ((s.me.seq s.cur.agent).lm == some true && s.cur.agent != .mule)

/-! ### Results in flight (R151 to R154) -/

/-- Bits [8 i + 7 : 8 i] set for each byte whose lane is enabled, for lanes of `lane` bytes. -/
def laneBits (mask : Mask) (lane : Nat) : VReg :=
  if mask = BitVec.allOnes 128 then BitVec.allOnes 2048
  else
    let ones := 2 ^ (8 * lane) - 1
    BitVec.ofNat 2048
      ((List.range (256 / lane)).foldl
        (fun acc i => if mask.getLsbD i then acc + ones * 2 ^ (8 * lane * i) else acc) 0)

/-- `old` with the enabled lanes taken from `new` (R270); lane width 0 takes all of `new`. -/
def mergeLanes (old new : VReg) (mask : Mask) (lane : Nat) : VReg :=
  if lane = 0 then new
  else let e := laneBits mask lane; (new &&& e) ||| (old &&& ~~~ e)

/-- The queue entries with entry `id` filled (R92, R304). -/
def fillEntry (id : Nat) (v : VReg) : List QEntry → List QEntry
  | [] => []
  | e :: r => if e.id = id then { e with data := v, ready := true } :: r else e :: fillEntry id v r

/-- The operand buffer after a result of the compute sequencer lands in lanes of a row (R272). -/
def heldAfterWrite (row : Nat) (f : InFlight) (h : List HeldRow) : List HeldRow :=
  h.map (fun e => if e.row = row then { e with value := mergeLanes e.value f.data f.mask f.lane } else e)

/-- A plain write of a system register of a task (R260): TAGS loses the bits that `TAGCLR` names (R325), FSTAT clears each bit written 0 (R135), a
pacing register takes GAP (R370), and the shadow bank takes its word or entry (R263). -/
def TaskCtx.writeSys (t : TaskCtx) (n : Nat) (v : DWord) : TaskCtx :=
  if n = 0 then { t with shared := { t.shared with tags := t.shared.tags &&& ~~~ v } }
  else if n = 1 then { t with shared := { t.shared with fstat := t.shared.fstat &&& v.setWidth 5 } }
  else if n = 0x88 then { t with mx := { t.mx with gap := v.setWidth 16 } }
  else if n = 0x89 then { t with cp := { t.cp with gap := v.setWidth 16 } }
  else if n = 0x8A then { t with cl := { t.cl with gap := v.setWidth 16 } }
  else if n = 0x8B then { t with ml := { t.ml with gap := v.setWidth 16 } }
  else if 0x100 ≤ n ∧ n ≤ 0x11F then
    { t with shared := { t.shared with nt := t.shared.nt.set (n - 0x100) (v.setWidth 32) } }
  else if 0x180 ≤ n ∧ n ≤ 0x18F then
    { t with shared := { t.shared with fmt := t.shared.fmt.set (n - 0x180) v } }
  else t

/-- Bits of a number counted, with `fuel` bits to go. -/
def popBits (v : Nat) : Nat → Nat
  | 0 => 0
  | n + 1 => v % 2 + popBits (v / 2) n

/-- The contents to which every sign matrix resets: bit n of row j is 1 when j AND n has odd parity (R141). -/
def hadamard : BitVec 4096 :=
  BitVec.ofNat 4096 ((List.range 4096).foldl (fun acc i =>
    acc + popBits (Nat.land (i / 64) (i % 64)) 6 % 2 * 2 ^ i) 0)

/-- Sign matrix `n` of a task (R141, R302). -/
def Shared.signMatrix (h : Shared) (n : Nat) : BitVec 4096 :=
  if n = 0 then hadamard else
    match h.matrix.find n with
    | some m => m
    | none => hadamard

/-! ### Flags and those that wait for them (R115, R119, R324) -/

/-- LEN of a head word. -/
def headLen (w : Word) : Nat := bits w.toNat 24 3
/-- FAV of a head word. -/
def headFav (w : Word) : Bool := w.getLsbD 12
/-- FAW of a head word. -/
def headFaw (w : Word) : Nat := bits w.toNat 7 5

/-- The head word of a command. -/
def Cmd.head (c : Cmd) : Word := c.words.headD 0
/-- Word `j` of a command; word 0 is the head. -/
def Cmd.word (c : Cmd) (j : Nat) : Word := c.words.getD j 0

/-- The flag and value a command awaits (R119, R238). -/
def Cmd.await (c : Cmd) : Option (Nat × Word) :=
  if headFav c.head then some (headFaw c.head, c.word (1 + headLen c.head)) else none

/-- `serial_ge` of R115. -/
def serialGe (a b : Word) : Bool := decide ((a - b).toNat < 2 ^ 31)

/-- An update of flag `f` to `v` is tested by a command that awaits the flag (R324). -/
def Cmd.retest (c : Cmd) (f : Nat) (v : Word) : Cmd :=
  match c.await with
  | some (g, w) => if g = f ∧ serialGe v w then { c with woken := true } else c
  | none => c

/-- An update of flag `f` to `v` is tested by an agent's await (R324). -/
def FlagWait.retest (w : FlagWait) (f : Nat) (v : Word) : FlagWait :=
  if w.flag = f ∧ serialGe v w.value then { w with woken := true } else w

/-- Flag `f` of a task becomes `v`, and every waiter of it tests its await again (R115, R324). -/
def TaskCtx.setFlag (t : TaskCtx) (f : Nat) (v : Word) : TaskCtx :=
  let q (e : EngineSt) : EngineSt := { e with queue := e.queue.map (fun c => c.retest f v) }
  { t with
    mx := q t.mx, cp := q t.cp, cl := q t.cl, ml := q t.ml
    shared := { t.shared with flag := t.shared.flag.set f v, awaiting := t.shared.awaiting.map (fun w => w.retest f v) } }

/-- Whether a result writes the whole of its target. -/
def InFlight.whole (f : InFlight) : Bool := f.lane == 0 || f.mask == BitVec.allOnes 128

/-- A register or queue entry that is written whole loses its error (R201). -/
def State.heal (s : State) (c : Nat) (f : InFlight) : State :=
  if (s.core c).badRegs.isEmpty || !f.whole then s
  else s.updCore c (fun k => { k with badRegs := k.badRegs.filter (fun t => decide (t ≠ f.target)) })

/-- A result lands in its target (R151, R191). -/
def State.land (s : State) (c : Nat) (f : InFlight) : State :=
  let s := s.heal c f
  let s := if f.fst = 0 then s
    else s.updShared c (fun h => { h with fstat := h.fstat ||| f.fst })
  let w64 : DWord := f.data.setWidth 64
  let w32 : Word := f.data.setWidth 32
  match f.target with
  | .none | .beat _ => s
  | .x n => if n = 0 then s else s.updRegs c (fun r => { r with x := r.x.set n w64 })
  | .p n => if n = 0 then s else s.updRegs c (fun r => { r with p := r.p.set n (w64 != 0) })
  | .d n => s.updRegs c (fun r => { r with d := r.d.set n (f.data.setWidth 768) })
  | .aLoad n => s.updRegs c (fun r => { r with aLoad := r.aLoad.set n w64 })
  | .aStore n => s.updRegs c (fun r => { r with aStore := r.aStore.set n w64 })
  | .s n =>
    let e : Word := f.mask.setWidth 32
    s.updRegs c (fun r => { r with sreg := r.sreg.set n ((w32 &&& e) ||| (r.sreg.get n 0 &&& ~~~ e)) })
  | .m n =>
    if n = 0 then s
    else s.updRegs c (fun r =>
      { r with m := r.m.set n ((f.data.setWidth 128 &&& f.mask) ||| (r.mask n &&& ~~~ f.mask)) })
  | .v n => s.updRegs c (fun r => { r with v := r.v.set n (mergeLanes (r.v.get n 0) f.data f.mask f.lane) })
  | .row n =>
    let v := mergeLanes (s.readRow c n) f.data f.mask f.lane
    let whole (u : Nat) : Bool := wholeIn (rowPlace c n) 256 u &&
      (f.lane == 0 || (List.range 8).all (fun i => (laneBits f.mask f.lane).getLsbD (8 * (8 * u + i - rowPlace c n))))
    State.clean { s with mem := Memory.writeNat s.mem (rowPlace c n) 256 v.toNat } whole
  | .qent q id =>
    s.updShared c (fun h => { h with queue := h.queue.set q (fillEntry id f.data (h.queue.get q [])) })
  | .token n => s.updShared c (fun h => { h with signals := h.signals ++ [{ token := n, after := f.after }] })
  | .flagSet n => s.updTask c (fun t => t.setFlag n w32)
  | .flagAdd n => s.updTask c (fun t => t.setFlag n (t.shared.flag.get n 0 + w32))
  | .g n => if n = 0 then s else s.updTask c (fun t => { t with mule := { t.mule with g := t.mule.g.set n w32 } })
  | .fwx n => if n = 0 then s else s.updCore c (fun k => { k with fw := { k.fw with x := k.fw.x.set n w64 } })
  | .fwp n => if n = 0 then s else s.updCore c (fun k => { k with fw := { k.fw with p := k.fw.p.set n (w64 != 0) } })
  | .cst n half =>
    s.updShared c (fun h =>
      let old := (h.signMatrix n).toNat
      let kept := if half = 0 then old / 2 ^ 2048 * 2 ^ 2048 else old % 2 ^ 2048
      { h with matrix := h.matrix.set n (BitVec.ofNat 4096 (kept + f.data.toNat * 2 ^ (2048 * half))) })
  | .mstore n =>
    s.updTask c (fun t => { t with mule := { t.mule with store := t.mule.store.set n w32 } })
  | .aga => s.updTask c (fun t => { t with mule := { t.mule with aga := w64 } })
  | .sys n =>
    s.updTask c (fun t =>
      t.writeSys n (if n = 0 ∧ t.shared.retired.1 = s.ac then w64 &&& ~~~ t.shared.retired.2 else w64))

/-- A result of agent `a` lands: a row that the compute sequencer writes is renewed in its own operand buffer (R272). -/
def State.landOf (s : State) (c : Nat) (a : Agent) (f : InFlight) : State :=
  let s := s.land c f
  match a, f.target with
  | .compute, .row n => s.updRegs c (fun r => { r with held := heldAfterWrite n f r.held })
  | _, _ => s

/-- The in-flight results of an agent. -/
def State.pipe (s : State) (c : Nat) (a : Agent) : List InFlight :=
  match a with
  | .firmware => (s.core c).fw.pipe
  | .mule => (s.task c).mule.pipe
  | _ => ((s.task c).seq a).pipe

/-- `s` with an agent's in-flight results replaced. -/
def State.setPipe (s : State) (c : Nat) (a : Agent) (p : List InFlight) : State :=
  match a with
  | .firmware => s.updCore c (fun k => { k with fw := { k.fw with pipe := p } })
  | .mule => s.updTask c (fun t => { t with mule := { t.mule with pipe := p } })
  | _ => s.updTask c (fun t => t.updSeq a (fun q => { q with pipe := p }))

/-- A result for a main-file row takes a number, since it is an access (R84). -/
def State.number (s : State) (f : InFlight) : InFlight × State :=
  match f.target with
  | .row _ => ({ f with id := s.nextId }, s.bumpId)
  | _ => (f, s)

/-- One result enters the issuing agent's pipeline. A scoreboard region and the firmware context see every result
in the next cycle (R153, assumption 8). -/
def State.put (s : State) (f : InFlight) : State :=
  let (f, s) := s.number (if s.scoreboard then { f with left := 1 } else f)
  s.setPipe s.cur.core s.cur.agent (s.pipe s.cur.core s.cur.agent ++ [f])

/-- A scalar result of latency `l` enters the pipeline (R154). -/
def State.putWord (s : State) (t : Target) (l : Nat) (v : DWord) : State :=
  s.put { target := t, data := v.setWidth 2048, left := l }

/-- A result for x`n` of the issuing context. -/
def State.putX (s : State) (n : BitVec 5) (l : Nat) (v : DWord) : State :=
  s.putWord (if s.isFw then .fwx n.toNat else .x n.toNat) l v

/-- A result for p`n` of the issuing context. -/
def State.putP (s : State) (n : BitVec 3) (v : Bool) : State :=
  s.putWord (if s.isFw then .fwp n.toNat else .p n.toNat) 1 (if v then 1 else 0)

/-- Results of one agent land in program order (R151). -/
def State.landAll (s : State) (c : Nat) (a : Agent) : List InFlight → State
  | [] => s
  | f :: r => (s.landOf c a f).landAll c a r

/-- The stores of an agent that wait for cycles of it have one fewer to wait for (R154, class AS). -/
def State.ageStores (s : State) (c : Nat) (a : Agent) : State :=
  if s.transit.isEmpty then s
  else { s with transit := s.transit.map (fun x => if x.core = c ∧ x.agent = a then { x with lag := x.lag - 1 } else x) }

/-- The end of one sequencer cycle of an agent: results at their last cycle land in program order (R151). -/
def State.endCycle (s : State) (c : Nat) (a : Agent) : State :=
  let p := s.pipe c a
  let due := p.filter (fun f => decide (f.left ≤ 1))
  let rest := (p.filter (fun f => decide (1 < f.left))).map (fun f => { f with left := f.left - 1 })
  ((s.ageStores c a).setPipe c a rest).landAll c a due

/-! ### Operations not yet performed (R84, R98) -/

/-- The rent operation that a debit belongs to (R66). -/
def DebitFor.access : DebitFor → Option Access
  | .op a _ _ => some a
  | _ => none

/-- Whether an access is one of agent `a` of core `c`. -/
def Access.of (x : Access) (c : Nat) (a : Agent) : Bool := x.core == c && x.agent == a

/-- The command of a row or an exchange's write that has left for a peer and is not acknowledged (R220, R334). -/
def Flit.farCmd : Flit → Option Nat
  | .outRow _ c .. => some c
  | .outWrite _ c .. => some c
  | _ => none

/-- Whether some access of a dequeued command has not performed (R98): one that has ended is done once nothing of it is on its way. -/
def State.working (s : State) (r : Running) : Bool :=
  match r.st with
  | .ended .. => s.transit.any (fun x => x.cmd == r.cmd.id) || s.flits.any (fun x => x.farCmd == some r.cmd.id)
  | _ => true

/-- The commands of an engine of which some access has not performed. -/
def State.engineIds (s : State) (e : EngineSt) : List Nat := e.queue.map (·.id) ++ (e.running.filter s.working).map (·.cmd.id)

/-- The commands of a task of which some access has not performed. -/
def State.cmdIds (s : State) (t : TaskCtx) : List Nat :=
  s.engineIds t.mx ++ s.engineIds t.cp ++ s.engineIds t.cl ++ s.engineIds t.ml

/-- The main-file writes of an agent of a task that are still in flight. -/
def TaskCtx.rowIds (t : TaskCtx) (a : Agent) : List Nat :=
  let l : List InFlight := match a with
    | .compute => t.compute.pipe ++ t.compute.snap
    | .mule => t.mule.pipe
    | _ => []
  (l.map (·.id)).filter (fun i => i != 0)

/-- The messages that have been refused, on their way back to their writers (R48). -/
def State.refusedMessages (s : State) : List Access := s.mqNotices.filterMap (fun n => n.refused)

/-- The messages that the writer of a task keeps (R48). -/
def TaskCtx.keptMessages (t : TaskCtx) : List Access := t.shared.mq.flatMap (fun w => w.2.kept)

/-- The number, core and agent of a flag operation that has left for a peer and is not acknowledged (R124). -/
def Flit.farFlag : Flit → Option (Nat × Nat × Agent)
  | .outFlag id c a .. => some (id, c, a)
  | _ => none

/-- The number of a flit that stays until it is acknowledged. -/
def Flit.ackId : Flit → Option Nat
  | .outAbort i .. | .outRow i .. | .outFlag i .. | .outWrite i .. => some i
  | _ => none

/-- Peer-bound operations are acknowledged (R124). -/
def State.acknowledge (s : State) (acks : List Nat) : State :=
  if acks.isEmpty then s
  else { s with flits := s.flits.filter (fun f => match f.ackId with | some i => !acks.contains i | none => true) }

/-- The numbers of every access, remote flag operation, message and command that has not performed (R84, R98). -/
def State.liveIds (s : State) : List Nat :=
  s.transit.map (·.id) ++ s.remote.map (·.id) ++ s.waiters.map (·.access.id) ++ s.refusedMessages.map (·.id) ++
  (s.debits.filterMap (fun d => d.purpose.access)).map (·.id) ++ s.slotOps.map (·.access.id) ++
  (s.flits.filterMap Flit.farFlag).map (·.1) ++
  s.cores.flatMap (fun e => s.cmdIds e.2.task ++ e.2.task.rowIds .compute ++ e.2.task.rowIds .mule ++ e.2.task.keptMessages.map (·.id))

/-- Whether some operation of a list has not performed. -/
def State.anyLive (s : State) (l : List Nat) : Bool :=
  !l.isEmpty && (let live := s.liveIds; l.any (fun i => live.contains i))

/-- The messages of an agent that were refused or wait to be sent again (R48). -/
def State.ownMessages (s : State) (c : Nat) (a : Agent) : List Nat :=
  ((s.refusedMessages ++ (s.task c).keptMessages).filter (fun x => x.of c a)).map (·.id)

/-- The earlier accesses of an agent that have not performed (R90, R92). -/
def State.ownAccesses (s : State) (c : Nat) (a : Agent) : List Nat :=
  (s.transit.filter (fun x => x.of c a)).map (·.id) ++ (s.waiters.filter (fun w => w.access.of c a)).map (·.access.id) ++
  s.ownMessages c a ++ (s.task c).rowIds a

/-! ### Faults and traps (R184 to R191) -/

/-- What a fault is, before the agent's place is added to it. -/
structure FaultInfo where
  cls : BitVec 4
  kind : BitVec 8
  opf : BitVec 8 := 0
  addr : DWord := 0
  slot : Nat := 0
  deriving DecidableEq, Repr

/-- The segment slot of an address (R12). -/
def vaSlot (va : DWord) : Nat := va.toNat / 2 ^ 58

/-- Machine check of a read of poisoned data (R201). -/
def poisonFault (s : State) (hit : Nat → Bool) (va : DWord) (opf : Nat) : FaultInfo :=
  { cls := 9, kind := BitVec.ofNat 8 (s.checkKind hit), opf := BitVec.ofNat 8 opf, addr := va, slot := vaSlot va }

/-- The SEQ code of an agent (R186). -/
def seqCode : Agent → BitVec 4
  | .control => 0
  | .load => 1
  | .compute => 2
  | .store => 3
  | .mule => 4
  | .matrixEngine => 5
  | .copyEngine => 6
  | .tensorMove => 7
  | .collectiveEngine => 8
  | .image => 9
  | .firmware => 10
  | .accPort => 11
  | .hub => 8

/-- A program error (class 1) of a kind, with its operand field. -/
def progError (kind opf : Nat) (addr : DWord := 0) (slot : Nat := 0) : FaultInfo :=
  { cls := 1, kind := BitVec.ofNat 8 kind, opf := BitVec.ofNat 8 opf, addr := addr, slot := slot }

/-- The reserved-field program error (R184) with its operand field. -/
def reservedField (opf : Nat) : FaultInfo := progError 3 opf

/-- The step an agent of core `c` stands at (R186). -/
def State.stepOf (s : State) (c : Nat) (a : Agent) : DWord :=
  match a with
  | .mule => BitVec.ofNat 64 (s.task c).mule.step
  | .firmware => (s.core c).fw.pc
  | _ => ((s.task c).seq a).step

/-- The fault record of agent `a` of core `c` (R185, R186). -/
def State.mkRec (s : State) (c : Nat) (a : Agent) (f : FaultInfo) : FaultRec :=
  { tick := BitVec.ofNat 48 s.tick, addr := f.addr, step := s.stepOf c a,
    word := if a = .control ∨ a = .firmware then s.cur.word else 0,
    seg := BitVec.ofNat 6 f.slot, opf := f.opf, kind := f.kind, cls := f.cls, seq := if isDc c then 0 else seqCode a,
    die := BitVec.ofNat 3 (coreDie c), cl := if isDc c then 0 else BitVec.ofNat 5 (c / 16 % 32),
    core := if isDc c then BitVec.ofNat 4 (c % 8) else BitVec.ofNat 4 (c % 16), dc := isDc c,
    lid := (s.task c).id.lid }

/-- A record goes to a die's fault log of 4096 records; later ones are counted and dropped (R189). -/
def State.logFault (s : State) (d : Nat) (r : FaultRec) : State :=
  s.updDie d (fun k =>
    if k.log.length < 4096 then { k with log := k.log ++ [r] } else { k with logDropped := k.logDropped + 1 })

/-- The code of a sequencer as a token's party (R246). -/
def partyCode : Agent → BitVec 2
  | .load => 1
  | .compute => 2
  | .store => 3
  | _ => 0

/-- The signals of an agent that are still to be applied, as results with one cycle to go (R191). -/
def TaskCtx.signalsOf (t : TaskCtx) (a : Agent) : List InFlight :=
  (t.shared.signals.filter (fun g => (t.shared.token.get g.token {}).prod == partyCode a)).map (fun g =>
    { target := .token g.token, data := 0, after := g.after })

/-- The task without the signals of an agent that are still to be applied. -/
def TaskCtx.dropSignals (t : TaskCtx) (a : Agent) : TaskCtx :=
  { t with shared := { t.shared with
      signals := t.shared.signals.filter (fun g => (t.shared.token.get g.token {}).prod != partyCode a) } }

/-- The results of a sequencer move into its snapshot buffer of 64 entries (R191). -/
def Seq.capture (q : Seq) : Seq := { q with snap := q.snap ++ q.pipe, pipe := [] }

/-- The program's control sequencer is suspended and its results captured (R158, R191). -/
def TaskCtx.suspend (t : TaskCtx) : TaskCtx :=
  let t := (t.updSeq .control (fun q => { q with pipe := q.pipe ++ t.signalsOf .control })).dropSignals .control
  { t with suspended := true, tstep := t.ctl.step, ctl := t.ctl.capture }

/-- The faulting agent enters FAULTED with its results captured (R148, R187, R191). -/
def TaskCtx.faultAgent (t : TaskCtx) (a : Agent) : TaskCtx :=
  match a with
  | .control => t.updSeq .control (fun q => { q with st := .faulted })
  | .load | .compute | .store =>
    (t.updSeq a (fun q => { { q with pipe := q.pipe ++ t.signalsOf a }.capture with st := .faulted })).dropSignals a
  | .mule => { t with mule := { t.mule with st := .faulted } }
  | _ => t

/-- Every command of an engine that is not yet dequeued is discarded with status abandoned (R160). -/
def EngineSt.discard (e : EngineSt) : EngineSt :=
  { e with queue := [], running := e.running ++ e.queue.map (fun c => { cmd := c, st := .ended 5 0 }) }

/-- A sequencer stopped by abandonment: results in flight still land (R148, R160). -/
def Seq.abandon (q : Seq) : Seq := { q with st := .idle, stopPending := false }

/-- `EXIT.ABANDON` for the task on core `c` (R160). -/
def State.abandon (s : State) (c : Nat) : State :=
  let s := s.updTask c (fun t =>
    { t with
      load := t.load.abandon
      compute := t.compute.abandon
      store := t.store.abandon
      mule := { t.mule with st := .halted }
      mx := t.mx.discard
      cp := t.cp.discard
      cl := t.cl.discard
      ml := t.ml.discard })
  s.updCore c (fun k => { k with residency := .retiring true })

/-- The task on core `c` ends with a fault status (R189): it retires as under abandonment, and its record is reported with
the launch's completion. The image that is held at a fault is dropped, and its row goes on with the next one (R178). -/
def State.endTask (s : State) (c status : Nat) (r : FaultRec) : State :=
  let s := s.abandon c
  let s := s.updCore c (fun k => { k with faultStatus := some r, status := status })
  let s := s.updTask c (fun t =>
    { t with pending := [], heldFaults := [], suspended := false, ctl := { t.ctl with pipe := [], snap := [], snapRaw := [] } })
  s.updDie (coreDie c) (fun d => { d with lamb := d.lamb.map (fun r =>
    if r.core = c ∧ r.held then { r with elem := r.elem + 1, write := 0, held := false } else r) })

/-- A SEQ-10 fault of the firmware context (R190): it goes on at FWVEC, with the address of the faulting bundle in FWRET, or it halts and
the core's task ends. -/
def State.firmwareFault (s : State) (c : Nat) (r : FaultRec) : State :=
  let k := s.core c
  if !k.fw.fwv && k.fw.fwvec != 0 then
    (s.setCore c { k with fw := { k.fw with fwrec := r, fwv := true, fwret := r.step, pc := k.fw.fwvec } }).logFault
      (coreDie c) r
  else
    let r' := { r with multi := k.fw.fwv }
    let s := (s.updCore c (fun k => { k with fw := { k.fw with halted := true } })).logFault (coreDie c) r'
    if k.residency = .free then s else s.endTask c r.cls.toNat r'

/-- Taking a fault or trap, the one shared operation (R187, R189, R190). A trapping record (SEQ 0 to 4, 9, 11)
becomes its agent's pending record, or sets MULTI when one is pending; it suspends the program's control
sequencer, or is held when firmware already handles a trap. A record of SEQ 5 to 8 goes to the fault log. -/
def State.takeFault (s : State) (c : Nat) (a : Agent) (r : FaultRec) : State :=
  match a with
  | .matrixEngine | .copyEngine | .tensorMove | .collectiveEngine | .hub => s.logFault (coreDie c) r
  | .firmware => s.firmwareFault c r
  | _ =>
    s.updTask c (fun t =>
      let t := t.faultAgent a
      match t.pending.find r.seq.toNat with
      | some old => { t with pending := t.pending.set r.seq.toNat { old with multi := true } }
      | none =>
        let t := { t with pending := t.pending.set r.seq.toNat r }
        if t.suspended then { t with heldFaults := t.heldFaults ++ [r] } else t.suspend)

/-- The issuing agent raises a fault at issue: the word has no other effect (R187). -/
def raise (f : FaultInfo) (s : State) : Host.Outcome State Fault Refusal :=
  let r := s.mkRec s.cur.core s.cur.agent f
  .next { s.takeFault s.cur.core s.cur.agent r with cur := { s.cur with sig := .fault r } }

/-- The issuing agent waits: nothing issues and the sequencer is BLOCKED, for the cause given (R148, R149). -/
def block (s : State) (why : Cause) : Host.Outcome State Fault Refusal :=
  let s := { s with cur := { s.cur with sig := .blocked } }
  .next (match s.cur.agent with
    | .control | .load | .compute | .store =>
      s.updMe (fun t => t.updSeq s.cur.agent (fun q => { q with st := .blocked, cause := why, more := [] }))
    | .mule => s.updMe (fun t => { t with mule := { t.mule with st := .blocked, cause := why } })
    | _ => s)

/-- An event that is not enabled does not happen: the state stays (assumption 1). -/
def skip (s : State) : Host.Outcome State Fault Refusal := .next s

/-- TKIND and TARGET of a snapshot entry (R192). -/
def Target.snapCode : Target → Nat × Nat
  | .x n | .fwx n => (1, n)
  | .p n | .fwp n => (2, n)
  | .aLoad n | .aStore n => (3, n)
  | .s n => (4, n)
  | .m n => (5, n)
  | .v n => (6, n)
  | .row n => (7, n)
  | .qent q _ => (8, q)
  | .token n => (9, n)
  | .sys n => (10, n)
  | _ => (0, 0)

/-- The 2240 bits of a snapshot entry with its place in program order (R192). -/
def InFlight.toSnap (f : InFlight) (ord : Nat) : BitVec 2240 :=
  let k := f.target.snapCode
  BitVec.ofNat 2240 (f.data.toNat * 2 ^ 192 + f.mask.toNat * 2 ^ 64 + f.fst.toNat * 2 ^ 32 + ord % 256 * 2 ^ 24 +
    f.left % 16 * 2 ^ 20 + k.1 * 2 ^ 16 + k.2 % 2 ^ 16)

/-- Whether a number is one of the system registers' (R260, R341). -/
def isSysReg (n : Nat) : Bool :=
  decide (n ≤ 7 ∨ (0x40 ≤ n ∧ n ≤ 0x8B) ∨ (0x100 ≤ n ∧ n ≤ 0x11F) ∨ (0x180 ≤ n ∧ n ≤ 0x190) ∨ n = 0x1A0 ∨ (0x800 ≤ n ∧ n ≤ 0x806) ∨
    n = 0x808 ∨ (0x810 ≤ n ∧ n ≤ 0x832) ∨ n = 0x840 ∨ n = 0x841 ∨ (0x850 ≤ n ∧ n ≤ 0x856))

/-- The target that a snapshot entry of agent `a` names, when it lies in its file (R192, R193); `old` is the target
that the entry had. -/
def snapTarget (a : Agent) (old : Target) (kind n : Nat) : Option Target :=
  match kind with
  | 1 => if n < 32 then some (.x n) else none
  | 2 => if n < 8 then some (.p n) else none
  | 3 => if n < 16 then some (if a = .store then .aStore n else .aLoad n) else none
  | 4 => if n < 16 then some (.s n) else none
  | 5 => if n < 8 then some (.m n) else none
  | 6 => if n < 32 then some (.v n) else none
  | 7 => if n < 9216 then some (.row n) else none
  | 8 =>
    if n < 16 then
      some (match old with
        | .qent q e => if q = n then .qent q e else .none
        | _ => .none)
    else none
  | 9 => if n < 16 then some (.token n) else none
  | 10 => if isSysReg n then some (.sys n) else none
  | _ => none

/-- A snapshot entry read back from its bits: none when it may not be replayed, and an empty result for TKIND 0
(R193). The second part is its ORD. -/
def snapEntry (a : Agent) (old : InFlight) (v : BitVec 2240) : Option (Option (Nat × InFlight)) :=
  let n := v.toNat
  let kind := n / 2 ^ 16 % 16
  let off := n / 2 ^ 20 % 16
  if kind = 0 then some none
  else if n / 2 ^ 37 % 2 ^ 27 ≠ 0 ∨ off = 0 ∨ 8 < off then none
  else
    match snapTarget a old.target kind (n % 2 ^ 16) with
    | none => none
    | some t =>
      some (some (n / 2 ^ 24 % 256,
        { old with target := t, data := BitVec.ofNat 2048 (n / 2 ^ 192), mask := BitVec.ofNat 128 (n / 2 ^ 64),
                   fst := BitVec.ofNat 5 (n / 2 ^ 32), left := off }))

/-- An entry put among others in order of ORD. -/
def insertOrd (e : Nat × InFlight) : List (Nat × InFlight) → List (Nat × InFlight)
  | [] => [e]
  | x :: r => if e.1 < x.1 then e :: x :: r else x :: insertOrd e r

/-- The bits of entry `i` of a sequencer's snapshot buffer (R192, R341). -/
def Seq.snapBits (q : Seq) (i : Nat) : BitVec 2240 :=
  match q.snapRaw.find i with
  | some v => v
  | none =>
    match q.snap[i]? with
    | some f => f.toSnap i
    | none => 0

/-- The entries of a sequencer's snapshot buffer in order, or none when one may not be replayed (R193). An
entry that firmware has not written is as it was captured. -/
def Seq.replayList (a : Agent) (q : Seq) : Option (List InFlight) :=
  if q.snapRaw.isEmpty then some q.snap
  else
    let one (i : Nat) : Option (Option (Nat × InFlight)) :=
      match q.snapRaw.find i with
      | some v => snapEntry a (q.snap.getD i { target := .none, data := 0 }) v
      | none =>
        match q.snap[i]? with
        | some f => some (some (i, f))
        | none => some none
    let all := (List.range 64).map one
    if all.any Option.isNone then none
    else some (((all.filterMap id).filterMap id).foldl (fun acc e => insertOrd e acc) [] |>.map (·.2))

/-- The snapshot buffer of an agent goes back into its pipeline, to land at the cycles that remained (R193); a
buffer that may not be replayed is left. -/
def TaskCtx.replay (t : TaskCtx) (a : Agent) : TaskCtx :=
  t.updSeq a (fun q =>
    match q.replayList a with
    | some l => { q with pipe := l, snap := [], snapRaw := [] }
    | none => q)

/-- The pending record of a SEQ code goes, unless it is one that is held to be taken later (R189). -/
def TaskCtx.dropPending (t : TaskCtx) (seq : Nat) : TaskCtx :=
  if t.heldFaults.any (fun h => h.seq.toNat == seq) then t else { t with pending := t.pending.erase seq }

/-- The suspension of the control sequencer ends, unless a held fault is taken next (R189). -/
def TaskCtx.unsuspend (t : TaskCtx) : TaskCtx :=
  let t := { t with suspended := false }
  match t.heldFaults with
  | [] => t
  | h :: r =>
    let t := { t.suspend with heldFaults := r }
    if h.seq = 0 then t.updSeq .control (fun q => { q with st := .faulted }) else t

/-- Return from a trap to the control sequencer (R339): its buffer replays, its pending record goes, and the
suspension ends unless a held fault is taken next (R189). -/
def State.returnControl (s : State) (c : Nat) (step : DWord) : State :=
  s.updTask c (fun t =>
    let t := (t.replay .control).updSeq .control (fun q => { q with st := .run, step := step })
    (t.dropPending 0).unsuspend)

/-- Return from a trap to a load, compute or store sequencer, or to Mule (R148, R339). -/
def State.returnAgent (s : State) (c : Nat) (a : Agent) (step : DWord) (toIdle : Bool) : State :=
  s.updTask c (fun t =>
    let t := t.dropPending (seqCode a).toNat
    match a with
    | .mule => { t with mule := { t.mule with st := if toIdle then .idle else .run, step := step.toNat } }
    | .image => t
    | _ => (t.replay a).updSeq a (fun q => { q with st := if toIdle then .idle else .run, step := step }))

end Sys2Proof.Machine
end

