-- ==== Sys2Proof/Machine/Flags.lean ====
section
/-! DEFINITION. Number formats, the one rounding function with the FSTAT bits it sets (R131 to R135), exact sums and products,
the exponent unit's functions (R284), group-scaled weights (R136), and lanes of a vector (R268). -/

namespace Sys2Proof.Machine

open Sys2Proof

/-! ### FSTAT bits (R135) -/

/-- NV: a NaN arose from operands none of which was NaN, or an infinity became an integer. -/
def fstNV : BitVec 5 := 1
/-- OF: a finite value overflowed a floating-point format. -/
def fstOF : BitVec 5 := 2
/-- UF: a non-zero value below the normal range was inexact. -/
def fstUF : BitVec 5 := 4
/-- NX: a rounded result differs from its exact value. -/
def fstNX : BitVec 5 := 8
/-- SAT: a result was clamped, or a NaN became an integer. -/
def fstSAT : BitVec 5 := 16

/-! ### Formats (R131, R132) -/

/-- The number formats of the module's arithmetic. -/
inductive NumFmt where
  | f32
  | bf16
  | f16
  | e4m3
  | e5m2
  | i32
  | i16
  | i8
  | n8
  deriving DecidableEq, Repr

/-- The rounding modes by code (R133). -/
inductive RoundMode where
  | nearestEven
  | towardZero
  | towardPlus
  | towardMinus
  deriving DecidableEq, Repr

/-- The rounding mode of a 2-bit code (R133). -/
def roundMode (c : Nat) : RoundMode :=
  match c % 4 with
  | 0 => .nearestEven
  | 1 => .towardZero
  | 2 => .towardPlus
  | _ => .towardMinus

/-- The width of a format in bytes. -/
def NumFmt.bytes : NumFmt → Nat
  | .f32 | .i32 => 4
  | .bf16 | .f16 | .i16 => 2
  | _ => 1

/-- Whether a format is an integer format. -/
def NumFmt.isInt : NumFmt → Bool
  | .i32 | .i16 | .i8 | .n8 => true
  | _ => false

/-- Exponent bits of a floating-point format. -/
def NumFmt.ebits : NumFmt → Nat
  | .f32 | .bf16 => 8
  | .f16 | .e5m2 => 5
  | _ => 4

/-- Fraction bits of a floating-point format. -/
def NumFmt.fbits : NumFmt → Nat
  | .f32 => 23
  | .bf16 => 7
  | .f16 => 10
  | .e5m2 => 2
  | _ => 3

/-- Exponent bias of a floating-point format. -/
def NumFmt.bias : NumFmt → Nat
  | .f32 | .bf16 => 127
  | .f16 | .e5m2 => 15
  | _ => 7

/-- The sign bit's place in a floating-point format. -/
def NumFmt.signBit (f : NumFmt) : Nat := f.ebits + f.fbits

/-- The largest finite value as an integer times a power of two: its integer. -/
def NumFmt.maxMant (f : NumFmt) : Nat := if f = .e4m3 then 14 else 2 ^ (f.fbits + 1) - 1

/-- The largest finite value's power of two. -/
def NumFmt.maxExp : NumFmt → Int
  | .f32 => 104
  | .bf16 => 120
  | .f16 => 5
  | .e5m2 => 13
  | _ => 5

/-- The largest value of an integer format. -/
def NumFmt.maxInt : NumFmt → Int
  | .i32 => 2147483647
  | .i16 => 32767
  | .i8 => 127
  | _ => 255

/-- The smallest value of an integer format. -/
def NumFmt.minInt : NumFmt → Int
  | .i32 => -2147483648
  | .i16 => -32768
  | .i8 => -128
  | _ => 0

/-- The canonical NaN of a floating-point format (R132). -/
def NumFmt.nan : NumFmt → Nat
  | .f32 => 0x7FC00000
  | .bf16 => 0x7FC0
  | .f16 => 0x7E00
  | .e5m2 => 0x7E
  | _ => 0x7F

/-- The bit pattern of +∞ of a format that has one (R132). -/
def NumFmt.inf (f : NumFmt) : Nat := (2 ^ f.ebits - 1) * 2 ^ f.fbits

/-- The bit pattern of the largest finite value. -/
def NumFmt.largest (f : NumFmt) : Nat := if f = .e4m3 then 0x7E else f.inf - 1

/-- An exact value: a NaN, an infinity, or a signed dyadic number m × 2 ^ e (zero keeps its sign). -/
inductive Num where
  | nan
  | inf (neg : Bool)
  | fin (neg : Bool) (m : Nat) (e : Int)
  deriving DecidableEq, Repr

/-- The value of a bit pattern (R131, R132). -/
def Num.ofBits (f : NumFmt) (v : Nat) : Num :=
  if f.isInt then
    let i : Int := if f = .n8 then (v % 256 : Nat) else sext v (8 * f.bytes)
    .fin (decide (i < 0)) i.natAbs 0
  else
    let neg := decide (v / 2 ^ f.signBit % 2 = 1)
    let ex := v / 2 ^ f.fbits % 2 ^ f.ebits
    let fr := v % 2 ^ f.fbits
    if f = .e4m3 then
      if ex = 15 ∧ fr = 7 then .nan
      else if ex = 0 then .fin neg fr (-9) else .fin neg (fr + 8) ((ex : Int) - 10)
    else if ex = 2 ^ f.ebits - 1 then (if fr = 0 then .inf neg else .nan)
    else if ex = 0 then .fin neg fr (1 - (f.bias : Int) - f.fbits)
    else .fin neg (fr + 2 ^ f.fbits) ((ex : Int) - f.bias - f.fbits)

/-- A number with its sign changed. -/
def Num.neg : Num → Num
  | .nan => .nan
  | .inf n => .inf (!n)
  | .fin n m e => .fin (!n) m e

/-- An integer times a power of two; zero takes the sign that the rounding mode gives an exact sum of opposite
values (R132). -/
def Num.ofInt (i : Int) (e : Int) (mode : RoundMode) : Num :=
  if i = 0 then .fin (mode == .towardMinus) 0 0 else .fin (decide (i < 0)) i.natAbs e

/-- The integer that a finite number is at the power of two `e0` at or below its own. -/
def scaledInt (neg : Bool) (m : Nat) (e e0 : Int) : Int :=
  let k := m * 2 ^ (e - e0).toNat
  if neg then -(k : Int) else k

/-- An exact sum, and whether a NaN arose (R132, R134, R135). -/
def Num.add (x y : Num) (mode : RoundMode) : Num × Bool :=
  match x, y with
  | .nan, _ => (.nan, false)
  | _, .nan => (.nan, false)
  | .inf a, .inf b => if a = b then (.inf a, false) else (.nan, true)
  | .inf a, _ => (.inf a, false)
  | _, .inf b => (.inf b, false)
  | .fin a m e, .fin b n f =>
    if m = 0 ∧ n = 0 then (if a = b then (.fin a 0 0, false) else (.fin (mode == .towardMinus) 0 0, false))
    else if m = 0 then (y, false)
    else if n = 0 then (x, false)
    else
      let e0 := min e f
      (Num.ofInt (scaledInt a m e e0 + scaledInt b n f e0) e0 mode, false)

/-- An exact product, and whether a NaN arose (R134, R135). -/
def Num.mul (x y : Num) : Num × Bool :=
  match x, y with
  | .nan, _ => (.nan, false)
  | _, .nan => (.nan, false)
  | .inf a, .inf b => (.inf (a != b), false)
  | .inf a, .fin b n _ => if n = 0 then (.nan, true) else (.inf (a != b), false)
  | .fin a m _, .inf b => if m = 0 then (.nan, true) else (.inf (a != b), false)
  | .fin a m e, .fin b n f => (.fin (a != b) (m * n) (e + f), false)

/-- Whether x < y as real values or infinities; false with a NaN (R280). -/
def Num.lt (x y : Num) : Bool :=
  match x, y with
  | .nan, _ => false
  | _, .nan => false
  | .inf a, .inf b => a && !b
  | .inf a, _ => a
  | _, .inf b => !b
  | .fin a m e, .fin b n f =>
    let e0 := min e f
    decide (scaledInt a m e e0 < scaledInt b n f e0)

/-- Whether x = y as real values or infinities; false with a NaN (R280). -/
def Num.eq (x y : Num) : Bool :=
  match x, y with
  | .nan, _ => false
  | _, .nan => false
  | .inf a, .inf b => a == b
  | .inf _, _ => false
  | _, .inf _ => false
  | .fin a m e, .fin b n f =>
    let e0 := min e f
    decide (scaledInt a m e e0 = scaledInt b n f e0)

/-- The order of R280 for minimum and maximum: as `lt`, and −0 below +0. -/
def Num.below (x y : Num) : Bool :=
  x.lt y ||
  (match x, y with
   | .fin a 0 _, .fin b 0 _ => a && !b
   | _, _ => false)

/-- Whether a number is a NaN. -/
def Num.isNan : Num → Bool
  | .nan => true
  | _ => false

/-! ### Rounding (R134) -/

/-- The multiple that m / 2 ^ k rounds to, for a magnitude with sign `neg`. -/
def roundShift (m k : Nat) (neg : Bool) (mode : RoundMode) : Nat :=
  let q := m / 2 ^ k
  let r := m % 2 ^ k
  match mode with
  | .nearestEven =>
    if 2 * r < 2 ^ k then q else if 2 ^ k < 2 * r then q + 1 else q + q % 2
  | .towardZero => q
  | .towardPlus => if r = 0 ∨ neg then q else q + 1
  | .towardMinus => if r = 0 ∨ !neg then q else q + 1

/-- `round_to` for an integer format, on a finite value. -/
def roundInt (f : NumFmt) (neg : Bool) (m : Nat) (e : Int) (mode : RoundMode) : Nat × BitVec 5 :=
  let k := (-e).toNat
  let y := if 0 ≤ e then m * 2 ^ e.toNat else roundShift m k neg mode
  let inexact := decide (e < 0) && decide (m % 2 ^ k ≠ 0)
  let i : Int := if neg then -(y : Int) else y
  let c := max f.minInt (min f.maxInt i)
  let fst : BitVec 5 := (if c ≠ i then fstSAT ||| fstNX else 0) ||| (if inexact then fstNX else 0)
  ((wrap (8 * f.bytes) c).toNat, fst)

/-- `round_to` for a floating-point format, on a finite non-zero value. -/
def roundFloat (f : NumFmt) (neg : Bool) (m : Nat) (e : Int) (mode : RoundMode) (sat : Bool) : Nat × BitVec 5 :=
  let sgn := if neg then 2 ^ f.signBit else 0
  let top : Int := (m.log2 : Int) + e
  let emin : Int := 1 - (f.bias : Int)
  let qe := max top emin - (f.fbits : Int)
  let k := (qe - e).toNat
  let y := if qe ≤ e then m * 2 ^ (e - qe).toNat else roundShift m k neg mode
  let inexact := decide (e < qe) && decide (m % 2 ^ k ≠ 0)
  let big := decide (f.maxExp ≤ qe) && decide (f.maxMant < y * 2 ^ (qe - f.maxExp).toNat)
  if big then
    if sat then (sgn + f.largest, fstOF ||| fstNX ||| fstSAT)
    else if f = .e4m3 then (f.nan, fstOF ||| fstNX)
    else if mode = .towardZero ∨ (mode = .towardPlus ∧ neg) ∨ (mode = .towardMinus ∧ !neg) then
      (sgn + f.largest, fstOF ||| fstNX)
    else (sgn + f.inf, fstOF ||| fstNX)
  else
    let fst : BitVec 5 := if inexact then (if top < emin then fstNX ||| fstUF else fstNX) else 0
    (sgn + (qe + f.fbits + f.bias - 1).toNat * 2 ^ f.fbits + y, fst)

/-- `round_to` of R134: the bit pattern of the result and the FSTAT bits it sets (R135). -/
def roundTo (f : NumFmt) (x : Num) (mode : RoundMode) (sat : Bool) : Nat × BitVec 5 :=
  match x with
  | .nan => if f.isInt then (0, fstSAT) else (f.nan, 0)
  | .inf neg =>
    if f.isInt then ((wrap (8 * f.bytes) (if neg then f.minInt else f.maxInt)).toNat, fstNV)
    else if f = .e4m3 then
      (if sat then ((if neg then 2 ^ f.signBit else 0) + f.largest, fstSAT) else (f.nan, fstNV))
    else ((if neg then 2 ^ f.signBit else 0) + f.inf, 0)
  | .fin neg m e =>
    if f.isInt then roundInt f neg m e mode
    else if m = 0 then (if neg then 2 ^ f.signBit else 0, 0)
    else roundFloat f neg m e mode sat

/-- The rounded result of an operation, with NV when a NaN arose. -/
def roundOp (f : NumFmt) (x : Num × Bool) (mode : RoundMode) (sat : Bool) : Nat × BitVec 5 :=
  let r := roundTo f x.1 mode sat
  (r.1, if x.2 then r.2 ||| fstNV else r.2)

/-- `saturate` of R134 for an exact integer. -/
def saturate (f : NumFmt) (i : Int) : Nat × BitVec 5 :=
  let c := max f.minInt (min f.maxInt i)
  ((wrap (8 * f.bytes) c).toNat, if c ≠ i then fstSAT else 0)

/-! ### Lane functions of the arithmetic units -/

/-- a + b, rounded once (R279). -/
def fltAdd (f : NumFmt) (mode : RoundMode) (a b : Nat) : Nat × BitVec 5 :=
  roundOp f ((Num.ofBits f a).add (Num.ofBits f b) mode) mode false

/-- a − b, rounded once (R279). -/
def fltSub (f : NumFmt) (mode : RoundMode) (a b : Nat) : Nat × BitVec 5 :=
  roundOp f ((Num.ofBits f a).add (Num.ofBits f b).neg mode) mode false

/-- a × b, rounded once (R279). -/
def fltMul (f : NumFmt) (mode : RoundMode) (a b : Nat) : Nat × BitVec 5 :=
  roundOp f ((Num.ofBits f a).mul (Num.ofBits f b)) mode false

/-- d + a × b with exact values, and whether a NaN arose. -/
def numFma (d a b : Num) (mode : RoundMode) : Num × Bool :=
  let p := a.mul b
  if d.isNan then (.nan, false)
  else
    let r := d.add p.1 mode
    (r.1, r.2 || p.2)

/-- d + a × b, rounded once (R279). -/
def fltFma (f : NumFmt) (mode : RoundMode) (d a b : Nat) : Nat × BitVec 5 :=
  roundOp f (numFma (Num.ofBits f d) (Num.ofBits f a) (Num.ofBits f b) mode) mode false

/-- The smaller value under R280. -/
def fltMin (f : NumFmt) (a b : Nat) : Nat :=
  let x := Num.ofBits f a
  let y := Num.ofBits f b
  if x.isNan || y.isNan then f.nan else if y.below x then b else a

/-- The larger value under R280. -/
def fltMax (f : NumFmt) (a b : Nat) : Nat :=
  let x := Num.ofBits f a
  let y := Num.ofBits f b
  if x.isNan || y.isNan then f.nan else if x.below y then b else a

/-- A conversion between formats (R281, R282). -/
def convert (src dst : NumFmt) (mode : RoundMode) (sat : Bool) (a : Nat) : Nat × BitVec 5 :=
  roundTo dst (Num.ofBits src a) mode sat

/-- A widening conversion, exact (R283). -/
def widen (src dst : NumFmt) (a : Nat) : Nat := (roundTo dst (Num.ofBits src a) .nearestEven false).1

/-- The integer square root of `n`, with `fuel` digits of base 4. -/
def isqrtFuel : Nat → Nat → Nat
  | 0, _ => 0
  | fuel + 1, n =>
    if n = 0 then 0
    else
      let r := 2 * isqrtFuel fuel (n / 4)
      if (r + 1) * (r + 1) ≤ n then r + 1 else r

/-- The integer square root. -/
def isqrt (n : Nat) : Nat := isqrtFuel (n.log2 / 2 + 1) n

/-- A value strictly between m × 2 ^ e and (m + 1) × 2 ^ e when `tail` is set, held as their midpoint: with more
bits than any format keeps, it rounds as the exact value does. -/
def withTail (neg : Bool) (m : Nat) (e : Int) (tail : Bool) : Num :=
  if tail then .fin neg (2 * m + 1) (e - 1) else .fin neg m e

/-- 1 / x (R284). -/
def numRcp (x : Num) : Num :=
  match x with
  | .nan => .nan
  | .inf neg => .fin neg 0 0
  | .fin neg m e =>
    if m = 0 then .inf neg
    else
      let k := m.log2 + 40
      withTail neg (2 ^ k / m) (-(k : Int) - e) (decide (2 ^ k % m ≠ 0))

/-- 1 / √x, and whether a NaN arose (R284). -/
def numRsq (x : Num) : Num × Bool :=
  match x with
  | .nan => (.nan, false)
  | .inf neg => if neg then (.nan, true) else (.fin false 0 0, false)
  | .fin neg m e =>
    if m = 0 then (.inf neg, false)
    else if neg then (.nan, true)
    else
      let m' := if e % 2 = 0 then m else 2 * m
      let e' := if e % 2 = 0 then e else e - 1
      let k := m'.log2 + 40
      let t := isqrt (2 ^ (2 * k) / m')
      (withTail false t (-(k : Int) - e' / 2) (decide (t * t * m' ≠ 2 ^ (2 * k))), false)

/-- The precision, in bits, of the working values of 2 ^ x (assumption 10). -/
def exp2Bits : Nat := 192

/-- The product of the roots 2 ^ (2 ^ −i) of the binary digits of a fraction, each held with `exp2Bits` bits: `root`
is the root of the digit at hand, `acc` the product so far, `frac` the digits that remain out of `n`. -/
def exp2Digits : Nat → Nat → Nat → Nat → Nat
  | 0, _, acc, _ => acc
  | n + 1, root, acc, frac =>
    let root' := isqrt (root * 2 ^ exp2Bits)
    let acc' := if frac / 2 ^ n % 2 = 1 then acc * root' / 2 ^ exp2Bits else acc
    if frac % 2 ^ n = 0 then acc' else exp2Digits n root' acc' frac

/-- 2 ^ x (R284). A non-integer power is irrational and is held with `exp2Bits` bits and a tail (assumption 10). -/
def numExp2 (x : Num) : Num :=
  match x with
  | .nan => .nan
  | .inf neg => if neg then .fin false 0 0 else .inf false
  | .fin neg m e =>
    if m = 0 then .fin false 1 0
    else if 12 ≤ (m.log2 : Int) + e then .fin false 1 (if neg then -4096 else 4096)
    else if 0 ≤ e then .fin false 1 (scaledInt neg m e 0)
    else
      let k := (-e).toNat
      let whole := m / 2 ^ k
      let frac := m % 2 ^ k
      if frac = 0 then .fin false 1 (if neg then -(whole : Int) else whole)
      else
        let fl : Int := if neg then -(whole : Int) - 1 else whole
        let fr := if neg then 2 ^ k - frac else frac
        withTail false (exp2Digits k (2 * 2 ^ exp2Bits) (2 ^ exp2Bits) fr) (fl - (exp2Bits : Int)) true

/-! ### Lanes (R268) -/

/-- `n` lanes of `k` bits, lane 0 first. -/
def lanesOf (k : Nat) : Nat → Nat → List Nat
  | 0, _ => []
  | n + 1, v => v % 2 ^ k :: lanesOf k n (v / 2 ^ k)

/-- Lanes of `k` bits put together, lane 0 lowest. -/
def packLanes (k : Nat) : List Nat → Nat
  | [] => 0
  | x :: r => x % 2 ^ k + 2 ^ k * packLanes k r

/-- The first `n` bits of a mask from bit `i` on. -/
def maskFrom (m : Mask) (i : Nat) : Nat → List Bool
  | 0 => []
  | n + 1 => m.getLsbD i :: maskFrom m (i + 1) n

/-- A mask from its bits, bit 0 first. -/
def packBits : List Bool → Nat
  | [] => 0
  | b :: r => (if b then 1 else 0) + 2 * packBits r

/-- The lanes of results, and the FSTAT bits that the enabled ones set (R270). -/
def laneStatus : List Bool → List (Nat × BitVec 5) → BitVec 5
  | [], _ => 0
  | _, [] => 0
  | b :: bs, r :: rs => (if b then r.2 else 0) ||| laneStatus bs rs

/-- A result in lanes of `k` bits. -/
def packResults (k : Nat) (rs : List (Nat × BitVec 5)) : VReg := BitVec.ofNat 2048 (packLanes k (rs.map (·.1)))

/-- A function applied to the lanes of three vectors; a masked-off lane gives zero and no status. -/
def laneMap3 (k : Nat) (f : Nat → Nat → Nat → Nat × BitVec 5) :
    List Bool → List Nat → List Nat → List Nat → List (Nat × BitVec 5)
  | en :: es, a :: as, b :: bs, d :: ds =>
    (if en then f a b d else (0, 0)) :: laneMap3 k f es as bs ds
  | _, _, _, _ => []

/-- Bytes of a vector: the low 8 k bits from byte `o`. -/
def vbytes (v : VReg) (o k : Nat) : Nat := v.toNat / 2 ^ (8 * o) % 2 ^ (8 * k)

/-! ### Reductions (R285) -/

/-- The sum of lanes in ascending order, each step rounded to f32 (R285). -/
def sumLanes (t : NumFmt) : List Nat → Nat → BitVec 5 → Nat × BitVec 5
  | [], s, fst => (s, fst)
  | a :: r, s, fst =>
    let q := roundOp .f32 ((Num.ofBits .f32 s).add (Num.ofBits t a) .nearestEven) .nearestEven false
    sumLanes t r q.1 (fst ||| q.2)

/-- `VRSUM` over the taking lanes. -/
def reduceSum (t : NumFmt) (xs : List Nat) : Nat × BitVec 5 :=
  if t = .i32 then saturate .i32 ((xs.map (fun a => sext a 32)).foldl (· + ·) 0)
  else
    let s := sumLanes t xs 0 0
    let r := convert .f32 t .nearestEven false s.1
    (r.1, s.2 ||| r.2)

/-- `VRMAX` over the taking lanes. -/
def reduceMax (t : NumFmt) (xs : List Nat) : Nat :=
  if t = .i32 then (wrap 32 ((xs.map (fun a => sext a 32)).foldl max (-2147483648))).toNat
  else xs.foldl (fltMax t) (2 ^ t.signBit + t.inf)

/-- `VRMIN` over the taking lanes. -/
def reduceMin (t : NumFmt) (xs : List Nat) : Nat :=
  if t = .i32 then (wrap 32 ((xs.map (fun a => sext a 32)).foldl min 2147483647)).toNat
  else xs.foldl (fltMin t) t.inf

/-! ### Group-scaled weights and the multiplier (R136 to R138) -/

/-- `expand` of R136: the bf16 bits of element q under scale s (e5m2) and zero point z (bf16). -/
def expandWeight (q : Int) (s z : Nat) : Nat :=
  let zero := Num.ofBits .bf16 z
  let d := (roundTo .bf16 ((Num.ofInt q 0 .nearestEven).add zero.neg .nearestEven).1 .nearestEven false).1
  (roundTo .bf16 ((Num.ofBits .e5m2 s).mul (Num.ofBits .bf16 d)).1 .nearestEven false).1

/-- One k-step at one accumulator element (R138). -/
def accumulate (acc : NumFmt) (mode : RoundMode) (c : Nat) (a b : Num) : Nat × BitVec 5 :=
  if acc = .i32 then
    match a, b with
    | .fin na m _, .fin nb n _ =>
      saturate .i32 (sext c 32 + scaledInt (na != nb) (m * n) 0 0)
    | _, _ => (c, 0)
  else roundOp acc (numFma (Num.ofBits acc c) a b mode) mode false

/-- The matrix engine's value times a sign and a power of two, exactly (R141). -/
def Num.scale (x : Num) (neg : Bool) (k : Int) : Num :=
  match x with
  | .nan => .nan
  | .inf n => .inf (n != neg)
  | .fin n m e => .fin (n != neg) m (e + k)

/-- One word of an accumulate write (R55): operation 0 f32, 1 bf16, 2 f16, 3 i32. -/
def accumulateWord (op : Nat) (old w : Nat) : Nat :=
  match op with
  | 0 => (fltAdd .f32 .nearestEven old w).1
  | 1 =>
    (fltAdd .bf16 .nearestEven (old % 65536) (w % 65536)).1 +
      65536 * (fltAdd .bf16 .nearestEven (old / 65536 % 65536) (w / 65536 % 65536)).1
  | 2 =>
    (fltAdd .f16 .nearestEven (old % 65536) (w % 65536)).1 +
      65536 * (fltAdd .f16 .nearestEven (old / 65536 % 65536) (w / 65536 % 65536)).1
  | _ => (saturate .i32 (sext old 32 + sext w 32)).1

end Sys2Proof.Machine
end

