-- ==== Sys2Proof/Machine/Operands.lean ====
section
/-! DEFINITION. Operand forms: immediates under a prefix (R226), predicates and descriptor fields, the operands of a vector
micro-order with their queues, windows, rotation, holds, masks and gate (R231, R232, R268 to R272), and what a nest in
flight owns and shows (R37, R286). -/

namespace Sys2Proof.Machine

open Sys2Proof

/-- The outcome of an instruction. -/
abbrev Out := Host.Outcome State Fault Refusal

/-- The operand-field number that names token `k` (R186). -/
def opfToken (k : Nat) : Nat := 64 + k
/-- The operand-field number that names flag `f` (R186). -/
def opfFlag (f : Nat) : Nat := 96 + f
/-- The operand-field number that names matrix operand A (0), B (1) or C (2) (R186). -/
def opfMatrix (k : Nat) : Nat := 128 + k
/-- The operand-field number that names format-table entry `i` (R186). -/
def opfFormat (i : Nat) : Nat := 144 + i
/-- The operand-field number that names tag `t` (R186). -/
def opfTag (t : Nat) : Nat := 192 + t

/-! ### Immediates (R226, R249) -/

/-- The immediate of a word with its prefix, sign-extended. -/
def State.immS (s : State) (i : BitVec 16) : DWord :=
  match s.cur.pfx with
  | none => i.signExtend 64
  | some h => BitVec.signExtend 64 (h ++ i)

/-- The immediate of a word with its prefix, zero-extended. -/
def State.immZ (s : State) (i : BitVec 16) : DWord :=
  match s.cur.pfx with
  | none => i.setWidth 64
  | some h => BitVec.setWidth 64 (h ++ i)

/-- A transfer of the issuing agent to `t`; it takes effect after the words of the bundle (R149). -/
def State.jump (s : State) (t : DWord) : State := { s with cur := { s.cur with target := some t } }

/-! ### What a nest in flight owns (R37, R296, R286) -/

/-- Word `n` of a nest-table bank. -/
def ntWord (nt : SMap Word) (n : Nat) : Nat := (nt.get n 0).toNat

/-- The trip count of level `l` (R295). -/
def ntTrip (nt : SMap Word) (l : Nat) : Nat := ntWord nt (10 + 3 * l) % 2 ^ 16

/-- The slot stride of level `l` (R295). -/
def ntCstr (nt : SMap Word) (l : Nat) : Int := sext (ntWord nt (10 + 3 * l) / 2 ^ 20) 8

/-- Whether some counter values of the levels below `n` add up to `d` slots. -/
def slotReach (nt : SMap Word) : Nat → Int → Bool
  | 0, d => d == 0
  | n + 1, d =>
    let st := ntCstr nt n
    if st = 0 then slotReach nt n d
    else (List.range (ntTrip nt n)).any (fun c => slotReach nt n (d - c * st))

/-- Whether a nest with this bank owns slot `k` (R296). -/
def ntOwns (nt : SMap Word) (k : Nat) : Bool :=
  slotReach nt 6 ((k : Int) - (ntWord nt 1 % 256 : Nat))

/-- The nest in flight on a task, if any: its bank and its progress. -/
def TaskCtx.nestRun (t : TaskCtx) : Option (Cmd × NestSt) :=
  match t.mx.running with
  | [] => none
  | r :: _ =>
    match r.st with
    | .nest n => some (r.cmd, n)
    | _ => none

/-- How far the nest of a running command has come, one that has ended and not yet retired among them (R37). -/
def Running.nestSt (r : Running) : Option NestSt :=
  match r.st with
  | .nest n => some n
  | .ended .. => r.nested
  | _ => none

/-- The nest that owns a slot of a task, if any: from its dequeue until it retires (R37). -/
def TaskCtx.nestHeld (t : TaskCtx) : Option (Cmd × NestSt) :=
  match t.mx.running with
  | [] => none
  | r :: _ => r.nestSt.map (fun n => (r.cmd, n))

/-- Whether a nest in flight owns slot `k` of a task (R37). -/
def TaskCtx.owned (t : TaskCtx) (k : Nat) : Bool :=
  match t.nestHeld with
  | some (c, _) => ntOwns c.nt k
  | none => false

/-- Whether row `n` lies in a slot the task holds (R35). -/
def TaskCtx.holdsRow (t : TaskCtx) (n : Nat) : Bool := decide (n / 64 < t.id.nslot)

/-- Row `n` of core `c` as its bank's read port gives it: a row that is written in the ac at hand reads as it stood before (R36). -/
def State.portRow (s : State) (c n : Nat) : VReg := BitVec.ofNat 2048 (Memory.readNat s.portMem (rowPlace c n) 256)

/-- Row `n` of core `c` as a source sees it (R36): a row of an owned slot that no k-step had touched as the ac began reads as +0 under
ZERO (R286). -/
def State.viewRow (s : State) (c n : Nat) : VReg :=
  match (s.was c).nestHeld with
  | some (cmd, st) =>
    if ntOwns cmd.nt (n / 64) && decide (ntWord cmd.nt 0 % 2 = 1) && !st.touched.contains (n / 64) then 0
    else s.portRow c n
  | none => s.portRow c n

/-! ### Lanes of the mode (R147, R268) -/

/-- ACCM.MODE of the issuing task. -/
def State.mode (s : State) : Nat := s.me.regs.mode.toNat
/-- The lane width of the mode in bytes. -/
def State.laneBytes (s : State) : Nat := if s.mode ≤ 1 then 4 else 2
/-- VL of the mode. -/
def State.vl (s : State) : Nat := 256 / s.laneBytes
/-- The lane type of the mode (R147). -/
def State.laneFmt (s : State) : NumFmt :=
  match s.mode with
  | 0 => .f32
  | 1 => .i32
  | 2 => .bf16
  | _ => .f16
/-- Whether a lane type may issue in the mode (R233). -/
def State.typeOk (s : State) (f : NumFmt) : Bool := f.bytes == s.laneBytes

/-- The lane type of a two-bit type field: f32, bf16, f16, i32 (R279, R285). -/
def laneType (t : BitVec 2) : NumFmt :=
  match t.toNat with
  | 0 => .f32
  | 1 => .bf16
  | 2 => .f16
  | _ => .i32

/-- The format of a code of R234. -/
def fmtOf (c : Nat) : NumFmt :=
  match c with
  | 0 => .f32
  | 1 => .bf16
  | 2 => .f16
  | 3 => .e4m3
  | 4 => .e5m2
  | 5 => .i32
  | 6 => .i16
  | _ => .i8

/-! ### Vector operands -/

/-- The physical register of v`n` (R269). -/
def Regs.vphys (r : Regs) (n : Nat) : Nat := if n < 16 then n else 16 + (n - 16 + r.vrb.toNat) % 16

/-- The operand buffer's row `n`, if it is held (R272). -/
def Regs.heldRow (r : Regs) (n : Nat) : Option VReg :=
  match r.held.find? (fun h => h.row == n) with
  | some h => some h.value
  | none => none

/-- One micro-order passes the hold windows (R272). -/
def State.ageHeld (s : State) : State :=
  s.updRegs s.cur.core (fun r =>
    { r with held := (r.held.filter (fun h => decide (1 < h.left))).map (fun h => { h with left := h.left - 1 }) })

/-- Row `n` with `value` enters the operand buffer, or its window is renewed (R272). The count includes the
micro-order that holds it. -/
def holdRow (n : Nat) (value : VReg) (h : List HeldRow) : List HeldRow :=
  if h.any (fun e => e.row == n) then h.map (fun e => if e.row = n then { e with left := 3 } else e)
  else h ++ [{ row := n, value := value, left := 3 }]

/-- The operands of a vector micro-order (R231). `dsrc`: D is also a source; `rowA`: the row of A is also written
(LU of R276). -/
structure VOp where
  d : Option (BitVec 6) := none
  a : Option (BitVec 6) := none
  b : Option (BitVec 6) := none
  ha : Bool := false
  hb : Bool := false
  dsrc : Bool := false
  rowA : Bool := false
  mask : BitVec 3 := 0
  gate : Bool := false
  deriving DecidableEq, Repr

/-- What a micro-order's body receives: its source values, its mask and its destination. -/
structure VIn where
  a : VReg := 0
  b : VReg := 0
  d : VReg := 0
  mask : Mask := 0
  target : Target := .none
  rowA : Nat := 0
  deriving DecidableEq, Repr

/-- The row a window operand names (R269). -/
def Regs.windowRow (r : Regs) (o : BitVec 6) : Nat := r.vwb + (o.toNat - 48)

/-- Whether a window operand names a row outside the held slots (R35). -/
def State.rowBreach (s : State) (o : Option (BitVec 6)) : Bool :=
  match o with
  | some v => decide (48 ≤ v.toNat) && !s.me.holdsRow (s.me.regs.windowRow v)
  | none => false

/-- Whether a window operand names a row of a slot that a nest owns. -/
def State.rowOwned (s : State) (o : Option (BitVec 6)) : Bool :=
  match o with
  | some v => decide (48 ≤ v.toNat) && s.me.owned (s.me.regs.windowRow v / 64)
  | none => false

/-- Whether a source operand reads a row that holds an error: a row that the operand buffer holds is not read (R201, R272). -/
def State.rowBad (s : State) (o : Option (BitVec 6)) : Bool :=
  match o with
  | some v =>
    decide (48 ≤ v.toNat) && (s.me.regs.heldRow (s.me.regs.windowRow v)).isNone &&
      s.poisonedIn (rowPlace s.cur.core (s.me.regs.windowRow v)) 256
  | none => false

/-- The machine check of reading a source row (R201). -/
def State.rowFault (s : State) (o : Option (BitVec 6)) (opf : Nat) : FaultInfo :=
  let p := rowPlace s.cur.core (s.me.regs.windowRow (o.getD 0))
  poisonFault s (inRange p 256) 0 opf

/-- The load queue a source operand pops, with whether it does not block (R232). -/
def srcQueue (o : Option (BitVec 6)) : Option (Nat × Bool) :=
  match o with
  | some v =>
    if 32 ≤ v.toNat ∧ v.toNat < 40 then some (v.toNat - 32, false)
    else if 40 ≤ v.toNat ∧ v.toNat < 48 then some (v.toNat - 40, true)
    else none
  | none => none

/-- The store queue a destination operand pushes, with whether it does not block (R232). -/
def dstQueue (o : Option (BitVec 6)) : Option (Nat × Bool) :=
  match o with
  | some v =>
    if 32 ≤ v.toNat ∧ v.toNat < 40 then some (v.toNat - 24, true)
    else if 40 ≤ v.toNat ∧ v.toNat < 48 then some (v.toNat - 32, false)
    else none
  | none => none

/-- Entries a queue holds at most (R92). -/
def queueDepth (q : Nat) : Nat := if q < 8 then 16 else 8

/-- Queue `q` of the issuing task. -/
def State.queue (s : State) (q : Nat) : List QEntry := s.me.shared.queue.get q []

/-- Queue `q` of the issuing task as it stood when the ac at hand began (R92). -/
def State.oldQueue (s : State) (q : Nat) : List QEntry := (s.was s.cur.core).shared.queue.get q []

/-- Whether an entry can be popped: the oldest is filled, stood so when the ac began, and what its push releases has performed (R92,
R94). -/
def State.canPop (s : State) (q : Nat) : Bool :=
  match s.queue q with
  | [] => false
  | e :: _ => e.ready && !s.anyLive e.after && (s.oldQueue q).any (fun o => o.id == e.id && o.ready)

/-- Whether a queue has room (R92): the entries that it held when the ac began and those pushed in it. -/
def State.canPush (s : State) (q : Nat) : Bool :=
  let old := s.oldQueue q
  decide (old.length + ((s.queue q).filter (fun e => !old.any (fun o => o.id == e.id))).length < queueDepth q)

/-- Whether every queue operand of one kind, blocking or not, can move its entry. -/
def State.queuesReady (s : State) (o : VOp) (nb : Bool) : Bool :=
  let src (x : Option (BitVec 6)) : Bool :=
    match srcQueue x with
    | some (q, k) => (k != nb) || s.canPop q
    | none => true
  let dst : Bool :=
    match dstQueue o.d with
    | some (q, k) => (k != nb) || s.canPush q
    | none => true
  src o.a && src o.b && dst

/-- Whether a micro-order has a non-blocking operand. -/
def VOp.hasNb (o : VOp) : Bool :=
  let nb (x : Option (Nat × Bool)) : Bool := match x with | some (_, k) => k | none => false
  nb (srcQueue o.a) || nb (srcQueue o.b) || nb (dstQueue o.d)

/-- The queue operand that holds a micro-order back, of those that do not let it pass. -/
def State.queueCause (s : State) (o : VOp) : Cause :=
  match srcQueue o.a, srcQueue o.b, dstQueue o.d with
  | some (p, false), _, _ =>
    if !s.canPop p then .pop p
    else
      (match srcQueue o.b, dstQueue o.d with
       | some (q, false), d => if !s.canPop q then .pop q else (match d with | some (r, false) => .push r | _ => .none)
       | _, some (r, false) => .push r
       | _, _ => .none)
  | _, some (q, false), d => if !s.canPop q then .pop q else (match d with | some (r, false) => .push r | _ => .none)
  | _, _, some (r, false) => .push r
  | _, _, _ => .none

/-- The oldest entry of queue `q` leaves it. -/
def State.popQueue (s : State) (q : Nat) : State :=
  s.updShared s.cur.core (fun h => { h with queue := h.queue.set q ((h.queue.get q []).drop 1) })

/-- An entry is reserved at the end of queue `q`, under the fresh number `nextId`; the push releases the agent's earlier accesses
(R92). -/
def State.reserve (s : State) (q : Nat) (e : QEntry) : State :=
  let after := s.ownAccesses s.cur.core s.cur.agent
  (s.updShared s.cur.core (fun h =>
    { h with queue := h.queue.set q (h.queue.get q [] ++ [{ e with id := s.nextId, after := after }]) })).bumpId

/-- The value of a source operand (R232, R272, R286). -/
def State.vsrc (s : State) (o : Option (BitVec 6)) : VReg :=
  match o with
  | none => 0
  | some v =>
    let r := s.me.regs
    if v.toNat < 32 then r.v.get (r.vphys v.toNat) 0
    else if v.toNat < 48 then
      (match s.queue ((v.toNat - 32) % 8) with
       | e :: _ => e.data
       | [] => 0)
    else
      match r.heldRow (r.windowRow v) with
      | some x => x
      | none => s.viewRow s.cur.core (r.windowRow v)

/-- A source with its hold bit set enters the operand buffer with the value it read (R272). -/
def State.holdSrc (s : State) (o : Option (BitVec 6)) (h : Bool) (v : VReg) : State :=
  match o with
  | some x =>
    if h && decide (48 ≤ x.toNat) then
      s.updRegs s.cur.core (fun r => { r with held := holdRow (r.windowRow x) v r.held })
    else s
  | none => s

/-- The pops of the source operands: one entry per queue named (R232). -/
def State.popSources (s : State) (o : VOp) : State :=
  match srcQueue o.a, srcQueue o.b with
  | some (p, _), some (q, _) => if p = q then s.popQueue p else (s.popQueue p).popQueue q
  | some (p, _), none => s.popQueue p
  | none, some (q, _) => s.popQueue q
  | none, none => s

/-- The destination of a micro-order resolved (R269), with the entry reserved when it is a queue (R92, R274). -/
def State.vdest (s : State) (o : VOp) (m : Mask) : Target × State :=
  match o.d with
  | none => (.none, s)
  | some v =>
    if v.toNat < 32 then (.v (s.me.regs.vphys v.toNat), s)
    else if 48 ≤ v.toNat then (.row (s.me.regs.windowRow v), s)
    else
      match dstQueue o.d with
      | some (q, _) => (.qent q s.nextId, s.reserve q { id := 0, mask := m })
      | none => (.none, s)

/-- A vector result enters the pipeline (R270): a queue entry carries zero in masked-off lanes. -/
def State.putV (s : State) (t : Target) (l : Nat) (v : VReg) (mask : Mask) (lane : Nat) (fst : BitVec 5 := 0) : State :=
  match t with
  | .qent _ _ => s.put { target := t, data := mergeLanes 0 v mask lane, mask := mask, lane := 0, fst := fst, left := l }
  | _ => s.put { target := t, data := v, mask := mask, lane := lane, fst := fst, left := l }

/-- m7 written by non-blocking operands, of class S1 (R232, R274). -/
def State.putM7 (s : State) (b : Bool) : State :=
  s.put { target := .m 7, data := (if b then BitVec.allOnes 128 else 0 : Mask).setWidth 2048, left := 1 }

/-- Whether the stage predicate lets a gated micro-order take effect (R271). -/
def State.stageOn (s : State) : Bool :=
  let v := (s.sreg 15).toNat
  decide (v / 2 ^ (v / 2 ^ 16 % 16) % 2 = 1)

/-- A vector micro-order up to its body (R232, R271 to R273): reserved uses first, then the gate, bounds, owned
slots, blocking queues, non-blocking queues and errors of the rows read (R201); then the sources are read and popped and the destination is
resolved. `bad` is a rule of the entry that the micro-order breaks. -/
def vIssue (o : VOp) (bad : Option Nat) (body : VIn → State → State) (s : State) : Out :=
  match bad with
  | some f => raise (reservedField f) s
  | none =>
    if o.gate && !s.stageOn then .next s.ageHeld
    else if s.rowBreach o.d then raise (progError 2 1) s
    else if s.rowBreach o.a then raise (progError 2 2) s
    else if s.rowBreach o.b then raise (progError 2 3) s
    else if s.rowOwned o.d then raise { cls := 5, kind := 1, opf := 1 } s
    else if o.rowA && s.rowOwned o.a then raise { cls := 5, kind := 1, opf := 2 } s
    else if !s.queuesReady o false then block s (s.queueCause o)
    else if !s.queuesReady o true then .next (s.putM7 false).ageHeld
    else if s.rowBad o.a then raise (s.rowFault o.a 2) s
    else if s.rowBad o.b then raise (s.rowFault o.b 3) s
    else if o.dsrc && s.rowBad o.d then raise (s.rowFault o.d 1) s
    else
      let a := s.vsrc o.a
      let b := s.vsrc o.b
      let d := if o.dsrc then s.vsrc o.d else 0
      let m := s.me.regs.mask o.mask.toNat
      let rowA := match o.a with | some v => s.me.regs.windowRow v | none => 0
      let s := s.popSources o
      let (t, s) := s.vdest o m
      let s := if o.hasNb then s.putM7 true else s
      let s := (s.holdSrc o.a o.ha a).holdSrc o.b o.hb b
      .next (body { a := a, b := b, d := d, mask := m, target := t, rowA := rowA } s).ageHeld

/-- A micro-order of layout S or a mask operation: no vector operand; it counts for the hold windows (R272). -/
def vScalar (bad : Option Nat) (body : State → State) (s : State) : Out :=
  match bad with
  | some f => raise (reservedField f) s
  | none => .next (body s).ageHeld

end Sys2Proof.Machine
end

