-- ==== Sys2Proof/Machine/Segments.lean ====
section
/-! DEFINITION. Segments, translation and the checks an access meets: the descriptor (R16, R17), the lookup (R14), the second
stage (R27), the page walk (R21 to R26) and the lease check at the home (R15, R76). -/

namespace Sys2Proof.Machine

open Sys2Proof

/-- Core number of die, cluster and core (R2). -/
def coreNum (die cl core : Nat) : Nat := die * 512 + cl * 16 + core
/-- The cluster of a core number, counted over the module. -/
def coreCluster (c : Nat) : Nat := c / 16

/-- The granule of a tier in bytes (R6). -/
def granule (tier : Nat) (pg : Bool) : Nat :=
  match tier with
  | 0 => 16384
  | 1 => 64
  | 2 => 256
  | _ => if pg then 65536 else 4096

/-- The rate of a tier in units per byte and tick (R6). -/
def tierRate : Nat → Nat
  | 0 => 64
  | 1 => 32
  | 2 => 8
  | 3 => 2
  | _ => 1

/-! ### Descriptors -/

/-- A field of a descriptor or record. -/
def dbits {n : Nat} (d : BitVec n) (lo k : Nat) : Nat := d.toNat / 2 ^ lo % 2 ^ k

/-- A segment descriptor's fields (R16). -/
structure Desc where
  lgen : Nat
  lease : Nat
  acct : Nat
  bound : Nat
  base : Nat
  hdie : Nat
  hcl : Nat
  hcore : Nat
  sync : Bool
  cd : Bool
  lm : Bool
  x : Bool
  w : Bool
  r : Bool
  tier : Nat
  kind : Nat
  v : Bool
  bad : Bool
  deriving DecidableEq, Repr

/-- A descriptor read from its 256 bits; `bad` marks a reserved field, a reserved value or a combination that R17
does not allow. -/
def Desc.ofBits (d : BitVec 256) : Desc :=
  let tier := dbits d 4 3
  let kind := dbits d 1 3
  let x := dbits d 10 1 = 1
  let w := dbits d 9 1 = 1
  let r := dbits d 8 1 = 1
  let hdie := dbits d 29 3
  let hcl := dbits d 24 5
  let hcore := dbits d 20 4
  let resv := dbits d 208 48 ≠ 0 ∨ dbits d 154 18 ≠ 0 ∨ dbits d 90 6 ≠ 0 ∨ dbits d 14 6 ≠ 0 ∨ dbits d 7 1 ≠ 0
  let home := (tier = 2 ∧ hcore ≠ 0) ∨ (3 ≤ tier ∧ (hdie ≠ 0 ∨ hcl ≠ 0 ∨ hcore ≠ 0))
  let comb := tier = 0 ∨ 5 ≤ tier ∨ 3 ≤ kind ∨ (kind = 1 ∧ (tier ≠ 3 ∨ x)) ∨
    (kind = 2 ∧ (tier ≠ 1 ∨ x ∨ r ∨ ¬ w))
  { lgen := dbits d 200 8, lease := dbits d 184 16, acct := dbits d 172 12, bound := dbits d 96 58,
    base := dbits d 32 58, hdie := hdie, hcl := hcl, hcore := hcore, sync := dbits d 13 1 = 1,
    cd := dbits d 12 1 = 1, lm := dbits d 11 1 = 1, x := x, w := w, r := r, tier := tier, kind := kind,
    v := dbits d 0 1 = 1, bad := decide (resv ∨ home ∨ comb) }

/-- The home core of a tier-1 descriptor. -/
def Desc.homeCore (d : Desc) : Nat := coreNum d.hdie d.hcl d.hcore

/-- The offset of an address (R12). -/
def vaOff (va : DWord) : Nat := va.toNat % 2 ^ 58

/-- What a lookup is for (R14). -/
inductive Mode where
  | load
  | store
  | fetch
  deriving DecidableEq, Repr

/-- The descriptor in slot `n` of core `c`'s copy. -/
def State.slotDesc (s : State) (c n : Nat) : Desc := Desc.ofBits ((s.core c).table.get n 0)

/-- The segment lookup of R14 on core `c`, for `size` bytes at `va`. -/
def State.lookup (s : State) (c : Nat) (va : DWord) (size : Nat) (mode : Mode) (opf : Nat := 0) :
    Except FaultInfo Desc :=
  let n := vaSlot va
  let d := s.slotDesc c n
  let err (cls kind : Nat) : Except FaultInfo Desc :=
    .error { cls := BitVec.ofNat 4 cls, kind := BitVec.ofNat 8 kind, opf := BitVec.ofNat 8 opf, addr := va, slot := n }
  if (s.core c).expired.get n false then err 2 1
  else if !d.v then err 1 1
  else if d.bad then err 1 3
  else if (match mode with | .load => !d.r | .store => !d.w | .fetch => !d.x) then err 1 1
  else if d.bound < vaOff va + size then err 1 2
  else .ok d

/-! ### The second stage (R27, R28) -/

/-- A second-stage entry's fields: enabled, base and size in bytes (R28). -/
def stageFields (e : BitVec 128) : Bool × Nat × Nat := (dbits e 64 1 = 1, dbits e 16 23 * 65536, dbits e 80 24 * 65536)

/-- The second-stage entry of a function. -/
def State.stage (s : State) (fn : Nat) : Bool × Nat × Nat := stageFields (s.fn fn).sstage

/-- The module HBM address of `n` bytes at guest-physical `g` under a second-stage entry, or none (R27). -/
def stagePlace (e : BitVec 128) (g n : Nat) : Option Nat :=
  let (en, base, size) := stageFields e
  if en && decide (g + n ≤ size) then some (base + g) else none

/-- The module HBM address of `n` bytes at guest-physical `g` of a function, or none (R27). -/
def State.secondStage (s : State) (fn g n : Nat) : Option Nat := stagePlace (s.fn fn).sstage g n

/-! ### Absent storage (R46) -/

/-- The pseudo-channels of a stack that the map of disabled units names (R46): all of them for one that failed its training (R371). -/
def State.channelsOff (s : State) (stack : Nat) : BitVec 256 :=
  if s.hub.untrained.contains stack then BitVec.allOnes 256 else s.cfg.channelsOff.get stack 0

/-- Bytes of a stack that exist (R46). -/
def State.stackBytes (s : State) (stack : Nat) : Nat := 2 ^ 36 - popBits (s.channelsOff stack).toNat 256 * 2 ^ 28

/-- Whether some place lies in an absent part of a stack (R46). -/
def State.absent (s : State) (ps : List Nat) : Bool :=
  !(s.cfg.channelsOff.isEmpty && s.hub.untrained.isEmpty) && ps.any (fun p => placeTier p == 3 && decide (s.stackBytes (p / 2 ^ 36) ≤ p % 2 ^ 36))

/-- Whether some of the `n` bytes from place `lo` lie in an absent part of a stack (R46). -/
def State.absentIn (s : State) (lo n : Nat) : Bool :=
  placeTier lo == 3 && decide (n ≠ 0) && !(s.cfg.channelsOff.isEmpty && s.hub.untrained.isEmpty) &&
  (List.range 8).any (fun k => decide (lo < (k + 1) * 2 ^ 36 ∧ k * 2 ^ 36 + s.stackBytes k < lo + n ∧ s.stackBytes k < 2 ^ 36))

/-! ### Places -/

/-- The numbers from `a` on, `n` of them. -/
def fromTo (a : Nat) : Nat → List Nat
  | 0 => []
  | n + 1 => a :: fromTo (a + 1) n

/-- The place of the byte at offset `o` of a contiguous segment of tiers 1, 2 and 4, in plain or skewed mode (R39,
R42, R44, R29). -/
def Desc.place (d : Desc) (skew : Bool) (o : Nat) : Nat :=
  match d.tier with
  | 1 => nearPlace d.homeCore (if skew then skewAddr (d.base + o) else d.base + o)
  | 2 => clusterPlace (d.hdie * 32 + d.hcl) (d.base + o)
  | _ => hostPlace (d.base + o)

/-- Why an access cannot reach its places: class, kind and the address of the record. -/
abbrev WalkFault := Nat × Nat × Nat

/-- The places of bytes at offsets `o` of a contiguous segment of function `fn` (R27 for tier 3). -/
def State.contigPlaces (s : State) (fn : Nat) (d : Desc) (skew : Bool) (os : List Nat) : Except WalkFault (List Nat) :=
  if d.tier = 3 then
    match os with
    | [] => .ok []
    | o :: _ =>
      let lo := d.base + os.foldl min o
      let hi := d.base + os.foldl max o
      match s.secondStage fn lo (hi - lo + 1) with
      | some p => .ok (os.map (fun x => p + (d.base + x - lo)))
      | none => .error (1, 2, lo)
  else .ok (os.map (d.place skew))

/-! ### The page walk (R21 to R26) -/

/-- A page-table entry breaks the rules of R22 at a level. -/
def pteBad (level e : Nat) : Bool :=
  decide (e / 2 ^ 56 ≠ 0 ∨ bits e 12 4 ≠ 0 ∨ bits e 6 3 ≠ 0 ∨ bits e 2 1 ≠ 0 ∨
    (level < 3 ∧ (bits e 1 1 ≠ 0 ∨ bits e 3 3 ≠ 0 ∨ bits e 9 3 ≠ 0 ∨ bits e 16 1 ≠ 0)) ∨ (level = 3 ∧ 2 ≤ bits e 9 3))

/-- What a walk found: the leaf, its place and its value. -/
structure Walked where
  leaf : Nat
  place : Nat
  deriving DecidableEq, Repr

/-- The walk from the table at guest-physical `table` at `level`, with `fuel` levels to go (R21, R22), under the second-stage entry of the
access's lookup (R28). `va` is the record's address for an entry that is not present. -/
def State.walk (s : State) (stage : BitVec 128) (page : Nat) (va : Nat) : Nat → Nat → Nat → Except WalkFault Walked
  | 0, _, _ => .error (3, 3, va)
  | fuel + 1, level, table =>
    let idx := page / 2 ^ (14 * fuel) % 2 ^ 14
    let g := table + 8 * idx
    match stagePlace stage g 8 with
    | none => .error (1, 2, g)
    | some p =>
      let e := Memory.readNat s.mem p 8
      if s.absent [p] then .error (9, 5, g)
      else if s.poisonedIn p 8 then .error (9, s.checkKind (inRange p 8), g)
      else if pteBad level e then .error (1, 3, g)
      else if e % 2 = 0 then .error (3, level, va)
      else if fuel = 0 then .ok { leaf := e, place := p }
      else s.walk stage page va fuel (level + 1) (bits e 16 40 * 65536)

/-- The outcome of translating one page: a frame's place, a wait for a migration, or a fault. -/
inductive PageResult where
  | at (frame : Nat) (s : State)
  | wait
  | fault (f : WalkFault)

/-- The buffer drops its entry for a page and takes a new one; of more than 64 entries the oldest leaves
(assumption 11). -/
def tlbInsert (e : TlbEntry) (l : List TlbEntry) : List TlbEntry :=
  let l := (l.filter (fun t => !(t.slot == e.slot && t.lgen == e.lgen && t.page == e.page))) ++ [e]
  l.drop (l.length - 64)

/-- Page `page` of slot `slot` translated for an access to `n` bytes from page byte `lo` (R21 to R27). `spec` is a speculative access
(R30), `atomic` one that may not reach host memory (R328). -/
def State.pageAt (s : State) (c : Nat) (stage : BitVec 128) (slot : Nat) (lgen : BitVec 8) (table page lo n va : Nat)
    (store spec atomic : Bool) : PageResult :=
  let hit := (s.core c).tlb.find? (fun t => t.slot == slot && t.lgen == lgen && t.page == page)
  let found : Except WalkFault (Walked × Bool) :=
    match hit with
    | some t => .ok ({ leaf := t.leaf.toNat, place := t.pte }, true)
    | none => (s.walk stage page va 3 1 table).map (fun w => (w, false))
  match found with
  | .error f => .fault f
  | .ok (w, buffered) =>
    let e := w.leaf
    if store && bits e 3 1 = 0 then .fault (1, 1, va)
    else if atomic && bits e 9 3 = 1 then .fault (1, 1, va)
    else if bits e 1 1 = 1 && (store || spec) then .wait
    else
      let frame : Except WalkFault Nat :=
        if bits e 9 3 = 1 then .ok (hostPlace (bits e 16 40 * 65536))
        else
          match stagePlace stage (bits e 16 40 * 65536 + lo) n with
          | some p => .ok (p - lo)
          | none => .error (1, 2, bits e 16 40 * 65536 + lo)
      match frame with
      | .error f => .fault f
      | .ok p =>
        if spec then .at p s
        else
          let needA := bits e 5 1 = 0
          let needD := store && bits e 4 1 = 0
          let cur := if buffered then Memory.readNat s.mem w.place 8 else e
          let set (x : Nat) : Nat :=
            (if needA && bits x 5 1 = 0 then x + 32 else x) + (if needD && bits x 4 1 = 0 then 16 else 0)
          let s := if needA || needD then { s with mem := Memory.writeNat s.mem w.place 8 (set cur) } else s
          let s := if bits e 1 1 = 1 then s
            else s.updCore c (fun k =>
              { k with tlb := tlbInsert ⟨slot, lgen, page, BitVec.ofNat 64 (set e), w.place⟩ k.tlb })
          .at p s

/-- The lowest page byte that offsets touch in a page, and how many bytes from it on reach the highest. -/
def pageSpan (page : Nat) (os : List Nat) : Nat × Nat :=
  let l := (os.filter (fun o => o / 65536 == page)).map (· % 65536)
  let lo := l.foldl min 65535
  (lo, l.foldl max 0 + 1 - lo)

/-- The frames of pages of a pageable segment, translated one after another, for an access to bytes at offsets `os`. -/
def State.pageFrames (s : State) (c : Nat) (stage : BitVec 128) (slot : Nat) (lgen : BitVec 8) (table va : Nat) (store spec atomic : Bool)
    (os : List Nat) : List Nat → List (Nat × Nat) → Except (Option WalkFault) (List (Nat × Nat) × State)
  | [], acc => .ok (acc, s)
  | p :: r, acc =>
    let (lo, n) := pageSpan p os
    match s.pageAt c stage slot lgen table p lo n va store spec atomic with
    | .at f s' => s'.pageFrames c stage slot lgen table va store spec atomic os r (acc ++ [(p, f)])
    | .wait => .error none
    | .fault f => .error (some f)

/-- The places of bytes at offsets of a pageable segment (R21 to R27). -/
def State.pagePlaces (s : State) (c : Nat) (stage : BitVec 128) (slot : Nat) (lgen : BitVec 8) (table : Nat) (va : Nat)
    (store spec atomic : Bool) (os : List Nat) : Except (Option WalkFault) (List Nat × State) :=
  (s.pageFrames c stage slot lgen table va store spec atomic os (os.map (· / 65536)).eraseDups []).map (fun r =>
    (os.map (fun o => SMap.get r.1 (o / 65536) 0 + o % 65536), r.2))

/-! ### Homes and leases -/

/-- The rent unit that keeps the lease of an access through a descriptor, given one of its places (R57). -/
def Desc.unit (d : Desc) (place : Nat) : Nat :=
  match d.tier with
  | 1 => d.hdie * 32 + d.hcl
  | 2 => d.hdie * 32 + d.hcl
  | 3 => if d.kind = 1 then 264 else 256 + place / 2 ^ 36
  | _ => 264

/-- The rent unit that keeps the lease of a slot (R57). -/
def State.slotUnit (s : State) (fn : Nat) (d : Desc) : Nat :=
  if d.tier = 3 ∧ d.kind ≠ 1 then
    match s.secondStage fn d.base 1 with
    | some p => 256 + p / 2 ^ 36
    | none => 256
  else d.unit 0

/-- The lookup of an access whose transfer holds the leases `holds`: an expiry mark does not stop a transfer that holds the slot's lease
(R76, R77, assumption 19). -/
def State.lookupHeld (s : State) (c : Nat) (va : DWord) (size : Nat) (mode : Mode) (opf : Nat) (holds : List (Nat × Nat)) :
    Except FaultInfo Desc :=
  let n := vaSlot va
  let d := s.slotDesc c n
  if d.v && holds.contains (s.slotUnit (s.task c).id.vf d, d.lease) then
    State.lookup (s.updCore c (fun k => { k with expired := k.expired.erase n })) c va size mode opf
  else s.lookup c va size mode opf

/-- Whether a home has processed the boundary of the current tick (R75). -/
def State.unitReady (s : State) (u : Nat) : Bool := (s.unit u).ticked == s.tick

/-- Bytes a lease covers. -/
def Lease.bytes (l : Lease) : Nat := l.ngran * granule l.tier l.pg

/-- Whether an access under lease `h` of unit `u` performs now (R15, R76). `holds` are the leases its transfer
holds. -/
def State.leaseOk (s : State) (u h : Nat) (lgen : BitVec 8) (places : List Nat) (holds : List (Nat × Nat)) : Bool :=
  let l := s.lease u h
  l.lgen == lgen &&
  ((l.st == .active && decide (s.tick < l.paid)) || (l.st == .deferred && holds.contains (u, h))) &&
  (l.pg || places.all (fun p => decide (l.base ≤ p ∧ p < l.base + l.bytes)))

/-- The die of a rent unit; the hub's is 8 (R57). -/
def unitDie (u : Nat) : Nat := if u < 256 then u / 32 else if u < 264 then u - 256 else 8

/-- The home die of an access (R121): of a tier-4 access the hub, else the die of its first place. -/
def Access.home (a : Access) : Nat :=
  match a.places with
  | [] => unitDie a.unit
  | p :: _ => placeDie p

/-- The issuing die of an access: the hub for the hub's own. -/
def Access.from (a : Access) : Nat := if a.agent = .hub then 8 else coreDie a.core

/-- Whether an access writes. -/
def AccKind.writes : AccKind → Bool
  | .load _ | .prefetch | .waita .. | .fetch => false
  | _ => true

/-- Whether an access is a cross-die write (R121). -/
def Access.crossWrite (a : Access) : Bool := a.kind.writes && a.from != a.home

end Sys2Proof.Machine
end

