-- ==== Sys2Proof/Machine/Access.lean ====
section
/-! DEFINITION. Accesses in transit: what orders them (R85 to R87, R105 to R109, R113), how they leave for another die and are
applied there (R121, R122), what they do at their home (R15, R47, R55, R76, R327), and how a fault met there comes
back (R188, R199). -/

namespace Sys2Proof.Machine

open Sys2Proof

/-! ### Operations not yet performed -/

/-- Whether a mask names a class: C 0, Y 1, M 2, D 3, H 4 (R105). -/
def obsHas (o : BitVec 5) (k : Nat) : Bool := o.getLsbD k

/-- Commands of an engine that agent `a` pushed and that have not completed. -/
def EngineSt.pushedBy (e : EngineSt) (a : Agent) : List Nat :=
  ((e.queue ++ e.running.map (·.cmd)).filter (fun k => k.pusher == a)).map (·.id)

/-- Commands of an engine that agent `a` pushed and of which some access has not performed (R107). -/
def State.pushedBy (s : State) (e : EngineSt) (a : Agent) : List Nat :=
  ((e.queue ++ (e.running.filter s.working).map (·.cmd)).filter (fun k => k.pusher == a)).map (·.id)

/-- Whether a function has joined a window, or has a `JOIN` queued or running. -/
def State.joins (s : State) (fn : Nat) : Bool :=
  s.registrants.any (fun r => r.vf == fn && r.link.isNone) ||
  s.cores.any (fun e => e.2.task.id.vf == fn &&
    (e.2.task.cl.queue ++ e.2.task.cl.running.map (·.cmd)).any (fun k => decide (bits k.head.toNat 27 5 = 1)))

/-- Whether a command of the collective engine names a peer or may contribute to a window (R107): an exchange, a sparse reduction, a
reduction store of a function that has joined a window or is about to, and a dispatch to another device; of one that came through a FIFO the
list is not read yet. -/
def State.farCommand (s : State) (fn : Nat) (k : Cmd) : Bool :=
  match bits k.head.toNat 27 5 with
  | 0 | 3 => true
  | 2 => s.joins fn
  | 4 => k.path == .fifo ||
    (List.range 8).any (fun i => decide (i ≤ (k.word 1).toNat) && dbits k.recB (32 * i + 16) 16 != s.cfg.fabricId.toNat)
  | _ => false

/-- The commands of the collective engine in S(D) of agent `a` of core `c` (R107). -/
def State.farCommands (s : State) (c : Nat) (a : Agent) : List Nat :=
  let t := s.task c
  let e := t.cl
  ((e.queue ++ (e.running.filter s.working).map (·.cmd)).filter (fun k => k.pusher == a && s.farCommand t.id.vf k)).map (·.id)

/-- The operations of the union of S over a mask, for agent `a` of core `c` (R107). -/
def State.orderSet (s : State) (c : Nat) (a : Agent) (o : BitVec 5) : List Nat :=
  let t := s.task c
  let own := s.transit.filter (fun x => x.of c a)
  let rents := ((s.debits.filterMap (fun d => d.purpose.access) ++ s.slotOps.map (·.access)).filter
    (fun x => x.of c a)).map (·.id)
  let park := rents ++ (s.waiters.filter (fun w => w.access.of c a)).map (·.access.id)
  let flags := s.remote.filter (fun r => r.source == c && r.agent == a)
  let gone := ((s.flits.filterMap Flit.farFlag).filter (fun f => f.2.1 == c && f.2.2 == a)).map (·.1)
  (if obsHas o 0 then (own.filter (fun x => decide (1 ≤ x.tier ∧ x.tier ≤ 3))).map (·.id) ++ park ++ flags.map (·.id) ++
      gone ++ s.ownMessages c a else []) ++
  (if obsHas o 1 then s.pushedBy t.cp a else []) ++
  (if obsHas o 2 then s.pushedBy t.mx a ++ s.pushedBy t.ml a else []) ++
  (if obsHas o 3 then s.farCommands c a ++ (flags.filter (fun r => r.peer.isSome)).map (·.id) ++ gone else []) ++
  (if obsHas o 4 then (own.filter (fun x => decide (3 ≤ x.tier))).map (·.id) else [])

/-- Of a list of numbers, those given before the bundle at hand. -/
def State.before (s : State) (l : List Nat) : List Nat :=
  match s.cur.since with
  | none => l
  | some n => l.filter (fun i => decide (i < n))

/-- Whether a release with this mask must wait at its issue point (R107, R256). -/
def State.relWaits (s : State) (o : BitVec 5) : Bool :=
  s.anyLive (s.before (s.orderSet s.cur.core s.cur.agent o))

/-- The operations of the bundle's own earlier words that a release with this mask must follow. -/
def State.relAfter (s : State) (o : BitVec 5) : List Nat := s.orderSet s.cur.core s.cur.agent o

/-- Acquires of the issuing agent that have not performed and hold back operations of these classes (R107). -/
def State.acqIds (s : State) (classes : BitVec 5) : List Nat :=
  (s.transit.filter (fun x => x.of s.cur.core s.cur.agent && (x.acq &&& classes) != 0)).map (·.id)

/-- Sequentially consistent accesses of the issuing agent that have not performed (R109). -/
def State.scIds (s : State) : List Nat :=
  (s.transit.filter (fun x => x.of s.cur.core s.cur.agent && x.sc)).map (·.id)

/-- The classes whose sets hold an own access of a tier (R107). -/
def tierClasses (tier : Nat) : BitVec 5 :=
  match tier with
  | 3 => 0x11
  | 4 => 0x10
  | _ => 1

/-- The bytes `o` from virtual address `va`. -/
def vaBytes (va : DWord) (os : List Nat) : List Nat := os.map (fun o => (va.toNat + o) % 2 ^ 64)

/-- The places that an access touches: of one that has still to walk its tables those that they name now, if they name any. -/
def State.likely (s : State) (a : Access) : List Nat :=
  if !a.walk then a.places
  else
    match s.pagePlaces a.core a.stage a.slot a.lgen a.table a.va.toNat false false false (a.offs.map (fun o => a.va.toNat % 2 ^ 58 + o)) with
    | .ok (ps, _) => ps
    | .error _ => []

/-- The accesses of an agent in transit that touch a byte of a later one, under its own address or under another (R85, R86). -/
def State.overlapIds (s : State) (c : Nat) (a : Agent) (va : DWord) (os places : List Nat) : List Nat :=
  (s.transit.filter (fun x => x.of c a &&
    ((vaBytes x.va x.offs).any (fun b => (vaBytes va os).contains b) || (s.likely x).any (fun p => places.contains p)))).map
    (·.id)

/-! ### Vector clocks (R122) -/

/-- Component `i` of a clock. -/
def clk (v : List Nat) (i : Nat) : Nat := v.getD i 0
/-- The larger of two clocks, component by component. -/
def clkMax (a b : List Nat) : List Nat := List.zipWith max a b

/-- The clock of a die, or of the hub for 8. -/
def State.clock (s : State) (d : Nat) : List Nat := if d = 8 then s.hub.clock else (s.die d).clock
/-- `s` with the clock of a die or the hub replaced. -/
def State.setClock (s : State) (d : Nat) (v : List Nat) : State :=
  if d = 8 then { s with hub := { s.hub with clock := v } } else s.updDie d (fun k => { k with clock := v })
/-- The last APPLIED that a home has received. -/
def State.appliedAt (s : State) (d : Nat) : List Nat := if d = 8 then s.hub.applied else (s.die d).applied

/-- The condition of R122 step 3 for a stamp from die `src` at home `h`. -/
def State.causalOk (s : State) (h src : Nat) (v : List Nat) : Bool :=
  let ap := s.appliedAt h
  (List.range 9).all (fun j => if j = src then decide (clk v j ≤ clk ap j + 1) else decide (clk v j ≤ clk ap j))

/-- The condition of R122 step 5 for a load's clock. -/
def State.causalLoadOk (s : State) (h src : Nat) (v : List Nat) : Bool := s.causalOk h src v

/-- A cross-die write leaves die `src`: its stamp and the state with the clock advanced (R122 step 1). -/
def State.stampFrom (s : State) (src : Nat) : List Nat × State :=
  let v := s.clock src
  let v := v.set src (clk v src + 1)
  (v, s.setClock src v)

/-- The largest number of die `src` up to which every write has been applied, from `n` on, and the applied ones beyond it (R122 step 2),
with `fuel` numbers to go. -/
def appliedUpTo (src : Nat) : Nat → Nat → List (Nat × Nat) → Nat × List (Nat × Nat)
  | 0, n, l => (n, l)
  | fuel + 1, n, l => if l.contains (src, n + 1) then appliedUpTo src fuel (n + 1) (l.erase (src, n + 1)) else (n, l)

/-- A cross-die write of stamp `v` from `src` is applied at home `h`: clocks merge, the hub learns of it, and sends APPLIED to every die
when it changes (R122 steps 2 to 4). -/
def State.applied (s : State) (h src : Nat) (v : List Nat) : State :=
  let s := s.setClock h (clkMax (s.clock h) v)
  let all := (src, clk v src) :: s.hub.done
  let (n, rest) := appliedUpTo src all.length (clk s.hub.applied src) all
  let ap := s.hub.applied.set src n
  let s' := { s with hub := { s.hub with applied := ap, done := rest } }
  if ap = s.hub.applied then s'
  else (List.range 8).foldl (fun s d => s.updDie d (fun k => { k with appliedMail := k.appliedMail ++ [ap] })) s'

/-- A write that will not be made after it was stamped counts as applied, so that it holds nothing back (R122). -/
def State.voidStamp (s : State) (a : Access) : State :=
  match a.stamp with
  | some v => if a.crossWrite then s.applied a.home a.from v else s
  | none => s

/-- Accesses leave transit without performing. -/
def State.discard (s : State) (p : Access → Bool) : State :=
  (s.transit.filter p).foldl State.voidStamp { s with transit := s.transit.filter (fun x => !p x) }

/-- The merge when a cross-die load returns (R122 step 4). -/
def State.loadReturns (s : State) (src h : Nat) : State :=
  if src = h then s else s.setClock src (clkMax (s.clock src) (s.clock h))

/-! ### Bytes at a home -/

/-- Bytes at places. -/
def readPlaces (m : List Host.Cell) (ps : List Nat) : List Byte := ps.map (Memory.read m)

/-- Bytes written at places. -/
def writePlaces (m : List Host.Cell) : List Nat → List Byte → List Host.Cell
  | p :: ps, b :: bs => writePlaces (Memory.write m p b) ps bs
  | _, _ => m

/-- The aligned 8 B word at a place. -/
def State.word8 (s : State) (p : Nat) : DWord := BitVec.ofNat 64 (Memory.readNat s.mem (p / 8 * 8) 8)

/-- Parked address waiters of a written word are tested again; those that see another value are granted (R327), and the data merges the
clocks of its dies (R122 step 4). -/
def State.retest (s : State) (ps : List Nat) : State :=
  let hit (w : Waiter) : Bool :=
    match w.access.kind, w.access.places with
    | .waita cmp _ _, p :: _ => w.poll.isNone && ps.any (fun q => q / 8 == p / 8) && s.word8 p != cmp
    | _, _ => false
  let woken := s.waiters.filter hit
  woken.foldl (fun s w => s.loadReturns w.access.from w.access.home) { s with
    waiters := s.waiters.filter (fun w => !hit w)
    granted := s.granted ++ woken.map (fun w =>
      { core := w.access.core, step := w.access.step, agent := w.access.agent, word := w.access.word,
        value := s.word8 (w.access.places.headD 0) }) }

/-- The 256 B data units of HBM that places lie in (R45). -/
def dataUnits (ps : List Nat) : List Nat := ((ps.filter (fun p => placeTier p == 3)).map (· / 256)).eraseDups

/-- The keys of data units once places are written whole: a unit that a write fills is under no other account's key (R45). -/
def State.unkeyed (s : State) (ps : List Nat) : SMap Nat :=
  if s.keyed.isEmpty then [] else s.keyed.filter (fun e => !(fromTo (256 * e.1) 256).all ps.contains)

/-- Bytes stored at places of a home, with poison cleared and waiters tested (R84, R201, R327). -/
def State.storeAt (s : State) (ps : List Nat) (bs : List Byte) : State :=
  if ps.isEmpty then s
  else
    State.retest (State.clean { s with mem := writePlaces s.mem ps bs, keyed := s.unkeyed ps } (wholeOf ps)) ps

/-! ### The keys of HBM (R45, R71, R360) -/

/-- The key id of an access under a lease: that of its head's account (R45, R59, R71). -/
def State.keyFor (s : State) (a : Access) : Nat := (s.account (s.lease a.unit (s.lease a.unit a.lease).headl).acct).keyid

/-- The data units of an access under a lease that were written under another key than its own (R45). -/
def State.foreign (s : State) (a : Access) : List Nat :=
  if s.keyed.isEmpty ∨ a.slot = 64 then []
  else (dataUnits a.places).filter (fun u => match s.keyed.find u with | some k => k != s.keyFor a | none => false)

/-- Data units as another key than that of their bytes shows them: free values (R45, assumption 76). -/
def State.decipher (s : State) (us : List Nat) : State :=
  us.foldl (fun s u =>
    { s with mem := Memory.writeNat s.mem (256 * u) 256 (Config.deciphered u s.freeCnt).toNat, freeCnt := s.freeCnt + 1 }) s

/-- Data units with the bytes that memory `m` has there. -/
def State.cipherBack (s : State) (m : List Host.Cell) (us : List Nat) : State :=
  { s with mem := us.foldl (fun n u => Memory.writeNat n (256 * u) 256 (Memory.readNat m (256 * u) 256)) s.mem }

/-- The data units that an access under a lease has written are under key id `k` (R45). -/
def State.sealed (s : State) (a : Access) (k : Nat) : State :=
  if a.slot = 64 then s else { s with keyed := (dataUnits a.places).foldl (fun m u => m.set u k) s.keyed }

/-! ### Loss of decoupling (R94, R96) -/

/-- The entries of a queue from the first that records the block on are marked for a new load. -/
def markFrom (block : Nat) : List QEntry → List QEntry
  | [] => []
  | e :: r =>
    if e.blocks.contains block then (e :: r).map (fun x => { x with marked := true, ready := false })
    else e :: markFrom block r

/-- Whether some unpopped entry of a task's load queues records a block. -/
def TaskCtx.watches (t : TaskCtx) (block : Nat) : Bool :=
  (List.range 8).any (fun q => (t.shared.queue.get q []).any (fun e => e.blocks.contains block))

/-- Whether an entry of a list of queue entries is marked and still to be loaded again. -/
def QEntry.due (e : QEntry) : Bool := e.marked && !e.ready

/-- Whether a result or access goes to an entry that is due. -/
def TaskCtx.toDue (t : TaskCtx) (d : Target) : Bool :=
  match d with
  | .qent q id => (t.shared.queue.get q []).any (fun e => e.id == id && e.due)
  | _ => false

/-- The event of R94: entries are marked and DECLOSS counts. Loads of marked entries that were still on their way are made again with
the others, in order. -/
def State.loseDecoupling (s : State) (c block : Nat) : State :=
  if !(s.task c).watches block then s
  else
    let s := s.updShared c (fun h =>
      { h with
        decloss := h.decloss + 1
        queue := h.queue.map (fun e => if e.1 < 8 then (e.1, markFrom block e.2) else e) })
    let t := s.task c
    let keep (f : InFlight) : Bool := !t.toDue f.target
    let s := { s with transit := s.transit.filter (fun a => !(a.of c .load && t.toDue a.dest)) }
    s.updTask c (fun t => { t with load := { t.load with pipe := t.load.pipe.filter keep, snap := t.load.snap.filter keep } })

/-- The 64 B blocks of a list of places. -/
def blocksOf (ps : List Nat) : List Nat := (ps.map (· / 64)).eraseDups

/-! ### Faults that come back (R188, R199, R300, R313) -/

/-- The status of R52 for a fault class. -/
def statusOf (cls : BitVec 4) : BitVec 8 :=
  match cls.toNat with
  | 2 => 2
  | 3 => 3
  | 9 => 6
  | _ => 4

/-- The engine whose commands an agent runs. -/
def TaskCtx.engine (t : TaskCtx) (e : Engine) : EngineSt :=
  match e with
  | .matrix => t.mx
  | .copy => t.cp
  | .collective => t.cl
  | .mule => t.ml

/-- The task with an engine replaced. -/
def TaskCtx.setEngine (t : TaskCtx) (e : Engine) (x : EngineSt) : TaskCtx :=
  match e with
  | .matrix => { t with mx := x }
  | .copy => { t with cp := x }
  | .collective => { t with cl := x }
  | .mule => { t with ml := x }

/-- The task with an engine changed. -/
def TaskCtx.updEngine (t : TaskCtx) (e : Engine) (f : EngineSt → EngineSt) : TaskCtx := t.setEngine e (f (t.engine e))

/-- What a command had completed: k-steps, beats or steps. -/
def RunSt.progress : RunSt → Nat
  | .nest n => n.done
  | .copy c => c.beat
  | .coll c => c.sent
  | .mule | .io => 0
  | .ended _ v => v.toNat

/-- A running command ends with a status (R98, R300, R313); an ended one stays as it ended. -/
def Running.finish (r : Running) (status : BitVec 8) : Running :=
  match r.st with
  | .ended .. => r
  | .nest n => { r with st := .ended status (BitVec.ofNat 42 n.done), nested := some n }
  | _ => { r with st := .ended status (BitVec.ofNat 42 r.st.progress) }

/-- The running command `id` of a task ends with a status. -/
def TaskCtx.finishCmd (t : TaskCtx) (id : Nat) (status : BitVec 8) : TaskCtx :=
  let f (e : EngineSt) : EngineSt :=
    { e with running := e.running.map (fun r => if r.cmd.id = id then r.finish status else r) }
  { t with mx := f t.mx, cp := f t.cp, cl := f t.cl, ml := f t.ml }

/-- The number of running command `id` among those its engine dequeued (R186). -/
def TaskCtx.cmdNum (t : TaskCtx) (id : Nat) : Nat :=
  match (t.mx.running ++ t.cp.running ++ t.cl.running ++ t.ml.running).find? (fun r => r.cmd.id == id) with
  | some r => r.num
  | none => 0

/-- The agent that a SEQ code of an engine's record names is its own. A record of an engine's fault (R186,
R189). -/
def State.engineRec (s : State) (c : Nat) (a : Agent) (id : Nat) (f : FaultInfo) : FaultRec :=
  { s.mkRec c a f with step := BitVec.ofNat 64 ((s.task c).cmdNum id), word := 0 }

/-- A command ends with a fault: its record goes to the die's fault log (R189), but for a transfer that an expiry ends
(R52). -/
def State.cmdFault (s : State) (c : Nat) (a : Agent) (id : Nat) (f : FaultInfo) : State :=
  let r := s.engineRec c a id f
  let s := if f.cls = 2 ∧ (a = .copyEngine ∨ a = .tensorMove) then s else s.logFault (coreDie c) r
  s.updTask c (fun t => t.finishCmd id (statusOf f.cls))

/-- Stores of the store sequencer from `id` on stay pending (R199); one that was on its way to another die leaves anew later (R122). -/
def State.holdStores (s : State) (c id : Nat) : State :=
  let mine (x : Access) : Bool := x.of c .store && decide (id ≤ x.id)
  (s.transit.filter mine).foldl State.voidStamp
    { s with transit := s.transit.map (fun x => if mine x then { x with held := true, stamp := none } else x) }

/-- The oldest row that Lamb holds for core `c`, changed by `f`. -/
def firstRow (c : Nat) (f : ImageRow → ImageRow) : List ImageRow → List ImageRow
  | [] => []
  | r :: l => if r.core = c then f r :: l else r :: firstRow c f l

/-- An image store faults (R177, R178): Lamb holds the task's rows at the faulting write. In the final pass of an ended task the
record goes to the fault log and the image is dropped. -/
def State.imageFault (s : State) (c : Nat) (r : FaultRec) : State :=
  let d := coreDie c
  if (s.core c).faultStatus.isSome then
    (s.updDie d (fun k => { k with lamb := firstRow c (fun x => { x with elem := x.elem + 1, write := 0 }) k.lamb })).logFault d r
  else
    (s.updDie d (fun k => { k with lamb := firstRow c (fun x => { x with held := true }) k.lamb })).takeFault c .image r

/-- A command of Mule's queue ends with a fault (R189, R316): its record, of SEQ 4, traps, and the program that Mule runs stays as it
is. -/
def State.muleCmdFault (s : State) (c id : Nat) (r : FaultRec) : State :=
  let st := (s.task c).mule.st
  ((s.updTask c (fun t => t.finishCmd id (statusOf r.cls))).takeFault c .mule r).updTask c (fun t =>
    { t with mule := { t.mule with st := st } })

/-- The reads of a command that have not performed are dropped, one of them having faulted (R200, R301). -/
def State.dropLoads (s : State) (c cmd : Nat) : State :=
  { s with transit := s.transit.filter (fun x =>
      !(x.core == c && x.cmd == cmd && (match x.kind with | .load _ => true | _ => false))) }

/-- A fault met at a home, or on the way to it, returns to the agent of the access (R188, R189, R199). The access
is no longer in transit, but for a pending store. -/
def State.accessFault (s : State) (a : Access) (cls kind : Nat) (addr : DWord) : State :=
  let info : FaultInfo :=
    { cls := BitVec.ofNat 4 cls, kind := BitVec.ofNat 8 kind, opf := a.opf, addr := addr, slot := a.slot }
  let s := { s with transit := s.transit.filter (fun x => x.id != a.id) }
  let r : FaultRec := { s.mkRec a.core a.agent info with step := a.step, word := a.word, defer := true }
  match a.agent with
  | .control | .firmware => { s with deferred := s.deferred ++ [{ core := a.core, agent := a.agent, info := r }] }
  | .load =>
    let entry := match a.dest with | .qent _ e => e | _ => a.id
    { s with deferred := s.deferred ++
        [{ core := a.core, agent := .load, info := r, ckpt := a.ckpt, access := a.id, entry := entry }] }
  | .store =>
    let s := { s with transit := s.transit ++ [{ a with held := true }] }
    (s.holdStores a.core a.id).updTask a.core id |> fun s =>
      { s with deferred := s.deferred ++ [{ core := a.core, agent := .store, info := r, ckpt := a.ckpt, access := a.id }] }
  | .mule =>
    if a.cmd = 0 then s.takeFault a.core .mule { r with defer := false }
    else (s.dropLoads a.core a.cmd).muleCmdFault a.core a.cmd { r with defer := false }
  | .image => s.imageFault a.core { r with img := true, defer := false }
  | .matrixEngine => (s.dropLoads a.core a.cmd).cmdFault a.core a.agent a.cmd info
  | .copyEngine | .tensorMove | .collectiveEngine => (s.dropLoads a.core a.cmd).cmdFault a.core a.agent a.cmd info
  | _ => s.logFault a.home { r with defer := false }

/-- An access faults with the virtual address as the record's address. -/
def State.accessFaultVa (s : State) (a : Access) (cls kind : Nat) : State := s.accessFault a cls kind a.va

/-! ### Atomics (R328) -/

/-- The new value of an atomic on `w` bits: operation, old value, operand, comparand. -/
def atomicNew (op w old b c : Nat) : Nat :=
  match op with
  | 0 => (old + b) % 2 ^ w
  | 1 => b % 2 ^ w
  | 2 => if old = c % 2 ^ w then b % 2 ^ w else old
  | 3 => Nat.land old (b % 2 ^ w)
  | 4 => Nat.lor old (b % 2 ^ w)
  | 5 => Nat.xor old (b % 2 ^ w)
  | 6 => if sext b w < sext old w then b % 2 ^ w else old
  | _ => if sext old w < sext b w then b % 2 ^ w else old

/-! ### Performing at the home -/

/-- The access leaves transit. -/
def State.dropAccess (s : State) (id : Nat) : State := { s with transit := s.transit.filter (fun x => x.id != id) }

/-- The value a load returns, extended for its destination. -/
def loadValue (signed : Bool) (bs : List Byte) : VReg :=
  let n := 8 * bs.length
  if signed then (wrap 64 (sext (ofBytes bs) n)).setWidth 2048 else BitVec.ofNat 2048 (ofBytes bs)

/-- A queue entry records the blocks its load read through a coherent-decoupled segment (R94). -/
def recordBlocks (id : Nat) (ps : List Nat) : List QEntry → List QEntry
  | [] => []
  | e :: r => if e.id = id then { e with blocks := blocksOf ps } :: r else e :: recordBlocks id ps r

/-- Source elements of `w` bytes put into a beat's elements from number `i` on. -/
def fillElems (w i : Nat) (bs : List Byte) : List (Nat × Nat) → List (Nat × Nat)
  | [] => []
  | e :: r =>
    match i with
    | i + 1 => e :: fillElems w i bs r
    | 0 => if bs.length < w ∨ w = 0 then e :: r else (e.1, ofBytes (bs.take w)) :: fillElems w 0 (bs.drop w) r

/-- The bytes that a command's read returns go to the beat that it forms (R313). -/
def RunSt.fill (r : RunSt) (i : Nat) (bs : List Byte) : RunSt :=
  match r with
  | .copy c => .copy { c with elems := fillElems c.width i bs c.elems }
  | .coll c => .coll { c with elems := fillElems c.width i bs c.elems }
  | r => r

/-- A read of running command `id` returns. -/
def TaskCtx.fillRun (t : TaskCtx) (id i : Nat) (bs : List Byte) : TaskCtx :=
  let f (e : EngineSt) : EngineSt :=
    { e with running := e.running.map (fun r => if r.cmd.id = id then { r with st := r.st.fill i bs } else r) }
  { t with cp := f t.cp, cl := f t.cl }

/-- A load performs: its value goes to its destination (R84, R304). -/
def State.performLoad (s : State) (a : Access) (signed : Bool) : State :=
  let bs := readPlaces s.mem a.places
  let s := s.dropAccess a.id
  let s := s.land a.core { target := a.dest, data := loadValue signed bs }
  match a.dest with
  | .beat i => s.updTask a.core (fun t => t.fillRun a.cmd i bs)
  | .qent q id =>
    if a.cd then s.updShared a.core (fun h => { h with queue := h.queue.set q (recordBlocks id a.places (h.queue.get q [])) })
    else s
  | _ => s

/-- A store performs; an execute-side store through a coherent-decoupled segment may be seen by an entry, once for each 64 B block that it
stores to (R94 to R96, assumption 78). -/
def State.performStore (s : State) (a : Access) : State :=
  let s := (s.dropAccess a.id).storeAt a.places a.data
  if a.exec && a.cd then (blocksOf a.places).foldl (fun s b => s.loseDecoupling a.core b) s else s

/-- An atomic performs as one read-modify-write and returns the old value (R106, R328). -/
def State.performAtomic (s : State) (a : Access) (op : Nat) (cmp : DWord) : State :=
  let w := 8 * a.places.length
  let old := ofBytes (readPlaces s.mem a.places)
  let new := atomicNew op w old (ofBytes a.data) cmp.toNat
  let s := s.dropAccess a.id
  let s := if op = 2 ∧ old ≠ cmp.toNat % 2 ^ w then s else s.storeAt a.places (toBytes new a.places.length)
  s.land a.core { target := a.dest, data := BitVec.ofNat 2048 old }

/-- The waiters that a home's parking table holds: 64, 256 or 4096 (R327). -/
def parkLimit (place : Nat) : Nat :=
  match placeTier place with
  | 1 => 64
  | 2 => 256
  | _ => 4096

/-- The parking table of a place: a near store, a cluster store or a stack. -/
def parkTable (place : Nat) : Nat × Nat :=
  match placeTier place with
  | 1 => (1, (place - 2 ^ 40) / 2 ^ 21)
  | 2 => (2, (place - 2 ^ 41) / 2 ^ 23)
  | 3 => (3, place / 2 ^ 36)
  | _ => (4, 0)

/-- A wait on address performs (R327): the word is returned when it differs, else the waiter is parked, or reads the word again every 1024 rc
when its table was full or the word is in host memory. -/
def State.performWait (s : State) (a : Access) (cmp : DWord) (park polls : Bool) : State :=
  let p := a.places.headD 0
  let v := s.word8 p
  let s := s.dropAccess a.id
  if !park then s.land a.core { target := a.dest, data := v.setWidth 2048 }
  else if v != cmp then
    { s with granted := s.granted ++
        [{ core := a.core, step := a.step, agent := a.agent, word := a.word, value := v }] }
  else
    let parked := s.waiters.filter (fun w =>
      w.poll.isNone && (match w.access.places with | q :: _ => parkTable q == parkTable p | [] => false))
    let full := polls || decide (placeTier p = 4) || decide (parkLimit p ≤ parked.length)
    { s with waiters := s.waiters ++ [{ access := { a with kind := .waita cmp park full }, poll := if full then some (s.rc + 1024) else none }] }

/-- A store of an agent to its own near store or main file performs, if its rent unit has processed the tick's boundary (R15, R86). -/
def State.performNear (s : State) (a : Access) : State :=
  if s.anyLive a.after || a.held then s
  else if a.tier = 0 then s.performStore a
  else if !s.unitReady a.unit then s
  else if s.leaseOk a.unit a.lease a.lgen a.places [] then s.performStore a
  else s.accessFaultVa a 2 2

/-- The stores of the issuing agent to its own near store and main file that are still on their way, in issue order. -/
def State.nearStores (s : State) : List Access :=
  s.transit.filter (fun x => x.of s.cur.core s.cur.agent && decide (x.tier ≤ 1) && x.kind == .store)

/-- The stores of the issuing agent to its own near store and main file perform before a later access there (R86). -/
def State.flushNear (s : State) : State := s.nearStores.foldl State.performNear s

/-! ### Message queues and rings (R47 to R50, R326) -/

/-- A ring descriptor's fields (R49). -/
structure RingDesc where
  donec : Nat
  donep : Nat
  mq : Bool
  dloc : Bool
  esz : Nat
  lslots : Nat
  base : Nat
  clc : Nat
  clp : Nat
  tail : Nat
  head : Nat
  bad : Bool
  deriving DecidableEq, Repr

/-- Slots of a ring. -/
def RingDesc.slots (r : RingDesc) : Nat := 2 ^ r.lslots
/-- Entry size of a ring in bytes. -/
def RingDesc.entry (r : RingDesc) : Nat := 64 * 2 ^ r.esz
/-- a − b in modulo 2³² arithmetic. -/
def sub32 (a b : Nat) : Nat := (a + 2 ^ 32 - b % 2 ^ 32) % 2 ^ 32

/-- The descriptor at a near-store place, with `bad` for the conditions of R49; a BASE that is not aligned to 64 B is taken as a reserved
value (assumption 77). -/
def State.ringAt (s : State) (place : Nat) : RingDesc :=
  let v := Memory.readNat s.mem place 64
  let esz := bits v 171 3
  let lslots := bits v 168 3
  let dloc := bits v 174 1 = 1
  let base := bits v 128 23
  let head := bits v 0 32
  let tail := bits v 32 32
  let clp := bits v 64 32
  let clc := bits v 96 32
  let size := if dloc then 2 ^ 23 else 0x180000
  let n := 2 ^ lslots
  let order := sub32 clc head ≤ sub32 tail head ∧ sub32 tail head ≤ sub32 clp head ∧ sub32 clp head ≤ n
  { donec := bits v 448 64, donep := bits v 384 64, mq := bits v 175 1 = 1, dloc := dloc, esz := esz, lslots := lslots,
    base := base, clc := clc, clp := clp, tail := tail, head := head,
    bad := decide (bits v 176 208 ≠ 0 ∨ bits v 151 17 ≠ 0 ∨ 3 ≤ esz ∨ lslots = 7 ∨ base % 64 ≠ 0 ∨ size < base + n * (64 * 2 ^ esz) ∨
      ¬ order) }

/-- The descriptor's counts and bits written back. -/
def State.setRing (s : State) (place : Nat) (r : RingDesc) : State :=
  let m := Memory.writeNat s.mem place 16 (r.head % 2 ^ 32 + 2 ^ 32 * (r.tail % 2 ^ 32) + 2 ^ 64 * (r.clp % 2 ^ 32) +
    2 ^ 96 * (r.clc % 2 ^ 32))
  let m := Memory.writeNat m (place + 48) 16 (r.donep + 2 ^ 64 * r.donec)
  State.retest { s with mem := m } [place, place + 8, place + 48, place + 56]

/-- The place of slot `count` of a ring whose descriptor lies at `place` (R326). -/
def RingDesc.slotPlace (r : RingDesc) (place count : Nat) : Nat :=
  let core := (place - 2 ^ 40) / 2 ^ 21
  let off := r.base + count % r.slots * r.entry
  if r.dloc then clusterPlace (coreCluster core) off else nearPlace core off

/-- Whether bit `i` of a 64-bit count map is set. -/
def mapBit (m i : Nat) : Bool := m / 2 ^ (i % 64) % 2 = 1

/-- A count advances over consecutive set bits, clearing them (R50). -/
def advance : Nat → Nat → Nat → Nat × Nat
  | 0, c, m => (c, m)
  | n + 1, c, m => if mapBit m c then advance n ((c + 1) % 2 ^ 32) (m - 2 ^ (c % 64)) else (c, m)

/-- The free entries of a queue, HEAD + SLOTS − CLP (R48). -/
def RingDesc.freeEntries (r : RingDesc) : Nat := r.slots - sub32 r.clp r.head

/-- The home of a queue records a writer for a resume notice, in a list of 64 (R48). -/
def State.listWriter (s : State) (place core slot : Nat) : State × Bool :=
  let who := (s.task core).id
  if s.mqListed.any (fun l => l.queue == place && l.who == who && l.slot == slot) then (s, true)
  else if (s.mqListed.filter (fun l => l.queue == place)).length < 64 then
    ({ s with mqListed := s.mqListed ++ [{ queue := place, core := core, slot := slot, who := who }] }, true)
  else (s, false)

/-- Resume notices to the writers listed for a queue whose HEAD has advanced (R48). -/
def State.resumeWriters (s : State) (place free : Nat) : State :=
  let l := s.mqListed.filter (fun l => l.queue == place)
  { s with
    mqListed := s.mqListed.filter (fun l => l.queue != place)
    mqNotices := s.mqNotices ++ l.map (fun w => { queue := place, core := w.core, slot := w.slot, who := w.who, free := free, poll := true }) }

/-- A message reaches its queue (R47, R48): it is appended whole, or refused when the queue is full. A queue whose descriptor breaks R49
gives the writer the error of R49, and of a message longer than the entry the bytes beyond the entry are lost (assumption 77). -/
def State.performMessage (s : State) (a : Access) : State :=
  let place := a.places.headD 0
  let r := s.ringAt place
  let s := s.dropAccess a.id
  if !r.mq then s.accessFaultVa a 1 1
  else if r.bad then s.accessFaultVa a 1 3
  else if r.freeEntries = 0 then
    let l := s.listWriter place a.core a.slot
    { l.1 with mqNotices := l.1.mqNotices ++
        [{ queue := place, core := a.core, slot := a.slot, who := (s.task a.core).id, free := 0, refused := some a, poll := !l.2 }] }
  else
    let sp := r.slotPlace place r.clp
    let body := (List.range r.entry).map (fun i =>
      match (a.offs.map (fun o => vaOff a.va + o)).idxOf? i with
      | some k => a.data.getD k 0
      | none => 0)
    let s := s.storeAt (fromTo sp r.entry) body
    let r' := { r with clp := (r.clp + 1) % 2 ^ 32, tail := (r.tail + 1) % 2 ^ 32 }
    let s := s.setRing place r'
    let s := if r'.freeEntries = 0 then (s.listWriter place a.core a.slot).1 else s
    { s with mqNotices := s.mqNotices ++ [{ queue := place, core := a.core, slot := a.slot, who := (s.task a.core).id, free := r'.freeEntries }] }

/-- What a ring operation does: 0 producer claim, 1 publish, 2 consumer claim, 3 release (R326). -/
inductive RingResult where
  | claim (count : Nat) (r : RingDesc)
  | done (r : RingDesc)
  | wait
  | error
  deriving DecidableEq, Repr

/-- A ring operation on a descriptor. -/
def RingDesc.apply (r : RingDesc) (op count : Nat) : RingResult :=
  match op with
  | 0 =>
    if r.mq then .error
    else if sub32 r.clp r.head = r.slots then .wait
    else .claim r.clp { r with clp := (r.clp + 1) % 2 ^ 32 }
  | 1 =>
    if sub32 count r.tail < sub32 r.clp r.tail ∧ !mapBit r.donep count then
      let (t, m) := advance r.slots r.tail (r.donep + 2 ^ (count % 64))
      .done { r with tail := t, donep := m }
    else .error
  | 2 => if r.clc = r.tail then .wait else .claim r.clc { r with clc := (r.clc + 1) % 2 ^ 32 }
  | _ =>
    if sub32 count r.head < sub32 r.clc r.head ∧ !mapBit r.donec count then
      let (t, m) := advance r.slots r.head (r.donec + 2 ^ (count % 64))
      .done { r with head := t, donec := m }
    else .error

/-- Whether a claim of the same kind is parked at the ring (R326). -/
def State.claimParked (s : State) (place op : Nat) : Bool :=
  s.waiters.any (fun w => match w.access.kind with
    | .ring o _ => o == op && w.access.places.headD 0 == place
    | _ => false)

/-- A ring operation performs at its home (R49, R50, R326). -/
def State.performRing (s : State) (a : Access) (op : Nat) (count : Word) : State :=
  let place := a.places.headD 0
  let r := s.ringAt place
  let s := s.dropAccess a.id
  if r.bad then s.accessFaultVa a 1 3
  else if (op = 0 ∨ op = 2) ∧ s.claimParked place op then { s with waiters := s.waiters ++ [{ access := a }] }
  else
    match r.apply op count.toNat with
    | .claim n r' =>
      let s := s.setRing place r'
      { s with granted := s.granted ++
          [{ core := a.core, step := a.step, agent := a.agent, word := a.word, value := BitVec.ofNat 64 n }] }
    | .done r' =>
      let s := s.setRing place r'
      if op = 3 ∧ r'.head ≠ r.head ∧ r.freeEntries = 0 then s.resumeWriters place r'.freeEntries else s
    | .wait => { s with waiters := s.waiters ++ [{ access := a }] }
    | .error => s.accessFaultVa a 1 3

/-! ### Accumulate ports (R54 to R56, R211) -/

/-- The port of a place: a cluster store's, or 256 + the stack. -/
def portOf (place : Nat) : Nat :=
  if placeTier place = 2 then (place - 2 ^ 41) / 2 ^ 23 else 256 + place / 2 ^ 36

/-- Whether an entry's tile covers a place. -/
def AccEntry.covers (e : AccEntry) (place : Nat) : Bool :=
  decide (e.tbase ≤ place ∧ place < e.tbase + e.tlen * 256)

/-- The words of an accumulate write at their places (R55). -/
def accWords (m : List Host.Cell) (op : Nat) : List Nat → List Byte → List Host.Cell
  | p :: _ :: _ :: _ :: ps, a :: b :: c :: d :: bs =>
    accWords (Memory.writeNat m p 4 (accumulateWord op (Memory.readNat m p 4) (ofBytes [a, b, c, d]))) op ps bs
  | _, _ => m

/-- What an accumulate write does at its port. -/
inductive Accumulated where
  | uncovered
  | breach
  | done (s : State)

/-- The accumulate port meets an error in the words that it is to sum, or absent addresses (R46, R201): nothing is summed, and the core of its
entry takes a machine check of SEQ 11, which traps. `va` is the address of the words, zero for a peer's (R185). -/
def State.portFault (s : State) (e : AccEntry) (va : DWord) (kind : Nat) : State :=
  s.takeFault e.fcore .accPort
    { s.mkRec e.fcore .accPort { cls := 9, kind := BitVec.ofNat 8 kind, addr := va, slot := vaSlot va } with step := 0 }

/-- Words summed into a live entry (R55, R211): a later command with a recorded key is dropped; a 65th key, or a format
other than the entry's, is a breach. `cmd` names the command that brings the key, an even number for one of this module, and `va` is the
address of its words, zero for a peer's. -/
def State.accumulateAt (s : State) (places : List Nat) (data : List Byte) (fmt : Nat) (key : DWord) (cmd : Nat) (va : DWord) : Accumulated :=
  let place := places.headD 0
  match s.accEntries.find? (fun e => places.all e.covers && e.port == portOf place) with
  | none => .uncovered
  | some e =>
    let known := e.keys.find? (fun k => k.1 == key)
    if fmt ≠ e.op then .breach
    else if (match known with | some k => k.2 != cmd | none => false) then .done s
    else if known.isNone && key != 0 && decide (64 ≤ e.keys.length) then .breach
    else if s.absent places then .done (s.portFault e va 5)
    else if s.poisoned places then .done (s.portFault e va (s.checkKind (inUnits places)))
    else
      let n := places.length / 4
      let s := State.retest { s with mem := accWords s.mem e.op places data } places
      let count := min (e.count + n) 0xFFFFFFFF
      let fire := !e.ready && decide (e.expect ≤ count)
      let e' := { e with count := count, late := e.late || (e.ready && decide (0 < n)), ready := e.ready || fire,
                         keys := if known.isNone && key != 0 then e.keys ++ [(key, cmd)] else e.keys }
      let s := { s with accEntries := s.accEntries.map (fun x => if x.index = e.index ∧ x.port = e.port then e' else x) }
      .done (if fire && e.flagged then
          State.bumpId { s with remote := s.remote ++
            [{ id := s.nextId, source := 8192 + e.port, agent := .accPort, launch := e.launch, target := e.fcore,
               flag := e.flag, value := 1, add := true }] }
        else s)

/-- An accumulate write of a command performs at its port (R55, R211). -/
def State.performAccumulate (s : State) (a : Access) (fmt : Nat) (key : DWord) : State :=
  let s := s.dropAccess a.id
  match s.accumulateAt a.places a.data fmt key (2 * a.cmd) a.va with
  | .uncovered => s.accessFaultVa a 5 3
  | .breach => s.accessFaultVa a 5 6
  | .done s' => s'

end Sys2Proof.Machine
end

