-- ==== Sys2Proof/Machine/Control.lean ====
section
/-! DEFINITION. The control stream's arithmetic, compares, predicate logic, branches, descriptor registers and sequencer
control (R247 to R254, R257, R258, R264, R265, R226). -/

namespace Sys2Proof.Machine

open Sys2Proof

/-! ### Integer functions (R248) -/

/-- A scalar result of class S1 for x`d`. -/
def aluResult (d : BitVec 5) (v : DWord) (s : State) : Out := .next (s.putX d 1 v)

/-- A scalar result of class S3 for x`d`. -/
def mulResult (d : BitVec 5) (v : DWord) (s : State) : Out := .next (s.putX d 3 v)

/-- A predicate result of class S1 for p`d`. -/
def predResult (d : BitVec 3) (v : Bool) (s : State) : Out := .next (s.putP d v)

/-- Leading zero bits of a 64-bit value (R248). -/
def leadingZeros (v : DWord) : Nat := if v = 0 then 64 else 63 - v.toNat.log2

/-- One bits among the low `n` bits of a value (R248). -/
def countOnes : Nat → Nat → Nat
  | 0, _ => 0
  | n + 1, v => v % 2 + countOnes n (v / 2)

/-- xd := xa + xb (R248). -/
def execAdd (d a b : BitVec 5) (s : State) : Out := aluResult d (s.x a + s.x b) s
/-- xd := xa − xb (R248). -/
def execSub (d a b : BitVec 5) (s : State) : Out := aluResult d (s.x a - s.x b) s
/-- xd := xa AND xb (R248). -/
def execAnd (d a b : BitVec 5) (s : State) : Out := aluResult d (s.x a &&& s.x b) s
/-- xd := xa OR xb (R248). -/
def execOr (d a b : BitVec 5) (s : State) : Out := aluResult d (s.x a ||| s.x b) s
/-- xd := xa XOR xb (R248). -/
def execXor (d a b : BitVec 5) (s : State) : Out := aluResult d (s.x a ^^^ s.x b) s
/-- xd := xa AND NOT xb (R248). -/
def execAndn (d a b : BitVec 5) (s : State) : Out := aluResult d (s.x a &&& ~~~ s.x b) s
/-- xd := xa shifted left by xb[5:0] (R248). -/
def execSll (d a b : BitVec 5) (s : State) : Out := aluResult d (s.x a <<< ((s.x b).toNat % 64)) s
/-- xd := xa shifted right by xb[5:0], zero fill (R248). -/
def execSrl (d a b : BitVec 5) (s : State) : Out := aluResult d (s.x a >>> ((s.x b).toNat % 64)) s
/-- xd := xa shifted right by xb[5:0], sign fill (R248). -/
def execSra (d a b : BitVec 5) (s : State) : Out := aluResult d ((s.x a).sshiftRight ((s.x b).toNat % 64)) s
/-- xd := bits [63:0] of the product (R248). -/
def execMul (d a b : BitVec 5) (s : State) : Out := mulResult d (s.x a * s.x b) s
/-- xd := bits [127:64] of the signed product (R248). -/
def execMulh (d a b : BitVec 5) (s : State) : Out :=
  mulResult d (BitVec.ofInt 64 ((s.x a).toInt * (s.x b).toInt / 2 ^ 64)) s
/-- xd := bits [127:64] of the unsigned product (R248). -/
def execMulhn (d a b : BitVec 5) (s : State) : Out :=
  mulResult d (BitVec.ofNat 64 ((s.x a).toNat * (s.x b).toNat / 2 ^ 64)) s
/-- xd := the smaller as signed values (R248). -/
def execMin (d a b : BitVec 5) (s : State) : Out := aluResult d (if (s.x a).slt (s.x b) then s.x a else s.x b) s
/-- xd := the larger as signed values (R248). -/
def execMax (d a b : BitVec 5) (s : State) : Out := aluResult d (if (s.x a).slt (s.x b) then s.x b else s.x a) s
/-- xd := the smaller as unsigned values (R248). -/
def execMinn (d a b : BitVec 5) (s : State) : Out := aluResult d (if (s.x a).ult (s.x b) then s.x a else s.x b) s
/-- xd := the larger as unsigned values (R248). -/
def execMaxn (d a b : BitVec 5) (s : State) : Out := aluResult d (if (s.x a).ult (s.x b) then s.x b else s.x a) s
/-- xd := leading zero bits of xa (R248). -/
def execClz (d a : BitVec 5) (s : State) : Out := aluResult d (BitVec.ofNat 64 (leadingZeros (s.x a))) s
/-- xd := one bits of xa (R248). -/
def execPopc (d a : BitVec 5) (s : State) : Out := aluResult d (BitVec.ofNat 64 (countOnes 64 (s.x a).toNat)) s

/-! ### Compares and predicates (R250, R251) -/

/-- pd := xa = xb (R250). -/
def execCeq (d : BitVec 3) (a b : BitVec 5) (s : State) : Out := predResult d (s.x a == s.x b) s
/-- pd := xa ≠ xb (R250). -/
def execCne (d : BitVec 3) (a b : BitVec 5) (s : State) : Out := predResult d (s.x a != s.x b) s
/-- pd := xa < xb as signed values (R250). -/
def execClt (d : BitVec 3) (a b : BitVec 5) (s : State) : Out := predResult d ((s.x a).slt (s.x b)) s
/-- pd := xa ≥ xb as signed values (R250). -/
def execCge (d : BitVec 3) (a b : BitVec 5) (s : State) : Out := predResult d (!(s.x a).slt (s.x b)) s
/-- pd := xa < xb as unsigned values (R250). -/
def execCltn (d : BitVec 3) (a b : BitVec 5) (s : State) : Out := predResult d ((s.x a).ult (s.x b)) s
/-- pd := xa ≥ xb as unsigned values (R250). -/
def execCgen (d : BitVec 3) (a b : BitVec 5) (s : State) : Out := predResult d (!(s.x a).ult (s.x b)) s
/-- pd := pa AND pb (R251). -/
def execPand (d a b : BitVec 3) (s : State) : Out := predResult d (s.p a && s.p b) s
/-- pd := pa OR pb (R251). -/
def execPor (d a b : BitVec 3) (s : State) : Out := predResult d (s.p a || s.p b) s
/-- pd := pa XOR pb (R251). -/
def execPxor (d a b : BitVec 3) (s : State) : Out := predResult d (s.p a != s.p b) s
/-- pd := pa AND NOT pb (R251). -/
def execPandn (d a b : BitVec 3) (s : State) : Out := predResult d (s.p a && !s.p b) s

/-! ### Immediates (R249, R250) -/

/-- xd := xa + sext(imm) (R249). -/
def execAddi (d a : BitVec 5) (i : BitVec 16) (s : State) : Out := aluResult d (s.x a + s.immS i) s
/-- xd := xa AND zext(imm) (R249). -/
def execAndi (d a : BitVec 5) (i : BitVec 16) (s : State) : Out := aluResult d (s.x a &&& s.immZ i) s
/-- xd := xa OR zext(imm) (R249). -/
def execOri (d a : BitVec 5) (i : BitVec 16) (s : State) : Out := aluResult d (s.x a ||| s.immZ i) s
/-- xd := xa XOR zext(imm) (R249). -/
def execXori (d a : BitVec 5) (i : BitVec 16) (s : State) : Out := aluResult d (s.x a ^^^ s.immZ i) s
/-- xd := xa shifted left by imm[5:0] (R249). -/
def execSlli (d a : BitVec 5) (i : BitVec 6) (s : State) : Out := aluResult d (s.x a <<< i.toNat) s
/-- xd := xa shifted right by imm[5:0], zero fill (R249). -/
def execSrli (d a : BitVec 5) (i : BitVec 6) (s : State) : Out := aluResult d (s.x a >>> i.toNat) s
/-- xd := xa shifted right by imm[5:0], sign fill (R249). -/
def execSrai (d a : BitVec 5) (i : BitVec 6) (s : State) : Out := aluResult d ((s.x a).sshiftRight i.toNat) s
/-- pd := xa = sext(imm) (R250). -/
def execCeqi (d : BitVec 3) (a : BitVec 5) (i : BitVec 16) (s : State) : Out := predResult d (s.x a == s.immS i) s
/-- pd := xa < sext(imm) as signed values (R250). -/
def execClti (d : BitVec 3) (a : BitVec 5) (i : BitVec 16) (s : State) : Out :=
  predResult d ((s.x a).slt (s.immS i)) s
/-- pd := xa < zext(imm) as unsigned values (R250). -/
def execCltni (d : BitVec 3) (a : BitVec 5) (i : BitVec 16) (s : State) : Out :=
  predResult d ((s.x a).ult (s.immZ i)) s

/-- The prefix gives bits [31:16] of the next word's immediate (R226). -/
def execXpfx (i : BitVec 16) (s : State) : Out := .next { s with cur := { s.cur with pfx := some i } }

/-! ### Transfers (R252 to R254) -/

/-- The address of the bundle that issues. -/
def State.bundle (s : State) : DWord := s.stepOf s.cur.core s.cur.agent

/-- Whether a format-B word takes its branch (R225, R252). -/
def State.taken (s : State) (p : BitVec 3) (sense : BitVec 1) : Bool := s.p p != (sense == 1)

/-- The target of a word offset from the bundle (R225, R252). -/
def State.branchTo (s : State) (o : BitVec 22) : DWord := s.bundle + 4 * o.signExtend 64

/-- The bundle's transfer when a branch is taken (R252). -/
def execBr (p : BitVec 3) (sense : BitVec 1) (o : BitVec 22) (s : State) : Out :=
  .next (if s.taken p sense then s.jump (s.branchTo o) else s)

/-- A branch that links in x1 when it is taken (R252). -/
def execCall (p : BitVec 3) (sense : BitVec 1) (o : BitVec 22) (s : State) : Out :=
  .next (if s.taken p sense then (s.putX 1 1 (s.bundle + 16)).jump (s.branchTo o) else s)

/-- xd := the next bundle's address, and the transfer to xa, which is aligned to 16 B (R253). -/
def execJr (d a : BitVec 5) (s : State) : Out :=
  if (s.x a).toNat % 16 ≠ 0 then raise (progError 2 2) s
  else .next ((s.putX d 1 (s.bundle + 16)).jump (s.x a))

/-- xd := xd − 1, and the branch by imm words when the new xd is not 0 (R254). -/
def execLoop (d : BitVec 5) (i : BitVec 16) (s : State) : Out :=
  let off := s.immS i
  let v := s.x d - 1
  if d = 0 then raise (reservedField 1) s
  else if off.toNat % 4 ≠ 0 then raise (reservedField 4) s
  else
    let s' := s.putX d 1 v
    .next (if v = 0 then s' else s'.jump (s.bundle + 4 * off))

/-! ### Descriptor registers (R257, R258, R309, R310) -/

/-- The width and low bit of a `LAY` field (R309, R310). -/
def layField (i : Nat) : Nat × Nat :=
  match i with
  | 0 => (4, 0)
  | 1 => (3, 4)
  | 2 => (2, 7)
  | 3 => (2, 9)
  | 4 => (3, 11)
  | 5 => (1, 14)
  | 6 => (5, 15)
  | 7 => (21, 20)
  | 8 => (6, 41)
  | 33 => (64, 640)
  | 34 => (64, 704)
  | _ =>
    if i < 15 then (24, 64 + 24 * (i - 9))
    else if i < 21 then (32, 208 + 32 * (i - 15))
    else if i < 27 then (16, 400 + 16 * (i - 21))
    else (24, 496 + 24 * (i - 27))

/-- The width and low bit of a `SHD` field (R258). -/
def shdField (i : Nat) : Nat × Nat :=
  match i with
  | 0 => (3, 221)
  | 1 => (4, 224)
  | 2 => (4, 228)
  | 3 => (24, 232)
  | 10 => (32, 352)
  | 11 => (16, 448)
  | 12 => (48, 464)
  | _ => (16, 256 + 16 * (i - 4))

/-- The width and low bit of a `WIN` field (R258). -/
def winField (i : Nat) : Nat × Nat :=
  match i with
  | 0 => (8, 56)
  | 1 => (3, 71)
  | 2 => (5, 74)
  | 3 => (4, 79)
  | 4 => (5, 83)
  | 5 => (1, 91)
  | 6 => (4, 92)
  | 7 => (8, 96)
  | 8 => (24, 104)
  | 9 => (40, 128)
  | 10 => (16, 192)
  | 11 => (16, 208)
  | _ => (32, 224)

/-- The width and low bit of the field a selector names (R257). -/
def selField (sel : BitVec 10) : Nat × Nat :=
  let i := sel.toNat % 256
  match sel.toNat / 256 with
  | 0 => layField i
  | 1 => shdField i
  | 2 => winField i
  | _ => (64, 64 * i)

/-- A number with bits [lo + w − 1 : lo] replaced. -/
def putBits (v lo w x : Nat) : Nat := v - (v / 2 ^ lo % 2 ^ w) * 2 ^ lo + x % 2 ^ w * 2 ^ lo

/-- d[xd].field := xa, which must fit the field (R257). -/
def execDset (d : BitVec 3) (a : BitVec 5) (sel : BitVec 10) (s : State) : Out :=
  let f := selField sel
  let v := (s.x a).toNat
  if 2 ^ f.1 ≤ v then raise (reservedField 2) s
  else if s.isFw then .next s
  else .next (s.put { target := .d d.toNat, data := BitVec.ofNat 2048 (putBits (s.d d).toNat f.2 f.1 v), left := 1 })

/-- xd := d[xa].field (R257). -/
def execDget (d : BitVec 5) (a : BitVec 3) (sel : BitVec 10) (s : State) : Out :=
  let f := selField sel
  .next (s.useD.putX d 3 (BitVec.ofNat 64 ((s.d a).toNat / 2 ^ f.2 % 2 ^ f.1)))

/-! ### Starting and stopping sequencers (R264, R265): the firmware context moves no sequencer of the program (R155, assumption 122) -/

/-- The sequencer that a target field names (R264). -/
def seqTarget (t : BitVec 2) : Agent :=
  match t.toNat with
  | 1 => .load
  | 2 => .compute
  | _ => .store

/-- Whether a sequencer is IDLE or HALTED. -/
def Seq.resting (q : Seq) : Bool := q.st == .idle || q.st == .halted

/-- Starts a sequencer at step xa (R264); it issues from the next ac on. -/
def execSqstart (a : BitVec 5) (t : BitVec 2) (s : State) : Out :=
  let g := seqTarget t
  if !(s.me.seq g).resting then raise (reservedField 12) s
  else if 0xFFFF < (s.x a).toNat then raise (progError 2 2) s
  else
    .next (if s.isFw then s else s.updMe (fun k =>
      let k := k.updSeq g (fun q => { q with step := s.x a, st := .run, started := some s.ac })
      if g = .store then { k with stqs := k.stqsDone } else k))

/-- Stops a sequencer at its next micro-order boundary (R148, R264). -/
def execSqstop (t : BitVec 2) (s : State) : Out :=
  let g := seqTarget t
  let q := s.me.seq g
  if (q.st == .run || q.st == .blocked) && !q.stopPending then
    .next (if s.isFw then s else s.updMe (fun k => k.updSeq g (fun q => { q with stopPending := true })))
  else raise (reservedField 12) s

/-- Re-bases a sequencer's engine program at xa (R148, R264). -/
def execSqbase (a : BitVec 5) (t : BitVec 2) (s : State) : Out :=
  let g := seqTarget t
  if !(s.me.seq g).resting then raise (reservedField 12) s
  else if (s.x a).toNat % 4 ≠ 0 then raise (progError 2 2) s
  else .next (if s.isFw then s else s.updMe (fun k => k.updSeq g (fun q => { q with epbase := s.x a })))

/-- The code of a sequencer state in a status word (R265). -/
def SeqSt.code : SeqSt → Nat
  | .idle => 0
  | .run => 1
  | .blocked => 2
  | .halted => 3
  | .faulted => 4

/-- The status word of a sequencer (R265). -/
def Seq.status (q : Seq) : DWord := BitVec.ofNat 64 (q.st.code * 65536 + q.step.toNat % 65536)

/-- xd := the status word of a sequencer (R264). -/
def execSqstat (d : BitVec 5) (t : BitVec 2) (s : State) : Out :=
  .next (s.putX d 2 (s.me.seq (seqTarget t)).status)

end Sys2Proof.Machine
end

