-- ==== Sys2Proof/Machine/Memory.lean ====
section
/-! DEFINITION. The issue side of accesses, and the control stream's loads, stores and atomics (R255, R256, R328). -/

namespace Sys2Proof.Machine

open Sys2Proof

/-- What an access asks for at its issue. -/
structure Request where
  kind : AccKind
  va : DWord
  offs : List Nat
  mode : Mode
  data : List Byte := []
  dest : Target := .none
  skew : Bool := false
  rel : BitVec 5 := 0
  acq : BitVec 5 := 0
  sc : Bool := false
  opf : Nat := 0
  exec : Bool := false
  cmd : Nat := 0
  agent : Agent := .control
  lag : Nat := 0

/-- How a request fares at its issue point. -/
inductive Issued where
  | fault (f : FaultInfo)
  | wait (why : Cause)
  | near (d : Desc) (places : List Nat) (s : State)
  | sent (s : State)

/-- The bytes of a request reach `span` bytes from its address. -/
def Request.span (q : Request) : Nat := q.offs.foldl max 0 + 1

/-- A request becomes an access of core `c` with the fresh number `nextId` (R14, R84). A page walk is still to come
for a pageable segment; a fault of the second stage is found on the way (R27, R188). -/
def State.mkAccess (s : State) (c : Nat) (q : Request) (d : Desc) : Access :=
  let t := s.task c
  let base : Access :=
    { id := s.nextId, core := c, agent := q.agent, kind := q.kind, va := q.va, slot := vaSlot q.va,
      lease := d.lease, lgen := BitVec.ofNat 8 d.lgen, acct := d.acct, vf := t.id.vf, tier := d.tier,
      offs := q.offs, data := q.data, dest := q.dest, acq := q.acq, sc := q.sc, exec := q.exec, cd := d.cd, lag := q.lag,
      cmd := q.cmd, step := s.stepOf c q.agent, word := s.cur.word, opf := BitVec.ofNat 8 q.opf, lid := t.id.lid,
      after := (s.orderSet c q.agent q.rel), stage := (s.fn t.id.vf).sstage }
  if d.kind = 1 then { base with pageable := true, walk := true, unit := 264, table := d.base }
  else
    match s.contigPlaces t.id.vf d q.skew (q.offs.map (fun o => vaOff q.va + o)) with
    | .ok ps => { base with places := ps, unit := d.unit (ps.headD 0) }
    | .error (cls, kind, addr) =>
      { base with
        unit := 256
        bad := some { cls := BitVec.ofNat 4 cls, kind := BitVec.ofNat 8 kind, addr := BitVec.ofNat 64 addr } }

/-- An access enters transit: a cross-die load carries its die's clock, and a cross-die write is stamped later, as it leaves
(R122). -/
def State.send (s : State) (a : Access) : State :=
  let s := s.bumpId
  { s with transit := s.transit ++ [if a.kind.writes then a else { a with stamp := some (s.clock a.from) }] }

/-- The writer state of a message-queue slot (R48). -/
def TaskCtx.writer (t : TaskCtx) (slot : Nat) : MqWriter := t.shared.mq.get slot {}

/-- Accesses of the issuing agent to its own near store and main file that are in transit: later ones perform after them (R86). -/
def State.nearIds (s : State) : List Nat :=
  (s.transit.filter (fun x => x.of s.cur.core s.cur.agent && decide (x.tier ≤ 1) && x.kind != .message)).map (·.id)

/-- Whether a tier-4 store leaves with the PCIe relaxed-ordering attribute clear (R125): a release, or one after a release or full fence
with the bit H. -/
def State.strongHost (s : State) (q : Request) : Bool :=
  q.kind.writes && (q.rel != 0 || s.me.shared.hostFence.contains s.cur.agent)

/-- The earlier tier-4 writes of the issuing agent that have not been sent (R125). -/
def State.hostWrites (s : State) : List Nat :=
  (s.transit.filter (fun x => x.of s.cur.core s.cur.agent && x.kind.writes && x.home == 8)).map (·.id)

/-- The operations that a request of the issuing agent must follow (R85, R86, R107 to R109): those of its release mask, acquires
over its class, overlapping accesses, for the total order its own earlier members and, for a tier-4 store without the
relaxed-ordering attribute, the agent's earlier tier-4 writes (R125). -/
def State.mustFollow (s : State) (q : Request) (tier : Nat) (own : Bool) (places : List Nat) : List Nat :=
  (if own then s.nearIds else []) ++ (s.orderSet s.cur.core s.cur.agent q.rel) ++ s.acqIds (tierClasses tier) ++
  s.overlapIds s.cur.core s.cur.agent q.va q.offs places ++ (if q.sc then s.scIds else []) ++
  (if tier = 4 ∧ s.strongHost q then s.hostWrites else [])

/-- Whether a store of a sequencer, which performs after its issue even at its own near store (R88, R154). -/
def Request.later (q : Request) : Bool := q.kind == .store && q.agent != .mule

/-- A request whose lookup gave descriptor `d` (R48, R85, R86, R107 to R109): the operations of earlier bundles that it must follow are
interlocks; then a load, an atomic or a store of Mule at the own near store (`own`) finds the bytes to be read or written at once, and
otherwise an access is in transit, which follows the bundle's own earlier words (assumption 12). -/
def State.requestAs (s : State) (q : Request) (d : Desc) (own : Bool) : Issued :=
  let c := s.cur.core
  let a := s.mkAccess c q d
  let a := if d.kind = 2 then { a with kind := .message, places := [nearPlace d.homeCore d.base] } else a
  let first := s.mustFollow q d.tier false (if d.kind = 2 then [] else s.likely a)
  let near := if own then s.nearIds else []
  let a := { a with after := near ++ first }
  if own && decide (d.homeCore ≠ c) then
    .fault { cls := 1, kind := 1, opf := BitVec.ofNat 8 q.opf, addr := q.va, slot := vaSlot q.va }
  else if s.anyLive (s.before first) then .wait (.ops first)
  else if !q.later && s.anyLive (s.before near) then .wait (.ops near)
  else if d.kind = 2 then
    let w := s.me.writer (vaSlot q.va)
    if w.stop || decide (8 ≤ w.unacked) then .wait (.message (vaSlot q.va))
    else .sent ((s.updShared c (fun h =>
      { h with mq := h.mq.set (vaSlot q.va) { w with unacked := w.unacked + 1 } })).send a)
  else if !own || (!q.later && s.anyLive a.after) then .sent (s.send a)
  else if !s.unitReady a.unit then .wait .none
  else if !s.leaseOk a.unit a.lease a.lgen a.places [] then
    .fault { cls := 2, kind := 2, opf := BitVec.ofNat 8 q.opf, addr := q.va, slot := vaSlot q.va }
  else if q.later then .sent (s.send a)
  else .near d a.places s

/-- A sequencer's request (R14, R17, R86): the lookup; then, for a load, an atomic or a store of Mule at the own near store, the agent's
earlier stores there perform, and the request goes on with the descriptor. -/
def State.request (s : State) (q : Request) : Issued :=
  match s.lookup s.cur.core q.va q.span q.mode q.opf with
  | .error f => .fault f
  | .ok d =>
    let own := decide (d.tier = 1) && decide (d.kind = 0)
    (if own && !q.later then s.flushNear else s).requestAs q d own

/-- The strength of a format-M access or atomic (R106): release mask, acquire mask, and whether it takes part in the
total order of R109. A mask of 0 makes it weak. -/
def strength (k : BitVec 2) (obs : BitVec 5) (reads writes : Bool) : BitVec 5 × BitVec 5 × Bool :=
  let rel := writes && (k == 2 || k == 3)
  let acq := reads && (k == 1 || k == 3)
  (if rel then obs else 0, if acq then obs else 0, k == 3 && obsHas obs 0)

/-- The offset of a format-M word (R224). -/
def formatMOffset (s : BitVec 2) (o : BitVec 11) (size : Nat) : DWord :=
  if s = 0 then o.signExtend 64 * BitVec.ofNat 64 size
  else (o.setWidth 6).signExtend 64 * BitVec.ofNat 64 size

/-- The observer mask of a format-M word (R224). -/
def formatMObs (s : BitVec 2) (o : BitVec 11) : BitVec 5 := if s = 0 then 0 else (o >>> 6).setWidth 5

/-- Bytes of a 64-bit value, low first. -/
def lowBytes (v : DWord) (n : Nat) : List Byte := toBytes v.toNat n

/-- A control-stream load (R255, R256). -/
def scalarLoad (signed : Bool) (d b : BitVec 5) (k : BitVec 1) (z st : BitVec 2) (o : BitVec 11) (s : State) : Out :=
  let size := 2 ^ z.toNat
  let va := s.x b + formatMOffset st o size
  let r := strength st (formatMObs st o) true false
  if va.toNat % size ≠ 0 then raise (progError 2 4 va (vaSlot va)) s
  else
    match s.request { kind := .load signed, va := va, offs := List.range size, mode := .load, skew := k == 1,
                      dest := if s.isFw then .fwx d.toNat else .x d.toNat, acq := r.2.1, sc := r.2.2, opf := 2,
                      agent := s.cur.agent } with
    | .fault f => raise f s
    | .wait why => block s why
    | .near _ ps s' =>
      if s'.poisoned ps then raise (poisonFault s' (inUnits ps) va 2) s'
      else .next (s'.putX d 4 ((loadValue signed (readPlaces s'.mem ps)).setWidth 64))
    | .sent s' => .next s'

/-- Loads and sign-extends (R255). -/
def execLd (d b : BitVec 5) (k : BitVec 1) (z st : BitVec 2) (o : BitVec 11) (s : State) : Out :=
  scalarLoad true d b k z st o s

/-- Loads and zero-extends (R255). -/
def execLdn (d b : BitVec 5) (k : BitVec 1) (z st : BitVec 2) (o : BitVec 11) (s : State) : Out :=
  scalarLoad false d b k z st o s

/-- Stores the low bytes of the data register (R255, R256). -/
def execSt (d b : BitVec 5) (k : BitVec 1) (z st : BitVec 2) (o : BitVec 11) (s : State) : Out :=
  let size := 2 ^ z.toNat
  let va := s.x b + formatMOffset st o size
  let r := strength st (formatMObs st o) false true
  if va.toNat % size ≠ 0 then raise (progError 2 4 va (vaSlot va)) s
  else
    match s.request { kind := .store, va := va, offs := List.range size, mode := .store, skew := k == 1,
                      data := lowBytes (s.x d) size, rel := r.1, sc := r.2.2, opf := 2, agent := s.cur.agent } with
    | .fault f => raise f s
    | .wait why => block s why
    | .near _ _ s' | .sent s' => .next s'

/-- An atomic (R328): one read-modify-write at the home; the old value goes to xd. -/
def atomic (op : Nat) (d a b : BitVec 5) (st : BitVec 2) (o : BitVec 5) (z : BitVec 1) (s : State) : Out :=
  let size := if z = 1 then 8 else 4
  let va := s.x a
  let r := strength st o true true
  if va.toNat % size ≠ 0 then raise (progError 2 2 va (vaSlot va)) s
  else
    let inv : FaultInfo := { cls := 1, kind := 1, opf := 2, addr := va, slot := vaSlot va }
    match s.lookup s.cur.core va size .store 2 with
    | .error f => raise f s
    | .ok e =>
      if e.tier = 4 ∨ e.kind = 2 then raise inv s
      else
        match s.request { kind := .atomic op (s.x d), va := va, offs := List.range size, mode := .store,
                          data := lowBytes (s.x b) size, dest := if s.isFw then .fwx d.toNat else .x d.toNat,
                          rel := r.1, acq := r.2.1, sc := r.2.2, opf := 2, agent := s.cur.agent } with
        | .fault f => raise f s
        | .wait why => block s why
        | .near _ ps u =>
          if u.poisoned ps then raise (poisonFault u (inUnits ps) va 2) u
          else
            let old := ofBytes (readPlaces u.mem ps)
            let new := atomicNew op (8 * size) old (ofBytes (lowBytes (s.x b) size)) (s.x d).toNat
            let u' := if op = 2 ∧ old ≠ (s.x d).toNat % 2 ^ (8 * size) then u else u.storeAt ps (toBytes new size)
            .next (u'.putX d 4 (BitVec.ofNat 64 old))
        | .sent s' => .next s'

/-- Atomic add (R328). -/
def execAtomAdd (d a b : BitVec 5) (st : BitVec 2) (o : BitVec 5) (z : BitVec 1) (s : State) : Out := atomic 0 d a b st o z s
/-- Atomic swap (R328). -/
def execAtomSwap (d a b : BitVec 5) (st : BitVec 2) (o : BitVec 5) (z : BitVec 1) (s : State) : Out := atomic 1 d a b st o z s
/-- Atomic compare and swap (R328). -/
def execAtomCas (d a b : BitVec 5) (st : BitVec 2) (o : BitVec 5) (z : BitVec 1) (s : State) : Out := atomic 2 d a b st o z s
/-- Atomic AND (R328). -/
def execAtomAnd (d a b : BitVec 5) (st : BitVec 2) (o : BitVec 5) (z : BitVec 1) (s : State) : Out := atomic 3 d a b st o z s
/-- Atomic OR (R328). -/
def execAtomOr (d a b : BitVec 5) (st : BitVec 2) (o : BitVec 5) (z : BitVec 1) (s : State) : Out := atomic 4 d a b st o z s
/-- Atomic XOR (R328). -/
def execAtomXor (d a b : BitVec 5) (st : BitVec 2) (o : BitVec 5) (z : BitVec 1) (s : State) : Out := atomic 5 d a b st o z s
/-- Atomic signed minimum (R328). -/
def execAtomMin (d a b : BitVec 5) (st : BitVec 2) (o : BitVec 5) (z : BitVec 1) (s : State) : Out := atomic 6 d a b st o z s
/-- Atomic signed maximum (R328). -/
def execAtomMax (d a b : BitVec 5) (st : BitVec 2) (o : BitVec 5) (z : BitVec 1) (s : State) : Out := atomic 7 d a b st o z s

end Sys2Proof.Machine
end

