-- ==== Sys2Proof/Machine/Commands.lean ====
section
/-! DEFINITION. Engine commands: the head word (R238), the command queues with their depths (R259), the push of a command with
what it captures and releases (R91, R97, R292), and the assembly of a command in an input FIFO (R99). -/

namespace Sys2Proof.Machine

open Sys2Proof

/-- CMD of a head word (R238). -/
def headCmd (w : Word) : Nat := bits w.toNat 27 5
/-- NTF of a head word. -/
def headNtf (w : Word) : Bool := w.getLsbD 23
/-- WV of a head word. -/
def headWv (w : Word) : Bool := w.getLsbD 22
/-- WTOK of a head word. -/
def headWtok (w : Word) : Nat := bits w.toNat 18 4
/-- SV of a head word. -/
def headSv (w : Word) : Bool := w.getLsbD 17
/-- STOK of a head word. -/
def headStok (w : Word) : Nat := bits w.toNat 13 4
/-- FSV of a head word. -/
def headFsv (w : Word) : Bool := w.getLsbD 6
/-- FSF of a head word. -/
def headFsf (w : Word) : Nat := bits w.toNat 1 5
/-- XB of a head word. -/
def headXb (w : Word) : Bool := w.getLsbD 0

/-- The words of a command with this head (R238). -/
def headCount (w : Word) : Nat :=
  1 + headLen w + (if headFav w then 1 else 0) + (if headFsv w then 1 else 0)

/-- The flag and value a command sets at completion (R119, R238). -/
def Cmd.sets (c : Cmd) : Option (Nat × Word) :=
  if headFsv c.head then
    some (headFsf c.head, c.word (1 + headLen c.head + (if headFav c.head then 1 else 0)))
  else none

/-- Entries of a command queue (R259). -/
def engineDepth : Engine → Nat
  | .matrix => 16
  | .copy => 8
  | .collective => 8
  | .mule => 4

/-- The place of an engine in the list of free entries before a bundle. -/
def engineNum : Engine → Nat
  | .matrix => 0
  | .copy => 1
  | .collective => 2
  | .mule => 3

/-- The engine of a FIFO or pacing register's number, counted from MX. -/
def engineOf (n : Nat) : Engine :=
  match n with
  | 0 => .matrix
  | 1 => .copy
  | 2 => .collective
  | _ => .mule

/-- Free entries of an engine's queue now. -/
def TaskCtx.freeEntries (t : TaskCtx) (e : Engine) : Nat := engineDepth e - (t.engine e).queue.length

/-- Free entries of the four queues, in engine order. -/
def TaskCtx.freeList (t : TaskCtx) : List Nat :=
  [t.freeEntries .matrix, t.freeEntries .copy, t.freeEntries .collective, t.freeEntries .mule]

/-- Free entries that a read of an input FIFO returns: as they stood before the bundle (R99, R262). -/
def State.freeSeen (s : State) (e : Engine) : Nat :=
  s.cur.free.getD (engineNum e) (s.me.freeEntries e)

/-- Whether an engine's queue has no free entry (R97, R262): the entries that it held when the ac began and those pushed in it. -/
def State.queueFull (s : State) (e : Engine) : Bool :=
  let old := ((s.was s.cur.core).engine e).queue
  let new := (s.me.engine e).queue.filter (fun k => !old.any (fun o => o.id == k.id))
  decide (engineDepth e ≤ old.length + new.length)

/-- The earlier stores and atomics of an agent that have not performed (R97). -/
def State.ownStores (s : State) (c : Nat) (a : Agent) : List Nat :=
  (s.transit.filter (fun x => x.of c a && x.kind.writes)).map (·.id) ++ s.ownMessages c a ++ (s.task c).rowIds a

/-- A token of the issuing task. -/
def State.token (s : State) (k : Nat) : Token := s.me.shared.token.get k {}

/-- The count of token `k` of core `c` that a wait of this ac sees: that from before the ac, less the waits since (R90). -/
def State.tokenSeen (s : State) (c k : Nat) : Nat :=
  let now := (s.task c).shared.token.get k {}
  let old := (s.was c).shared.token.get k {}
  old.count.toNat - (now.taken - old.taken)

/-- Whether token `k` of core `c` can take a signal in this ac: waits of the same ac make it no room (R90). -/
def State.tokenRoom (s : State) (c k : Nat) : Bool :=
  let now := (s.task c).shared.token.get k {}
  let old := (s.was c).shared.token.get k {}
  decide (now.count.toNat + (now.taken - old.taken) < 255)

/-- Whether the issuing agent is the producer of token `k` (R90). -/
def State.producer (s : State) (k : Nat) : Bool := (s.token k).used && (s.token k).prod == partyCode s.cur.agent
/-- Whether the issuing agent is the consumer of token `k` (R90). -/
def State.consumer (s : State) (k : Nat) : Bool := (s.token k).used && (s.token k).cons == partyCode s.cur.agent

/-- The token of a command's wait or signal that the issuing agent has no part in (R91). -/
def State.badParty (s : State) (w g : Option Nat) : Option Nat :=
  match w with
  | some k => if !s.consumer k then some k else
    (match g with
     | some j => if !s.producer j then some j else none
     | none => none)
  | none =>
    match g with
    | some j => if !s.producer j then some j else none
    | none => none

/-- The wait token of a head word. -/
def headWait (w : Word) : Option Nat := if headWv w then some (headWtok w) else none
/-- The signal token of a head word. -/
def headSignal (w : Word) : Option Nat := if headSv w then some (headStok w) else none

/-- How the operations of a list hold back a later one of the issuing agent: those of earlier bundles are waited for at the
issue point, and those of the bundle's own earlier words are followed later (assumption 12). -/
def State.hold (s : State) (ids : List Nat) : Option (List Nat) :=
  if s.anyLive (s.before ids) then none
  else if s.anyLive ids then some ids
  else some []

/-- The class of an engine's commands in S (R107). -/
def engineClass : Engine → BitVec 5
  | .copy => 2
  | .collective => 8
  | _ => 4

/-- The classes of a command that is pushed (R107): a collective command that goes to no peer and contributes to no window is in none. -/
def State.pushClass (s : State) (e : Engine) (k : Cmd) : BitVec 5 :=
  if e = .collective ∧ !s.farCommand s.me.id.vf k then 0 else engineClass e

/-- Whether an acquire or fence of an earlier bundle holds back the push of a command to an engine (R107, R113). -/
def State.pushWaits (s : State) (e : Engine) (k : Cmd := {}) : Bool := (s.hold (s.acqIds (s.pushClass e k))).isNone

/-- The agent that pushes for a word of the issuing agent: the firmware context acts for the task's control
sequencer (R320). -/
def State.pusher (s : State) : Agent := if s.isFw then .control else s.cur.agent

/-- The registers that the format table names for row scales, by index: they are read at the go (R142). -/
def TaskCtx.rowScales (t : TaskCtx) : SMap VReg :=
  (t.shared.fmt.filter (fun e => e.2.toNat / 2 ^ 23 % 4 == 2)).map (fun e =>
    (e.1, t.regs.v.get (e.2.toNat / 2 ^ 32 % 32) 0))

/-- A command enters a queue (R97): it takes a number, the stores it must follow and, for the matrix engine, the shadow bank (R263), as it
stood before the bundle for `DISP` and MXGO, and as the ac began for a FIFO's word or a `mule.mx` (R292). -/
def State.pushCmd (s : State) (e : Engine) (c : Cmd) : State :=
  let t := match c.path with | .disp | .go => s.me | .fifo | .mule => s.was s.cur.core
  let c := { c with id := s.nextId, pusher := s.pusher, after := s.ownStores s.cur.core s.cur.agent ++ s.acqIds (s.pushClass e c),
                    nt := if e = .matrix then t.shared.nt else [],
                    fmt := if e = .matrix then t.shared.fmt else [],
                    scales := if e = .matrix then t.rowScales else [] }
  (s.updMe (fun t => t.updEngine e (fun q => { q with queue := q.queue ++ [c] }))).bumpId

/-- What appending a word to an input FIFO does: `waits` is an acquire or fence that holds back the push (R107, R113). -/
inductive Appended where
  | taken (s : State)
  | full
  | waits
  | party (token : Nat)
  | reserved

/-- A word appended to the issuing agent's assembly buffer (R99). The buffer is complete when it holds the words that
its head names; a head that names more than eight is pushed alone and fails at its dequeue (R222, R238). The firmware context appends nothing
(R155, assumption 122). -/
def State.append (s : State) (e : Engine) (w : Word) : Appended :=
  let key := (seqCode s.pusher).toNat
  let buf := (s.me.engine e).asm.get key [] ++ [w]
  let head := buf.headD 0
  let n := if 8 < headCount head then 1 else headCount head
  if s.isFw then .taken s
  else if buf.length < n then
    .taken (s.updMe (fun t => t.updEngine e (fun q => { q with asm := q.asm.set key buf })))
  else if s.cur.agent = .mule ∧ (headWv head ∨ headSv head) then .reserved
  else
    match s.badParty (headWait head) (headSignal head) with
    | some k => .party k
    | none =>
      if s.queueFull e then .full
      else if s.pushWaits e { words := buf, path := .fifo } then .waits
      else
        let s := s.updMe (fun t => t.updEngine e (fun q => { q with asm := q.asm.erase key }))
        .taken (s.pushCmd e
          { words := buf, waitTok := headWait head, sigTok := headSignal head, path := .fifo })

/-- Whether the oldest element of an output FIFO stood there when the ac began (R262). -/
def State.outSeen (s : State) (e : Engine) : Bool :=
  let old := (s.was s.cur.core).engine e
  decide ((s.me.engine e).popped - old.popped < old.out.length)

/-- The oldest element of an output FIFO leaves it (R100); the firmware context only reads it (R155, assumption 122). -/
def State.popOut (s : State) (e : Engine) : Option (DWord × State) :=
  match (s.me.engine e).out with
  | [] => none
  | v :: r =>
    if s.outSeen e then
      some (v, if s.isFw then s else s.updMe (fun t => t.updEngine e (fun q => { q with out := r, popped := q.popped + 1 })))
    else none

/-- Elements an output FIFO holds at most (R99). -/
def outDepth : Nat := 16

/-- Whether an output FIFO of core `c` has no room for an element (R98, R262): elements popped in this ac still take theirs. -/
def State.outFull (s : State) (c : Nat) (e : Engine) : Bool :=
  let now := (s.task c).engine e
  decide (outDepth ≤ now.out.length + (now.popped - ((s.was c).engine e).popped))

/-- An output element (R100). -/
def outElement (kind : Nat) (status : BitVec 8) (tag : Nat) (value : BitVec 42) : DWord :=
  BitVec.ofNat 64 (kind * 2 ^ 56 + status.toNat * 2 ^ 48 + tag % 64 * 2 ^ 42 + value.toNat)

end Sys2Proof.Machine
end

