-- ==== Sys2Proof/Machine/Sync.lean ====
section
/-! DEFINITION. Tokens, flags, barriers, tag waits, rings, waits on an address and fences of the control stream (R90, R113 to
R120, R320 to R327, R329), as operations that the other sequencers' forms share. -/

namespace Sys2Proof.Machine

open Sys2Proof

/-! ### Tokens (R90, R321) -/

/-- The error of R90 on token `k`. -/
def partyError (k : Nat) : FaultInfo := progError 3 (opfToken k)

/-- The signal of R90: it is in flight until it is applied; one that finds the count at 255 waits (R148). -/
def tokenSignal (k : Nat) (s : State) : Out :=
  if !s.producer k then raise (partyError k) s
  else if !s.tokenRoom s.cur.core k then block s (.tokenFull k)
  else .next (s.put { target := .token k, data := 0, left := 1, after := s.ownAccesses s.cur.core s.cur.agent })

/-- The subtraction of a wait. -/
def State.takeToken (s : State) (k : Nat) : State :=
  s.updShared s.cur.core (fun h =>
    let t := h.token.get k {}
    { h with token := h.token.set k { t with count := t.count - 1, taken := t.taken + 1 } })

/-- The wait of R90. -/
def tokenWait (k : Nat) (s : State) : Out :=
  if !s.consumer k then raise (partyError k) s
  else if s.tokenSeen s.cur.core k = 0 then block s (.tokenEmpty k)
  else .next (s.takeToken k)

/-- Signals token k (R321). -/
def execTsig (k : BitVec 4) (s : State) : Out := tokenSignal k.toNat s

/-- Waits on token k (R321). -/
def execTwait (k : BitVec 4) (s : State) : Out := tokenWait k.toNat s

/-- Waits on token k when its count is not 0, and says so in pd (R321). -/
def execTwaitnb (d : BitVec 3) (k : BitVec 4) (s : State) : Out :=
  if !s.consumer k.toNat then raise (partyError k.toNat) s
  else if s.tokenSeen s.cur.core k.toNat = 0 then .next (s.putP d false)
  else .next ((s.takeToken k.toNat).putP d true)

/-! ### Flags (R115 to R119, R322, R323) -/

/-- Flag `f` of the issuing task. -/
def State.flag (s : State) (f : Nat) : Word := s.me.shared.flag.get f 0

/-- The operations that a flag update with release mask `o` follows (R107); one of a peer's flag follows the acquires of class D too. -/
def State.flagIds (s : State) (o : BitVec 5) (peer : Bool := false) : List Nat :=
  s.orderSet s.cur.core s.cur.agent o ++ s.acqIds (if peer then 9 else 1)

/-- A remote flag operation leaves the issuing agent (R116, R120). -/
def State.sendFlag (s : State) (r : RemoteFlag) : State :=
  State.bumpId { s with remote := s.remote ++
    [{ r with id := s.nextId, source := s.cur.core, agent := s.cur.agent, launch := s.me.id.launch }] }

/-- An update of a flag of the own core (R116): a release; one that must follow the bundle's own earlier words is
applied as they perform. -/
def ownFlag (add : Bool) (f : Nat) (v : Word) (o : BitVec 5) (s : State) : Out :=
  match s.hold (s.flagIds o) with
  | none => block s (.ops (s.flagIds o))
  | some [] => .next (s.putWord (if add then .flagAdd f else .flagSet f) 1 (v.setWidth 64))
  | some ids =>
    .next (s.sendFlag { source := 0, launch := 0, target := s.cur.core, flag := f, value := v, add := add, after := ids })

/-- f := xa[31:0] on this core (R322). -/
def execFset (a f o : BitVec 5) (s : State) : Out := ownFlag false f.toNat ((s.x a).setWidth 32) o s

/-- f := f + xa[31:0] on this core (R322). -/
def execFadd (a f o : BitVec 5) (s : State) : Out := ownFlag true f.toNat ((s.x a).setWidth 32) o s

/-- The grant for the issuing word, if the home or an abort has given one, and the state without it (R320). -/
def State.takeGrant (s : State) : Option (DWord × State) :=
  let mine (g : Granted) : Bool :=
    g.core == s.cur.core && g.agent == s.cur.agent && g.step == s.stepOf s.cur.core s.cur.agent && g.word == s.cur.word
  match s.granted.find? mine with
  | some g => some (g.value, { s with granted := s.granted.erase g })
  | none => none

/-- The issuing agent is held by an await on flag `f` for `v` (R324). -/
def State.await (s : State) (f : Nat) (v : Word) : State :=
  s.updShared s.cur.core (fun h =>
    { h with awaiting :=
        h.awaiting.filter (fun e => e.agent != s.cur.agent) ++ [{ agent := s.cur.agent, word := s.cur.word, flag := f, value := v }] })

/-- Whether an await of the issuing word on flag `f` for `v` is met: now, or by an update since it began to wait (R116, R324). -/
def State.awaitMet (s : State) (f : Nat) (v : Word) : Bool :=
  serialGe (s.flag f) v ||
  s.me.shared.awaiting.any (fun e => e.woken && e.agent == s.cur.agent && e.word == s.cur.word && e.flag == f && e.value == v)

/-- Blocks until the flag has reached xa[31:0], then xd := 0; xd := 1 when `BARINITF` woke it (R322, R324). -/
def execFawait (d a f _o : BitVec 5) (s : State) : Out :=
  let v : Word := (s.x a).setWidth 32
  match s.takeGrant with
  | some (r, s') => .next (s'.putX d 1 r)
  | none => if s.awaitMet f.toNat v then .next (s.putX d 1 0) else block (s.await f.toNat v) (.flag f.toNat v)

/-- xd := f (R322). -/
def execFread (d f : BitVec 5) (s : State) : Out := .next (s.putX d 2 ((s.flag f.toNat).setWidth 64))

/-- Whether a core number names a core that tasks use (R2, R162). -/
def State.coreUsable (s : State) (c : Nat) : Bool := decide (c < 4096) && !s.cfg.disabled.contains c

/-- A list of remote flag operations is sent, as releases (R116). -/
def remoteFlags (o : BitVec 5) (rs : List RemoteFlag) (s : State) : Out :=
  let peer := rs.any (fun r => r.peer.isSome)
  match s.hold (s.flagIds o peer) with
  | none => block s (.ops (s.flagIds o peer))
  | some ids => .next (rs.foldl (fun s r => s.sendFlag { r with after := ids }) s)

/-- A remote flag-add to the core that xt names (R322, R323). -/
def execFradd (t a f o : BitVec 5) (s : State) : Out :=
  let v := (s.x t).toNat
  let peer := decide (bits v 13 1 = 1)
  let core := bits v 0 12
  if bits v 14 34 ≠ 0 ∨ bits v 12 1 = 1 ∨ (!peer ∧ (bits v 48 16 ≠ 0 ∨ !s.coreUsable core)) then raise (reservedField 1) s
  else
    remoteFlags o [{ source := 0, launch := 0, target := core, peer := if peer then some (BitVec.ofNat 16 (bits v 48 16)) else none,
                     flag := f.toNat, value := (s.x a).setWidth 32, add := true }] s

/-- The numbers below `n` whose bit of `m` is set. -/
def setBits (m n : Nat) : List Nat := (List.range n).filter (fun i => decide (bits m i 1 = 1))

/-- The cores that a target of `FMCAST` names (R323). -/
def mcastCores (v : Nat) : List Nat :=
  (setBits (bits v 32 32) 32).flatMap (fun cl => (setBits (bits v 16 16) 16).map (fun n => coreNum (bits v 0 3) cl n))

/-- A flag-set at every core of a mask on one die (R322, R323). -/
def execFmcast (t a f o : BitVec 5) (s : State) : Out :=
  let v := (s.x t).toNat
  let cores := mcastCores v
  if bits v 3 13 ≠ 0 ∨ !cores.all s.coreUsable then raise (reservedField 1) s
  else
    remoteFlags o (cores.map (fun c =>
      { source := 0, launch := 0, target := c, flag := f.toNat, value := (s.x a).setWidth 32, add := false })) s

/-- The launch of a task on core `c`, if its die holds it. -/
def State.launchOf (s : State) (c : Nat) (t : TaskCtx) : Option Launch :=
  (s.die (coreDie c)).launches.find? (fun l => l.id == t.id.launch)

/-- The tasks of each gang of the issuing task's gang or crew (R323). -/
def State.members (s : State) : List Nat :=
  match s.launchOf s.cur.core s.me with
  | some l => l.unitSizes.get s.me.id.unit []
  | none => []

/-- Whether the issuing task's launch is a launch of gangs (R165). -/
def State.ofGangs (s : State) : Bool :=
  match s.launchOf s.cur.core s.me with
  | some l => l.lrec.crew == 0
  | none => true

/-- Whether gang `g` of the issuing task's unit has a member of rank `r`. -/
def State.hasMember (s : State) (g r : Nat) : Bool := decide (r < s.members.getD g 0)

/-- A remote flag operation on a member named by rank (R323). -/
def State.toMember (s : State) (g r f : Nat) (v : Word) (add : Bool) : RemoteFlag :=
  { source := 0, launch := 0, target := coreDie s.cur.core * 512, byRank := some (s.me.id.unit, g, r), flag := f, value := v,
    add := add }

/-- A remote flag-add to the member of a rank (R322, R323). -/
def execBaradd (t a f o : BitVec 5) (s : State) : Out :=
  let v := (s.x t).toNat
  if bits v 9 55 ≠ 0 ∨ !s.hasMember (bits v 4 5) (bits v 0 4) then raise (reservedField 1) s
  else remoteFlags o [s.toMember (bits v 4 5) (bits v 0 4) f.toNat ((s.x a).setWidth 32) true] s

/-- A flag-set at every member of a mask (R322, R323). -/
def execBarcast (t a f o : BitVec 5) (s : State) : Out :=
  let v := (s.x t).toNat
  if bits v 48 16 ≠ 0 ∨ (s.ofGangs ∧ bits v 17 31 ≠ 0) then raise (reservedField 1) s
  else
    let pairs := (setBits (bits v 16 32) 32).flatMap (fun g => (setBits (bits v 0 16) 16).map (fun r => (g, r)))
    remoteFlags o ((pairs.filter (fun p => s.hasMember p.1 p.2)).map (fun p =>
      s.toMember p.1 p.2 f.toNat ((s.x a).setWidth 32) false)) s

/-! ### Barriers (R324) -/

/-- The synchronisation fault of kind 0x02 on flag `f`. -/
def barrierBusy (f : Nat) : FaultInfo := { cls := 4, kind := 2, opf := BitVec.ofNat 8 (opfFlag f) }

/-- Whether a command awaits flag `f`. -/
def Cmd.awaits (f : Nat) (c : Cmd) : Bool := match c.await with | some (g, _) => g == f | none => false

/-- Whether flag `f` of a task has a waiter (R324). -/
def TaskCtx.flagWaiters (t : TaskCtx) (f : Nat) : Bool :=
  t.shared.awaiting.any (fun e => e.flag == f) ||
  (t.mx.queue ++ t.cp.queue ++ t.cl.queue ++ t.ml.queue).any (Cmd.awaits f)

/-- f := xa[31:0] as a release, unless a waiter is parked on f (R324). -/
def execBarinit (a f o : BitVec 5) (s : State) : Out :=
  if s.me.flagWaiters f.toNat then raise (barrierBusy f.toNat) s
  else ownFlag false f.toNat ((s.x a).setWidth 32) o s

/-- The commands of a queue that await flag `f` end with STATUS 0x05 (R324). -/
def EngineSt.abortAwaits (e : EngineSt) (f : Nat) : EngineSt :=
  { e with
    queue := e.queue.filter (fun c => !c.awaits f)
    running := e.running ++ (e.queue.filter (Cmd.awaits f)).map (fun c => { cmd := c, st := .ended 5 0 }) }

/-- Every waiter of flag `f` is woken as aborted (R324). -/
def State.abortWaiters (s : State) (f : Nat) : State :=
  let c := s.cur.core
  let t := s.me
  let held := t.shared.awaiting.filter (fun e => e.flag == f)
  let wake (e : FlagWait) : Granted := { core := c, step := s.stepOf c e.agent, agent := e.agent, word := e.word, value := 1 }
  let woken := (held.filter (fun e => e.agent != .mule)).map wake
  let s := { s with granted := s.granted ++ woken }
  let s := s.updMe (fun t =>
    { t with
      mx := t.mx.abortAwaits f
      cp := t.cp.abortAwaits f
      cl := t.cl.abortAwaits f
      ml := t.ml.abortAwaits f
      shared := { t.shared with awaiting := t.shared.awaiting.filter (fun e => e.flag != f) } })
  if held.any (fun e => e.agent == .mule) then s.takeFault c .mule (s.mkRec c .mule (barrierBusy f)) else s

/-- Sets f and wakes its waiters as aborted (R324). -/
def execBarinitf (a f o : BitVec 5) (s : State) : Out :=
  match s.hold (s.flagIds o) with
  | none => block s (.ops (s.flagIds o))
  | some _ => ownFlag false f.toNat ((s.x a).setWidth 32) o (s.abortWaiters f.toNat)

/-! ### Tag waits (R101, R325) -/

/-- The tags of a mask that are set. -/
def State.tagsOf (s : State) (m : DWord) : DWord := s.me.shared.tags &&& m

/-- Blocks until a tag of M is set; xd := TAGS AND M (R325). -/
def execTagwany (d b : BitVec 5) (s : State) : Out :=
  if s.x b = 0 ∨ s.tagsOf (s.x b) ≠ 0 then .next (s.putX d 1 (s.tagsOf (s.x b)))
  else block s (.tags (s.x b) false)

/-- Blocks until every tag of M is set; xd := TAGS AND M (R325). -/
def execTagwall (d b : BitVec 5) (s : State) : Out :=
  if s.tagsOf (s.x b) = s.x b then .next (s.putX d 1 (s.tagsOf (s.x b)))
  else block s (.tags (s.x b) true)

/-- The lowest set bit of a 64-bit value, or 64. -/
def lowestBit (v : DWord) : Nat := ((List.range 64).find? (fun i => v.getLsbD i)).getD 64

/-- xd := the lowest set tag of M, or 64 (R325). -/
def execTagffr (d b : BitVec 5) (s : State) : Out :=
  .next (s.putX d 2 (BitVec.ofNat 64 (lowestBit (s.tagsOf (s.x b)))))

/-- TAGS := TAGS AND NOT M (R325). -/
def execTagclr (b : BitVec 5) (s : State) : Out := .next (s.putWord (.sys 0) 1 (s.x b))

/-! ### Rings (R49, R50, R326) -/

/-- The invalid-segment error at an address. -/
def invalidSegment (opf : Nat) (va : DWord) : FaultInfo :=
  { cls := 1, kind := 1, opf := BitVec.ofNat 8 opf, addr := va, slot := vaSlot va }

/-- Whether a request of the issuing word is at its home, parked or on its way (R320). -/
def State.outstanding (s : State) : Bool :=
  let mine (a : Access) : Bool :=
    a.of s.cur.core s.cur.agent && a.step == s.stepOf s.cur.core s.cur.agent && a.word == s.cur.word &&
    (match a.kind with | .ring op _ => op % 2 == 0 | .waita _ p _ => p | _ => false)
  s.transit.any mine || s.waiters.any (fun w => mine w.access)

/-- A request that holds its bundle until the home grants it (R320): once granted, its value, whatever has become of the slot since; else
the wait, with the request sent when none is outstanding and the lookup, by `seg`, has passed. -/
def claim (q : Request) (seg : Except FaultInfo Desc) (deliver : DWord → State → Out) (s : State) : Out :=
  match s.takeGrant with
  | some (v, s') => deliver v s'
  | none =>
    if s.outstanding then block s .grant
    else
      match seg with
      | .error f => raise f s
      | .ok d =>
        match s.hold (s.acqIds (tierClasses d.tier)) with
        | none => block s (.ops (s.acqIds (tierClasses d.tier)))
        | some ids =>
          let s := if d.tier = 1 ∧ d.homeCore = s.cur.core then s.flushNear else s
          let a := s.mkAccess s.cur.core q d
          block (s.send { a with after := ids ++ (if d.tier = 1 ∧ d.homeCore = s.cur.core then s.nearIds else []) }) .grant

/-- The descriptor of a ring at `va`, or the invalid-segment error (R326). -/
def State.ringSegment (s : State) (va : DWord) (opf : Nat) : Except FaultInfo Desc :=
  match s.lookup s.cur.core va 64 .store opf with
  | .error f => .error f
  | .ok d =>
    if va.toNat % 64 ≠ 0 ∨ d.tier ≠ 1 ∨ d.kind ≠ 0 ∨ !d.sync ∨ coreCluster d.homeCore ≠ coreCluster s.cur.core then
      .error (invalidSegment opf va)
    else .ok d

/-- A ring operation of the issuing agent: 0 producer claim, 1 publish, 2 consumer claim, 3 release. -/
def ringOp (op : Nat) (va : DWord) (count : Word) (o : BitVec 5) (opf : Nat) (deliver : DWord → State → Out) (s : State) :
    Out :=
  let q : Request := { kind := .ring op count, va := va, offs := List.range 64, mode := .store, rel := if op % 2 = 1 then o else 0,
                       acq := if op % 2 = 0 then o else 0, opf := opf, agent := s.cur.agent }
  if op % 2 = 0 then claim q (s.ringSegment va opf) deliver s
  else
    match s.ringSegment va opf with
    | .error f => raise f s
    | .ok d =>
      let s := if d.homeCore = s.cur.core then s.flushNear else s
      let a := s.mkAccess s.cur.core q d
      let ids := s.mustFollow q d.tier (d.homeCore == s.cur.core) a.places
      match s.hold ids with
      | none => block s (.ops ids)
      | some l => .next (s.send { a with after := l })

/-- Producer claim: xd := CLP (R326). -/
def execRgprod (d b o : BitVec 5) (s : State) : Out := ringOp 0 (s.x b) 0 o 3 (fun v s => .next (s.putX d 1 v)) s
/-- Publish of count xa (R326). -/
def execRgpub (a b o : BitVec 5) (s : State) : Out :=
  ringOp 1 (s.x b) ((s.x a).setWidth 32) o 3 (fun _ s => .next s) s
/-- Consumer claim: xd := CLC (R326). -/
def execRgcons (d b o : BitVec 5) (s : State) : Out := ringOp 2 (s.x b) 0 o 3 (fun v s => .next (s.putX d 1 v)) s
/-- Release of count xa (R326). -/
def execRgrel (a b o : BitVec 5) (s : State) : Out :=
  ringOp 3 (s.x b) ((s.x a).setWidth 32) o 3 (fun _ s => .next s) s

/-! ### Waits on an address (R327) -/

/-- The segment of a waited word, or its error (R327). -/
def State.waitSegment (s : State) (va : DWord) : Except FaultInfo Desc :=
  match s.lookup s.cur.core va 8 .load 3 with
  | .error f => .error f
  | .ok d =>
    if va.toNat % 8 ≠ 0 then .error (progError 2 3 va (vaSlot va))
    else if d.kind ≠ 0 ∨ (d.tier ≤ 3 ∧ !d.sync) ∨ (d.tier = 1 ∧ d.homeCore ≠ s.cur.core) then .error (invalidSegment 3 va)
    else .ok d

/-- A read of the waited word at its home. -/
def waitRequest (s : State) (va : DWord) (cmp : DWord) (park : Bool) (dest : Target) (o : BitVec 5) : Request :=
  { kind := .waita cmp park false, va := va, offs := List.range 8, mode := .load, dest := dest, acq := o, opf := 3, agent := s.cur.agent }

/-- Waits while the word at xb equals xa, then xd := the word (R327). -/
def execWaita (d a b o : BitVec 5) (s : State) : Out :=
  claim (waitRequest s (s.x b) (s.x a) true .none o) (s.waitSegment (s.x b)) (fun v s => .next (s.putX d 1 v)) s

/-- xd := the word at xb, read once (R327). -/
def execWaitanb (d a b o : BitVec 5) (s : State) : Out :=
  match s.waitSegment (s.x b) with
  | .error f => raise f s
  | .ok e =>
    let q := waitRequest s (s.x b) (s.x a) false (if s.isFw then .fwx d.toNat else .x d.toNat) o
    let s := if e.tier = 1 then s.flushNear else s
    let acc := s.mkAccess s.cur.core q e
    let ids := s.mustFollow q e.tier (e.tier == 1) acc.places
    match s.hold ids with
    | none => block s (.ops ids)
    | some l => .next (s.send { acc with after := l })

/-! ### Fences (R113, R114, R329) -/

/-- The earlier loads and atomics of the issuing agent that have not performed (R113). -/
def State.ownLoads (s : State) : List Nat :=
  (s.transit.filter (fun x => x.of s.cur.core s.cur.agent &&
    (match x.kind with | .load _ | .atomic _ _ | .waita .. => true | _ => false))).map (·.id)

/-- The commands of an engine whose completion has not been signalled (R98). -/
def EngineSt.unsignalled (e : EngineSt) : List Nat := e.queue.map (·.id) ++ (e.running.filter (fun r => !r.acted)).map (·.cmd.id)

/-- The commands of the module whose completion has not been signalled. -/
def State.unsignalled (s : State) : List Nat :=
  s.cores.flatMap (fun e => let t := e.2.task
    t.mx.unsignalled ++ t.cp.unsignalled ++ t.cl.unsignalled ++ t.ml.unsignalled)

/-- The writes of the collective path whose command's completion has been signalled and that have not performed (R114, R126). -/
def State.crossPath (s : State) : List Nat :=
  let l := s.unsignalled
  (s.transit.filter (fun x => x.collective && !l.contains x.cmd)).map (·.id)

/-- What a fence waits for: kind 0 release, 1 acquire, 2 full, 3 cross-path. -/
def State.fenceIds (s : State) (kind : Nat) (o : BitVec 5) : List Nat :=
  match kind with
  | 0 => s.orderSet s.cur.core s.cur.agent o
  | 1 => if o = 0 then [] else s.ownLoads
  | 2 => if o = 0 then [] else s.orderSet s.cur.core s.cur.agent o ++ s.ownLoads
  | _ => s.crossPath

/-- A release or full fence with the bit H: the agent's later tier-4 stores leave with the relaxed-ordering attribute clear (R125). -/
def State.hostFenced (s : State) (kind : Nat) (o : BitVec 5) : State :=
  if (kind = 0 ∨ kind = 2) ∧ obsHas o 4 ∧ !s.me.shared.hostFence.contains s.cur.agent then
    s.updShared s.cur.core (fun h => { h with hostFence := h.hostFence ++ [s.cur.agent] })
  else s

/-- A fence waits as an interlock; one that follows words of its own bundle holds back the later operations of the
agent until they have performed (assumption 12). -/
def fence (kind : Nat) (o : BitVec 5) (s : State) : Out :=
  match s.hold (s.fenceIds kind o) with
  | none => block s (.ops (s.fenceIds kind o))
  | some [] => .next (s.hostFenced kind o)
  | some ids =>
    let a : Access :=
      { id := s.nextId, core := s.cur.core, agent := s.cur.agent, kind := .prefetch, tier := 1, after := ids,
        acq := if kind = 1 then o else 0x1F, step := s.stepOf s.cur.core s.cur.agent, word := s.cur.word }
    .next ((s.hostFenced kind o).send a)

/-- `FENCE.REL` (R329). -/
def execFenceRel (o : BitVec 5) (s : State) : Out := fence 0 o s
/-- `FENCE.ACQ` (R329). -/
def execFenceAcq (o : BitVec 5) (s : State) : Out := fence 1 o s
/-- `FENCE.FULL` (R329). -/
def execFenceFull (o : BitVec 5) (s : State) : Out := fence 2 o s
/-- `FENCE.X` (R329). -/
def execFenceX (s : State) : Out := fence 3 0 s

end Sys2Proof.Machine
end

