-- ==== Sys2Proof/Machine/System.lean ====
section
/-! DEFINITION. System registers, dispatches, the go registers, the end of a task, firmware calls, the return from a trap and
page invalidation (R24, R99, R100, R157 to R160, R189 to R194, R259 to R263, R267, R338 to R341, R370). -/

namespace Sys2Proof.Machine

open Sys2Proof

/-! ### Fault records as bits (R185) -/

/-- A bit as a number. -/
def bit (b : Bool) : Nat := if b then 1 else 0

/-- The 256 bits of a fault record. -/
def FaultRec.toBits (r : FaultRec) : BitVec 256 :=
  BitVec.ofNat 256 (r.lid.toNat + bit r.img * 2 ^ 32 + bit r.dc * 2 ^ 33 + bit r.multi * 2 ^ 34 + bit r.defer * 2 ^ 35 +
    r.core.toNat * 2 ^ 36 + r.cl.toNat * 2 ^ 40 + r.die.toNat * 2 ^ 45 + r.seq.toNat * 2 ^ 48 + r.cls.toNat * 2 ^ 52 +
    r.kind.toNat * 2 ^ 56 + r.opf.toNat * 2 ^ 64 + r.seg.toNat * 2 ^ 72 + r.word.toNat * 2 ^ 78 + r.step.toNat * 2 ^ 80 +
    r.addr.toNat * 2 ^ 144 + r.tick.toNat * 2 ^ 208)

/-- Word `n` of a wide value. -/
def word64 {w : Nat} (v : BitVec w) (n : Nat) : DWord := BitVec.ofNat 64 (v.toNat / 2 ^ (64 * n))

/-! ### Reading system registers (R260, R341) -/

/-- COREID (R261): of a die control core its DC bit, die and number. -/
def coreId (c : Nat) : DWord := BitVec.ofNat 64 (if isDc c then 4096 + 512 * (coreDie c % 8) + c % 8 else c)

/-- The sequencer that SNAPSEL names (R341). -/
def snapAgent (n : BitVec 2) : Agent :=
  match n.toNat with
  | 0 => .control
  | 1 => .load
  | 2 => .compute
  | _ => .store

/-- The entry that SNAPSEL selects. -/
def State.snapWord (s : State) : BitVec 2240 :=
  let fw := (s.core s.cur.core).fw
  (s.me.seq (snapAgent fw.snapSeq)).snapBits fw.snapEntry.toNat

/-- A register of the firmware context (R341). -/
def State.readFw (s : State) (n : Nat) : DWord :=
  let k := s.core s.cur.core
  if 0x800 ≤ n ∧ n ≤ 0x803 then word64 (k.task.pending.get k.fw.tsel.toNat {}).toBits (n - 0x800)
  else if n = 0x804 then k.task.tstep
  else if n = 0x805 then BitVec.ofNat 64 (k.task.pending.foldl (fun acc e => Nat.lor acc (2 ^ e.1)) 0)
  else if n = 0x806 then k.fw.tsel.setWidth 64
  else if n = 0x808 then BitVec.ofNat 64 (k.fw.snapSeq.toNat + 256 * k.fw.snapEntry.toNat)
  else if 0x810 ≤ n ∧ n ≤ 0x832 then word64 s.snapWord (n - 0x810)
  else if 0x850 ≤ n ∧ n ≤ 0x853 then word64 k.fw.fwrec.toBits (n - 0x850)
  else if n = 0x854 then BitVec.ofNat 64 (bit k.fw.fwv)
  else if n = 0x855 then k.fw.fwvec
  else if n = 0x856 then k.fw.fwret
  else 0

/-- A system register that a read does not change (R260, R370). -/
def State.readSys (s : State) (n : Nat) : DWord :=
  let k := s.core s.cur.core
  let h := k.task.shared
  if n = 0 then h.tags
  else if n = 1 then h.fstat.setWidth 64
  else if n = 2 then h.decloss.setWidth 64
  else if n = 3 then h.specmiss
  else if n = 4 then k.cecnt.setWidth 64
  else if n = 5 then k.pshare.setWidth 64
  else if n = 6 then BitVec.ofNat 64 s.rc
  else if n = 7 then coreId s.cur.core
  else if 0x40 ≤ n ∧ n ≤ 0x7F then h.tagrec.get (n - 0x40) 0
  else if n = 0x80 ∨ n = 0x82 ∨ n = 0x84 ∨ n = 0x86 then BitVec.ofNat 64 (s.freeSeen (engineOf ((n - 0x80) / 2)))
  else if 0x88 ≤ n ∧ n ≤ 0x8B then (k.task.engine (engineOf (n - 0x88))).gap.setWidth 64
  else if 0x100 ≤ n ∧ n ≤ 0x11F then (h.nt.get (n - 0x100) 0).setWidth 64
  else if 0x180 ≤ n ∧ n ≤ 0x18F then h.fmt.get (n - 0x180) 0
  else if 0x800 ≤ n then s.readFw n
  else 0

/-- MXOUT to MLOUT: the engine of an output FIFO's number. -/
def outEngine (r : BitVec 12) : Engine := engineOf ((r.toNat - 0x81) / 2)
/-- MXIN to MLIN: the engine of an input FIFO's number. -/
def inEngine (r : BitVec 12) : Engine := engineOf ((r.toNat - 0x80) / 2)

/-- A pop of an output FIFO by the control sequencer or the firmware context (R100, R262). -/
def popToX (e : Engine) (d : BitVec 5) (nb : Bool) (p : BitVec 3) (s : State) : Out :=
  match s.popOut e with
  | some (v, s') => .next (let s' := s'.putX d 2 v; if nb then s'.putP p true else s')
  | none => if nb then .next ((s.putX d 2 0).putP p false) else block s (.output (engineNum e))

/-- Reads a system register or pops an output FIFO (R260, R262). -/
def execMfsr (d : BitVec 5) (n : BitVec 1) (p : BitVec 3) (r : BitVec 12) (s : State) : Out :=
  if 0x800 ≤ r.toNat ∧ !s.isFw then raise (reservedField 4) s
  else if isOutFifo r then popToX (outEngine r) d (n == 1) p s
  else .next (s.putX d 2 (s.readSys r.toNat))

/-! ### Pushes by system-register writes (R99, R103, R262, R263) -/

/-- How a push by the issuing agent to an engine ends: `nb` names the predicate to write when the move does not block (R262). -/
def pushed (opf : Nat) (e : Engine) (nb : Option (BitVec 3)) (r : Appended) (s : State) : Out :=
  match r with
  | .taken s' => .next (match nb with | some p => s'.putP p true | none => s')
  | .full => (match nb with | some p => .next (s.putP p false) | none => block s (.input (engineNum e)))
  | .waits => block s (.ops (s.acqIds (engineClass e)))
  | .party k => raise (partyError k) s
  | .reserved => raise (reservedField opf) s

/-- The go of the matrix engine with value `v` (R263), which the firmware context does not give (R155, assumption 122). -/
def State.mxGo (s : State) (v : DWord) : Appended :=
  let head : Word := v.setWidth 32
  if s.isFw then .taken s
  else if headCmd head ≠ 0 ∨ headLen head ≠ 0 ∨ (headFav head ∧ headFsv head) then .reserved
  else
    match s.badParty (headWait head) (headSignal head) with
    | some k => .party k
    | none =>
      if s.queueFull .matrix then .full
      else if s.pushWaits .matrix then .waits
      else
        .taken (s.pushCmd .matrix
          { words := if headFav head || headFsv head then [head, (v >>> 32).setWidth 32] else [head],
            waitTok := headWait head, sigTok := headSignal head, path := .go })

/-- The start of Mule with value `v`: an `MRUN` (R103, R316), which the firmware context does not give (R155, assumption 122). -/
def State.mlGo (s : State) (v : DWord) : Appended :=
  if s.isFw then .taken s
  else if s.queueFull .mule then .full
  else if s.pushWaits .mule then .waits
  else .taken (s.pushCmd .mule { words := [0x02000000, v.setWidth 32, (v >>> 32).setWidth 32], path := .go })

/-! ### The end of a task and pre-emption by firmware (R159, R160, R189, R194) -/

/-- The cores that hold members of the task's gang or crew (R161). -/
def State.unitCores (s : State) (c : Nat) : List Nat :=
  let t := s.task c
  (s.cores.filter (fun e => coreDie e.1 == coreDie c && e.2.residency != .free && e.2.task.id.launch == t.id.launch &&
    e.2.task.id.unit == t.id.unit)).map (·.1)

/-- The trap of a latched pre-emption request (R189, R194): a record of class 6 suspends the control sequencer of a resident task, unless
a handler already runs there. -/
def State.takeLatched (s : State) (c : Nat) : State :=
  let k := s.core c
  match k.preempt with
  | some cause =>
    if k.task.suspended ∨ k.residency ≠ .resident then s
    else s.takeFault c .control { s.mkRec c .control { cls := 6, kind := BitVec.ofNat 8 cause } with word := 0 }
  | none => s

/-- A pre-emption request latched at one core (R194): its trap is taken at once, unless its control sequencer is in a handler, its task is
still being placed or, so that the request is ignored, it stops or retires already. -/
def State.requestAt (s : State) (c cause : Nat) : State :=
  match (s.core c).residency with
  | .resident | .placing | .restoring => (s.updCore c (fun k => { k with preempt := some cause })).takeLatched c
  | _ => s

/-- The handler of a resident task pre-empts it (R161, R189): it stops. -/
def State.stopAtOnce (s : State) (c cause : Nat) : State :=
  s.updCore c (fun k => if k.residency = .resident then { k with residency := .stopping cause, preempt := none } else k)

/-- A pre-emption request to the gang or crew of the task on core `c` (R194). -/
def State.requestPreempt (s : State) (c cause : Nat) : State :=
  (s.unitCores c).foldl (fun s m => s.requestAt m cause) s

/-- The record that the handler of a task works on: the pending one that is not held for later (R189). -/
def TaskCtx.current (t : TaskCtx) : Option FaultRec :=
  (t.pending.find? (fun e => !t.heldFaults.any (fun h => h.seq == e.2.seq))).map (·.2)

/-- The agent that a SEQ code names. -/
def seqAgent (n : Nat) : Agent :=
  match n with
  | 0 => .control
  | 1 => .load
  | 2 => .compute
  | 3 => .store
  | 4 => .mule
  | 9 => .image
  | _ => .accPort

/-- A task's pending record of an agent goes, and the suspension ends unless a held fault comes next (R189). -/
def TaskCtx.endTrap (t : TaskCtx) (seq : Nat) : TaskCtx := (t.dropPending seq).unsuspend

/-- The step at which a faulting agent goes on (R375): the load and store sequencers stand where R199 has taken them back to. -/
def TaskCtx.resumeStep (t : TaskCtx) (r : FaultRec) : DWord :=
  match seqAgent r.seq.toNat with
  | .load => t.load.step
  | .store => t.store.step
  | _ => r.step

/-- The faulting agent is set to resume at the step at fault (R375); its snapshot buffer replays when the task resumes. -/
def TaskCtx.setResume (t : TaskCtx) (r : FaultRec) : TaskCtx :=
  let t := { t with ctl := { t.ctl with st := .run } }
  match seqAgent r.seq.toNat with
  | .control => { t with ctl := { t.ctl with step := r.step } }
  | .mule => if t.mule.st = .faulted then { t with mule := { t.mule with st := .run, step := r.step.toNat } } else t
  | .image | .accPort => t
  | a => t.updSeq a (fun q => { q with st := .run, step := t.resumeStep r })

/-- The page that a class-3 record names: its slot and page (R375). -/
def FaultRec.absentPage (r : FaultRec) : Option (Nat × Nat) :=
  if r.cls = 3 then some (vaSlot r.addr, vaOff r.addr / 65536) else none

/-- The pending stores of the store sequencer go on, in program order and before it issues again (R199), and the faulting image write is
made again (R177). -/
def State.release (s : State) (c : Nat) (a : Agent) : State :=
  match a with
  | .store =>
    let held := (s.transit.filter (fun x => x.of c .store && x.held)).map (·.id)
    { s with transit := s.transit.map (fun x =>
        if x.of c .store && x.held then { x with held := false, first := true, after := x.after ++ held.filter (fun i => decide (i < x.id)) }
        else x) }
  | .image =>
    s.updDie (coreDie c) (fun d => { d with lamb := d.lamb.map (fun r => if r.core = c then { r with held := false } else r) })
  | _ => s

/-- The return of R339 to one agent of the task on core `c`; a pending pre-emption request is taken as the control trap ends (R194). A
buffer that may not be replayed raises the error of R193 on that agent, and nothing is replayed. -/
def State.returnTo (s : State) (c : Nat) (a : Agent) (step : DWord) (toIdle : Bool) : State :=
  let bad := match a with
    | .control | .load | .compute | .store => ((s.task c).seq a).replayList a |>.isNone
    | _ => false
  let s := if a = .control then s.returnControl c step else s.returnAgent c a step toIdle
  if bad then s.takeFault c a (s.mkRec c a (reservedField 0))
  else if a = .control then s.takeLatched c
  else s.release c a

/-- A handler ends the trap of the record it works on with the faulting agent set to resume at the step at fault, and pre-empts the task
with cause 0x03, the fourth way of R189 (R375): its snapshot buffer stays as it stands. In a task that already retires, and so is
not pre-empted (R194), the agent resumes as an ERET would have it. -/
def State.trapPreempt (s : State) (c : Nat) (r : FaultRec) : State :=
  if (s.core c).residency = .resident then
    let s := s.updTask c (fun t => { (t.setResume r).endTrap r.seq.toNat with waitPage := r.absentPage })
    (s.stopAtOnce c 3).requestPreempt c 3
  else
    let s := s.returnTo c (seqAgent r.seq.toNat) ((s.task c).resumeStep r) false
    if r.seq = 0 then s else s.returnControl c (s.task c).ctl.step

/-- The firmware of a core pre-empts its task with cause 0x03 (R189, R341): in a handler this ends the trap. -/
def State.handlerPreempt (s : State) (c : Nat) : State :=
  let t := s.task c
  if !t.suspended then s.requestPreempt c 3
  else
    match t.current with
    | some r => s.trapPreempt c r
    | none => ((s.updTask c TaskCtx.unsuspend).stopAtOnce c 3).requestPreempt c 3

/-! ### Writing system registers (R260, R341) -/

/-- A write of PSHARE by one that may make it (R157). -/
def State.writePshare (s : State) (c : Nat) (v : DWord) : State :=
  if v.toNat / 2 ^ 16 ≠ 0 then s else s.updCore c (fun k => { k with pshare := v.setWidth 32 })

/-- The issuing core's firmware registers changed. -/
def State.updFw (s : State) (f : Firmware → Firmware) : State :=
  s.updCore s.cur.core (fun k => { k with fw := f k.fw })

/-- A write of one word of the selected snapshot entry (R341). -/
def State.writeSnap (s : State) (n : Nat) (v : DWord) : State :=
  let fw := (s.core s.cur.core).fw
  let i := fw.snapEntry.toNat
  let old := s.snapWord.toNat
  let new := old - old / 2 ^ (64 * n) % 2 ^ 64 * 2 ^ (64 * n) + v.toNat * 2 ^ (64 * n)
  s.updMe (fun t => t.updSeq (snapAgent fw.snapSeq) (fun q =>
    { q with snapRaw := q.snapRaw.set i (BitVec.ofNat 2240 new) }))

/-- The task that the firmware context serves is pre-empted with cause 0x03 (R341). -/
def State.writePreempt (s : State) : State := s.handlerPreempt s.cur.core

/-- The task that the firmware context serves ends with a fault status (R341). -/
def State.writeEndtask (s : State) (v : DWord) : State :=
  let k := s.core s.cur.core
  if k.residency = .free then s
  else s.endTask s.cur.core (v.toNat % 256) (k.task.pending.get k.fw.tsel.toNat {})

/-- A write of a firmware register (R341): `none` when a bit that must be zero is set. -/
def State.writeFw (s : State) (n : Nat) (v : DWord) : Option State :=
  if n = 0x806 then (if 16 ≤ v.toNat then none else some (s.updFw (fun f => { f with tsel := v.setWidth 4 })))
  else if n = 0x808 then
    (if v.toNat / 2 ^ 14 ≠ 0 ∨ v.toNat / 4 % 64 ≠ 0 then none
     else some (s.updFw (fun f => { f with snapSeq := v.setWidth 2, snapEntry := (v >>> 8).setWidth 6 })))
  else if 0x810 ≤ n ∧ n ≤ 0x832 then some (s.writeSnap (n - 0x810) v)
  else if n = 0x840 then some s.writePreempt
  else if n = 0x841 then some (s.writeEndtask v)
  else if n = 0x854 then
    (if 2 ≤ v.toNat then none else some (if v = 0 then s.updFw (fun f => { f with fwv := false }) else s))
  else if n = 0x855 then (if v.toNat % 16 ≠ 0 then none else some (s.updFw (fun f => { f with fwvec := v })))
  else some s

/-- A write of a register of the firmware context waits for the end of its bundle, since the bundle's words read what stood before it
(R149). -/
def State.writeLate (s : State) (n : Nat) (v : DWord) : State := { s with cur := { s.cur with late := s.cur.late ++ [(n, v)] } }

/-- The writes that waited for the end of the bundle. -/
def State.applyLate (s : State) : List (Nat × DWord) → State
  | [] => s
  | (n, v) :: r =>
    State.applyLate (if n = 5 then s.writePshare s.cur.core v else match s.writeFw n v with | some s' => s' | none => s) r

/-- A write of a system register that is neither a FIFO nor a go (R260, R341, R370); the firmware context writes the program's pacing
registers, and none of its FSTAT and its shadow bank (R155, R370, assumption 122). -/
def writeReg (n : Nat) (v : DWord) (s : State) : Out :=
  if n = 0 ∨ (0x40 ≤ n ∧ n ≤ 0x7F) then raise (reservedField 4) s
  else if n = 5 then (if s.isFw then .next (s.writeLate n v) else raise (reservedField 4) s)
  else if 0x88 ≤ n ∧ n ≤ 0x8B then
    (if v.toNat / 2 ^ 16 ≠ 0 then raise (reservedField 2) s else .next (s.putWord (.sys n) 1 v))
  else if n = 1 ∨ (0x100 ≤ n ∧ n ≤ 0x18F) then .next (if s.isFw then s else s.putWord (.sys n) 1 v)
  else if 0x800 ≤ n then
    (if !s.isFw then raise (reservedField 4) s
     else if (s.writeFw n v).isNone then raise (reservedField 2) s
     else .next (s.writeLate n v))
  else .next s

/-- Writes a system register, appends to an input FIFO, or starts an engine (R260, R262, R263); the firmware context neither appends nor
starts (R155, assumption 122). -/
def execMtsr (a : BitVec 5) (n : BitVec 1) (p : BitVec 3) (r : BitVec 12) (s : State) : Out :=
  let nb := if n = 1 then some p else none
  let v := s.x a
  if isInFifo r then pushed 2 (inEngine r) nb (s.append (inEngine r) (v.setWidth 32)) s
  else if isOutFifo r then raise (reservedField 4) s
  else if r = 0x190 then pushed 2 .matrix nb (s.mxGo v) s
  else if r = 0x1A0 then pushed 2 .mule nb (s.mlGo v) s
  else writeReg r.toNat v s

/-- A word appended to an input FIFO (R99). -/
def execInputFifoAppend (engine : Engine) (word : Word) (s : State) : Out := pushed 2 engine none (s.append engine word) s

/-- An output FIFO's oldest element popped into a register of the issuing agent (R100, R291, R307). -/
def execOutputFifoPop (engine : Engine) (dest : Nat) (s : State) : Out :=
  match s.popOut engine with
  | none => block s (.output (engineNum engine))
  | some (v, s') =>
    .next (match s'.cur.agent with
      | .compute => (s'.putWord (.s dest) 2 v).putWord (.s (dest + 1)) 2 (v >>> 32)
      | .load => s'.putWord (.aLoad dest) 2 v
      | .store => s'.putWord (.aStore dest) 2 v
      | .firmware => s'.putWord (.fwx dest) 2 v
      | _ => s'.putWord (.x dest) 2 v)

/-- The go of the matrix engine (R263). -/
def execMxgo (value : DWord) (s : State) : Out := pushed 2 .matrix none (s.mxGo value) s
/-- The start of Mule (R103, R316). -/
def execMlgo (value : DWord) (s : State) : Out := pushed 2 .mule none (s.mlGo value) s
/-- A write of FSTAT clears each bit written 0 (R135). -/
def execFstatWrite (value : Word) (s : State) : Out := writeReg 1 (value.setWidth 64) s
/-- A write of PSHARE by the physical function or the firmware context (R157). -/
def execPshareWrite (core : Nat) (value : DWord) (s : State) : Out :=
  if 4096 ≤ core then skip s else .next (s.writePshare core value)
/-- A write of a pacing register (R370). -/
def execPaceWrite (engine : Engine) (value : DWord) (s : State) : Out := writeReg (0x88 + engineNum engine) value s
/-- A write of PREEMPT (R341); only the firmware context reaches it. -/
def execPreempt (_value : DWord) (s : State) : Out :=
  if s.isFw then .next s.writePreempt else raise (reservedField 4) s
/-- A write of ENDTASK (R341); only the firmware context reaches it. -/
def execEndtask (value : DWord) (s : State) : Out :=
  if s.isFw then .next (s.writeEndtask value) else raise (reservedField 4) s

/-! ### Dispatches (R227, R259) -/

/-- Word `j` of a dispatched command, from register xc on (R227). -/
def State.dispWord (s : State) (c : BitVec 5) (j : Nat) : Word :=
  let v := s.x (c + BitVec.ofNat 5 (j / 2))
  if j % 2 = 0 then v.setWidth 32 else (v >>> 32).setWidth 32

/-- One command dispatched from registers (R259); the firmware context pushes none for the program (R155, assumption 122). -/
def dispatch (e : Engine) (w : BitVec 1) (k : BitVec 4) (sg : BitVec 1) (j : BitVec 4) (a b : BitVec 3) (c : BitVec 5)
    (s : State) : Out :=
  let head := s.dispWord c 0
  let n := headCount head
  if c = 0 ∨ 8 < n ∨ 31 < c.toNat + (n - 1) / 2 then raise (reservedField 4) s
  else if (w = 1 ∧ (headWv head ∨ headWtok head ≠ 0)) ∨ (sg = 1 ∧ (headSv head ∨ headStok head ≠ 0)) then
    raise (reservedField 4) s
  else
    let wait := if w = 1 then some k.toNat else headWait head
    let sig := if sg = 1 then some j.toNat else headSignal head
    match s.badParty wait sig with
    | some t => raise (partyError t) s
    | none =>
      if s.isFw then .next s
      else if s.queueFull e then block s (.input (engineNum e))
      else
        let k : Cmd :=
          { words := (List.range n).map (s.dispWord c), recA := s.d a, recB := s.d b, waitTok := wait, sigTok := sig, path := .disp }
        if s.pushWaits e k then block s (.ops (s.acqIds (s.pushClass e k)))
        else .next (s.useD.pushCmd e k)

/-- Dispatch to the matrix queue (R259). -/
def execDispMx (w : BitVec 1) (k : BitVec 4) (sg : BitVec 1) (j : BitVec 4) (a b : BitVec 3) (c : BitVec 5) (s : State) : Out :=
  dispatch .matrix w k sg j a b c s
/-- Dispatch to the copy queue (R259). -/
def execDispCp (w : BitVec 1) (k : BitVec 4) (sg : BitVec 1) (j : BitVec 4) (a b : BitVec 3) (c : BitVec 5) (s : State) : Out :=
  dispatch .copy w k sg j a b c s
/-- Dispatch to the collective queue (R259). -/
def execDispCl (w : BitVec 1) (k : BitVec 4) (sg : BitVec 1) (j : BitVec 4) (a b : BitVec 3) (c : BitVec 5) (s : State) : Out :=
  dispatch .collective w k sg j a b c s
/-- Dispatch to the Mule queue (R259). -/
def execDispMl (w : BitVec 1) (k : BitVec 4) (sg : BitVec 1) (j : BitVec 4) (a b : BitVec 3) (c : BitVec 5) (s : State) : Out :=
  dispatch .mule w k sg j a b c s

/-! ### Exit, firmware calls and returns (R159, R160, R267, R338, R339) -/

/-- What the bundle does once its words have issued (R149). -/
def State.leaveBy (s : State) (l : Leave) : State := { s with cur := { s.cur with leave := l } }

/-- Ends the task after the bundle; it retires when its work is done (R149, R159, R267). The firmware context ends no task so (R155,
assumption 122). -/
def execExit (s : State) : Out := .next (if s.isFw then s else s.leaveBy .exit)

/-- Ends the task after the bundle, without waiting for its work (R149, R160, R267). -/
def execExitAbandon (s : State) : Out := .next (if s.isFw then s else s.leaveBy .abandon)

/-- A firmware call, raised after the bundle (R338). -/
def execFcall (a : BitVec 5) (s : State) : Out :=
  let v := (s.x a).toNat
  if 2 ^ 16 ≤ v then raise (reservedField 2) s
  else
    .next { s with cur := { s.cur with
      call := some (s.mkRec s.cur.core s.cur.agent { cls := 7, kind := BitVec.ofNat 8 v }) } }

/-- The agent that an `ERET` names (R339). -/
def eretAgent (n : Nat) : Option Agent :=
  match n with
  | 0 => some .control
  | 1 => some .load
  | 2 => some .compute
  | 3 => some .store
  | 4 => some .mule
  | 5 => some .image
  | _ => none

/-- Whether an agent's trap can be ended: it is FAULTED, suspended, or the image unit with a record pending. -/
def TaskCtx.trapped (t : TaskCtx) (a : Agent) : Bool :=
  match a with
  | .control => t.suspended
  | .mule => t.mule.st == .faulted
  | .image => (t.pending.find 9).isSome
  | a => (t.seq a).st == .faulted

/-- Ends the trap of one agent after the bundle (R149, R339). -/
def execEret (a b : BitVec 5) (s : State) : Out :=
  let v := (s.x b).toNat
  if !s.isFw then raise (reservedField 12) s
  else if v / 2 ^ 9 ≠ 0 ∨ v / 8 % 32 ≠ 0 then raise (reservedField 3) s
  else
    match eretAgent (v % 8) with
    | none => raise (reservedField 3) s
    | some g =>
      if !s.me.trapped g then raise (reservedField 3) s
      else if g = .control ∧ ((s.x a).toNat % 16 ≠ 0 ∨ 256 ≤ v) then raise (reservedField (if 256 ≤ v then 3 else 2)) s
      else .next (s.leaveBy (.eret g (s.x a) (decide (256 ≤ v))))

/-- The exit or return of a bundle takes effect after its words (R149, R159, R160, R339). -/
def State.applyLeave (s : State) (c : Nat) (l : Leave) : State :=
  match l with
  | .none => s
  | .exit => s.updCore c (fun k => { k with residency := .retiring false })
  | .abandon => s.abandon c
  | .eret g step toIdle => s.returnTo c g step toIdle

/-! ### Page invalidation (R24, R340, R373) -/

/-- Whether a core holds the table of a launch of function `fn` with launch id `lid` (R24). -/
def Core.holdsTable (k : Core) (fn : Nat) (lid : Word) : Bool :=
  k.residency != .free && k.task.id.vf == fn && k.task.id.lid == lid

/-- Whether an access reaches a page of a range through a slot. -/
def Access.inPages (a : Access) (slot first len : Nat) : Bool :=
  a.pageable && a.slot == slot && !a.walk &&
    a.offs.any (fun o => decide (first * 65536 ≤ vaOff a.va + o ∧ vaOff a.va + o < (first + len) * 65536))

/-- An invalidation of pages `first` on begins (R24): the cores that hold the table drop their entries, and the
invalidation waits for the accesses that used one. `none`: no task of the launch holds the table. -/
def State.startInval (s : State) (i : Inval) : Option State :=
  let hold := (s.cores.filter (fun e => e.2.holdsTable i.fn i.lid)).map (·.1)
  if hold.isEmpty then none
  else
    let drop (t : TlbEntry) : Bool := t.slot == i.slot && decide (i.first ≤ t.page ∧ t.page < i.first + i.length)
    let s := hold.foldl (fun s c => s.updCore c (fun k => { k with tlb := k.tlb.filter (fun t => !drop t) })) s
    let after := (s.transit.filter (fun a => hold.contains a.core && a.inPages i.slot i.first i.length)).map (·.id)
    some { s with invals := s.invals ++ [{ i with after := after, held := true }] }

/-- Whether a page that a task waits for lies in an invalidation's range (R375). -/
def Inval.covers (i : Inval) (t : TaskCtx) : Bool :=
  t.id.vf == i.fn && t.id.lid == i.lid &&
  (match t.waitPage with | some (slot, page) => slot == i.slot && decide (i.first ≤ page ∧ page < i.first + i.length) | none => false)

/-- Tasks that wait for a page of an invalidation, saved or still stopping, may be placed again (R375). -/
def State.wakePages (s : State) (i : Inval) : State :=
  let wake (t : TaskCtx) : TaskCtx := if i.covers t then { t with waitPage := none } else t
  { s with
    cores := s.cores.map (fun e => (e.1, { e.2 with task := wake e.2.task }))
    dies := s.dies.map (fun d =>
      (d.1, { d.2 with launches := d.2.launches.map (fun l => { l with saved := l.saved.map (fun t => { t with ctx := wake t.ctx }) }) })) }

/-- The function whose launch a page invalidation by firmware names (R24, R340): that of the core's task, or on a die control core that of the
launch with the launch id on its die (assumption 92). -/
def State.invalFn (s : State) (lid : Word) : Nat :=
  if isDc s.cur.core then
    match (s.die (coreDie s.cur.core)).launches.find? (fun l => l.lrec.lid == lid) with | some l => l.fn | none => 0
  else s.me.id.vf

/-- A page invalidation by firmware (R340). -/
def execPinval (d a b : BitVec 5) (s : State) : Out :=
  let v := (s.x a).toNat
  let first := (s.x b).toNat
  let len := (s.x (b + 1)).toNat
  if !s.isFw then raise (reservedField 12) s
  else if v / 64 % 2 ^ 26 ≠ 0 then raise (reservedField 2) s
  else if first % 65536 ≠ 0 ∨ len % 65536 ≠ 0 then raise (reservedField 3) s
  else
    let i : Inval := { fn := s.invalFn (BitVec.ofNat 32 (v / 2 ^ 32)), lid := BitVec.ofNat 32 (v / 2 ^ 32), slot := v % 64, first := first / 65536,
                       length := len / 65536, reply := some (s.cur.core, .fwx d.toNat) }
    match s.startInval i with
    | some s' => .next s'
    | none => .next ((s.wakePages i).putX d 1 1)

end Sys2Proof.Machine
end

