-- ==== Sys2Proof/Machine/Vector.lean ====
section
/-! DEFINITION. The vector micro-orders (R268 to R291). -/

namespace Sys2Proof.Machine

open Sys2Proof

/-! ### Bodies shared by the micro-orders -/

/-- The field number of a type that the mode does not enrol (R186, R233). -/
def typeBreach (ok : Bool) : Option Nat := if ok then none else some 10

/-- A typed lane function applied under the mask, its result landing after `lat` cycles (R270, R278, R279). -/
def laneBody (t : NumFmt) (lat : Nat) (f : Nat → Nat → Nat → Nat × BitVec 5) (i : VIn) (s : State) : State :=
  let k := 8 * t.bytes
  let n := 256 / t.bytes
  let es := maskFrom i.mask 0 n
  let rs := laneMap3 k f es (lanesOf k n i.a.toNat) (lanesOf k n i.b.toNat) (lanesOf k n i.d.toNat)
  s.putV i.target lat (packResults k rs) i.mask t.bytes (laneStatus es rs)

/-- The bits of a mask from `n` on. -/
def maskAbove (n : Nat) : Mask := BitVec.ofNat 128 (2 ^ 128 - 2 ^ n)

/-- A comparison of lanes into mask m`d`: enabled lanes are written, bits VL to 127 are cleared (R278, R280). -/
def maskBody (t : NumFmt) (lat : Nat) (d : Nat) (f : Nat → Nat → Bool) (i : VIn) (s : State) : State :=
  let k := 8 * t.bytes
  let n := 256 / t.bytes
  let bs := List.zipWith f (lanesOf k n i.a.toNat) (lanesOf k n i.b.toNat)
  s.put { target := .m d, data := BitVec.ofNat 2048 (packBits bs), left := lat,
          mask := (i.mask &&& ~~~ (maskAbove n)) ||| maskAbove n }

/-- The operands of a micro-order with two sources. -/
def op2 (d a b : BitVec 6) (h j : BitVec 1) (m : BitVec 3) (g : BitVec 1) : VOp :=
  { d := some d, a := some a, b := some b, ha := h == 1, hb := j == 1, mask := m, gate := g == 1 }

/-- The operands of a micro-order with one source. -/
def op1 (d a : BitVec 6) (h : BitVec 1) (m : BitVec 3) (g : BitVec 1) : VOp :=
  { d := some d, a := some a, ha := h == 1, mask := m, gate := g == 1 }

/-! ### Moves and selects (R276) -/

/-- D := A under the mask, in the lanes of the mode. -/
def moveBody (lat : Nat) (i : VIn) (s : State) : State := s.putV i.target lat i.a i.mask s.laneBytes

/-- D := A (R276). -/
def execVmov (d a : BitVec 6) (h _j : BitVec 1) (m : BitVec 3) (g : BitVec 1) (s : State) : Out :=
  vIssue (op1 d a h m g) none (moveBody 2) s

/-- D := A from the window, and with LU the row's enabled lanes become zero (R276). -/
def execVrd (d a : BitVec 6) (l h _j : BitVec 1) (m : BitVec 3) (g : BitVec 1) (s : State) : Out :=
  vIssue { op1 d a h m g with rowA := l == 1 } none
    (fun i s =>
      let s' := moveBody 2 i s
      if l = 1 then s'.putV (.row i.rowA) 2 0 i.mask s.laneBytes else s') s

/-- D := A to the window, and with LU the register's enabled lanes become zero (R276). -/
def execVwr (d a : BitVec 6) (l h _j : BitVec 1) (m : BitVec 3) (g : BitVec 1) (s : State) : Out :=
  vIssue (op1 d a h m g) none
    (fun i s =>
      let s' := moveBody 2 i s
      if l = 1 then s'.putV (.v (s.me.regs.vphys a.toNat)) 2 0 i.mask s.laneBytes else s') s

/-- Each lane of D is A's or B's as the mask selects (R276). -/
def execVsel (d a b : BitVec 6) (h j : BitVec 1) (m : BitVec 3) (g : BitVec 1) (s : State) : Out :=
  vIssue (op2 d a b h j m g) none
    (fun i s => s.putV i.target 2 (mergeLanes i.b i.a i.mask s.laneBytes) (BitVec.allOnes 128) s.laneBytes) s

/-! ### Masks (R277) -/

/-- m[D] := a function of two masks (R277). -/
def maskOp (f : Mask → Mask → Mask) (d a b : BitVec 3) (g : BitVec 1) (s : State) : Out :=
  vIssue { gate := g == 1 } none
    (fun _ s =>
      let r := s.me.regs
      s.put { target := .m d.toNat, data := (f (r.mask a.toNat) (r.mask b.toNat)).setWidth 2048, left := 2 }) s

/-- m[D] := m[A] AND m[B] (R277). -/
def execMand (d a b : BitVec 3) (g : BitVec 1) (s : State) : Out := maskOp (fun x y => x &&& y) d a b g s
/-- m[D] := m[A] OR m[B] (R277). -/
def execMor (d a b : BitVec 3) (g : BitVec 1) (s : State) : Out := maskOp (fun x y => x ||| y) d a b g s
/-- m[D] := m[A] XOR m[B] (R277). -/
def execMxor (d a b : BitVec 3) (g : BitVec 1) (s : State) : Out := maskOp (fun x y => x ^^^ y) d a b g s
/-- m[D] := m[A] AND NOT m[B] (R277). -/
def execMandn (d a b : BitVec 3) (g : BitVec 1) (s : State) : Out := maskOp (fun x y => x &&& ~~~ y) d a b g s

/-! ### Integer lanes (R278) -/

/-- The integer lane type of T: i32 or i16. -/
def intType (t : BitVec 1) : NumFmt := if t = 0 then .i32 else .i16

/-- An integer micro-order whose lane result is a function of the lane width and the two lanes. -/
def intOp (f : NumFmt → Nat → Nat → Nat × BitVec 5) (t : BitVec 1) (d a b : BitVec 6) (h j : BitVec 1) (m : BitVec 3)
    (g : BitVec 1) (s : State) : Out :=
  vIssue (op2 d a b h j m g) (typeBreach (s.typeOk (intType t)))
    (laneBody (intType t) 2 (fun a b _ => f (intType t) a b)) s

/-- A modular lane function of signed values. -/
def modular (f : Int → Int → Int) (t : NumFmt) (a b : Nat) : Nat × BitVec 5 :=
  let w := 8 * t.bytes
  ((wrap w (f (sext a w) (sext b w))).toNat, 0)

/-- A saturating lane function of signed values. -/
def saturated (f : Int → Int → Int) (t : NumFmt) (a b : Nat) : Nat × BitVec 5 :=
  let w := 8 * t.bytes
  saturate t (f (sext a w) (sext b w))

/-- A bitwise lane function. -/
def bitwise (f : Nat → Nat → Nat) (_ : NumFmt) (a b : Nat) : Nat × BitVec 5 := (f a b, 0)

/-- A shift of A by the low bits of B (R278). -/
def shifted (f : Nat → Nat → Nat → Nat) (t : NumFmt) (a b : Nat) : Nat × BitVec 5 :=
  let w := 8 * t.bytes
  (f w a (b % w) % 2 ^ w, 0)

/-- A + B modulo 2^w, per lane (R278). -/
def execVaddI (t : BitVec 1) (d a b : BitVec 6) (h j : BitVec 1) (m : BitVec 3) (g : BitVec 1) (s : State) : Out :=
  intOp (modular (fun x y => x + y)) t d a b h j m g s
/-- A + B saturated, per lane (R278). -/
def execVaddSat (t : BitVec 1) (d a b : BitVec 6) (h j : BitVec 1) (m : BitVec 3) (g : BitVec 1) (s : State) : Out :=
  intOp (saturated (fun x y => x + y)) t d a b h j m g s
/-- A − B modulo 2^w, per lane (R278). -/
def execVsubI (t : BitVec 1) (d a b : BitVec 6) (h j : BitVec 1) (m : BitVec 3) (g : BitVec 1) (s : State) : Out :=
  intOp (modular (fun x y => x - y)) t d a b h j m g s
/-- A − B saturated, per lane (R278). -/
def execVsubSat (t : BitVec 1) (d a b : BitVec 6) (h j : BitVec 1) (m : BitVec 3) (g : BitVec 1) (s : State) : Out :=
  intOp (saturated (fun x y => x - y)) t d a b h j m g s
/-- The low w bits of A × B, per lane (R278). -/
def execVmulI (t : BitVec 1) (d a b : BitVec 6) (h j : BitVec 1) (m : BitVec 3) (g : BitVec 1) (s : State) : Out :=
  intOp (modular (fun x y => x * y)) t d a b h j m g s
/-- A × B saturated, per lane (R278). -/
def execVmulSat (t : BitVec 1) (d a b : BitVec 6) (h j : BitVec 1) (m : BitVec 3) (g : BitVec 1) (s : State) : Out :=
  intOp (saturated (fun x y => x * y)) t d a b h j m g s
/-- The signed minimum, per lane (R278). -/
def execVminI (t : BitVec 1) (d a b : BitVec 6) (h j : BitVec 1) (m : BitVec 3) (g : BitVec 1) (s : State) : Out :=
  intOp (modular min) t d a b h j m g s
/-- The signed maximum, per lane (R278). -/
def execVmaxI (t : BitVec 1) (d a b : BitVec 6) (h j : BitVec 1) (m : BitVec 3) (g : BitVec 1) (s : State) : Out :=
  intOp (modular max) t d a b h j m g s
/-- A AND B, per lane (R278). -/
def execVand (t : BitVec 1) (d a b : BitVec 6) (h j : BitVec 1) (m : BitVec 3) (g : BitVec 1) (s : State) : Out :=
  intOp (bitwise Nat.land) t d a b h j m g s
/-- A OR B, per lane (R278). -/
def execVor (t : BitVec 1) (d a b : BitVec 6) (h j : BitVec 1) (m : BitVec 3) (g : BitVec 1) (s : State) : Out :=
  intOp (bitwise Nat.lor) t d a b h j m g s
/-- A XOR B, per lane (R278). -/
def execVxor (t : BitVec 1) (d a b : BitVec 6) (h j : BitVec 1) (m : BitVec 3) (g : BitVec 1) (s : State) : Out :=
  intOp (bitwise Nat.xor) t d a b h j m g s
/-- A shifted left, per lane (R278). -/
def execVshl (t : BitVec 1) (d a b : BitVec 6) (h j : BitVec 1) (m : BitVec 3) (g : BitVec 1) (s : State) : Out :=
  intOp (shifted (fun _ a n => a * 2 ^ n)) t d a b h j m g s
/-- A shifted right, zero fill, per lane (R278). -/
def execVshr (t : BitVec 1) (d a b : BitVec 6) (h j : BitVec 1) (m : BitVec 3) (g : BitVec 1) (s : State) : Out :=
  intOp (shifted (fun _ a n => a / 2 ^ n)) t d a b h j m g s
/-- A shifted right, sign fill, per lane (R278). -/
def execVsra (t : BitVec 1) (d a b : BitVec 6) (h j : BitVec 1) (m : BitVec 3) (g : BitVec 1) (s : State) : Out :=
  intOp (shifted (fun w a n => (wrap w (sext a w / (2 ^ n : Nat))).toNat)) t d a b h j m g s

/-- An integer comparison into a mask (R278). -/
def intCmp (f : Int → Int → Bool) (t : BitVec 1) (d a b : BitVec 6) (h j : BitVec 1) (m : BitVec 3) (g : BitVec 1) (s : State) :
    Out :=
  let w := 8 * (intType t).bytes
  vIssue { op2 d a b h j m g with d := none } (typeBreach (s.typeOk (intType t)))
    (maskBody (intType t) 2 d.toNat (fun x y => f (sext x w) (sext y w))) s

/-- Mask bit i := A = B (R278). -/
def execVceqI (t : BitVec 1) (d a b : BitVec 6) (h j : BitVec 1) (m : BitVec 3) (g : BitVec 1) (s : State) : Out :=
  intCmp (fun x y => x == y) t d a b h j m g s
/-- Mask bit i := A < B as signed values (R278). -/
def execVcltI (t : BitVec 1) (d a b : BitVec 6) (h j : BitVec 1) (m : BitVec 3) (g : BitVec 1) (s : State) : Out :=
  intCmp (fun x y => decide (x < y)) t d a b h j m g s

/-! ### Floating-point lanes (R279, R280) -/

/-- A rounded floating-point micro-order of class VF; `fma` reads D as a third source (R279). -/
def fltOp (f : NumFmt → RoundMode → Nat → Nat → Nat → Nat × BitVec 5) (fma : Bool) (t r : BitVec 2) (d a b : BitVec 6)
    (h j : BitVec 1) (m : BitVec 3) (g : BitVec 1) (s : State) : Out :=
  vIssue { op2 d a b h j m g with dsrc := fma } (typeBreach (s.typeOk (laneType t)))
    (laneBody (laneType t) 4 (f (laneType t) (roundMode r.toNat))) s

/-- A + B rounded once, per lane (R279). -/
def execVaddF (t r : BitVec 2) (d a b : BitVec 6) (h j : BitVec 1) (m : BitVec 3) (g : BitVec 1) (s : State) : Out :=
  fltOp (fun t r a b _ => fltAdd t r a b) false t r d a b h j m g s
/-- A − B rounded once, per lane (R279). -/
def execVsubF (t r : BitVec 2) (d a b : BitVec 6) (h j : BitVec 1) (m : BitVec 3) (g : BitVec 1) (s : State) : Out :=
  fltOp (fun t r a b _ => fltSub t r a b) false t r d a b h j m g s
/-- A × B rounded once, per lane (R279). -/
def execVmulF (t r : BitVec 2) (d a b : BitVec 6) (h j : BitVec 1) (m : BitVec 3) (g : BitVec 1) (s : State) : Out :=
  fltOp (fun t r a b _ => fltMul t r a b) false t r d a b h j m g s
/-- D + A × B rounded once, per lane (R279). -/
def execVfma (t r : BitVec 2) (d a b : BitVec 6) (h j : BitVec 1) (m : BitVec 3) (g : BitVec 1) (s : State) : Out :=
  fltOp (fun t r a b d => fltFma t r d a b) true t r d a b h j m g s

/-- A floating-point minimum or maximum of class VF, which sets no status (R280). -/
def fltPick (f : NumFmt → Nat → Nat → Nat) (t : BitVec 2) (d a b : BitVec 6) (h j : BitVec 1) (m : BitVec 3) (g : BitVec 1)
    (s : State) : Out :=
  vIssue (op2 d a b h j m g) (typeBreach (s.typeOk (laneType t)))
    (laneBody (laneType t) 4 (fun a b _ => (f (laneType t) a b, 0))) s

/-- A floating-point comparison into a mask (R280). -/
def fltCmp (f : Num → Num → Bool) (t : BitVec 2) (d a b : BitVec 6) (h j : BitVec 1) (m : BitVec 3) (g : BitVec 1) (s : State) :
    Out :=
  vIssue { op2 d a b h j m g with d := none } (typeBreach (s.typeOk (laneType t)))
    (maskBody (laneType t) 4 d.toNat (fun x y => f (Num.ofBits (laneType t) x) (Num.ofBits (laneType t) y))) s

/-- The smaller value (R280). -/
def execVminF (t : BitVec 2) (d a b : BitVec 6) (h j : BitVec 1) (m : BitVec 3) (g : BitVec 1) (s : State) : Out :=
  fltPick fltMin t d a b h j m g s
/-- The larger value (R280). -/
def execVmaxF (t : BitVec 2) (d a b : BitVec 6) (h j : BitVec 1) (m : BitVec 3) (g : BitVec 1) (s : State) : Out :=
  fltPick fltMax t d a b h j m g s
/-- Mask bit i := A < B (R280). -/
def execVcltF (t : BitVec 2) (d a b : BitVec 6) (h j : BitVec 1) (m : BitVec 3) (g : BitVec 1) (s : State) : Out :=
  fltCmp Num.lt t d a b h j m g s
/-- Mask bit i := A = B (R280). -/
def execVceqF (t : BitVec 2) (d a b : BitVec 6) (h j : BitVec 1) (m : BitVec 3) (g : BitVec 1) (s : State) : Out :=
  fltCmp Num.eq t d a b h j m g s

/-! ### Conversions (R281 to R283) -/

/-- Converts each element of A in place between formats of one width (R281). One mask bit governs two one-byte
elements (R270). -/
def execVcvt (c : BitVec 3) (d a : BitVec 6) (r : BitVec 2) (u : BitVec 1) (f : BitVec 3) (h _j : BitVec 1) (m : BitVec 3)
    (g : BitVec 1) (s : State) : Out :=
  let src := fmtOf c.toNat
  let dst := fmtOf f.toNat
  let n := 256 / src.bytes
  vIssue (op1 d a h m g) none
    (fun i s =>
      let es := if src.bytes = 1 then (maskFrom i.mask 0 128).flatMap (fun b => [b, b]) else maskFrom i.mask 0 n
      let k := 8 * src.bytes
      let as := lanesOf k n i.a.toNat
      let rs := laneMap3 k (fun a _ _ => convert src dst (roundMode r.toNat) (u == 1) a) es as as as
      s.putV i.target 3 (packResults k rs) i.mask (max 2 src.bytes) (laneStatus es rs)) s

/-- Narrows the lanes of A into the top of D, whose bytes move down (R282). -/
def execVpack (d a : BitVec 6) (r : BitVec 2) (u : BitVec 1) (f : BitVec 3) (h _j : BitVec 1) (m : BitVec 3) (g : BitVec 1)
    (s : State) : Out :=
  let src := s.laneFmt
  let dst := fmtOf f.toNat
  let bad := if src.bytes ≤ dst.bytes then some 3 else none
  vIssue { op1 d a h m g with dsrc := true } bad
    (fun i s =>
      let n := s.vl
      let k := src.bytes / dst.bytes
      let chunk := 256 / k
      let es := maskFrom i.mask 0 n
      let as := lanesOf (8 * src.bytes) n i.a.toNat
      let rs := laneMap3 (8 * src.bytes) (fun a _ _ => convert src dst (roundMode r.toNat) (u == 1) a) es as as as
      let top := packLanes (8 * dst.bytes) (rs.map (·.1))
      let new := i.d.toNat / 2 ^ (8 * chunk) + top * 2 ^ (8 * (256 - chunk))
      s.putV i.target 3 (BitVec.ofNat 2048 new) (BitVec.allOnes 128) 0 (laneStatus es rs)) s

/-- Widens one part of A into D (R283). -/
def execVunpk (d a : BitVec 6) (p : BitVec 3) (f : BitVec 3) (h _j : BitVec 1) (m : BitVec 3) (g : BitVec 1) (s : State) : Out :=
  let dst := s.laneFmt
  let src := fmtOf f.toNat
  let k := dst.bytes / src.bytes
  let bad := if dst.bytes ≤ src.bytes ∨ dst.isInt ≠ src.isInt ∨ k ≤ p.toNat then some 3 else none
  vIssue (op1 d a h m g) bad
    (fun i s =>
      let n := s.vl
      let es := maskFrom i.mask 0 n
      let part := i.a.toNat / 2 ^ (8 * (p.toNat * (256 / k)))
      let as := lanesOf (8 * src.bytes) n part
      let rs := laneMap3 (8 * src.bytes) (fun a _ _ => (widen src dst a, 0)) es as as as
      s.putV i.target 3 (packResults (8 * dst.bytes) rs) i.mask dst.bytes) s

/-! ### The exponent unit and reductions (R284, R285) -/

/-- A lane function of the exponent unit, rounded once to the lane type (R284). -/
def expUnit (f : BitVec 2) (t : NumFmt) (a : Nat) : Nat × BitVec 5 :=
  let x := Num.ofBits t a
  let y : Num × Bool :=
    match f.toNat with
    | 0 => (numExp2 x, false)
    | 1 => (numRcp x, false)
    | _ => numRsq x
  roundOp t y .nearestEven false

/-- An exponent-unit micro-order of class VX; with 16-bit lanes it takes a second issue cycle and lands one cycle
later (R274). -/
def expOp (f : BitVec 2) (t : BitVec 2) (d a : BitVec 6) (h : BitVec 1) (m : BitVec 3) (g : BitVec 1) (s : State) : Out :=
  let ty := laneType t
  vIssue (op1 d a h m g) (typeBreach (s.typeOk ty))
    (fun i s =>
      if ty.bytes = 4 then laneBody ty 8 (fun a _ _ => expUnit f ty a) i s
      else (laneBody ty 9 (fun a _ _ => expUnit f ty a) i s).endCycle s.cur.core s.cur.agent) s

/-- 2 to the power of A (R284). -/
def execVexp2 (t : BitVec 2) (d a : BitVec 6) (h : BitVec 1) (m : BitVec 3) (g : BitVec 1) (s : State) : Out := expOp 0 t d a h m g s
/-- 1 / A (R284). -/
def execVrcp (t : BitVec 2) (d a : BitVec 6) (h : BitVec 1) (m : BitVec 3) (g : BitVec 1) (s : State) : Out := expOp 1 t d a h m g s
/-- 1 / √A (R284). -/
def execVrsq (t : BitVec 2) (d a : BitVec 6) (h : BitVec 1) (m : BitVec 3) (g : BitVec 1) (s : State) : Out := expOp 2 t d a h m g s

/-- The lanes that a mask lets take part, in ascending order. -/
def takeLanes : List Bool → List Nat → List Nat
  | true :: es, a :: as => a :: takeLanes es as
  | false :: es, _ :: as => takeLanes es as
  | _, _ => []

/-- A reduction into lane 0 of D; every other lane becomes zero (R285). -/
def reduceOp (f : NumFmt → List Nat → Nat × BitVec 5) (t : BitVec 2) (d a : BitVec 6) (h : BitVec 1) (m : BitVec 3) (g : BitVec 1)
    (s : State) : Out :=
  let ty := laneType t
  vIssue (op1 d a h m g) (typeBreach (s.typeOk ty))
    (fun i s =>
      let n := 256 / ty.bytes
      let r := f ty (takeLanes (maskFrom i.mask 0 n) (lanesOf (8 * ty.bytes) n i.a.toNat))
      s.putV i.target 6 (BitVec.ofNat 2048 (r.1 % 2 ^ (8 * ty.bytes))) (BitVec.allOnes 128) 0 r.2) s

/-- The sum of the taking lanes (R285). -/
def execVrsum (t : BitVec 2) (d a : BitVec 6) (h : BitVec 1) (m : BitVec 3) (g : BitVec 1) (s : State) : Out :=
  reduceOp reduceSum t d a h m g s
/-- The largest of the taking lanes (R285). -/
def execVrmax (t : BitVec 2) (d a : BitVec 6) (h : BitVec 1) (m : BitVec 3) (g : BitVec 1) (s : State) : Out :=
  reduceOp (fun t l => (reduceMax t l, 0)) t d a h m g s
/-- The smallest of the taking lanes (R285). -/
def execVrmin (t : BitVec 2) (d a : BitVec 6) (h : BitVec 1) (m : BitVec 3) (g : BitVec 1) (s : State) : Out :=
  reduceOp (fun t l => (reduceMin t l, 0)) t d a h m g s

/-! ### Snapshots, lanes and scalars (R286, R287) -/

/-- The completed k-steps of a nest that owns row `n`, saturated, or all ones (R286). -/
def State.snapCount (s : State) (n : Nat) : Nat :=
  match (s.was s.cur.core).nestHeld with
  | some (c, st) => if ntOwns c.nt (n / 64) then min st.done 0xFFFFFFFE else 0xFFFFFFFF
  | none => 0xFFFFFFFF

/-- D := a row as the last completed k-step left it, and s := the count of completed k-steps (R286). -/
def execVsnap (d a : BitVec 6) (c : BitVec 4) (m : BitVec 3) (g : BitVec 1) (s : State) : Out :=
  vIssue (op1 d a 0 m g) none
    (fun i s =>
      (moveBody 4 i s).putWord (.s c.toNat) 4 (BitVec.ofNat 64 (s.snapCount i.rowA))) s

/-- sd := a lane of A (R287). -/
def execVlane (c : BitVec 4) (a : BitVec 6) (l : BitVec 7) (g : BitVec 1) (s : State) : Out :=
  vIssue { a := some a, gate := g == 1 } (if s.vl ≤ l.toNat then some 4 else none)
    (fun i s => s.putWord (.s c.toNat) 2 (BitVec.ofNat 64 (vbytes i.a (l.toNat * s.laneBytes) s.laneBytes))) s

/-- Each enabled lane of D := sa (R287). -/
def execVbcast (d : BitVec 6) (c : BitVec 4) (m : BitVec 3) (g : BitVec 1) (s : State) : Out :=
  vIssue { d := some d, mask := m, gate := g == 1 } none
    (fun i s =>
      let v := BitVec.ofNat 2048 (packLanes (8 * s.laneBytes) (List.replicate s.vl (s.sreg c).toNat))
      s.putV i.target 2 v i.mask s.laneBytes) s

/-- VWB := sa + sext(imm), when its sixteen rows lie in held slots (R34, R287). -/
def execVsetwb (c : BitVec 4) (i : BitVec 16) (s : State) : Out :=
  let v := (s.sreg c + i.signExtend 32).toNat
  if v % 16 ≠ 0 ∨ 9200 < v then raise (reservedField 4) s
  else if !(s.me.holdsRow v && s.me.holdsRow (v + 15)) then raise (progError 2 4) s
  else .next (s.updRegs s.cur.core (fun r => { r with vwb := v })).ageHeld

/-- ACCM.MODE := imm (R147, R287). -/
def execVsetacc (m : BitVec 2) (s : State) : Out :=
  vScalar none (fun s => s.updRegs s.cur.core (fun r => { r with mode := m })) s

/-- A scalar result of class S1 for s`d`. -/
def scalarS (d : BitVec 4) (v : Word) (s : State) : Out := vScalar none (fun s => s.putWord (.s d.toNat) 1 (v.setWidth 64)) s

/-- sd := sa + sext(imm) (R287). -/
def execSaddi (d c : BitVec 4) (i : BitVec 16) (s : State) : Out := scalarS d (s.sreg c + i.signExtend 32) s
/-- sd := sa + sb (R287). -/
def execSadd (d c b : BitVec 4) (s : State) : Out := scalarS d (s.sreg c + s.sreg b) s
/-- sd := sext(imm) (R287). -/
def execSmovi (d : BitVec 4) (i : BitVec 16) (s : State) : Out := scalarS d (i.signExtend 32) s
/-- sd[31:16] := imm (R287). -/
def execSmoviHi (d : BitVec 4) (i : BitVec 16) (s : State) : Out :=
  vScalar none (fun s =>
    s.put { target := .s d.toNat, data := i.setWidth 2048 <<< 16, mask := 0xFFFF0000, left := 1 }) s

/-- The compute sequencer enters HALTED; its step counter moves past the halt (R148, R287). -/
def execVhalt (s : State) : Out :=
  vScalar none (fun s => s.updMe (fun t => t.updSeq .compute (fun q => { q with st := .halted }))) s

/-- VRB, the stage bits and a count move on (R288). -/
def execVrot (c : BitVec 4) (s : State) : Out :=
  let n := s.sreg c
  let v := s.sreg 15
  vScalar none (fun s =>
    let s := s.updRegs s.cur.core (fun r => { r with vrb := r.vrb + 15 })
    let s := s.put { target := .s 15, data := (v <<< 1 ||| (if n = 0 then 0 else 1)).setWidth 2048, mask := 0xFFFF, left := 1 }
    if n = 0 then s else s.putWord (.s c.toNat) 1 ((n - 1).setWidth 64)) s

/-- s15[19:16] := n (R288). -/
def execVstg (n : BitVec 4) (s : State) : Out :=
  vScalar none (fun s => s.put { target := .s 15, data := n.setWidth 2048 <<< 16, mask := 0xF0000, left := 1 }) s

/-! ### Branches, tokens, fences and system registers (R289 to R291) -/

/-- The target of a step offset (R289, R306). -/
def State.stepTo (s : State) (i : BitVec 16) : DWord := s.bundle + i.signExtend 64

/-- sd := sd − 1, and the branch when the new sd is not 0 (R289). -/
def execVloop (d : BitVec 4) (i : BitVec 16) (s : State) : Out :=
  let v := s.sreg d - 1
  vScalar none (fun s =>
    let s' := s.putWord (.s d.toNat) 1 (v.setWidth 64)
    if v = 0 then s' else s'.jump (s.stepTo i)) s

/-- The branch when sa is not 0 (R289). -/
def execVbnz (c : BitVec 4) (i : BitVec 16) (s : State) : Out :=
  vScalar none (fun s => if s.sreg c = 0 then s else s.jump (s.stepTo i)) s

/-- The branch (R289). -/
def execVjmp (i : BitVec 16) (s : State) : Out := vScalar none (fun s => s.jump (s.stepTo i)) s

/-- A micro-order that has issued counts for the hold windows (R272). -/
def counted (o : Out) : Out :=
  match o with
  | .next s => if s.cur.sig = .none then .next s.ageHeld else .next s
  | r => r

/-- The signal of R90 by the compute sequencer (R290). -/
def execVtsig (k : BitVec 4) (s : State) : Out := counted (tokenSignal k.toNat s)
/-- The wait of R90 by the compute sequencer (R290). -/
def execVtwait (k : BitVec 4) (s : State) : Out := counted (tokenWait k.toNat s)
/-- `VFENCE.REL` (R290). -/
def execVfenceRel (o : BitVec 5) (s : State) : Out := counted (fence 0 o s)
/-- `VFENCE.ACQ` (R290). -/
def execVfenceAcq (o : BitVec 5) (s : State) : Out := counted (fence 1 o s)
/-- `VFENCE.FULL` (R290). -/
def execVfenceFull (o : BitVec 5) (s : State) : Out := counted (fence 2 o s)
/-- `VFENCE.X` (R290). -/
def execVfenceX (s : State) : Out := counted (fence 3 0 s)

/-- A 64-bit value for the pair sd and s(d + 1), low half first, of class SY (R291). -/
def State.putPair (s : State) (d : BitVec 4) (v : DWord) : State :=
  (s.putWord (.s d.toNat) 2 v).putWord (.s (d.toNat + 1)) 2 (v >>> 32)

/-- Reads a system register or pops an output FIFO into s registers (R291). -/
def execVmfsr (d : BitVec 4) (n : BitVec 1) (r : BitVec 12) (s : State) : Out :=
  if isOutFifo r then
    match s.popOut (outEngine r) with
    | some (v, s') => counted (.next (let s' := s'.putPair d v; if n = 1 then s'.putM7 true else s'))
    | none => if n = 1 then counted (.next ((s.putPair d 0).putM7 false)) else block s (.output (engineNum (outEngine r)))
  else if isPairReg r then counted (.next (s.putPair d (s.readSys r.toNat)))
  else counted (.next (s.putWord (.s d.toNat) 2 (s.readSys r.toNat)))

/-- Appends to an input FIFO or writes FSTAT (R291). -/
def execVmtsr (c : BitVec 4) (n : BitVec 1) (r : BitVec 12) (s : State) : Out :=
  if isInFifo r then
    match s.append (inEngine r) (s.sreg c) with
    | .taken s' => counted (.next (if n = 1 then s'.putM7 true else s'))
    | .full => if n = 1 then counted (.next (s.putM7 false)) else block s (.input (engineNum (inEngine r)))
    | .waits => block s (.ops (s.acqIds (engineClass (inEngine r))))
    | .party k => raise (partyError k) s
    | .reserved => raise (reservedField 2) s
  else counted (writeReg r.toNat ((s.sreg c).setWidth 64) s)

end Sys2Proof.Machine
end

