-- ==== Sys2Proof/Machine/AccessOps.lean ====
section
/-! DEFINITION. The micro-orders of the load and store sequencers (R94, R199, R235, R236, R303 to R308). -/

namespace Sys2Proof.Machine

open Sys2Proof

/-! ### Addresses (R303) -/

/-- The address of a layout-L access: AB + OFF × 8 (R303). -/
def State.accessVa (s : State) (b : BitVec 4) (o : BitVec 12) : DWord := s.a b + o.signExtend 64 * 8

/-- The post-increment of AB (R303). -/
def State.postInc (s : State) (p : BitVec 1) (b i : BitVec 4) : State :=
  if p = 1 then s.putWord (s.aTarget b) 1 (s.a b + s.a i) else s

/-- Whether an address lies in the tier-0 window (R303). -/
def inWindow (va : DWord) : Bool := decide (0xFFFFFFFFFFC00000 ≤ va.toNat)

/-- The alignment error of an access micro-order (R304): a window address names no segment slot (R185). -/
def misaligned (va : DWord) : FaultInfo := progError 2 3 va (if inWindow va then 0 else vaSlot va)

/-- The main-file byte of a window address. -/
def windowOff (va : DWord) : Nat := va.toNat % 2 ^ 22

/-- Whether `n` bytes from a main-file byte lie in held slots (R35). -/
def TaskCtx.holdsBytes (t : TaskCtx) (o n : Nat) : Bool := t.holdsRow (o / 256) && t.holdsRow ((o + n - 1) / 256)

/-- Whether one of some main-file bytes lies in a slot that a nest owns. -/
def TaskCtx.ownsBytes (t : TaskCtx) (os : List Nat) : Bool := ((os.map (· / 16384)).eraseDups).any t.owned

/-- `n` rows of the main file from row `r` on, as R286 shows owned rows. -/
def State.viewRows (s : State) (c r : Nat) : Nat → Nat
  | 0 => 0
  | n + 1 => (s.viewRow c r).toNat + 2 ^ 2048 * s.viewRows c (r + 1) n

/-- `n` bytes of the main file from byte `o`, as R286 shows owned rows. -/
def State.readFile (s : State) (c o n : Nat) : Nat :=
  s.viewRows c (o / 256) ((o % 256 + n + 255) / 256) / 2 ^ (8 * (o % 256)) % 2 ^ (8 * n)

/-- What the store sequencer reads of the main file: its own stores there, whenever they performed, come first (R85, assumption 106). -/
def State.ownView (s : State) : State := if s.cur.agent = .store then { s with acMem := none } else s

/-- Whether a read of `n` bytes of the main file from byte `o` meets an error (R201). -/
def State.fileBad (s : State) (c o n : Nat) : Bool := s.poisonedIn (filePlace c o) n

/-- The registers, step and results in flight to which a faulting far access takes its sequencer back (R199). -/
def State.checkpoint (s : State) : Ckpt :=
  let r := s.me.regs
  { regs := if s.cur.agent = .store then r.aStore else r.aLoad
    step := s.bundle
    pipe := (s.pipe s.cur.core s.cur.agent).filter (fun f => match f.target with | .aLoad _ | .aStore _ => true | _ => false)
    stores := s.me.stqs }

/-- A far access takes the checkpoint with it. -/
def State.stampCkpt (s : State) (ck : Ckpt) : State :=
  { s with transit := s.transit.map (fun a => if a.id + 1 = s.nextId then { a with ckpt := some ck } else a) }

/-- Whether a tier-2 to tier-4 load of the load sequencer has not performed, which holds back a micro-order that writes
anything other than its a registers, step counter or queues (R199). -/
def State.farLoads (s : State) : Bool :=
  s.cur.agent == .load && s.transit.any (fun x => x.of s.cur.core .load && decide (2 ≤ x.tier) &&
    (match x.kind with | .load _ => true | _ => false))

/-- A micro-order that R199 holds back. -/
def precise (body : State → Out) (s : State) : Out := if s.farLoads then block s .farLoads else body s

/-! ### Memory micro-orders (R304) -/

/-- No operation (R236). -/
def execAnop (s : State) : Out := .next s

/-- Reads 256 B and pushes them (R304). -/
def execLdq (q b i : BitVec 4) (p k : BitVec 1) (o : BitVec 12) (s : State) : Out :=
  let va := s.accessVa b o
  let c := s.cur.core
  if s.cur.agent ≠ .load then raise (reservedField 12) s
  else if va.toNat % 8 ≠ 0 then raise (misaligned va) s
  else if inWindow va then
    if !s.me.holdsBytes (windowOff va) 256 then raise (progError 2 3 va) s
    else if !s.canPush q.toNat then block s (.push q.toNat)
    else if s.fileBad c (windowOff va) 256 then raise { poisonFault s (inRange (filePlace c (windowOff va)) 256) va 3 with slot := 0 } s
    else
      let v := BitVec.ofNat 2048 (s.readFile c (windowOff va) 256)
      let id := s.nextId
      let s := s.reserve q.toNat { id := 0, mask := BitVec.allOnes 128, va := some va, step := s.bundle }
      .next ((s.put { target := .qent q.toNat id, data := v, left := 5 }).postInc p b i)
  else
    let entry : QEntry :=
      { id := 0, mask := BitVec.allOnes 128, va := some va, skew := k == 1, step := s.bundle }
    match s.lookup c va 256 .load 3 with
    | .error f => raise f s
    | .ok _ =>
      if !s.canPush q.toNat then block s (.push q.toNat)
      else
        let ck := s.checkpoint
        let id := s.nextId
        let s' := s.reserve q.toNat entry
        match s'.request { kind := .load false, va := va, offs := List.range 256, mode := .load, skew := k == 1,
                           dest := .qent q.toNat id, opf := 3, agent := .load } with
        | .fault f => raise f s
        | .wait why => block s why
        | .near d ps s' =>
          if s'.poisoned ps then raise (poisonFault s (inUnits ps) va 3) s
          else
            let s' := if d.cd then s'.updShared c (fun h =>
              { h with queue := h.queue.set q.toNat (recordBlocks id ps (h.queue.get q.toNat [])) }) else s'
            .next ((s'.put { target := .qent q.toNat id, data := loadValue false (readPlaces s.mem ps), left := 5 }).postInc
              p b i)
        | .sent s'' => .next ((s''.stampCkpt ck).postInc p b i)

/-- The byte offsets that a queue entry's mask enables, in lanes of `lane` bytes. -/
def maskOffs (m : Mask) (lane : Nat) : List Nat := (List.range 256).filter (fun i => m.getLsbD (i / lane))

/-- The bytes of a vector at offsets. -/
def bytesAt (v : VReg) (os : List Nat) : List Byte := os.map (fun o => BitVec.ofNat 8 (v.toNat / 2 ^ (8 * o)))

/-- The store sequencer has issued an `STQ` (R199). -/
def State.countStq (s : State) : State := s.updMe (fun t => { t with stqs := t.stqs + 1, stqsDone := max t.stqsDone (t.stqs + 1) })

/-- The entry of an `STQ` leaves its queue (R304). -/
def State.popStore (s : State) (q : Nat) : State := (s.popQueue q).countStq

/-- A store to bytes of the main file as an access of the issuing agent, without a segment (R303): it follows the agent's accesses to its own
near store and main file (R86) and its acquires (R107). -/
def State.fileAccess (s : State) (q : Request) (os : List Nat) : Access :=
  { id := s.nextId, core := s.cur.core, agent := q.agent, kind := q.kind, va := q.va, slot := 64, vf := s.me.id.vf, tier := 0,
    offs := q.offs, places := os.map (filePlace s.cur.core), data := q.data, exec := q.exec, opf := BitVec.ofNat 8 q.opf, lag := q.lag,
    step := s.stepOf s.cur.core q.agent, lid := s.me.id.lid, after := s.nearIds ++ s.acqIds 1 }

/-- Pops an entry and stores its enabled lanes (R304), which perform as class AS gives (R154). One that the sequencer passes again after a fault has its data in a pending store
or has performed: it only moves its base on (R199, assumption 20). -/
def execStq (q b i : BitVec 4) (p k : BitVec 1) (o : BitVec 12) (s : State) : Out :=
  let va := s.accessVa b o
  let c := s.cur.core
  if s.cur.agent ≠ .store then raise (reservedField 12) s
  else if s.me.stqs < s.me.stqsDone then .next (s.countStq.postInc p b i)
  else if va.toNat % 8 ≠ 0 then raise (misaligned va) s
  else
    match s.queue q.toNat with
    | [] => block s (.pop q.toNat)
    | e :: _ =>
      let offs := maskOffs e.mask s.laneBytes
      let store : Request :=
        { kind := .store, va := va, offs := offs, mode := .store, skew := k == 1, data := bytesAt e.data offs, exec := true, opf := 3,
          agent := .store, lag := 3 }
      if inWindow va then
        let os := offs.map (fun x => windowOff va + x)
        if !s.me.holdsBytes (windowOff va) 256 then raise (progError 2 3 va) s
        else if s.me.ownsBytes os then raise { cls := 5, kind := 1, opf := 3, addr := va } s
        else if !s.canPop q.toNat then block s (.pop q.toNat)
        else if offs.isEmpty then .next ((s.popStore q.toNat).postInc p b i)
        else .next (((s.send (s.fileAccess store os)).popStore q.toNat).postInc p b i)
      else
        match s.lookup c va 256 .store 3 with
        | .error f => raise f s
        | .ok d =>
          let pending := (s.transit.filter (fun x => x.of c .store && decide (2 ≤ x.tier))).length
          if !s.canPop q.toNat then block s (.pop q.toNat)
          else if 2 ≤ d.tier ∧ 8 ≤ pending then block s .pendingStores
          else if offs.isEmpty then .next ((s.popStore q.toNat).postInc p b i)
          else
            let ck := s.checkpoint
            match s.request store with
            | .fault f => raise f s
            | .wait why => block s why
            | .near _ _ s' | .sent s' => .next (((s'.popStore q.toNat).stampCkpt ck).postInc p b i)

/-- SPECMISS counts a dropped speculative access (R30). -/
def State.specMiss (s : State) (c : Nat) : State := s.updShared c (fun h => { h with specmiss := h.specmiss + 1 })

/-- A prefetch of 256 B: speculative, so no condition faults, and only those of R14, R15, R22, R26 and R27 count (R30, R304). -/
def execPref (b i : BitVec 4) (p k : BitVec 1) (o : BitVec 12) (s : State) : Out :=
  let va := s.accessVa b o
  let c := s.cur.core
  if s.cur.agent ≠ .load then raise (reservedField 12) s
  else if s.farLoads then block s .farLoads
  else if inWindow va then .next (s.postInc p b i)
  else
    match s.lookup c va 256 .load 3 with
    | .error _ => .next ((s.specMiss c).postInc p b i)
    | .ok d =>
      if d.tier = 1 then
        if !s.unitReady (d.unit 0) then block s .none
        else .next ((if d.homeCore = c ∧ s.leaseOk (d.unit 0) d.lease (BitVec.ofNat 8 d.lgen) [nearPlace c (d.base + vaOff va)] [] then s
                else s.specMiss c).postInc p b i)
      else
        let q : Request := { kind := .prefetch, va := va, offs := List.range 256, mode := .load, skew := k == 1, opf := 3, agent := .load }
        .next ((s.send (s.mkAccess c q d)).postInc p b i)

/-- ad := the 8 B at the address (R304). -/
def execAld (d b i : BitVec 4) (p k : BitVec 1) (o : BitVec 12) (s : State) : Out :=
  let va := s.accessVa b o
  let c := s.cur.core
  if va.toNat % 8 ≠ 0 then raise (misaligned va) s
  else if inWindow va then
    if !s.me.holdsBytes (windowOff va) 8 then raise (progError 2 3 va) s
    else
      let u := s.flushNear
      if u.fileBad c (windowOff va) 8 then raise { poisonFault u (inRange (filePlace c (windowOff va)) 8) va 3 with slot := 0 } u
      else .next ((u.postInc p b i).putWord (s.aTarget d) 4 (BitVec.ofNat 64 ((u.ownView).readFile c (windowOff va) 8)))
  else
    let ck := s.checkpoint
    match s.request { kind := .load false, va := va, offs := List.range 8, mode := .load, skew := k == 1,
                      dest := s.aTarget d, opf := 3, agent := s.cur.agent } with
    | .fault f => raise f s
    | .wait why => block s why
    | .near _ ps u =>
      if u.poisoned ps then raise (poisonFault u (inUnits ps) va 3) u
      else .next ((u.postInc p b i).putWord (s.aTarget d) 4 (BitVec.ofNat 64 (ofBytes (readPlaces u.mem ps))))
    | .sent s' => .next ((s'.stampCkpt ck).postInc p b i)

/-! ### Address arithmetic (R305) -/

/-- A result of class S1 for a`d`. -/
def addrResult (d : BitVec 4) (v : DWord) (s : State) : Out := .next (s.putWord (s.aTarget d) 1 v)

/-- ad := ab + sext(imm) (R305). -/
def execAaddi (d b : BitVec 4) (i : BitVec 18) (s : State) : Out := addrResult d (s.a b + i.signExtend 64) s
/-- ad := ab + ai (R305). -/
def execAadd (d b i : BitVec 4) (s : State) : Out := addrResult d (s.a b + s.a i) s
/-- ad := ab − ai (R305). -/
def execAsub (d b i : BitVec 4) (s : State) : Out := addrResult d (s.a b - s.a i) s
/-- ad := ab << n (R305). -/
def execAslli (d b : BitVec 4) (n : BitVec 6) (s : State) : Out := addrResult d (s.a b <<< n.toNat) s
/-- ad[63:46] := imm, with ad[45:0] kept (R305). -/
def execAseth (d : BitVec 4) (i : BitVec 18) (s : State) : Out :=
  addrResult d ((i.setWidth 64 <<< 46) ||| (s.a d &&& 0x3FFFFFFFFFFF)) s
/-- ad := ab AND sext(imm) (R305). -/
def execAandi (d b : BitVec 4) (i : BitVec 18) (s : State) : Out := addrResult d (s.a b &&& i.signExtend 64) s

/-! ### Branches (R306) -/

/-- The branch (R306). -/
def execAjmp (o : BitVec 16) (s : State) : Out := .next (s.jump (s.stepTo o))
/-- The branch when ab is not 0 (R306). -/
def execAbnz (b : BitVec 4) (o : BitVec 16) (s : State) : Out := .next (if s.a b = 0 then s else s.jump (s.stepTo o))
/-- ab := ab − 1, and the branch when the new ab is not 0 (R306). -/
def execAloop (b : BitVec 4) (o : BitVec 16) (s : State) : Out :=
  let v := s.a b - 1
  let s' := s.putWord (s.aTarget b) 1 v
  .next (if v = 0 then s' else s'.jump (s.stepTo o))

/-! ### Tokens, halt, fences and system registers (R307) -/

/-- The signal of R90 by the access sequencer (R307). -/
def execAtsig (k : BitVec 4) (s : State) : Out := precise (tokenSignal k.toNat) s
/-- The wait of R90 by the access sequencer (R307). -/
def execAtwait (k : BitVec 4) (s : State) : Out := precise (tokenWait k.toNat) s
/-- The access sequencer enters HALTED (R148, R199, R307). -/
def execAhalt (s : State) : Out :=
  precise (fun s => .next (s.updMe (fun t => t.updSeq s.cur.agent (fun q => { q with st := .halted })))) s
/-- `AFENCE.REL` (R199, R307). -/
def execAfenceRel (o : BitVec 5) (s : State) : Out := precise (fence 0 o) s
/-- `AFENCE.ACQ` (R199, R307). -/
def execAfenceAcq (o : BitVec 5) (s : State) : Out := precise (fence 1 o) s
/-- `AFENCE.FULL` (R199, R307). -/
def execAfenceFull (o : BitVec 5) (s : State) : Out := precise (fence 2 o) s
/-- `AFENCE.X` (R199, R307). -/
def execAfenceX (s : State) : Out := precise (fence 3 0) s

/-- Reads a system register or pops an output FIFO into ad (R307). -/
def execAmfsr (d : BitVec 4) (n : BitVec 1) (r : BitVec 12) (s : State) : Out :=
  if isOutFifo r then
    precise (fun s =>
      match s.popOut (outEngine r) with
      | some (v, s') => .next (s'.putWord (s.aTarget d) 2 v)
      | none => if n = 1 then .next (s.putWord (s.aTarget d) 2 0) else block s (.output (engineNum (outEngine r)))) s
  else .next (s.putWord (s.aTarget d) 2 (s.readSys r.toNat))

/-- Appends to an input FIFO (R307). -/
def execAmtsr (d b : BitVec 4) (n : BitVec 1) (r : BitVec 12) (s : State) : Out :=
  precise (fun s =>
    match s.append (inEngine r) ((s.a b).setWidth 32) with
    | .taken s' => .next (if n = 1 then s'.putWord (s.aTarget d) 2 1 else s')
    | .full => if n = 1 then .next (s.putWord (s.aTarget d) 2 0) else block s (.input (engineNum (inEngine r)))
    | .waits => block s (.ops (s.acqIds (engineClass (inEngine r))))
    | .party k => raise (partyError k) s
    | .reserved => raise (reservedField 3) s) s

/-! ### Rings (R308) -/

/-- The observer mask of the access-side ring operations: C, the default mask (assumption 14). -/
def ringMask : BitVec 5 := 1

/-- Producer claim: ad := CLP (R308). -/
def execArprod (d b : BitVec 4) (s : State) : Out :=
  precise (ringOp 0 (s.a b) 0 ringMask 3 (fun v s => .next (s.putWord (s.aTarget d) 1 v))) s
/-- Publish of the count in ad (R308). -/
def execArpub (d b : BitVec 4) (s : State) : Out :=
  precise (ringOp 1 (s.a b) ((s.a d).setWidth 32) ringMask 3 (fun _ s => .next s)) s
/-- Consumer claim: ad := CLC (R308). -/
def execArcons (d b : BitVec 4) (s : State) : Out :=
  precise (ringOp 2 (s.a b) 0 ringMask 3 (fun v s => .next (s.putWord (s.aTarget d) 1 v))) s
/-- Release of the count in ad (R308). -/
def execArrel (d b : BitVec 4) (s : State) : Out :=
  precise (ringOp 3 (s.a b) ((s.a d).setWidth 32) ringMask 3 (fun _ s => .next s)) s

end Sys2Proof.Machine
end

