-- ==== Sys2Proof/Machine/Mule.lean ====
section
/-! DEFINITION. The words of Mule (R103, R316 to R319). -/

namespace Sys2Proof.Machine

open Sys2Proof

/-- A result for g`n` of latency `l` (R317). -/
def State.putG (s : State) (n : BitVec 3) (l : Nat) (v : Word) : State := s.putWord (.g n.toNat) l (v.setWidth 64)

/-- The issuing task's Mule changed. -/
def State.updMule (s : State) (f : Mule → Mule) : State := s.updMe (fun t => { t with mule := f t.mule })

/-! ### The segment of Mule (R316) -/

/-- The virtual address of an offset in Mule's segment. -/
def State.muleVa (s : State) (off : Word) : DWord := BitVec.ofNat 64 (s.me.mule.mslot * 2 ^ 58 + off.toNat)

/-- A request of Mule for `n` bytes at an offset: its segment is a contiguous tier-1 segment homed at this core. -/
def State.muleRequest (s : State) (off : Word) (n opf : Nat) (q : Request) : Issued :=
  let va := s.muleVa off
  let q := { q with va := va, offs := List.range n, opf := opf, agent := .mule }
  match s.lookup s.cur.core va n q.mode opf with
  | .error f => .fault f
  | .ok d =>
    if d.tier ≠ 1 ∨ d.kind ≠ 0 ∨ d.homeCore ≠ s.cur.core then .fault (invalidSegment opf va)
    else s.request q

/-- A load of Mule: `deliver` takes its bytes. -/
def muleLoad (off : Word) (n opf : Nat) (deliver : List Byte → State → Out) (s : State) : Out :=
  match s.muleRequest off n opf { kind := .load false, va := 0, offs := [], mode := .load } with
  | .fault f => raise f s
  | .wait why => block s why
  | .sent _ => block s (.ops s.nearIds)
  | .near _ ps s => if s.poisoned ps then raise (poisonFault s (inUnits ps) (s.muleVa off) opf) s else deliver (readPlaces s.mem ps) s

/-! ### Control -/

/-- Nothing (R318). -/
def execMuleNop (s : State) : Out := .next s

/-- The commands that Mule dispatched and that have not completed. -/
def TaskCtx.muleCmds (t : TaskCtx) : List Nat := t.mx.pushedBy .mule ++ t.cp.pushedBy .mule

/-- Halts once every command that Mule dispatched has completed (R103, R318). -/
def execMuleHalt (s : State) : Out :=
  if s.me.muleCmds.isEmpty then .next (s.updMule (fun m => { m with st := .halted })) else block s .commands

/-- The word of MLOUT that a post places. -/
def postValue (n : BitVec 10) (v : Word) : DWord := outElement 4 1 0 (n ++ v)

/-- Whether the next word of Mule's program halts it. -/
def State.beforeHalt (s : State) : Bool := (s.me.mule.store.get ((s.me.mule.step + 1) % 1024) 0).toNat == 0x08000000

/-- Posts an MLOUT element; the post of the final step follows Mule's accesses and commands (R103, R318). -/
def execMulePost (a : BitVec 3) (n : BitVec 10) (s : State) : Out :=
  if s.outFull s.cur.core .mule then block s (.output (engineNum .mule))
  else if s.beforeHalt && !s.me.muleCmds.isEmpty then block s .commands
  else if s.beforeHalt && s.anyLive (s.ownAccesses s.cur.core .mule) then block s (.ops (s.ownAccesses s.cur.core .mule))
  else .next (s.updMe (fun t => { t with ml := { t.ml with out := t.ml.out ++ [postValue n (s.g a)] } }))

/-- step := t (R318). -/
def execMuleJmp (t : BitVec 10) (s : State) : Out := .next (s.jump (t.setWidth 64))

/-- gd := gd − 1, and the jump when gd is not 0 (R318). -/
def execMuleLoop (d : BitVec 3) (t : BitVec 10) (s : State) : Out :=
  let v := s.g d - 1
  let s' := s.putG d 1 v
  .next (if d = 0 ∨ v = 0 then s' else s'.jump (t.setWidth 64))

/-- The jump when ga is not 0 (R318). -/
def execMuleBnz (a : BitVec 3) (t : BitVec 10) (s : State) : Out :=
  .next (if s.g a = 0 then s else s.jump (t.setWidth 64))

/-- gd := sext(IMM) (R318). -/
def execMuleSeti (d : BitVec 3) (i : BitVec 18) (s : State) : Out := .next (s.putG d 1 (i.signExtend 32))
/-- gd := ga + sext(IMM) (R318). -/
def execMuleAddi (d a : BitVec 3) (i : BitVec 18) (s : State) : Out := .next (s.putG d 1 (s.g a + i.signExtend 32))
/-- gd := ga + gb (R318). -/
def execMuleAdd (d a b : BitVec 3) (s : State) : Out := .next (s.putG d 1 (s.g a + s.g b))

/-! ### The address generator (R319) -/

/-- {gb, ga} as 64 bits. -/
def pair (hi lo : Word) : DWord := hi ++ lo

/-- A generator with its counters at zero. -/
def AddrGen.restart (g : AddrGen) : AddrGen := { g with counter := [], exhausted := false }

/-- Sets a dimension or the base, and resets the generator (R318). -/
def execMuleAgdim (a b : BitVec 3) (f : BitVec 1) (e : BitVec 2) (s : State) : Out :=
  if f = 1 then .next (s.updMule (fun m => { m with gen := { m.gen with base := pair (s.g b) (s.g a) }.restart }))
  else if s.g a = 0 then raise (reservedField 2) s
  else
    .next (s.updMule (fun m =>
      { m with gen := { m.gen with count := m.gen.count.set e.toNat (s.g a).toNat
                                   stride := m.gen.stride.set e.toNat (s.g b) }.restart }))

/-- Sets or clears the indirect dimension, and resets the generator (R318). -/
def execMuleAgind (a : BitVec 3) (f : BitVec 1) (e : BitVec 2) (s : State) : Out :=
  if f = 1 then .next (s.updMule (fun m => { m with gen := { m.gen with ind := none }.restart }))
  else if (s.g a).toNat % 4 ≠ 0 then raise (reservedField 2) s
  else .next (s.updMule (fun m => { m with gen := { m.gen with ind := some e.toNat, table := s.g a }.restart }))

/-- The count of a dimension; one never set has 1. -/
def AddrGen.trip (g : AddrGen) (d : Nat) : Nat := g.count.get d 1

/-- The counters advance, dimension 0 fastest, from dimension `d` on with `fuel` dimensions to go. -/
def AddrGen.step (g : AddrGen) (d : Nat) : Nat → AddrGen
  | 0 => { g with exhausted := true }
  | fuel + 1 =>
    let c := g.counter.get d 0
    if c + 1 < g.trip d then { g with counter := g.counter.set d (c + 1) }
    else { g with counter := g.counter.set d 0 }.step (d + 1) fuel

/-- AGA of the generator's counters, with `v` in place of the indirect counter. -/
def AddrGen.address (g : AddrGen) (v : Nat) : DWord :=
  (List.range 4).foldl (fun acc d =>
    let x := if g.ind = some d then v else g.counter.get d 0
    acc + (g.stride.get d 0).signExtend 64 * BitVec.ofNat 64 x) g.base

/-- The generator moves on: AGA takes its new value after `lat` cycles and gd := 1. -/
def State.agAdvance (s : State) (d : BitVec 3) (v lat : Nat) : State :=
  let aga := s.me.mule.gen.address v
  ((s.updMule (fun m => { m with gen := m.gen.step 0 4 })).putWord .aga lat aga).putG d 1 1

/-- One step of the address generator (R319). -/
def execMuleAgrun (d : BitVec 3) (s : State) : Out :=
  let g := s.me.mule.gen
  if g.exhausted then .next (s.putG d 1 0)
  else
    match g.ind with
    | none => .next (s.agAdvance d 0 1)
    | some k =>
      muleLoad (g.table + BitVec.ofNat 32 (4 * g.counter.get k 0)) 4 0 (fun bs s => .next (s.agAdvance d (ofBytes bs) 12)) s

/-! ### Commands that Mule pushes -/

/-- The command last pushed to a queue, changed by `f`. -/
def State.amendLast (s : State) (e : Engine) (f : Cmd → Cmd) : State :=
  s.updMe (fun t => t.updEngine e (fun q =>
    { q with queue := q.queue.map (fun c => if c.id + 1 = s.nextId then f c else c) }))

/-- Pushes a nest, with ABASE or BBASE from AGA (R318). -/
def execMuleMx (a b : BitVec 3) (o : BitVec 2) (s : State) : Out :=
  let h := s.g a
  if headCmd h ≠ 0 ∨ headLen h ≠ 0 ∨ headWv h ∨ headSv h ∨ (headFav h ∧ headFsv h) then raise (reservedField 2) s
  else if s.queueFull .matrix then block s (.input (engineNum .matrix))
  else if s.pushWaits .matrix then block s (.ops (s.acqIds (engineClass .matrix)))
  else
    let words := if headFav h || headFsv h then [h, s.g b] else [h]
    let aga := s.me.mule.aga
    let lo : Word := aga.setWidth 32
    let hi : Word := (aga >>> 32).setWidth 32
    let base := if o = 1 then 2 else 4
    .next ((s.pushCmd .matrix { words := words, path := .mule }).amendLast .matrix (fun c =>
      if o = 0 then c else { c with nt := (c.nt.set base lo).set (base + 1) hi }))

/-- Blocks until every nest that Mule dispatched has completed (R318). -/
def execMuleMxw (s : State) : Out :=
  let mine (c : Cmd) : Bool := c.pusher == .mule && headCmd c.head == 0
  if s.me.mx.queue.any mine || s.me.mx.running.any (fun r => mine r.cmd) then block s .nests else .next s

/-- The BASE field of a record replaced (R309). -/
def withBase (r : DReg) (v : DWord) : DReg := v ++ r.setWidth 704

/-- Pushes a copy with its records and tag (R314, R318). -/
def execMuleCp (a b : BitVec 3) (d sb : BitVec 1) (g : BitVec 6) (s : State) : Out :=
  let h := s.g a
  if headCmd h ≠ 0 ∨ headWv h ∨ headSv h ∨ headFav h ∨ headFsv h then raise (reservedField 2) s
  else if (s.g b).toNat % 32 ≠ 0 then raise (reservedField 3) s
  else if s.queueFull .copy then block s (.input (engineNum .copy))
  else if s.pushWaits .copy then block s (.ops (s.acqIds (engineClass .copy)))
  else
    muleLoad (s.g b) 96 3 (fun src s =>
      muleLoad (s.g b + 96) 96 3 (fun dst s =>
        let rec1 : DReg := BitVec.ofNat 768 (ofBytes src)
        let rec2 : DReg := BitVec.ofNat 768 (ofBytes dst)
        let aga := s.me.mule.aga
        .next (s.pushCmd .copy
          { words := [h, g.setWidth 32], recA := if sb = 1 then withBase rec1 aga else rec1,
            recB := if d = 1 then withBase rec2 aga else rec2, path := .mule })) s) s

/-! ### The exponent unit, waits, memory and system registers -/

/-- Row gb := an exponent function of row ga, on every lane (R284, R318). -/
def execMuleEx (a b : BitVec 3) (t f : BitVec 2) (s : State) : Out :=
  let src := (s.g a).toNat
  let dst := (s.g b).toNat
  let ty := laneType t
  if !s.me.holdsRow src then raise (progError 2 2) s
  else if !s.me.holdsRow dst then raise (progError 2 3) s
  else if s.me.owned (dst / 64) then raise { cls := 5, kind := 1, opf := 3 } s
  else if s.poisonedIn (rowPlace s.cur.core src) 256 then raise (poisonFault s (inRange (rowPlace s.cur.core src) 256) 0 2) s
  else
    let n := 256 / ty.bytes
    let rs := (lanesOf (8 * ty.bytes) n (s.viewRow s.cur.core src).toNat).map (expUnit f ty)
    .next (s.put { target := .row dst, data := packResults (8 * ty.bytes) rs, left := if ty.bytes = 4 then 8 else 9,
                   fst := rs.foldl (fun acc r => acc ||| r.2) 0 })

/-- Blocks until every tag of {gb, ga} is set (R318). -/
def execMuleTagw (a b : BitVec 3) (s : State) : Out :=
  let m := pair (s.g b) (s.g a)
  if s.tagsOf m = m then .next s else block s (.tags m true)

/-- Awaits flag f for ga (R116, R318). -/
def execMuleFwait (a : BitVec 3) (_o f : BitVec 5) (s : State) : Out :=
  if s.awaitMet f.toNat (s.g a) then .next s else block (s.await f.toNat (s.g a)) (.flag f.toNat (s.g a))

/-- Sets flag f to ga as a release (R318). -/
def execMuleFset (a : BitVec 3) (o f : BitVec 5) (s : State) : Out := ownFlag false f.toNat (s.g a) o s

/-- A fence of Mule (R318, R329). -/
def execMuleFence (o : BitVec 5) (k : BitVec 2) (s : State) : Out := fence k.toNat o s

/-- gd := the 4 B at an offset (R318). -/
def execMuleLd (d a : BitVec 3) (i : BitVec 18) (s : State) : Out :=
  let off := s.g a + i.signExtend 32
  if off.toNat % 4 ≠ 0 then raise (progError 2 2 (s.muleVa off) (vaSlot (s.muleVa off))) s
  else muleLoad off 4 2 (fun bs s => .next (s.putG d 4 (BitVec.ofNat 32 (ofBytes bs)))) s

/-- The 4 B at an offset := gb (R318). -/
def execMuleSt (a b : BitVec 3) (i : BitVec 18) (s : State) : Out :=
  let off := s.g a + i.signExtend 32
  let bs := toBytes (s.g b).toNat 4
  if off.toNat % 4 ≠ 0 then raise (progError 2 2 (s.muleVa off) (vaSlot (s.muleVa off))) s
  else
    match s.muleRequest off 4 2 { kind := .store, va := 0, offs := [], mode := .store, data := bs } with
    | .fault f => raise f s
    | .wait why => block s why
    | .near _ ps s' => .next (s'.storeAt ps bs)
    | .sent s' => .next s'

/-- gd := FSTAT, RCNT or a free count (R318). -/
def execMuleMfsr (d : BitVec 3) (n : BitVec 12) (s : State) : Out := .next (s.putG d 2 ((s.readSys n.toNat).setWidth 32))

/-- Appends ga to Mule's assembly buffer for MXIN or CPIN (R318). -/
def execMuleMtsr (a : BitVec 3) (n : BitVec 12) (s : State) : Out := pushed 2 (inEngine n) none (s.append (inEngine n) (s.g a)) s

end Sys2Proof.Machine
end

