-- ==== Sys2Proof/Machine/Matrix.lean ====
section
/-! DEFINITION. The matrix engine (R136 to R142, R292 to R302): what a dequeued command is checked for, the k-step, the Hadamard
pre-pass, the drain, and the loads of the format table and the constant store. -/

namespace Sys2Proof.Machine

open Sys2Proof

/-! ### Accesses of a command -/

/-- The command error of R222. -/
def commandError : FaultInfo := { cls := 5, kind := 6 }

/-- An access of a command before it enters transit (R14, R84): a tier-1 data segment is homed at the command's core. -/
def State.engineAccess (s : State) (c : Nat) (q : Request) : Except FaultInfo Access :=
  let holds := match (s.task c).cp.running.find? (fun r => r.cmd.id == q.cmd) with | some r => r.holds | none => []
  match s.lookupHeld c q.va q.span q.mode q.opf holds with
  | .error f => .error f
  | .ok d =>
    if d.tier = 1 ∧ d.kind = 0 ∧ d.homeCore ≠ c then .error (invalidSegment q.opf q.va)
    else
      let a := { s.mkAccess c q d with after := [], word := 0 }
      .ok (if d.kind = 2 then { a with kind := .message, places := [nearPlace d.homeCore d.base] } else a)

/-- The running commands of an engine with command `id` changed by `f`. -/
def EngineSt.updRun (e : EngineSt) (id : Nat) (f : Running → Running) : EngineSt :=
  { e with running := e.running.map (fun r => if r.cmd.id = id then f r else r) }

/-- The running command `id` of core `c` changed by `f`. -/
def State.updRun (s : State) (c : Nat) (e : Engine) (id : Nat) (f : Running → Running) : State :=
  s.updTask c (fun t => t.updEngine e (fun x => x.updRun id f))

/-- Whether a command still has accesses that it must see perform before it goes on, a refused message (R48) and writes to a peer (R220,
R334) among them. -/
def State.cmdBusy (s : State) (id : Nat) : Bool :=
  s.flits.any (fun f => f.farCmd == some id) ||
  s.transit.any (fun a => a.cmd == id && !a.collective) ||
  s.mqNotices.any (fun n => match n.refused with | some a => a.cmd == id | none => false) ||
  s.cores.any (fun e => e.2.task.shared.mq.any (fun w => w.2.kept.any (fun a => a.cmd == id)))

/-! ### The format table (R137, R139) -/

/-- The fields of a format-table entry. -/
structure FmtEntry where
  afmt : Nat
  wfmt : Nat
  acc : Nat
  rnd : Nat
  gsz : Bool
  zp : Bool
  ofmt : Nat
  ornd : Nat
  osat : Bool
  scm : Nat
  hsel : Nat
  dscale : Nat
  resv : Bool
  deriving DecidableEq, Repr

/-- An entry read from its 64 bits. -/
def FmtEntry.ofBits (v : DWord) : FmtEntry :=
  let n := v.toNat
  let scm := bits n 23 2
  let ds := bits n 32 32
  { afmt := bits n 0 4, wfmt := bits n 4 4, acc := bits n 8 2, rnd := bits n 10 2, gsz := bits n 12 1 = 1,
    zp := bits n 13 1 = 1, ofmt := bits n 16 4, ornd := bits n 20 2, osat := bits n 22 1 = 1, scm := scm,
    hsel := bits n 25 4, dscale := ds,
    resv := decide (bits n 14 2 ≠ 0 ∨ bits n 29 3 ≠ 0 ∨ (scm = 0 ∧ ds ≠ 0) ∨ (scm = 2 ∧ 32 ≤ ds)) }

/-- The activation format of a code (R139). -/
def actFmt (n : Nat) : NumFmt := match n with | 0 => .e4m3 | 1 => .e5m2 | 2 => .bf16 | _ => .i8
/-- The accumulator format of a code (R139). -/
def accFmt (n : Nat) : NumFmt := match n with | 0 => .f32 | 1 => .bf16 | 2 => .f16 | _ => .i32
/-- The drain format of a code (R139). -/
def outFmt (n : Nat) : NumFmt :=
  match n with
  | 0 => .f32
  | 1 => .bf16
  | 2 => .f16
  | 3 => .e4m3
  | 4 => .e5m2
  | 5 => .i8
  | 6 => .n8
  | 7 => .i16
  | _ => .i32

/-- Whether an entry names a pair of R137 and no reserved value. -/
def FmtEntry.ok (e : FmtEntry) : Bool :=
  !e.resv && decide (e.scm ≠ 3) && decide (e.ofmt ≤ 8) &&
  ((decide (e.afmt ≤ 2) && (decide (e.wfmt ≤ 2) || e.wfmt == 4 || e.wfmt == 5) && decide (e.acc ≤ 2)) ||
   (e.afmt == 3 && e.wfmt == 3 && e.acc == 3))

/-- Whether an entry's weights are group-scaled (R136). -/
def FmtEntry.grouped (e : FmtEntry) : Bool := e.wfmt == 4 || e.wfmt == 5

/-- Bytes of a fetch of operand A (R43). -/
def FmtEntry.bytesA (e : FmtEntry) : Nat := if e.afmt = 2 then 128 else 64
/-- Bytes of a fetch of operand B (R43, R136). -/
def FmtEntry.bytesB (e : FmtEntry) : Nat :=
  if e.wfmt = 2 then 128
  else if e.grouped then (if !e.gsz then 48 else if e.wfmt = 4 then 40 else 32)
  else 64

/-! ### The nest table (R293 to R296) -/

/-- A 64-bit base of the nest table (R294). -/
def ntBase (nt : SMap Word) (n : Nat) : DWord := BitVec.ofNat 64 (ntWord nt n + 2 ^ 32 * ntWord nt (n + 1))
/-- NT0's bit `i` (R293). -/
def ntBit (nt : SMap Word) (i : Nat) : Bool := bits (ntWord nt 0) i 1 = 1
/-- A signed stride of level `l`: word 1 of A, 2 of B (R295). -/
def ntStride (nt : SMap Word) (l w : Nat) : Int := sext (ntWord nt (10 + 3 * l + w)) 32

/-- K of a nest (R295). -/
def ntK (nt : SMap Word) : Nat := (List.range 6).foldl (fun acc l => acc * ntTrip nt l) 1

/-- Counter vector number `n`, level 0 fastest (R296). -/
def ntCounters (nt : SMap Word) (n : Nat) : List Nat :=
  ((List.range 6).foldl (fun (acc : List Nat × Nat) l =>
    (acc.1 ++ [acc.2 % ntTrip nt l], acc.2 / ntTrip nt l)) ([], n)).1

/-- A sum over the levels of counters times a field. -/
def sumLevels (f : Nat → Int) (cs : List Nat) : Int :=
  (List.range 6).foldl (fun acc l => acc + (cs.getD l 0 : Nat) * f l) 0

/-- The format-table index of a counter vector (R139). -/
def ntIndex (nt : SMap Word) (cs : List Nat) : Nat :=
  (List.range 6).foldl (fun acc l => acc + cs.getD l 0 * bits (ntWord nt (10 + 3 * l)) 16 4) 0 % 16

/-- The slot of a counter vector, exactly (R296). -/
def ntSlot (nt : SMap Word) (cs : List Nat) : Int := (bits (ntWord nt 1) 0 8 : Nat) + sumLevels (ntCstr nt) cs

/-- The checks of a captured bank at dequeue (R293 to R296). DDST of 1 in an image bit's nest with NGEN of 0
breaks a rule of the bank (assumption 114). -/
def ntBad (nt : SMap Word) (image : Bool) : Bool :=
  let w := ntWord nt
  let ddst := ntBit nt 4
  decide (bits (w 0) 24 8 ≠ 0 ∨ bits (w 0) 7 1 ≠ 0) || ntBit nt 0 == ntBit nt 1 || decide (bits (w 1) 8 24 ≠ 0) ||
  decide (143 < bits (w 1) 0 8) || (List.range 4).any (fun i => w (28 + i) != 0) ||
  (List.range 6).any (fun l => decide (bits (w (10 + 3 * l)) 28 4 ≠ 0) || ntTrip nt l == 0) ||
  decide (2 ^ 42 - 1 < ntK nt) || (ddst && decide (bits (w 6) 14 18 ≠ 0 ∨ w 7 ≠ 0)) || (ddst && image)

/-! ### Operand fetches (R39, R42, R43, R297) -/

/-- The tier-local addresses of the units of a fetch. -/
def fetchUnits (base size gather : Nat) : List Nat :=
  (List.range (size / 8)).map (fun n => base + 8 * n * (if gather = 0 then 1 else gather))

/-- The bank of a near-store address (R39, R42). -/
def bankOf (skew : Bool) (a : Nat) : Nat :=
  let o := if a < 0xC0000 then a else a - 0xC0000
  if skew then ((o / 256) % 32 + o / 8) % 32 else o / 8 % 32

/-- The first unit whose bank an earlier unit of the fetch also uses. -/
def bankClash (skew : Bool) : List Nat → List Nat → Nat → Option Nat
  | [], _, _ => none
  | u :: r, seen, i => if seen.contains (bankOf skew u) then some i else bankClash skew r (bankOf skew u :: seen) (i + 1)

/-- One operand of a k-step: its address, bytes, gather stride and skew, its operand-field number and its bank group. -/
structure Fetch where
  va : DWord
  size : Nat
  gather : Nat
  skew : Bool
  opf : Nat
  group : Nat
  deriving DecidableEq, Repr

/-- The bytes that a fetch spans from its address. -/
def Fetch.span (f : Fetch) : Nat := 8 * (f.size / 8 - 1) * (if f.gather = 0 then 1 else f.gather) + 8

/-- The segment and lease checks of a fetch: its near-store base, or its fault (R297). -/
def State.fetchBase (s : State) (c : Nat) (f : Fetch) : Except FaultInfo Nat :=
  match s.lookup c f.va f.span .load f.opf with
  | .error e => .error e
  | .ok d =>
    if d.tier ≠ 1 ∨ d.kind ≠ 0 ∨ d.homeCore ≠ c then .error (invalidSegment f.opf f.va)
    else
      let b := d.base + vaOff f.va
      let ps := (fetchUnits b f.size f.gather).map (nearPlace c)
      if !s.leaseOk (d.unit 0) d.lease (BitVec.ofNat 8 d.lgen) ps [] then
        .error { cls := 2, kind := 2, opf := BitVec.ofNat 8 f.opf, addr := f.va, slot := vaSlot f.va }
      else .ok b

/-- The alignment of a fetch (R297). -/
def Fetch.misaligned (f : Fetch) : Bool := f.va.toNat % (if f.gather = 0 then 64 else 8) != 0

/-- The bank checks of a fetch from near-store base `b` (R43). -/
def Fetch.bankFault (f : Fetch) (b : Nat) : Option FaultInfo :=
  let us := fetchUnits b f.size f.gather
  let at? (i : Nat) : DWord := f.va + BitVec.ofNat 64 (us.getD i 0 - b)
  match us.findIdx? (fun u => (if u < 0xC0000 then 0 else 1) != f.group) with
  | some i => some (progError 4 f.opf (at? i) (vaSlot f.va))
  | none =>
    match bankClash f.skew us [] 0 with
    | some i => some (progError 5 f.opf (at? i) (vaSlot f.va))
    | none => none

/-- The bytes of a fetch, in unit order (R297), through the engine port: a unit that is written in the same ac gives the value from
before the write (R40). -/
def State.fetchBytes (s : State) (c b : Nat) (f : Fetch) : List Byte :=
  (fetchUnits b f.size f.gather).flatMap (fun u =>
    Memory.readBytes s.portMem (nearPlace c (if f.skew then skewAddr u else u)) 8)

/-- The places of a fetch, for poison (R201). -/
def fetchPlaces (c b : Nat) (f : Fetch) : List Nat :=
  (fetchUnits b f.size f.gather).map (fun u => nearPlace c (if f.skew then skewAddr u else u))

/-- The 64 numbers of a fetch in a plain format. -/
def plainNums (f : NumFmt) (bs : List Byte) : List Num :=
  (lanesOf (8 * f.bytes) 64 (ofBytes bs)).map (Num.ofBits f)

/-- The weights of one group record of `g` elements (R136). -/
def groupNums (wfmt g : Nat) (zp : Bool) (bs : List Byte) : List Num :=
  let n := ofBytes bs
  let w := if wfmt = 4 then 4 else 3
  let body := if wfmt = 4 then g / 2 else if g = 32 then 16 else 24
  let sc := bits n (8 * body) 8
  let z := if zp then bits n (8 * body + 16) 16 else 0
  (List.range g).map (fun e => Num.ofBits .bf16 (expandWeight (sext (bits n (w * e) w) w) sc z))

/-- The 64 weights of a k-step (R136, R137). -/
def FmtEntry.weights (e : FmtEntry) (bs : List Byte) : List Num :=
  if !e.grouped then plainNums (actFmt e.wfmt) bs
  else if e.gsz then groupNums e.wfmt 64 e.zp bs
  else groupNums e.wfmt 32 e.zp (bs.take 24) ++ groupNums e.wfmt 32 e.zp (bs.drop 24)

/-! ### The accumulator (R138) -/

/-- The 64 elements of accumulator row `i` of a slot. -/
def State.accRow (s : State) (c slot i : Nat) (acc : NumFmt) : List Nat :=
  if acc.bytes = 4 then lanesOf 32 64 (s.readRow c (64 * slot + i)).toNat
  else lanesOf 16 64 ((s.readRow c (64 * slot + i / 2)).toNat / 2 ^ (1024 * (i % 2)))

/-- The rows of a slot that its accumulator occupies. -/
def accRows (acc : NumFmt) : Nat := if acc.bytes = 4 then 64 else 32

/-- Whether the accumulator of a slot holds an error (R201). -/
def State.accBad (s : State) (c slot : Nat) (acc : NumFmt) : Bool := s.poisonedIn (rowPlace c (64 * slot)) (256 * accRows acc)

/-- The machine check of reading a slot's accumulator (R201). -/
def State.accFault (s : State) (c slot : Nat) (acc : NumFmt) : FaultInfo :=
  poisonFault s (inRange (rowPlace c (64 * slot)) (256 * accRows acc)) 0 (opfMatrix 2)

/-- Row `r` of a slot written with a 256 B value. -/
def State.writeRow (s : State) (c r : Nat) (v : Nat) : State :=
  State.clean { s with mem := Memory.writeNat s.mem (rowPlace c r) 256 v } (wholeIn (rowPlace c r) 256)

/-- The accumulator rows of a slot written. -/
def State.writeAcc (s : State) (c slot : Nat) (acc : NumFmt) (rows : List (List Nat)) : State :=
  let packed := if acc.bytes = 4 then rows.map (packLanes 32)
    else (List.range 32).map (fun r =>
      packLanes 16 (rows.getD (2 * r) []) + 2 ^ 1024 * packLanes 16 (rows.getD (2 * r + 1) []))
  (packed.zipIdx).foldl (fun s (p : Nat × Nat) => s.writeRow c (64 * slot + p.2) p.1) s

/-- FSTAT bits gathered from the matrix engine (R135). -/
def State.gather (s : State) (c : Nat) (b : BitVec 5) : State := s.updShared c (fun h => { h with fstat := h.fstat ||| b })

/-- One k-step on a slot (R138). -/
def State.accumulateStep (s : State) (c slot : Nat) (clear : Bool) (e : FmtEntry) (as ws : List Num) : State :=
  let acc := accFmt e.acc
  let mode := roundMode e.rnd
  let rows := (as.zipIdx).map (fun (p : Num × Nat) =>
    let old := if clear then List.replicate 64 0 else s.accRow c slot p.2 acc
    List.zipWith (fun o w => accumulate acc mode o p.1 w) old ws)
  let st := rows.foldl (fun b r => r.foldl (fun b x => b ||| x.2) b) 0
  (s.writeAcc c slot acc (rows.map (fun r => r.map (·.1)))).gather c st

/-! ### The nest (R296, R297) -/

/-- The outcome of the checks before a k-step: wait for the home's boundary, a fault, or the operands' bases. -/
inductive StepCheck where
  | wait
  | fault (f : FaultInfo)
  | ok (a b : Fetch) (ba bb : Nat)

/-- The checks of R297 in order, for the k-step of counters `cs`. -/
def State.checkStep (s : State) (c : Nat) (k : Cmd) (cs : List Nat) : StepCheck :=
  let nt := k.nt
  let i := ntIndex nt cs
  let e := FmtEntry.ofBits (k.fmt.get i 0)
  let first := FmtEntry.ofBits (k.fmt.get 0 0)
  let slot := ntSlot nt cs
  let fa : Fetch :=
    { va := ntBase nt 2 + wrap 64 (sumLevels (fun l => ntStride nt l 1) cs), size := e.bytesA,
      gather := bits (ntWord nt 0) 16 8, skew := ntBit nt 5, opf := opfMatrix 0, group := 0 }
  let fb : Fetch :=
    { va := ntBase nt 4 + wrap 64 (sumLevels (fun l => ntStride nt l 2) cs), size := e.bytesB,
      gather := bits (ntWord nt 0) 8 8, skew := ntBit nt 6, opf := opfMatrix 1, group := 1 }
  if slot < 0 ∨ ((s.task c).id.nslot : Int) ≤ slot then .fault (progError 2 (opfMatrix 2))
  else if !e.ok then .fault (progError 3 (opfFormat i))
  else if e.acc ≠ first.acc then .fault { cls := 5, kind := 4, opf := BitVec.ofNat 8 (opfFormat i) }
  else if !s.unitReady (coreCluster c) then .wait
  else
    match s.fetchBase c fa with
    | .error f => .fault f
    | .ok ba =>
      match s.fetchBase c fb with
      | .error f => .fault f
      | .ok bb =>
        if fa.misaligned then .fault (progError 2 fa.opf fa.va (vaSlot fa.va))
        else if fb.misaligned then .fault (progError 2 fb.opf fb.va (vaSlot fb.va))
        else if e.grouped && fb.gather != 0 then .fault (progError 3 fb.opf)
        else
          match fa.bankFault ba with
          | some f => .fault f
          | none =>
            match fb.bankFault bb with
            | some f => .fault f
            | none =>
              if s.poisoned (fetchPlaces c ba fa) then .fault (poisonFault s (inUnits (fetchPlaces c ba fa)) fa.va fa.opf)
              else if s.poisoned (fetchPlaces c bb fb) then .fault (poisonFault s (inUnits (fetchPlaces c bb fb)) fb.va fb.opf)
              else .ok fa fb ba bb

/-- The running nest of core `c` with its command. -/
def State.nest (s : State) (c : Nat) : Option (Cmd × NestSt) := (s.task c).nestRun

/-- The nest's progress replaced. -/
def State.setNest (s : State) (c id : Nat) (n : NestSt) : State := s.updRun c .matrix id (fun r => { r with st := .nest n })

/-- The nest ends completed with VALUE K (R300); it owns its slot until it retires (R37). -/
def State.endNest (s : State) (c id k : Nat) : State :=
  s.updRun c .matrix id (fun r => { r with st := .ended 1 (BitVec.ofNat 42 k), nested := r.nestSt })

/-- Whether an engine of core `c` may move: the task runs or retires (R160, R195). -/
def Core.enginesRun (k : Core) : Bool :=
  match k.residency with
  | .resident | .retiring _ => true
  | _ => false

/-- Whether core `c`'s engines may move: not while the clock relocks (R364). -/
def State.enginesRun (s : State) (c : Nat) : Bool := !s.hub.relocking && (s.core c).enginesRun

/-- One k-step of the nest in flight (R296, R297), in an ac after that of its dequeue, so that its fetches see what was ordered before the
dequeue (R40, R98; assumption 80). -/
def execMatrixKstep (core : Nat) (s : State) : Out :=
  match s.nest core with
  | none => skip s
  | some (k, n) =>
    let total := ntK k.nt
    if !s.enginesRun core ∨ total ≤ n.done ∨ (s.task core).mx.lastDequeue = some s.ac then skip s
    else
      let cs := ntCounters k.nt n.done
      match s.checkStep core k cs with
      | .wait => skip s
      | .fault f => .next (s.cmdFault core .matrixEngine k.id f)
      | .ok fa fb ba bb =>
        let e := FmtEntry.ofBits (k.fmt.get (ntIndex k.nt cs) 0)
        let slot := (ntSlot k.nt cs).toNat
        let clear := ntBit k.nt 0 && !n.touched.contains slot
        if !clear && s.accBad core slot (accFmt e.acc) then .next (s.cmdFault core .matrixEngine k.id (s.accFault core slot (accFmt e.acc)))
        else
          let s' := s.accumulateStep core slot clear e (plainNums (actFmt e.afmt) (s.fetchBytes core ba fa))
            (e.weights (s.fetchBytes core bb fb))
          let n' := { n with done := n.done + 1, touched := if n.touched.contains slot then n.touched else n.touched ++ [slot] }
          let s' := s'.setNest core k.id n'
          .next (if n'.done = total ∧ !ntBit k.nt 2 then s'.endNest core k.id total else s')

/-- The entry of the nest's last completed k-step, with its index (R140). -/
def lastEntry (k : Cmd) : Nat × FmtEntry :=
  let i := ntIndex k.nt (ntCounters k.nt (ntK k.nt - 1))
  (i, FmtEntry.ofBits (k.fmt.get i 0))

/-- The row sum of the pre-pass for column `col` of row values `c` (R141). -/
def rotated (acc : NumFmt) (mode : RoundMode) (h : BitVec 4096) (cs : List Nat) (col : Nat) : Nat × BitVec 5 :=
  let t := (cs.zipIdx).foldl (fun (t : Nat × BitVec 5) (x : Nat × Nat) =>
    let v := Num.ofBits acc x.1
    let v := if h.getLsbD (64 * x.2 + col) then v.neg else v
    let r := roundOp acc ((Num.ofBits acc t.1).add v mode) mode false
    (r.1, t.2 ||| r.2)) (0, 0)
  let r := roundTo acc ((Num.ofBits acc t.1).scale false (-3)) mode false
  (r.1, t.2 ||| r.2)

/-- Whether the nest has run its k-steps and still drains (R298). -/
def draining (k : Cmd) (n : NestSt) : Bool := n.done == ntK k.nt && ntBit k.nt 2

/-- The Hadamard pre-pass over the slot about to drain (R141, R298). A rotation of i32 sums is a reserved-field error of the format-table entry
of the last k-step (assumption 112). -/
def execHadamardPrepass (core : Nat) (s : State) : Out :=
  match s.nest core with
  | none => skip s
  | some (k, n) =>
    if !s.enginesRun core ∨ !draining k n ∨ !ntBit k.nt 3 ∨ n.rotated ∨ s.cmdBusy k.id then skip s
    else
      let (i, e) := lastEntry k
      let acc := accFmt e.acc
      let slot := n.touched.getD n.drainSlot 0
      if e.acc = 3 then .next (s.cmdFault core .matrixEngine k.id (progError 3 (opfFormat i)))
      else if s.accBad core slot acc then .next (s.cmdFault core .matrixEngine k.id (s.accFault core slot acc))
      else
        let h := n.matrix.get e.hsel hadamard
        let rows := (List.range 64).map (fun r =>
          (List.range 64).map (rotated acc (roundMode e.rnd) h (s.accRow core slot r acc)))
        let st := rows.foldl (fun b r => r.foldl (fun b x => b ||| x.2) b) 0
        let m : SMap VReg := (rows.zipIdx).map (fun (p : List (Nat × BitVec 5) × Nat) => (p.2, packResults (8 * acc.bytes) p.1))
        .next ((s.gather core st).setNest core k.id { n with rotated := true, rows := m })

/-! ### The drain (R142, R298) -/

/-- The scale of row `i` (R142); `none` is 1. -/
def drainScale (k : Cmd) (idx : Nat) (e : FmtEntry) (i : Nat) : Option Num :=
  match e.scm with
  | 0 => none
  | 1 => some (Num.ofBits .f32 e.dscale)
  | _ => some (Num.ofBits .f32 (vbytes (k.scales.get idx 0) (4 * i) 4))

/-- The output elements of drain row `i` of the slot in hand, with their FSTAT bits (R142). -/
def State.drainRow (s : State) (c : Nat) (k : Cmd) (n : NestSt) : List (Nat × BitVec 5) :=
  let (idx, e) := lastEntry k
  let acc := accFmt e.acc
  let vs := if ntBit k.nt 3 then lanesOf (8 * acc.bytes) 64 (n.rows.get n.drainRow 0).toNat
    else s.accRow c (n.touched.getD n.drainSlot 0) n.drainRow acc
  vs.map (fun v =>
    let x := Num.ofBits acc v
    match drainScale k idx e n.drainRow with
    | none => roundTo (outFmt e.ofmt) x (roundMode e.ornd) e.osat
    | some g => roundOp (outFmt e.ofmt) (x.mul g) (roundMode e.ornd) e.osat)

/-- The drain goes on to its next row, and the nest ends after the last (R298, R300). -/
def NestSt.nextRow (n : NestSt) : NestSt :=
  if n.drainRow = 63 then { n with drainRow := 0, drainSlot := n.drainSlot + 1, rotated := false, rows := [] }
  else { n with drainRow := n.drainRow + 1 }

/-- A row of the nest has been written. -/
def State.nextDrain (s : State) (c : Nat) : State :=
  match s.nest c with
  | none => s
  | some (k, n) =>
    let n' := n.nextRow
    if n'.drainSlot < n'.touched.length then s.setNest c k.id n' else s.endNest c k.id (ntK k.nt)

/-- The virtual address of a drain row (R298). -/
def drainVa (k : Cmd) (n : NestSt) : DWord :=
  ntBase k.nt 6 + BitVec.ofNat 64 n.drainSlot * wrap 64 (sext (ntWord k.nt 9) 32) +
    BitVec.ofNat 64 (n.drainRow * ntWord k.nt 8)

/-- Whether the drain of a command is imaged (R173). -/
def State.imaged (s : State) (c : Nat) (k : Cmd) : Bool :=
  headXb k.head && (match s.launchOf c (s.task c) with | some l => !l.elems.isEmpty | none => false)

/-- The rows that Lamb of a die holds, with the primary rows on their way to their homes (R173). -/
def State.lambRows (s : State) (d : Nat) : Nat :=
  (s.die d).lamb.length + (s.transit.filter (fun a => a.image && coreDie a.core == d)).length

/-- The copy that Lamb takes of a primary row (R173). -/
def State.primaryRow (s : State) (c : Nat) (k : Cmd) (n : NestSt) (ofmt : Nat) (data : VReg) : State :=
  let t := s.task c
  s.updDie (coreDie c) (fun d =>
    { d with lamb := d.lamb ++
        [{ core := c, launch := t.id.launch, vector := t.id.vector, row := n.drainRow, data := data, fmt := ofmt,
           num := t.cmdNum k.id }] })

/-- A drain row has performed at its home. -/
def State.rowDone (s : State) (a : Access) : State :=
  match s.nest a.core with
  | none => s
  | some (k, n) =>
    let s := if a.image then s.primaryRow a.core k n (lastEntry k).2.ofmt (BitVec.ofNat 2048 (ofBytes a.data)) else s
    s.nextDrain a.core

/-- One drain row is written (R298). A row in memory goes to its home, and the next row follows when it has performed; a
drain with the image bit waits while Lamb holds 512 rows (R173). -/
def execDrainRowWrite (core : Nat) (s : State) : Out :=
  match s.nest core with
  | none => skip s
  | some (k, n) =>
    let e := (lastEntry k).2
    let slot := n.touched.getD n.drainSlot 0
    if !s.enginesRun core ∨ !draining k n ∨ (ntBit k.nt 3 ∧ !n.rotated) ∨ s.cmdBusy k.id then skip s
    else if !ntBit k.nt 3 && s.accBad core slot (accFmt e.acc) then
      .next (s.cmdFault core .matrixEngine k.id (s.accFault core slot (accFmt e.acc)))
    else
      let rs := s.drainRow core k n
      let w := (outFmt e.ofmt).bytes
      let data := packResults (8 * w) rs
      let st := rs.foldl (fun b x => b ||| x.2) 0
      if ntBit k.nt 4 then
        let row := bits (ntWord k.nt 6) 0 14 + 64 * n.drainSlot + n.drainRow
        if !(s.task core).holdsRow row ∨ ntOwns k.nt (row / 64) then
          .next (s.cmdFault core .matrixEngine k.id (progError 2 (opfMatrix 2)))
        else
          let s := s.gather core st
          let s := State.clean { s with mem := Memory.writeNat s.mem (rowPlace core row) (64 * w) data.toNat } (wholeIn (rowPlace core row) (64 * w))
          .next (s.nextDrain core)
      else if s.imaged core k && decide (512 ≤ s.lambRows (coreDie core)) then skip s
      else
        let va := drainVa k n
        match s.engineAccess core { kind := .store, va := va, offs := List.range (64 * w), mode := .store,
                                    data := toBytes data.toNat (64 * w), opf := opfMatrix 2, cmd := k.id,
                                    agent := .matrixEngine } with
        | .error f => .next (s.cmdFault core .matrixEngine k.id f)
        | .ok a =>
          if a.kind = .message then .next (s.cmdFault core .matrixEngine k.id (invalidSegment (opfMatrix 2) va))
          else
            .next ((s.gather core st).send { a with image := s.imaged core k })

/-! ### Starting the matrix kinds (R292, R296, R301, R302) -/

/-- A 64-bit address in two command words, low word first. -/
def Cmd.addr (c : Cmd) (j : Nat) : DWord := BitVec.ofNat 64 ((c.word j).toNat + 2 ^ 32 * (c.word (j + 1)).toNat)

/-- A running command at its start. -/
def startRun (k : Cmd) (num : Nat) (st : RunSt) : Running := { cmd := k, num := num, st := st }

/-- A NEST at its dequeue (R296): its bank is checked, and the sign matrices are taken as they stand. -/
def State.startNest (s : State) (c : Nat) (k : Cmd) : Except FaultInfo RunSt :=
  if headLen k.head ≠ 0 ∨ ntBad k.nt (headXb k.head) then .error commandError
  else .ok (.nest { matrix := (s.task c).shared.matrix })

/-- A read of a command that fails its lookup: the fault is met when the reads before it have performed (R301). -/
def State.badLoad (s : State) (c : Nat) (q : Request) (f : FaultInfo) : Access :=
  { id := s.nextId, core := c, agent := q.agent, kind := q.kind, va := q.va, slot := f.slot, cmd := q.cmd, opf := f.opf,
    vf := (s.task c).id.vf, lid := (s.task c).id.lid, unit := 256,
    bad := some { cls := f.cls, kind := f.kind, addr := f.addr } }

/-- The loads of a command, each performing after the one before it (R301); `prev` is the read sent last. -/
def State.sendLoads (s : State) (c : Nat) (prev : List Nat) : List Request → State
  | [] => s
  | q :: r =>
    match s.engineAccess c q with
    | .error f => s.send { s.badLoad c q f with after := prev }
    | .ok a =>
      if a.kind = .message then s.send { s.badLoad c q (invalidSegment q.opf q.va) with after := prev }
      else (s.send { a with after := prev }).sendLoads c [a.id] r

/-- The reads of an FMTLD (R301). -/
def fmtldLoads (k : Cmd) : Except FaultInfo (List Request) :=
  let w := (k.word 3).toNat
  let first := bits w 0 4
  let count := bits w 4 4 + 1
  let va := k.addr 1
  if headLen k.head ≠ 3 ∨ headXb k.head ∨ bits w 8 24 ≠ 0 ∨ 16 < first + count ∨ va.toNat % 8 ≠ 0 then .error commandError
  else
    .ok ((List.range count).map (fun i =>
      { kind := .load false, va := va + BitVec.ofNat 64 (8 * i), offs := List.range 8, mode := .load,
        dest := .sys (0x180 + first + i), opf := 0, cmd := k.id, agent := .matrixEngine }))

/-- The reads of a CSTLD (R302). -/
def cstldLoads (k : Cmd) : Except FaultInfo (List Request) :=
  let w := (k.word 3).toNat
  let va := k.addr 1
  if headLen k.head ≠ 3 ∨ headXb k.head ∨ 16 ≤ w ∨ w = 0 ∨ va.toNat % 64 ≠ 0 then .error commandError
  else
    .ok ((List.range 2).map (fun i =>
      { kind := .load false, va := va + BitVec.ofNat 64 (256 * i), offs := List.range 256, mode := .load,
        dest := .cst w i, opf := 0, cmd := k.id, agent := .matrixEngine }))

/-- The reads of an MLOAD (R316). -/
def mloadLoads (k : Cmd) : Except FaultInfo (List Request) :=
  let w := (k.word 1).toNat
  let first := bits w 0 10
  let count := bits w 10 11
  let va := k.addr 2
  if headLen k.head ≠ 3 ∨ headXb k.head ∨ bits w 21 11 ≠ 0 ∨ count = 0 ∨ 1024 < first + count ∨ va.toNat % 4 ≠ 0 then
    .error commandError
  else
    .ok ((List.range count).map (fun i =>
      { kind := .load false, va := va + BitVec.ofNat 64 (4 * i), offs := List.range 4, mode := .fetch,
        dest := .mstore (first + i), opf := 0, cmd := k.id, agent := .mule }))

end Sys2Proof.Machine
end

