-- ==== Sys2Proof/Machine/Rent.lean ====
section
/-! DEFINITION. Rent: accounts and debits at the hub (R59, R60), the rent instructions at the issuing core (R330) and at their
home (R62 to R73), the writing of segment slots (R18), the life of a lease (R74 to R81) and expiry marks (R31). -/

namespace Sys2Proof.Machine

open Sys2Proof

/-! ### Status codes (R65) -/

/-- OK. -/
def stOk : Nat := 0
/-- NO_ALLOW. -/
def stNoAllow : Nat := 1
/-- EXPIRED. -/
def stExpired : Nat := 2
/-- NO_SPACE. -/
def stNoSpace : Nat := 3
/-- NO_RECORD. -/
def stNoRecord : Nat := 4
/-- SLOT_BUSY. -/
def stSlotBusy : Nat := 5
/-- NOT_OWNER. -/
def stNotOwner : Nat := 6
/-- NOT_HEAD. -/
def stNotHead : Nat := 7
/-- RANGE. -/
def stRange : Nat := 8
/-- FOREIGN. -/
def stForeign : Nat := 9
/-- BAD_KIND. -/
def stBadKind : Nat := 10

/-! ### The hub's accounts (R59, R60) -/

/-- A debit at the hub (R60): `none` when it is refused. A low-allowance notice goes to the physical function and to the account's virtual
function. -/
def State.debit (s : State) (acct amount : Nat) : Option State :=
  let a := s.account acct
  if a.ast ≠ 1 ∨ a.allow < amount then none
  else
    let low := a.lowm * 2 ^ 24
    let s := s.updAccount acct (fun a =>
      { a with allow := a.allow - amount, spent := min (a.spent + amount) (2 ^ 64 - 1) })
    some (if low ≤ a.allow ∧ a.allow - amount < low then
        { s with hub := { s.hub with notices := s.hub.notices ++ (if a.vf = 0 then [0] else [0, a.vf]).map (fun fn => (fn, acct)) } }
      else s)

/-- A refund at the hub (R60, R64). -/
def State.credit (s : State) (acct amount : Nat) : State :=
  s.updAccount acct (fun a => { a with allow := min (a.allow + amount) (2 ^ 64 - 1), spent := a.spent - amount })

/-- NLEASE of an account rises by one. -/
def State.leaseUp (s : State) (acct : Nat) : State := s.updAccount acct (fun a => { a with nlease := a.nlease + 1 })
/-- NLEASE of an account falls by one. -/
def State.leaseDown (s : State) (acct : Nat) : State := s.updAccount acct (fun a => { a with nlease := a.nlease - 1 })

/-! ### Slots (R16, R18, R71) -/

/-- The 256 bits of a contiguous or pageable descriptor (R16). -/
def descBits (kind tier : Nat) (r w sync : Bool) (hdie hcl hcore base bound acct lease lgen : Nat) : BitVec 256 :=
  BitVec.ofNat 256 (1 + kind * 2 + tier * 2 ^ 4 + bit r * 2 ^ 8 + bit w * 2 ^ 9 + bit sync * 2 ^ 13 + hcore * 2 ^ 20 +
    hcl * 2 ^ 24 + hdie * 2 ^ 29 + base * 2 ^ 32 + bound * 2 ^ 96 + acct * 2 ^ 172 + lease * 2 ^ 184 + lgen % 256 * 2 ^ 200)

/-- HDIE, HCL, HCORE and the tier-local BASE of a place, for a task of function `fn` (R16, R27). -/
def State.homeFields (s : State) (fn tier place : Nat) : Nat × Nat × Nat × Nat :=
  match tier with
  | 1 =>
    let c := (place - 2 ^ 40) / 2 ^ 21
    (c / 512, c / 16 % 32, c % 16, (place - 2 ^ 40) % 2 ^ 21)
  | 2 =>
    let cl := (place - 2 ^ 41) / 2 ^ 23
    (cl / 32, cl % 32, 0, (place - 2 ^ 41) % 2 ^ 23)
  | 3 => (0, 0, 0, place - (s.stage fn).2.1)
  | _ => (0, 0, 0, place - 2 ^ 64)

/-- The descriptor of a lease record for the task that names it (R66, R71). -/
def State.leaseDesc (s : State) (fn h : Nat) (l : Lease) : BitVec 256 :=
  if l.pg then descBits 1 3 l.gr l.gw l.sync 0 0 0 l.base l.bytes l.acct h l.lgen.toNat
  else
    let (die, cl, core, base) := s.homeFields fn l.tier l.base
    descBits 0 l.tier l.gr l.gw l.sync die cl core base l.bytes l.acct h l.lgen.toNat

/-- The cores that hold a copy of a launch's table (R18). -/
def State.tableHolders (s : State) (launch die : Nat) : List Nat :=
  (s.cores.filter (fun e => coreDie e.1 == die && e.2.residency != .free && e.2.task.id.launch == launch)).map (·.1)

/-- The register after the one that a target names. -/
def Target.succ : Target → Target
  | .x n => .x (n + 1)
  | .fwx n => .fwx (n + 1)
  | t => t

/-- The results of a rent operation reach its issuing core: one value, or the two of `LSTAT` (R73, R320, R330). -/
def State.rentDeliver (s : State) (o : SlotOp) : State :=
  let s := s.land o.access.core { target := o.access.dest, data := o.value.setWidth 2048 }
  match o.access.kind with
  | .rent .lstat => s.land o.access.core { target := o.access.dest.succ, data := o.value2.setWidth 2048 }
  | _ => s

/-- Whether a rent operation that has performed may complete: its slot write has been applied everywhere (R18), and the issuer's earlier
operations that its completion releases have performed (R128). -/
def State.mayComplete (s : State) (o : SlotOp) : Bool := !s.slotWrites.any (fun w => w.op == o.op) && !s.anyLive o.access.frees

/-- The rent operations that may complete do so, in the order in which they performed. -/
def State.completeRents (s : State) : State :=
  s.slotOps.foldl (fun s o => if s.mayComplete o then State.rentDeliver { s with slotOps := s.slotOps.erase o } o else s) s

/-- A rent operation returns its results once it may complete (R128). -/
def State.rentReturn (s : State) (a : Access) (v : DWord) (v2 : DWord := 0) : State :=
  let o : SlotOp := { op := a.id, access := a, value := v, value2 := v2 }
  if s.mayComplete o then s.rentDeliver o else { s with slotOps := s.slotOps ++ [o] }

/-- A slot is written (R18): first in the launch's image, then at every core that holds the table; the operation returns
`v` when all have applied it. -/
def State.writeSlot (s : State) (a : Access) (slot : Nat) (d : BitVec 256) (v : DWord) : State :=
  let t := (s.task a.core).id
  let s := match s.secondStage t.vf (t.stimg * 2048 + 32 * slot) 32 with
    | some p => State.clean { s with mem := Memory.writeNat s.mem p 32 d.toNat } (wholeIn p 32)
    | none => s
  let hold := s.tableHolders t.launch (coreDie a.core)
  if hold.isEmpty then s.rentReturn a v
  else
    { s with
      slotWrites := s.slotWrites ++ hold.map (fun c => { core := c, slot := slot, desc := d, op := a.id, after := a.frees })
      slotOps := s.slotOps ++ [{ op := a.id, access := a, value := v }] }

/-- Whether a slot of core `c` holds a segment, or is about to. -/
def State.slotBusy (s : State) (c slot : Nat) : Bool :=
  match (s.slotWrites.filter (fun w => w.core == c && w.slot == slot)).getLast? with
  | some w => w.desc.getLsbD 0
  | none => (s.slotDesc c slot).v

/-- The oldest pending write of a slot is applied at a core (R18, R23): its mark is cleared, the translation buffer drops
the slot's entries, and the operation returns once every core has applied it. What the operation releases towards the core has performed
before (R18, R128). -/
def State.applySlotWrite (s : State) (core slot : Nat) : State :=
  match s.slotWrites.find? (fun w => w.core == core && w.slot == slot) with
  | none => s
  | some w =>
    if s.anyLive w.after then s else
    let s := { s with slotWrites := s.slotWrites.erase w }
    let s := s.updCore core (fun k =>
      { k with
        table := k.table.set slot w.desc
        expired := k.expired.erase slot
        tlb := k.tlb.filter (fun e => e.slot != slot) })
    match s.slotOps.find? (fun o => o.op == w.op) with
    | some o => if s.mayComplete o then State.rentDeliver { s with slotOps := s.slotOps.erase o } o else s
    | none => s

/-- The writes that were to come to a core's table die with the launch that it held (R18, R160): an operation waits for the other cores only. -/
def State.dropSlotWrites (s : State) (c : Nat) : State :=
  if s.slotWrites.any (fun w => w.core == c) then State.completeRents { s with slotWrites := s.slotWrites.filter (fun w => w.core != c) } else s

/-- A core applies the oldest pending write of a slot (R18). -/
def execSlotWriteApply (core slot : Nat) (s : State) : Out :=
  if 4096 ≤ core then skip s else .next (s.applySlotWrite core slot)

/-! ### The free space of a rent unit (R63, R66, R81) -/

/-- Lease records of a rent unit (R57). -/
def unitRecords (u : Nat) : Nat := if u < 256 then 4096 else 16384

/-- The record and base that a pending debit reserves in unit `u`: its handle, base and bytes. -/
def Debit.reserves (u : Nat) (d : Debit) : Option (Nat × Nat × Nat × Nat) :=
  match d.purpose with
  | .op a h b =>
    match a.kind with
    | .rent (.rent tier ngran _ _ _ pg _ _) => if a.unit = u then some (h, b, if pg then 0 else ngran * granule tier false, tier) else none
    | _ => none
  | _ => none

/-- A record of unit `u` that may be issued: FREE for at least 4 ticks, and not reserved (R63). Which one is taken is not
stated (assumption 13). -/
def State.freeRecord (s : State) (u : Nat) : Option Nat :=
  let n := unitRecords u
  let k := (Config.freeValue s.freeCnt).toNat
  let taken := s.debits.filterMap (Debit.reserves u)
  (List.range n).find? (fun i =>
      let h := (i + k) % n
      let l := s.lease u h
      l.st == .free && (l.lgen == 0 && l.freedAt == 0 || decide (l.freedAt + 4 ≤ s.tick)) && !taken.any (fun t => t.1 == h))
    |>.map (fun i => (i + k) % n)

/-- The storage in use in unit `u`, as base and length. -/
def State.usedRuns (s : State) (u : Nat) : List (Nat × Nat) :=
  ((s.unit u).leases.filter (fun e => e.2.st != .free && !e.2.sub && !e.2.pg)).map (fun e => (e.2.base, e.2.bytes)) ++
  (s.debits.filterMap (Debit.reserves u)).map (fun t => (t.2.1, t.2.2.1))

/-- A run put into a list ordered by base. -/
def insertRun (r : Nat × Nat) : List (Nat × Nat) → List (Nat × Nat)
  | [] => [r]
  | x :: l => if r.1 ≤ x.1 then r :: x :: l else x :: insertRun r l

/-- The gaps of an area between the ordered runs in use. -/
def gapsOf (lo hi : Nat) : List (Nat × Nat) → List (Nat × Nat)
  | [] => if lo < hi then [(lo, hi - lo)] else []
  | (b, n) :: r =>
    if b + n ≤ lo then gapsOf lo hi r
    else if hi ≤ b then (if lo < hi then [(lo, hi - lo)] else [])
    else (if lo < b then [(lo, b - lo)] else []) ++ gapsOf (b + n) hi r

/-- The area that a RENT takes its run from: the own near store, the own cluster store, the part of the carve-out that lies in a
stack, or the function's host pool (R66). -/
def State.rentArea (s : State) (c fn tier stack : Nat) : Nat × Nat :=
  match tier with
  | 1 => (nearPlace c 0, nearPlace c 0x180000)
  | 2 => (clusterPlace (coreCluster c) 0, clusterPlace (coreCluster c) 0x800000)
  | 3 =>
    let (en, base, size) := s.stage fn
    if en then (max base (stack * 2 ^ 36), min (base + size) ((stack + 1) * 2 ^ 36)) else (0, 0)
  | _ => (hostPlace ((s.fn fn).hpbase.toNat * 4096), hostPlace (((s.fn fn).hpbase.toNat + (s.fn fn).hpsize.toNat) * 4096))

/-- `v` rounded up to a multiple of `g`. -/
def roundUp (v g : Nat) : Nat := (v + g - 1) / g * g

/-- The base of a free run of `len` bytes. A tier-3 run is the lowest; which run another tier takes is not stated
(assumption 13). -/
def State.freeRun (s : State) (u c fn tier stack len : Nat) : Option Nat :=
  let (lo, hi) := s.rentArea c fn tier stack
  let g := granule tier false
  let runs := (s.usedRuns u).foldl (fun acc r => insertRun r acc) []
  let fit := (gapsOf lo hi runs).filterMap (fun (b, n) =>
    let b' := roundUp b g
    if b' + len ≤ b + n then some (b', (b + n - b' - len) / g) else none)
  match fit with
  | [] => none
  | (b0, _) :: _ =>
    if tier = 3 then some b0
    else
      let k := (Config.freeValue s.freeCnt).toNat
      match fit[k % fit.length]? with
      | some (b, slack) => some (b + k / fit.length % (slack + 1) * g)
      | none => some b0

/-! ### Rent operations at their home (R66 to R73, R76) -/

/-- Whether the lease that an operation names is the ACTIVE one (R65). -/
def State.leaseLive (s : State) (a : Access) : Bool :=
  let l := s.lease a.unit a.lease
  l.st == .active && l.lgen == a.lgen

/-- The bytes of a lease times its rate. -/
def Lease.perTick (l : Lease) : Nat := l.bytes * tierRate l.tier

/-- A debit goes to the hub for an operation (R66 to R68). -/
def State.sendDebit (s : State) (a : Access) (amount handle base : Nat) : State :=
  if 2 ^ 64 ≤ amount then s.rentReturn a (BitVec.ofNat 64 stRange)
  else
    { s with debits := s.debits ++ [{ acct := (s.task a.core).id.acct, amount := amount, purpose := .op a handle base }] }

/-- A status returned by a rent operation. -/
def State.rentStatus (s : State) (a : Access) (st : Nat) : State := s.rentReturn a (BitVec.ofNat 64 st)

/-- RENT at its home up to its debit (R66). No contiguous run has more granules than NGRAN counts (assumption 84). -/
def State.rentStart (s : State) (a : Access) (tier ngran n slot : Nat) (pg : Bool) (stack table : Nat) : State :=
  let t := (s.task a.core).id
  if s.slotBusy a.core slot then s.rentStatus a stSlotBusy
  else
    match s.freeRecord a.unit with
    | none => s.rentStatus a stNoRecord
    | some h =>
      let g := granule tier pg
      let run := if pg then some table else if 2 ^ 32 ≤ ngran then none else s.freeRun a.unit a.core t.vf tier stack (ngran * g)
      match run with
      | none => s.rentStatus a stNoSpace
      | some b => State.sendDebit { s with freeCnt := s.freeCnt + 1 } a (ngran * g * n * tierRate tier) h b

/-- The 256 B data units of `len` bytes of HBM from `base` are under key id `k` (R45, R81). -/
def State.keyRun (s : State) (k base len : Nat) : State :=
  { s with keyed := (fromTo (base / 256) (len / 256)).foldl (fun m u => m.set u k) s.keyed }

/-- Tier-3 granules of a run that a lease gave up and that are not yet zeroed are zeroed under key id `k` (R81). -/
def State.zeroRun (s : State) (u base len k : Nat) : State :=
  let hit (r : Nat × Nat) : Bool := decide (r.1 < base + len ∧ base < r.1 + r.2)
  let rest (r : Nat × Nat) : List (Nat × Nat) :=
    (if r.1 < base then [(r.1, base - r.1)] else []) ++
    (if base + len < r.1 + r.2 then [(base + len, r.1 + r.2 - (base + len))] else [])
  let dirty := (s.unit u).unzeroed
  let runs := (dirty.filter hit).map (fun r => (max r.1 base, min (r.1 + r.2) (base + len) - max r.1 base))
  let s := runs.foldl (fun s r => State.keyRun { s with mem := Memory.zero s.mem r.1 r.2 } k r.1 r.2) s
  (s.clean (fun x => runs.any (fun r => wholeIn r.1 r.2 x))).updUnit u (fun n =>
    { n with unzeroed := dirty.filter (fun r => !hit r) ++ (dirty.filter hit).flatMap rest })

/-- RENT once its debit is granted (R66): the record becomes ACTIVE and the slot is written. PAID is a tick number, of 48 bits
(R58, assumption 81). A slot that another operation has filled since is written over (assumption 107). -/
def State.rentGranted (s : State) (a : Access) (h base tier ngran n slot : Nat) (sync pg : Bool) : State :=
  let t := (s.task a.core).id
  let l : Lease :=
    { st := .active, paid := (s.tick + n) % 2 ^ 48, ngran := ngran, base := base, acct := t.acct, headl := h,
      lgen := (s.lease a.unit h).lgen + 1, tier := tier, pg := pg, sync := sync, gr := true, gw := true, vf := t.vf }
  let s := if tier = 3 ∧ !pg then s.zeroRun a.unit base (ngran * granule tier pg) (s.account t.acct).keyid else s
  let s := (s.updLease a.unit h (fun _ => l)).leaseUp t.acct
  s.writeSlot a slot (s.leaseDesc t.vf h l) 0

/-- SUBLET at its home (R70). A length of 0 is out of range (assumption 82). -/
def State.subletAt (s : State) (a : Access) (offset length grantee n : Nat) (gr gw : Bool) : State :=
  let t := (s.task a.core).id
  let l := s.lease a.unit a.lease
  let g := granule l.tier l.pg
  let acc := s.account grantee
  if !s.leaseLive a then s.rentStatus a stExpired
  else if l.acct ≠ t.acct then s.rentStatus a stNotOwner
  else if l.sub then s.rentStatus a stNotHead
  else if l.pg then s.rentStatus a stBadKind
  else if length = 0 ∨ offset % g ≠ 0 ∨ length % g ≠ 0 ∨ l.bytes < offset + length then s.rentStatus a stRange
  else if acc.ast = 0 ∨ acc.ast = 3 ∨ acc.vf ≠ t.vf then s.rentStatus a stForeign
  else
    match s.freeRecord a.unit with
    | none => s.rentStatus a stNoRecord
    | some h =>
      let gen := (s.lease a.unit h).lgen + 1
      let r : Lease :=
        { st := .active, paid := min ((s.tick + n) % 2 ^ 48) l.paid, ngran := length / g, base := l.base + offset, acct := grantee,
          headl := a.lease, lgen := gen, tier := l.tier, sync := l.sync, sub := true, gr := gr, gw := gw, vf := l.vf }
      let s := ((State.updLease { s with freeCnt := s.freeCnt + 1 } a.unit h (fun _ => r)).leaseUp l.acct).leaseUp grantee
      s.rentReturn a (BitVec.ofNat 64 ((a.unit * 2 ^ 23 + h * 2 ^ 7 + gen.toNat % 128) * 2 ^ 32))

/-- ADOPT at its home (R71). -/
def State.adoptAt (s : State) (a : Access) (handle slot : Nat) : State :=
  let t := (s.task a.core).id
  let h := bits handle 7 16
  let l := s.lease a.unit h
  if !l.sub ∨ l.st ≠ .active ∨ l.lgen.toNat % 128 ≠ handle % 128 then s.rentStatus a stExpired
  else if l.acct ≠ t.acct then s.rentStatus a stNotOwner
  else if s.slotBusy a.core slot then s.rentStatus a stSlotBusy
  else s.writeSlot a slot (s.leaseDesc t.vf h l) 0

/-- VACATE at its home (R72): the slot is cleared in every case, and nothing else changes when it carried an expiry mark. -/
def State.vacateAt (s : State) (a : Access) (slot : Nat) (marked : Bool) : State :=
  let l := s.lease a.unit a.lease
  if marked || !s.leaseLive a then s.writeSlot a slot 0 (BitVec.ofNat 64 stExpired)
  else
    let refund := l.esc + (if l.sub then 0 else l.perTick * (l.paid - s.tick - 1))
    let s := s.credit l.acct refund
    let s := s.updLease a.unit a.lease (fun l => { l with esc := 0, quant := 0, paid := min l.paid (s.tick + 1) })
    s.writeSlot a slot 0 0

/-- The code of a lease state (R62). -/
def LeaseSt.code : LeaseSt → Nat
  | .free => 0
  | .active => 1
  | .deferred => 2
  | .ended => 3
  | .scrub => 4

/-- LSTAT at its home (R73). -/
def State.lstatAt (s : State) (a : Access) : State :=
  let l := s.lease a.unit a.lease
  let v : Nat × Nat :=
    if l.lgen ≠ a.lgen then (0, 0)
    else (l.paid % 2 ^ 48 + l.lgen.toNat * 2 ^ 48 + bit l.enote * 2 ^ 58 + bit l.sync * 2 ^ 59 + bit l.sub * 2 ^ 60 +
      l.st.code * 2 ^ 61, l.esc)
  s.rentReturn a (BitVec.ofNat 64 v.1) (BitVec.ofNat 64 v.2)

/-- A rent operation performs at its home, up to its debit where it makes one (R66 to R73, R76). -/
def State.performRent (s : State) (a : Access) (op : RentOp) : State :=
  let s := s.dropAccess a.id
  let l := s.lease a.unit a.lease
  let t := (s.task a.core).id
  match op with
  | .rent tier ngran n slot _ pg stack table => s.rentStart a tier ngran n slot pg stack table
  | .renew n =>
    if !s.leaseLive a then s.rentStatus a stExpired
    else if l.acct ≠ t.acct then s.rentStatus a stNotOwner
    else if l.sub then s.rentStatus a stNotHead
    else if 2 ^ 48 ≤ l.paid + n then s.rentStatus a stRange
    else s.sendDebit a (l.perTick * n) a.lease 0
  | .prepay _ u =>
    if !s.leaseLive a then s.rentStatus a stExpired
    else if l.acct ≠ t.acct then s.rentStatus a stNotOwner
    else if l.sub then s.rentStatus a stNotHead
    else if 2 ^ 64 ≤ l.esc + u then s.rentStatus a stRange
    else s.sendDebit a u a.lease 0
  | .sublet offset length grantee n gr gw => s.subletAt a offset length grantee n gr gw
  | .adopt handle slot => s.adoptAt a handle slot
  | .vacate slot marked => s.vacateAt a slot marked
  | .lstat => s.lstatAt a

/-- A rent operation whose debit the hub has answered goes on at its home (R66 to R68). The limits on PAID + n and ESC + u hold here too:
another operation may have raised them since the first step (assumption 83). -/
def State.debitAnswered (s : State) (d : Debit) (granted : Bool) (a : Access) (h base : Nat) : State :=
  if !granted then s.rentStatus a stNoAllow
  else
    match a.kind with
    | .rent (.rent tier ngran n slot sync pg _ _) => s.rentGranted a h base tier ngran n slot sync pg
    | .rent (.renew n) =>
      if s.leaseLive a then
        if 2 ^ 48 ≤ (s.lease a.unit a.lease).paid + n then (s.credit d.acct d.amount).rentStatus a stRange
        else (s.updLease a.unit a.lease (fun l => { l with paid := l.paid + n })).rentStatus a stOk
      else (s.credit d.acct d.amount).rentStatus a stExpired
    | .rent (.prepay q u) =>
      if s.leaseLive a then
        if 2 ^ 64 ≤ (s.lease a.unit a.lease).esc + u then (s.credit d.acct d.amount).rentStatus a stRange
        else (s.updLease a.unit a.lease (fun l => { l with esc := l.esc + u, quant := q })).rentStatus a stOk
      else (s.credit d.acct d.amount).rentStatus a stExpired
    | _ => s

/-- The hub's answer to a save area's debit: a refused one is not billed, and the task is not placed again before it is covered
(R197). -/
def State.saveAnswered (s : State) (launch unit rank : Nat) (ok : Bool) : State :=
  let one (t : SavedTask) : SavedTask :=
    if t.ctx.id.unit = unit ∧ t.ctx.id.gangRank + 16 * t.ctx.id.crewRank = rank then { t with debitOk := ok } else t
  let of (l : Launch) : Launch := if l.id = launch then { l with saved := l.saved.map one } else l
  { s with dies := s.dies.map (fun d => (d.1, { d.2 with launches := d.2.launches.map of })) }

/-- The hub grants or refuses a debit that has reached it (R60). -/
def execHubDebit (index : Nat) (s : State) : Out :=
  match s.debits[index]? with
  | none => skip s
  | some d =>
    if d.granted.isSome then skip s
    else
      match s.debit d.acct d.amount with
      | some s' =>
        (match d.purpose with
         | .op .. => .next { s' with debits := s'.debits.set index { d with granted := some true } }
         | .saveArea launch unit rank =>
           .next (State.saveAnswered { s' with debits := s'.debits.eraseIdx index } launch unit rank true)
         | _ => .next { s' with debits := s'.debits.eraseIdx index })
      | none =>
        (match d.purpose with
         | .saveArea launch unit rank =>
           .next (State.saveAnswered { s with debits := s.debits.eraseIdx index } launch unit rank false)
         | _ => .next { s with debits := s.debits.set index { d with granted := some false } })

/-- The home applies a rent operation whose debit the hub has answered (R66 to R68). -/
def execRentDebitGrant (index : Nat) (s : State) : Out :=
  match s.debits[index]? with
  | none => skip s
  | some d =>
    match d.purpose, d.granted with
    | .op a h b, some g =>
      if !s.unitReady a.unit then skip s
      else .next (State.debitAnswered { s with debits := s.debits.eraseIdx index } d g a h b)
    | _, _ => skip s

/-! ### Rent instructions at the issuing core (R330) -/

/-- A rent operation of the issuing agent is sent to its rent unit, after the operations that hold it back and its own
earlier ones to that unit (R107, R128, R330). Its completion releases the agent's earlier operations with the mask C + Y + M (R18, R128). -/
def sendRent (op : RentOp) (d : BitVec 5) (slot unit lease : Nat) (lgen : Nat) (s : State) : Out :=
  let mine := (s.transit.filter (fun x => x.of s.cur.core s.cur.agent && x.unit == unit &&
    (match x.kind with | .rent _ => true | _ => false))).map (·.id)
  match s.hold (s.acqIds 1) with
  | none => block s (.ops (s.acqIds 1))
  | some ids =>
    .next (s.send { id := s.nextId, core := s.cur.core, agent := s.cur.agent, kind := .rent op, slot := slot, unit := unit,
                    lease := lease, lgen := BitVec.ofNat 8 lgen, acct := s.me.id.acct, vf := s.me.id.vf, tier := 1,
                    dest := if s.isFw then .fwx d.toNat else .x d.toNat, after := ids ++ mine,
                    frees := s.orderSet s.cur.core s.cur.agent 7, step := s.bundle, word := s.cur.word, lid := s.me.id.lid })

/-- A rent operation that its issuing core answers (R330). -/
def rentDone (d : BitVec 5) (st : Nat) (s : State) : Out := .next (s.putX d 1 (BitVec.ofNat 64 st))

/-- An operation on the lease of a slot: an empty or marked slot gives EXPIRED (R330). -/
def onSlot (op : RentOp) (d : BitVec 5) (slot : Nat) (s : State) : Out :=
  let e := s.slotDesc s.cur.core slot
  if !e.v ∨ (s.core s.cur.core).expired.get slot false then rentDone d stExpired s
  else sendRent op d slot (s.slotUnit s.me.id.vf e) e.lease e.lgen s

/-- RENT (R66, R330). A table address that a descriptor cannot hold, and a pageable length of more pages than NGRAN can count, are out of
range (assumption 84). -/
def execRent (d a b : BitVec 5) (s : State) : Out :=
  let c := (s.x b).toNat
  let len := (s.x a).toNat
  let n := bits c 32 32
  let slot := bits c 8 6
  let sync := bits c 7 1 = 1
  let tier := bits c 4 3
  let pg := bits c 3 1 = 1
  let stack := bits c 0 3
  if pg ∧ a = 31 then raise (reservedField 2) s
  else
    let table := (s.x (a + 1)).toNat
    if n = 0 ∨ len = 0 ∨ 2 ^ 58 ≤ len ∨ bits c 14 18 ≠ 0 ∨ tier = 0 ∨ 5 ≤ tier ∨ (pg ∧ tier ≠ 3) ∨
        ((tier ≠ 3 ∨ pg) ∧ stack ≠ 0) ∨ (pg ∧ (table % 2 ^ 17 ≠ 0 ∨ 2 ^ 58 ≤ table ∨ 2 ^ 32 ≤ (len + granule 3 true - 1) / granule 3 true))
    then rentDone d stRange s
    else if sync ∧ tier = 4 then rentDone d stBadKind s
    else
      let g := granule tier pg
      let unit := match tier with
        | 1 => coreCluster s.cur.core
        | 2 => coreCluster s.cur.core
        | 3 => if pg then 264 else 256 + stack
        | _ => 264
      sendRent (.rent tier ((len + g - 1) / g) n slot sync pg stack table) d slot unit 0 0 s

/-- RENEW (R67, R330). Here and in PREPAY, SUBLET, ADOPT and VACATE, an operand register with bits set outside its layout gives RANGE
before the slot is looked at (assumption 85). -/
def execRenew (d a b : BitVec 5) (s : State) : Out :=
  let v := (s.x a).toNat
  let n := (s.x b).toNat
  let e := s.slotDesc s.cur.core (v % 64)
  if 64 ≤ v then rentDone d stRange s
  else if !e.v ∨ (s.core s.cur.core).expired.get v false then rentDone d stExpired s
  else if n = 0 ∨ 2 ^ 32 ≤ n then rentDone d stRange s
  else onSlot (.renew n) d v s

/-- PREPAY (R68, R330). -/
def execPrepay (d a b : BitVec 5) (s : State) : Out :=
  let v := (s.x a).toNat
  let q := bits v 16 16
  let e := s.slotDesc s.cur.core (v % 64)
  if bits v 6 10 ≠ 0 ∨ bits v 32 32 ≠ 0 then rentDone d stRange s
  else if !e.v ∨ (s.core s.cur.core).expired.get (v % 64) false then rentDone d stExpired s
  else if q = 0 then rentDone d stRange s
  else onSlot (.prepay q (s.x b).toNat) d (v % 64) s

/-- SUBLET (R70, R330). -/
def execSublet (d a b : BitVec 5) (s : State) : Out :=
  let v := (s.x a).toNat
  let n := bits v 32 32
  let e := s.slotDesc s.cur.core (v % 64)
  if bits v 8 8 ≠ 0 ∨ bits v 28 4 ≠ 0 then rentDone d stRange s
  else if !e.v ∨ (s.core s.cur.core).expired.get (v % 64) false then rentDone d stExpired s
  else if n = 0 then rentDone d stRange s
  else
    onSlot (.sublet (s.x b).toNat (s.x (b + 1)).toNat (bits v 16 12) n (bits v 6 1 = 1) (bits v 7 1 = 1)) d (v % 64) s

/-- ADOPT (R71, R330). -/
def execAdopt (d a b : BitVec 5) (s : State) : Out :=
  let v := (s.x a).toNat
  let slot := (s.x b).toNat
  let ruid := bits v 23 9
  if 2 ^ 32 ≤ v ∨ 64 ≤ slot ∨ 265 ≤ ruid then rentDone d stRange s
  else sendRent (.adopt v slot) d slot ruid (bits v 7 16) 0 s

/-- VACATE (R72, R330). -/
def execVacate (d a : BitVec 5) (s : State) : Out :=
  let v := (s.x a).toNat
  let e := s.slotDesc s.cur.core (v % 64)
  if 64 ≤ v then rentDone d stRange s
  else if !e.v then rentDone d stExpired s
  else if e.acct ≠ s.me.id.acct then rentDone d stNotOwner s
  else sendRent (.vacate v ((s.core s.cur.core).expired.get v false)) d v (s.slotUnit s.me.id.vf e) e.lease e.lgen s

/-- LSTAT (R73, R330). -/
def execLstat (d a : BitVec 5) (s : State) : Out :=
  let v := (s.x a).toNat
  let e := s.slotDesc s.cur.core (v % 64)
  if 64 ≤ v then raise (reservedField 2) s
  else if !e.v then raise { cls := 1, kind := 1, opf := 2, slot := v } s
  else sendRent .lstat d v (s.slotUnit s.me.id.vf e) e.lease e.lgen s

/-! ### The life of a lease (R74, R75, R79 to R81) -/

/-- Whether a descriptor names lease `h` of unit `u` in generation `g`. -/
def State.names (s : State) (c u h : Nat) (g : BitVec 8) (slot : Nat) : Bool :=
  let e := s.slotDesc c slot
  e.v && e.lease == h && e.lgen == g.toNat && s.slotUnit (s.task c).id.vf e == u

/-- Expiry marks go to every core with a slot that names the lease, to be applied by the end of the next tick (R31). -/
def State.sendMarks (s : State) (u h : Nat) (g : BitVec 8) : State :=
  let hit := s.cores.flatMap (fun e =>
    if e.2.residency = .free then [] else ((List.range 64).filter (s.names e.1 u h g)).map (fun n => (e.1, n)))
  { s with marks := s.marks ++ hit.map (fun x => { core := x.1, slot := x.2, unit := u, lease := h, lgen := g, due := s.tick + 1 }) }

/-- Whether a place lies in a lease's bytes. -/
def Lease.holds? (l : Lease) (p : Nat) : Bool := !l.pg && decide (l.base ≤ p ∧ p < l.base + l.bytes)

/-- Agents parked on a lease's bytes are woken with an expired-object fault (R80). -/
def State.wakeSync (s : State) (l : Lease) : State :=
  let hit (w : Waiter) : Bool := w.poll.isNone && w.access.places.any l.holds?
  let woken := s.waiters.filter hit
  woken.foldl (fun s w => s.accessFaultVa w.access 4 1) { s with waiters := s.waiters.filter (fun w => !hit w) }

/-- TBASE of an entry (R54): a tier-local byte address in tier 2, a module HBM address in tier 3. -/
def AccEntry.tileAddr (e : AccEntry) : Nat := if placeTier e.tbase = 2 then (e.tbase - 2 ^ 41) % 2 ^ 23 else e.tbase

/-- Accumulate entries over a lease's bytes are freed, each with an expired-object fault at its flag's core (R56). -/
def State.dropEntries (s : State) (u h : Nat) (g : BitVec 8) : State :=
  let hit (e : AccEntry) : Bool := e.unit == u && e.lease == h && e.lgen == g
  let gone := s.accEntries.filter hit
  gone.foldl (fun s e =>
      let r := s.mkRec e.fcore .accPort { cls := 4, kind := 1, addr := BitVec.ofNat 64 e.tileAddr }
      s.takeFault e.fcore .accPort { r with step := 0 })
    { s with accEntries := s.accEntries.filter (fun e => !hit e) }

/-- The writers of a queue in a lease's bytes receive no further acknowledgements, and a refused message that is on its way back is
discarded (R48). One that is still on its way to the queue is discarded there. -/
def State.dropMessages (s : State) (l : Lease) : State :=
  { s with
    mqNotices := s.mqNotices.filter (fun n => !l.holds? n.queue)
    mqListed := s.mqListed.filter (fun w => !l.holds? w.queue) }

/-- Whether some sublet of a head is outside FREE. -/
def State.hasSublets (s : State) (u h : Nat) : Bool :=
  (s.unit u).leases.any (fun e => e.2.sub && e.2.headl == h && e.2.st != .free)

/-- A record enters FREE (R63, R74). -/
def State.freeLease (s : State) (u h : Nat) : State :=
  s.updLease u h (fun l => { l with st := .free, freedAt := s.tick, cancelled := false })

/-- A head in ENDED whose sublets are all FREE hands its storage on (R74, R81): a tier-3 contiguous lease leaves SCRUB at
once. -/
def State.tryScrub (s : State) (u h : Nat) : State :=
  let l := s.lease u h
  if l.st ≠ .ended ∨ l.sub ∨ s.hasSublets u h then s
  else if l.tier = 3 ∧ !l.pg then
    let s := s.updUnit u (fun k => { k with unzeroed := k.unzeroed ++ [(l.base, l.bytes)] })
    (s.freeLease u h).leaseDown l.acct
  else s.updLease u h (fun l => { l with st := .scrub })

/-- A record in ENDED moves on (R74): a sublet becomes FREE, and its head may then be scrubbed. -/
def State.settle (s : State) (u h : Nat) : State :=
  let l := s.lease u h
  if l.st ≠ .ended then s
  else if l.sub then
    let s := ((s.freeLease u h).leaseDown l.acct).leaseDown (s.lease u l.headl).acct
    s.tryScrub u l.headl
  else s.tryScrub u h

/-- An ACTIVE record ends (R74): its escrow is credited, waiters and marks are sent, and it enters DEFERRED while copies hold
it. -/
def State.endLease (s : State) (u h : Nat) : State :=
  let l := s.lease u h
  if l.st ≠ .active then s
  else
    let s := s.credit l.acct l.esc
    let s := s.updLease u h (fun l => { l with esc := 0, st := if 0 < l.holds then .deferred else .ended })
    let s := (s.dropEntries u h l.lgen).dropMessages l
    let s := if l.sync then s.wakeSync l else s
    (s.sendMarks u h l.lgen).settle u h

/-- Renewal from escrow at the boundary of tick PAID (R69); PAID is a tick number, of 48 bits (assumption 81). -/
def State.renewEscrow (s : State) (u h : Nat) : State :=
  let l := s.lease u h
  if l.st ≠ .active ∨ l.sub ∨ l.quant = 0 then s
  else
    let cost := l.perTick * l.quant
    if cost ≤ l.esc then s.updLease u h (fun l => { l with esc := l.esc - cost, paid := (l.paid + l.quant) % 2 ^ 48 })
    else s.updLease u h (fun l => { l with enote := true })

/-- The handles of the records of a unit that satisfy a condition. -/
def State.records (s : State) (u : Nat) (f : Lease → Bool) : List Nat :=
  ((s.unit u).leases.filter (fun e => f e.2)).map (·.1)

/-- A head ends with every ACTIVE sublet of it (R75, R79). -/
def State.endHead (s : State) (u h : Nat) : State :=
  let subs := s.records u (fun l => l.sub && l.headl == h && l.st == .active)
  subs.foldl (fun s k => s.endLease u k) (s.endLease u h)

/-- The boundary of tick `t` at a unit's leases, in the order of R75. -/
def State.boundaryLeases (s : State) (u t : Nat) : State :=
  let s := (s.records u (fun l => l.st == .active && !l.sub && l.paid == t)).foldl (fun s h => s.renewEscrow u h) s
  let s := (s.records u (fun l => l.st == .active && !l.sub && l.paid == t)).foldl (fun s h => s.endHead u h) s
  let s := (s.records u (fun l => l.st == .active && l.sub && l.paid == t)).foldl (fun s h => s.endLease u h) s
  let deferred := s.records u (fun l => l.st == .deferred)
  { s with debits := s.debits ++ deferred.map (fun h =>
      let l := s.lease u h
      { acct := l.acct, amount := 2 * l.perTick, purpose := .deferredTick u h l.lgen }) }

/-- The meter debits of the tasks resident in a cluster (R82). A task that is being placed or restored at the boundary is not yet resident
for the meter (assumption 108). -/
def State.meterDebits (s : State) (u : Nat) : State :=
  let res := s.cores.filter (fun e => coreCluster e.1 == u &&
    (match e.2.residency with | .resident | .retiring _ | .stopping _ => true | _ => false))
  { s with debits := s.debits ++ res.map (fun e =>
      { acct := e.2.task.id.acct, amount := e.2.task.id.nslot * 16384 * 64, purpose := .meter e.1 e.2.task.id }) }

/-- The save-area debits of the tasks that are SAVED (R197). -/
def State.saveDebits (s : State) : State :=
  let saved := s.dies.flatMap (fun d => d.2.launches.flatMap (fun l => l.saved.map (fun t => (l.id, t))))
  { s with debits := s.debits ++ saved.map (fun x =>
      { acct := x.2.ctx.id.acct, amount := (x.2.ctx.id.nslot * 16384 + 65536) * 2,
        purpose := .saveArea x.1 x.2.ctx.id.unit (x.2.ctx.id.gangRank + 16 * x.2.ctx.id.crewRank) }) }

/-- A home processes the boundary of tick `tick` (R75, R82, R197). -/
def execTickBoundary (unit tick : Nat) (s : State) : Out :=
  if 265 ≤ unit then skip s
  else if tick ≠ ((s.unit unit).ticked + 1) % 2 ^ 48 ∨ (s.unit unit).ticked = s.tick then skip s
  else
    let s := s.boundaryLeases unit tick
    let s := if unit < 256 then s.meterDebits unit else s
    let s := if unit = 264 then s.saveDebits else s
    .next (s.updUnit unit (fun k => { k with ticked := tick }))

/-- A lease that has reached PAID is renewed from escrow or ends (R69, R74). -/
def execLeaseExpiry (unit lease : Nat) (s : State) : Out :=
  let l := s.lease unit lease
  if 265 ≤ unit then skip s
  else if l.st ≠ .active ∨ (s.unit unit).ticked < l.paid then skip s
  else
    let s := s.renewEscrow unit lease
    if (s.unit unit).ticked < (s.lease unit lease).paid then .next s
    else .next (if l.sub then s.endLease unit lease else s.endHead unit lease)

/-- The hub has refused a deferred-tick debit: every transfer that holds the lease is cancelled (R78), if the record is still the lease
in DEFERRED that the debit was for. -/
def execDeferredDebitRefusal (unit lease : Nat) (s : State) : Out :=
  let l := s.lease unit lease
  let hit (d : Debit) : Bool := d.granted == some false && (match d.purpose with
    | .deferredTick u h _ => u == unit && h == lease
    | _ => false)
  match s.debits.find? hit with
  | none => skip s
  | some d =>
    let s' := { s with debits := s.debits.erase d }
    if d.purpose = .deferredTick unit lease l.lgen ∧ l.st = .deferred then
      .next (State.updLease s' unit lease (fun l => { l with cancelled := true }))
    else .next s'

/-- The hub has refused a meter debit: the task is pre-empted with cause rent exhausted, if it is still on the core (R82). -/
def execMeterRefusal (core : Nat) (s : State) : Out :=
  let hit (d : Debit) : Bool := d.granted == some false && (match d.purpose with
    | .meter c _ => c == core
    | _ => false)
  match s.debits.find? hit with
  | none => skip s
  | some d =>
    let s' := { s with debits := s.debits.erase d }
    if d.purpose = .meter core (s.task core).id ∧ (s.core core).residency ≠ .free then .next (s'.requestPreempt core 2) else .next s'

/-- The words of 8 B in a range that are not zero. -/
def presentWords (m : List Host.Cell) (lo len : Nat) : List Nat :=
  ((m.filter (fun c => decide (lo ≤ c.1 ∧ c.1 < lo + len))).map (fun c => c.1 / 8 * 8)).eraseDups

/-- The pages that the tables at guest-physical `table` show as present, with `fuel` levels to go (R21, R81). -/
def State.presentPages (s : State) (fn : Nat) : Nat → Nat → List Nat
  | 0, _ => []
  | fuel + 1, table =>
    match s.secondStage fn table 131072 with
    | none => []
    | some p =>
      let entries := (presentWords s.mem p 131072).map (fun a => Memory.readNat s.mem a 8)
      let live := entries.filter (fun e => e % 2 = 1)
      if fuel = 0 then
        live.filterMap (fun e =>
          if bits e 9 3 = 1 then some (hostPlace (bits e 16 40 * 65536))
          else s.secondStage fn (bits e 16 40 * 65536) 65536)
      else live.flatMap (fun e => s.presentPages fn fuel (bits e 16 40 * 65536))

/-- The scrubber has zeroed a lease's storage: the record becomes FREE (R74, R81). -/
def execScrubComplete (unit lease : Nat) (s : State) : Out :=
  let l := s.lease unit lease
  if 265 ≤ unit then skip s
  else if l.st ≠ .scrub then skip s
  else
    let runs : List (Nat × Nat) := if l.pg then List.map (fun p => (p, 65536)) (s.presentPages l.vf 3 l.base) else [(l.base, l.bytes)]
    let key := (s.account l.acct).keyid
    let s := runs.foldl (fun s r =>
      let s := { s with mem := Memory.zero s.mem r.1 r.2 }
      if placeTier r.1 = 3 then s.keyRun key r.1 r.2 else s) s
    let s := s.clean (fun u => runs.any (fun r => wholeIn r.1 r.2 u))
    .next ((s.freeLease unit lease).leaseDown l.acct)

/-- An expiry mark is applied (R31): one that comes after the slot was rewritten is discarded, and a writer stalled on the slot is released
(R48). -/
def State.applyMark (s : State) (m : Mark) : State :=
  let s := { s with marks := s.marks.erase m }
  if !s.names m.core m.unit m.lease m.lgen m.slot then s
  else
    let s := s.updCore m.core (fun k => { k with expired := k.expired.set m.slot true })
    s.updShared m.core (fun h => { h with mq := h.mq.erase m.slot })

/-- The marks that are to be applied by the end of a tick that has passed are applied (R31). -/
def State.applyDueMarks (s : State) : State := (s.marks.filter (fun m => decide (m.due < s.tick))).foldl State.applyMark s

/-- A core applies the oldest expiry mark for a slot (R31). -/
def execExpiryMark (core slot : Nat) (s : State) : Out :=
  match s.marks.find? (fun m => m.core == core && m.slot == slot) with
  | none => skip s
  | some m => .next (s.applyMark m)

/-! ### Holds (R77, R78) -/

/-- A transfer's hold on a lease is released (R77). -/
def State.releaseHold (s : State) (u h : Nat) : State :=
  let s := s.updLease u h (fun l => { l with holds := l.holds - 1 })
  let l := s.lease u h
  if l.st = .deferred ∧ l.holds = 0 then (s.updLease u h (fun l => { l with st := .ended })).settle u h else s

/-- How taking the holds of an access fares (R77). -/
inductive Held where
  | ok (s : State) (holds : List (Nat × Nat))
  | wait
  | expired

/-- The hold of lease `h` of unit `u` taken once by a transfer (R77). -/
def State.takeHold (s : State) (u h : Nat) (g : BitVec 8) (mine : List (Nat × Nat)) : Held :=
  if mine.contains (u, h) then .ok s mine
  else
    let l := s.lease u h
    if l.st ≠ .active ∨ l.lgen ≠ g ∨ l.paid ≤ s.tick then .expired
    else if 255 ≤ l.holds then .wait
    else .ok (s.updLease u h (fun l => { l with holds := l.holds + 1 })) (mine ++ [(u, h)])

end Sys2Proof.Machine
end

