-- ==== Sys2Proof/Machine/CopyEngine.lean ====
section
/-! DEFINITION. Layout records and the copy engine with its tensor-move unit (R77, R78, R87, R309 to R315). -/

namespace Sys2Proof.Machine

open Sys2Proof

/-! ### Layout records (R309, R311) -/

/-- A layout record's fields. -/
structure Layout where
  base : Nat
  fill : Nat
  orig : List Int
  wn : List Nat
  st : List Int
  sz : List Nat
  islot : Nat
  itab : Nat
  obs : Nat
  ien : Bool
  ind : Nat
  edge : Nat
  bim : Nat
  rank : Nat
  fmt : Nat
  resv : Bool
  deriving DecidableEq, Repr

/-- A record read from its 768 bits. -/
def Layout.ofBits (r : DReg) : Layout :=
  { base := dbits r 704 64, fill := dbits r 640 64, orig := (List.range 6).map (fun l => sext (dbits r (496 + 24 * l) 24) 24),
    wn := (List.range 6).map (fun l => dbits r (400 + 16 * l) 16),
    st := (List.range 6).map (fun l => sext (dbits r (208 + 32 * l) 32) 32),
    sz := (List.range 6).map (fun l => dbits r (64 + 24 * l) 24), islot := dbits r 41 6, itab := dbits r 20 21,
    obs := dbits r 15 5, ien := dbits r 14 1 = 1, ind := dbits r 11 3, edge := dbits r 9 2, bim := dbits r 7 2,
    rank := dbits r 4 3, fmt := dbits r 0 4, resv := dbits r 47 17 ≠ 0 }

/-- The element width of a format code of a record (R309). -/
def elemBytes (fmt : Nat) : Nat := if fmt = 8 then 8 else (fmtOf fmt).bytes

/-- The window points of a record. -/
def Layout.points (r : Layout) : Nat := (List.range r.rank).foldl (fun acc l => acc * r.wn.getD l 0) 1

/-- Whether a record breaks the rules of R311. -/
def Layout.bad (r : Layout) : Bool :=
  let w := elemBytes r.fmt
  r.resv || decide (9 ≤ r.fmt ∨ r.edge = 3 ∨ r.bim = 3 ∨ r.rank = 0 ∨ r.rank = 7) ||
  (List.range 6).any (fun l =>
    if l < r.rank then decide (r.sz.getD l 0 = 0 ∨ r.wn.getD l 0 = 0)
    else decide (r.sz.getD l 0 ≠ 0 ∨ r.st.getD l 0 ≠ 0 ∨ r.wn.getD l 0 ≠ 0 ∨ r.orig.getD l 0 ≠ 0)) ||
  (r.ien && decide (r.rank ≤ r.ind)) || decide (r.base % w ≠ 0) || r.st.any (fun x => x % (w : Int) != 0) ||
  decide (r.bim = 2 ∧ 2 ^ 22 ≤ r.base) || decide (2 ^ 40 < r.points)

/-- The window coordinates of point number `n`, dimension 0 fastest. -/
def windowPoint (wn : List Nat) (rank n : Nat) : List Nat :=
  ((List.range rank).foldl (fun (acc : List Nat × Nat) l =>
    (acc.1 ++ [acc.2 % wn.getD l 1], acc.2 / wn.getD l 1)) ([], n)).1

/-- What a record's edge handling makes of a point (R312). -/
inductive Edged where
  | at (c : List Nat)
  | fill
  | drop
  | fault
  deriving DecidableEq, Repr

/-- The coordinates of window point `w` after edge handling, for a source or a destination (R312). -/
def Layout.coords (r : Layout) (source : Bool) (w : List Nat) : Nat → List Nat → Edged
  | 0, acc => .at acc
  | fuel + 1, acc =>
    let l := r.rank - (fuel + 1)
    let c : Int := r.orig.getD l 0 + (w.getD l 0 : Nat)
    let n := r.sz.getD l 0
    if 0 ≤ c ∧ c < (n : Int) then r.coords source w fuel (acc ++ [c.toNat])
    else
      match r.edge, source with
      | 0, true => .fill
      | 1, true => r.coords source w fuel (acc ++ [if c < 0 then 0 else n - 1])
      | 2, _ => .fault
      | _, _ => .drop

/-- The coordinates of a point. -/
def Layout.point (r : Layout) (source : Bool) (w : List Nat) : Edged := r.coords source w r.rank []

/-- Why forming an address stops. -/
inductive Stop where
  | wait
  | expired
  | fault (f : FaultInfo)
  deriving DecidableEq, Repr

/-- Word `c` of a record's indirect table (R312), with the hold that a copy or tensor move takes on its lease (R77);
`take` is false for another command. -/
def State.tableWord (s : State) (core : Nat) (r : Layout) (take : Bool) (c opf : Nat) (holds : List (Nat × Nat)) :
    Except Stop (Nat × State × List (Nat × Nat)) :=
  let va : DWord := BitVec.ofNat 64 (r.islot * 2 ^ 58 + r.itab + 4 * c)
  match s.lookupHeld core va 4 .load opf holds with
  | .error f => .error (.fault f)
  | .ok d =>
    if d.tier ≠ 1 ∨ d.kind ≠ 0 ∨ d.homeCore ≠ core then .error (.fault (invalidSegment opf va))
    else if !s.unitReady (d.unit 0) then .error .wait
    else
      let p := nearPlace core (d.base + vaOff va)
      let held : Held := if take then s.takeHold (d.unit 0) d.lease (BitVec.ofNat 8 d.lgen) holds
        else if s.leaseOk (d.unit 0) d.lease (BitVec.ofNat 8 d.lgen) [p] [] then .ok s holds else .expired
      match held with
      | .expired => .error .expired
      | .wait => .error .wait
      | .ok s' hs =>
        if s.poisoned [p] then .error (.fault (poisonFault s (inUnits [p]) va opf))
        else .ok (Memory.readNat s.mem p 4, s', hs)

/-- The address of coordinates `c` (R312). -/
def State.formAddr (s : State) (core : Nat) (r : Layout) (take : Bool) (c : List Nat) (opf : Nat) (holds : List (Nat × Nat)) :
    Except Stop (DWord × State × List (Nat × Nat)) :=
  let sum (v : Nat) : DWord :=
    wrap 64 ((List.range r.rank).foldl (fun acc l =>
      acc + ((if r.ien ∧ l = r.ind then v else c.getD l 0 : Nat) : Int) * r.st.getD l 0) (r.base : Int))
  if r.ien then
    match s.tableWord core r take (c.getD r.ind 0) opf holds with
    | .error e => .error e
    | .ok (v, s', hs) => .ok (sum v, s', hs)
  else .ok (sum 0, s, holds)

/-! ### Forming a beat (R313) -/

/-- A source element of a beat: its address, or its bits when it is known. -/
inductive Source where
  | at (va : DWord)
  | bits (v : Nat)
  deriving DecidableEq, Repr

/-- A beat being formed: destination addresses with sources, in visiting order, and the point after it. -/
structure Forming where
  elems : List (DWord × Source) := []
  next : Nat := 0
  deriving DecidableEq, Repr

/-- The 256 B line of an address. -/
def lineOf (va : DWord) : Nat := va.toNat / 256

/-- How the source coordinates of a destination point are taken: dimension l of the destination is dimension PERM(l) of the
source (R314). -/
def permuted (perm : List Nat) (w : List Nat) (rank : Nat) : List Nat :=
  (List.range rank).map (fun sl =>
    match (List.range rank).find? (fun l => perm.getD l l == sl) with
    | some l => w.getD l 0
    | none => 0)

/-- Points are visited from `n` on, at most `fuel` of them, until the beat in hand ends (R313). -/
def State.formBeat (core : Nat) (src dst : Layout) (perm : List Nat) (take : Bool) (opf : Nat) :
    Nat → State → Forming → List (Nat × Nat) → Except Stop (Forming × State × List (Nat × Nat))
  | 0, s, b, hs => .ok (b, s, hs)
  | fuel + 1, s, b, hs =>
    if dst.points ≤ b.next then .ok (b, s, hs)
    else
      let w := windowPoint dst.wn dst.rank b.next
      let bound : FaultInfo := progError 2 opf
      match dst.point false w with
      | .fault => .error (.fault bound)
      | .drop | .fill => State.formBeat core src dst perm take opf fuel s { b with next := b.next + 1 } hs
      | .at dc =>
        match src.point true (permuted perm w dst.rank) with
        | .fault => .error (.fault bound)
        | sp =>
          match s.formAddr core dst take dc opf hs with
          | .error e => .error e
          | .ok (da, s1, hs1) =>
            let same := match b.elems with | [] => true | (x, _) :: _ => lineOf x == lineOf da
            if !same then .ok (b, s1, hs1)
            else
              match sp with
              | .at sc =>
                (match s1.formAddr core src take sc opf hs1 with
                 | .error e => .error e
                 | .ok (sa, s2, hs2) =>
                   State.formBeat core src dst perm take opf fuel s2 { elems := b.elems ++ [(da, .at sa)], next := b.next + 1 } hs2)
              | _ =>
                State.formBeat core src dst perm take opf fuel s1
                  { elems := b.elems ++ [(da, .bits (src.fill % 2 ^ (8 * elemBytes src.fmt)))], next := b.next + 1 } hs1

/-- The runs of consecutive source addresses in a beat: first element, address and number of elements. -/
def sourceRuns (w : Nat) : Nat → List (DWord × Source) → List (Nat × DWord × Nat)
  | _, [] => []
  | i, (_, .bits _) :: r => sourceRuns w (i + 1) r
  | i, (_, .at a) :: r =>
    match sourceRuns w (i + 1) r with
    | (j, b, n) :: rest =>
      if j = i + 1 ∧ b = a + BitVec.ofNat 64 w ∧ vaSlot b = vaSlot a then (i, a, n + 1) :: rest else (i, a, 1) :: (j, b, n) :: rest
    | [] => [(i, a, 1)]

/-- Reads of a beat's sources sent to their homes, with main-file sources read at once (R312, R286). -/
def State.sendSources (s : State) (core id : Nat) (agent : Agent) (src : Layout) (opf : Nat) :
    List (Nat × DWord × Nat) → List (Nat × Nat) → Except FaultInfo (State × List (Nat × Nat))
  | [], es => .ok (s, es)
  | (i, va, n) :: r, es =>
    let w := elemBytes src.fmt
    if src.bim = 2 then
      if 2 ^ 22 ≤ va.toNat + n * w ∨ !(s.task core).holdsBytes va.toNat (n * w) then .error (progError 2 opf va)
      else
        let v := s.readFile core va.toNat (n * w)
        if s.fileBad core va.toNat (n * w) then .error (poisonFault s (inRange (filePlace core va.toNat) (n * w)) va opf)
        else s.sendSources core id agent src opf r (fillElems w i (toBytes v (n * w)) es)
    else
      match s.engineAccess core { kind := .load false, va := va, offs := List.range (n * w), mode := .load,
                                  skew := src.bim == 1, dest := .beat i, opf := opf, cmd := id, agent := agent } with
      | .error f => .error f
      | .ok a => (s.send a).sendSources core id agent src opf r es

/-! ### Transfers -/

/-- The tag of a transfer (R314). -/
def Cmd.tag (c : Cmd) : Nat := bits (c.word 1).toNat 0 6

/-- Whether a command is a tensor move. -/
def Cmd.isMove (c : Cmd) : Bool := headCmd c.head == 2

/-- The agent of a transfer. -/
def Cmd.mover (c : Cmd) : Agent := if c.isMove then .tensorMove else .copyEngine

/-- PERM, RND and SAT of a tensor move (R314); a copy has the identity. -/
def Cmd.perm (c : Cmd) : List Nat :=
  if c.isMove then (List.range 6).map (fun l => bits (c.word 2).toNat (3 * l) 3) else List.range 6

/-- An element converted for its destination (R314). -/
def Cmd.convert (c : Cmd) (src dst : Layout) (v : Nat) : Nat :=
  if src.fmt = dst.fmt then v
  else (Sys2Proof.Machine.convert (fmtOf src.fmt) (fmtOf dst.fmt) (roundMode (bits (c.word 2).toNat 18 2)) (bits (c.word 2).toNat 20 1 = 1) v).1

/-- The record of a transfer: 0 its source, 1 its destination. -/
def Cmd.layout (c : Cmd) (dst : Bool) : Layout := Layout.ofBits (if dst then c.recB else c.recA)

/-- The state of running transfer `id` replaced. -/
def State.setCopy (s : State) (core id : Nat) (c : CopySt) : State := s.updRun core .copy id (fun r => { r with st := .copy c })

/-- The leases that a running command holds. -/
def State.setHolds (s : State) (core : Nat) (e : Engine) (id : Nat) (hs : List (Nat × Nat)) : State :=
  s.updRun core e id (fun r => { r with holds := hs })

/-- Whether a lease that a transfer holds is cancelled (R78). -/
def State.cancelledHold (s : State) (hs : List (Nat × Nat)) : Bool :=
  hs.any (fun h => (s.lease h.1 h.2).cancelled && (s.lease h.1 h.2).st == .deferred)

/-- A transfer ends with an expiry (R77, R78). -/
def State.expireCopy (s : State) (core : Nat) (k : Cmd) : State := s.updTask core (fun t => t.finishCmd k.id 2)

/-- A beat's elements as bytes at offsets from its lowest address, a later element over an earlier one. -/
def beatBytes (w : Nat) (es : List (Nat × Nat)) : SMap Byte :=
  es.foldl (fun (m : SMap Byte) (e : Nat × Nat) =>
    ((toBytes e.2 w).zipIdx).foldl (fun (m : SMap Byte) (b : Byte × Nat) => m.set (e.1 + b.2) b.1) m) []

/-- The lowest destination address of a beat. -/
def lowest (es : List (DWord × Source)) : DWord :=
  match es with
  | [] => 0
  | (a, _) :: r => r.foldl (fun m e => if e.1.toNat < m.toNat then e.1 else m) a

/-- The beat in hand starts: its points are found and its sources are read (R313). -/
def beatStart (core : Nat) (r : Running) (c : CopySt) (s : State) : Out :=
  let k := r.cmd
  let src := k.layout false
  let dst := k.layout true
  let opf := opfTag k.tag
  match State.formBeat core src dst k.perm true opf (dst.points - c.point) s { next := c.point } r.holds with
  | .error .wait => skip s
  | .error .expired => .next (s.expireCopy core k)
  | .error (.fault f) => .next (s.cmdFault core k.mover k.id f)
  | .ok (b, s', hs) =>
    let s' := s'.setHolds core .copy k.id hs
    if b.elems.isEmpty then .next (s'.updRun core .copy k.id (fun r => { r with st := .ended 1 (BitVec.ofNat 42 c.beat) }))
    else if c.beat < c.skip then .next (s'.setCopy core k.id { c with point := b.next, beat := c.beat + 1 })
    else
      let lo := lowest b.elems
      let es := b.elems.map (fun e => ((e.1 - lo).toNat, match e.2 with | .bits v => v | .at _ => 0))
      match s'.sendSources core k.id k.mover src opf (sourceRuns (elemBytes src.fmt) 0 b.elems) es with
      | .error f => .next (s'.cmdFault core k.mover k.id f)
      | .ok (s2, es) =>
        .next (s2.setCopy core k.id { c with forming := true, next := b.next, va := lo, width := elemBytes src.fmt, elems := es })

/-- The write of a beat is on its way or done: the next beat is in hand. -/
def CopySt.nextBeat (c : CopySt) : CopySt :=
  { c with point := c.next, beat := c.beat + 1, forming := false, elems := [] }

/-- A running transfer's beat has performed at its home. -/
def State.beatDone (s : State) (core id : Nat) : State :=
  s.updRun core .copy id (fun r => match r.st with | .copy c => { r with st := .copy c.nextBeat } | _ => r)

/-- The beat in hand has its sources: it goes to its destination as one write (R313, R315). -/
def beatWrite (core : Nat) (r : Running) (c : CopySt) (s : State) : Out :=
  let k := r.cmd
  let src := k.layout false
  let dst := k.layout true
  let opf := opfTag k.tag
  let w := elemBytes dst.fmt
  let m := beatBytes w (c.elems.map (fun e => (e.1, k.convert src dst e.2)))
  let offs := m.map (·.1)
  if dst.bim = 2 then
    let lo := c.va.toNat
    if 2 ^ 22 ≤ lo ∨ !(s.task core).holdsBytes lo (offs.foldl max 0 + 1) then .next (s.cmdFault core k.mover k.id (progError 2 opf c.va))
    else if (s.task core).ownsBytes (offs.map (lo + ·)) then
      .next (s.cmdFault core k.mover k.id { cls := 5, kind := 1, opf := BitVec.ofNat 8 opf, addr := c.va })
    else
      let ps := offs.map (fun o => filePlace core (lo + o))
      .next (State.beatDone (State.clean { s with mem := writePlaces s.mem ps (m.map (·.2)) } (wholeOf ps)) core k.id)
  else
    match s.engineAccess core { kind := .store, va := c.va, offs := offs, mode := .store, data := m.map (·.2),
                                skew := dst.bim == 1, opf := opf, cmd := k.id, agent := k.mover } with
    | .error f => .next (s.cmdFault core k.mover k.id f)
    | .ok a =>
      if a.kind = .message then
        let q := (s.task core).writer a.slot
        if q.stop || decide (8 ≤ q.unacked) then skip s
        else .next ((s.updShared core (fun h =>
          { h with mq := h.mq.set a.slot { q with unacked := q.unacked + 1 } })).send a)
      else .next (s.send a)

/-- The unit of a transfer: the copy engine 0, the tensor-move unit 1. -/
def Cmd.unit (k : Cmd) : Nat := if k.isMove then 1 else 0

/-- Whether a running transfer can take a turn: it has not ended, and no beat of it is under way. -/
def State.turnReady (s : State) (r : Running) : Bool :=
  match r.st with
  | .copy c => !c.forming && !s.cmdBusy r.cmd.id
  | _ => false

/-- The transfer of a unit whose turn it is (R315): of those that can take one, the next in dequeue order after the last that did. -/
def State.nextTransfer (s : State) (core unit : Nat) : Option Nat :=
  let e := (s.task core).cp
  let l := (e.running.filter (fun r => r.cmd.unit == unit && s.turnReady r)).map (·.num)
  match e.beatTurn.find unit with
  | none => l.head?
  | some n => (l.find? (fun m => decide (n < m))).or l.head?

/-- A transfer takes its unit's turn. -/
def State.takeTurn (s : State) (core : Nat) (r : Running) : State :=
  s.updTask core (fun t => { t with cp := { t.cp with beatTurn := t.cp.beatTurn.set r.cmd.unit r.num } })

/-- A unit writes a beat in the ac at hand. -/
def State.takeBeat (s : State) (core : Nat) (r : Running) : State :=
  s.updTask core (fun t => { t with cp := { t.cp with beatAc := t.cp.beatAc.set r.cmd.unit s.ac } })

/-- One beat of a transfer moves on (R313, R315): its unit's transfers take turns to form one, and the unit writes at most one in an ac. A
transfer whose lease was cancelled stops (R78). -/
def execCopyBeat (core index : Nat) (s : State) : Out :=
  match (s.task core).cp.running[index]? with
  | none => skip s
  | some r =>
    match r.st with
    | .copy c =>
      if !s.enginesRun core ∨ s.cmdBusy r.cmd.id then skip s
      else if c.forming then
        if (s.task core).cp.beatAc.find r.cmd.unit = some s.ac then skip s else beatWrite core r c (s.takeBeat core r)
      else if s.cancelledHold r.holds then .next (s.expireCopy core r.cmd)
      else if s.nextTransfer core r.cmd.unit ≠ some r.num then skip s
      else beatStart core r c (s.takeTurn core r)
    | _ => skip s

/-! ### Starting a transfer (R87, R311, R314, R315) -/

/-- A record of `n` bytes of a command that came through a FIFO, at the near-store address in word `j`; a command error when the address is
no 32 B-aligned one of the near store (R238, R309, R314), a machine check when the record is poisoned (R201). -/
def State.fifoRecord (s : State) (core : Nat) (k : Cmd) (j n : Nat) : Except FaultInfo DReg :=
  let a := (k.word j).toNat
  let p := nearPlace core a
  if a % 32 ≠ 0 ∨ 0x180000 < a + n then .error commandError
  else if s.poisonedIn p n then .error (poisonFault s (inRange p n) 0 0)
  else .ok (BitVec.ofNat 768 (Memory.readNat s.mem p n))

/-- LEN that a transfer must carry on its path (R314). -/
def copyLen (k : Cmd) (base : Nat) : Nat :=
  match k.path with
  | .mule => 0
  | .fifo => base + 2
  | _ => base

/-- LEN of a transfer kind by `DISP`. -/
def copyBaseLen (cmd : Nat) : Nat := match cmd with | 0 => 1 | 1 => 3 | _ => 2

/-- A transfer with its records in place (R314), or what their reads meet. -/
def State.withRecords (s : State) (core : Nat) (k : Cmd) (base : Nat) : Except FaultInfo Cmd :=
  match k.path with
  | .fifo =>
    match s.fifoRecord core k (base + 1) 96, s.fifoRecord core k (base + 2) 96 with
    | .ok a, .ok b => .ok { k with recA := a, recB := b }
    | .error f, _ | _, .error f => .error f
  | _ => .ok k

/-- The reserved bits of a transfer's operand words (R314). -/
def copyWordsBad (k : Cmd) : Bool :=
  decide (bits (k.word 1).toNat 6 26 ≠ 0) ||
  (match headCmd k.head with
   | 0 => false
   | 1 => decide (bits (k.word 3).toNat 16 16 ≠ 0)
   | _ => decide (bits (k.word 2).toNat 21 11 ≠ 0))

/-- Whether the two records of a transfer do not match (R314). -/
def Cmd.mismatch (k : Cmd) : Bool :=
  let a := k.layout false
  let b := k.layout true
  if !k.isMove then a.rank != b.rank || a.fmt != b.fmt || a.wn != b.wn
  else
    let p := k.perm
    let dims := List.range a.rank
    a.rank != b.rank || (a.fmt != b.fmt && (a.fmt == 8 || b.fmt == 8)) ||
    !(dims.all (fun d => dims.any (fun l => p.getD l 0 == d))) ||
    !(dims.all (fun l => decide (p.getD l 0 < a.rank))) ||
    (List.range 6).any (fun l => decide (a.rank ≤ l) && p.getD l 0 != l) ||
    dims.any (fun l => b.wn.getD l 0 != a.wn.getD (p.getD l 0) 0)

/-- A transfer at its start: the command with its records, and its progress, or its fault. -/
def State.startCopy (s : State) (core : Nat) (k : Cmd) : Except FaultInfo (Cmd × CopySt) :=
  let base := copyBaseLen (headCmd k.head)
  if headLen k.head ≠ copyLen k base ∨ headXb k.head ∨ copyWordsBad k then .error commandError
  else
    match s.withRecords core k base with
    | .error f => .error f
    | .ok k =>
      if (k.layout false).bad then .error (reservedField 2)
      else if (k.layout true).bad then .error (reservedField 3)
      else if k.mismatch then .error commandError
      else
        let skip := if headCmd k.head = 1 then (k.word 2).toNat + 2 ^ 32 * bits (k.word 3).toNat 0 16 else 0
        .ok (k, { skip := skip })

/-- The lines that a record covers (R87): every line, or the lowest and highest line with the space, or none. -/
inductive Cover where
  | all
  | none
  | lines (file : Bool) (lo hi : Int)
  deriving DecidableEq, Repr

/-- The lines of a record (R87). -/
def Layout.cover (r : Layout) : Cover :=
  if r.ien then .all
  else
    let dims := List.range r.rank
    let lo (l : Nat) : Int := max (r.orig.getD l 0) 0
    let hi (l : Nat) : Int := min (r.orig.getD l 0 + (r.wn.getD l 0 : Nat) - 1) ((r.sz.getD l 0 : Nat) - 1)
    if dims.any (fun l => decide (hi l < lo l)) then .none
    else
      let a := dims.foldl (fun acc l => acc + min (lo l * r.st.getD l 0) (hi l * r.st.getD l 0)) (r.base : Int)
      let b := dims.foldl (fun acc l => acc + max (lo l * r.st.getD l 0) (hi l * r.st.getD l 0)) (r.base : Int)
      if a < 0 ∨ (2 ^ 64 : Int) ≤ b + 8 then .all
      else .lines (r.bim == 2) (a / 256) ((b + elemBytes r.fmt - 1) / 256)

/-- Whether two covers overlap (R87). -/
def Cover.meets : Cover → Cover → Bool
  | .all, _ | _, .all => true
  | .none, _ | _, .none => false
  | .lines f a b, .lines g c d => f == g && decide (a ≤ d ∧ c ≤ b)

/-- Whether a later transfer must wait for one in flight (R87). -/
def Cmd.overlaps (k old : Cmd) : Bool :=
  let s := (k.layout false).cover
  let d := (k.layout true).cover
  let os := (old.layout false).cover
  let od := (old.layout true).cover
  s.meets od || d.meets od || d.meets os

/-- Whether a running command is a transfer in flight: one that was refused, discarded or has retired holds nothing. -/
def Running.inFlight (r : Running) : Bool :=
  match r.st with
  | .copy _ => true
  | .ended st _ => decide (st ≠ 5) && r.actions && !r.tagged
  | _ => false

/-- Whether a dequeued transfer must wait for those in flight in its unit (R87, R315). -/
def State.copyWaits (s : State) (core : Nat) (k : Cmd) : Bool :=
  let base := copyBaseLen (headCmd k.head)
  let mine := (s.task core).cp.running.filter (fun r => r.inFlight && r.cmd.isMove == k.isMove)
  decide ((if k.isMove then 2 else 4) ≤ mine.length) ||
  (match s.withRecords core k base with
   | .ok k => mine.any (fun r => k.overlaps r.cmd)
   | .error _ => false)

end Sys2Proof.Machine
end

