-- ==== Sys2Proof/Machine/Fabric.lean ====
section
/-! DEFINITION. Remote flags at their target (R118, R323), the hub switch with its reduction slots (R203 to R211, R376), Gander's
merge of sparse streams (R212 to R217), and links (R204, R362). -/

namespace Sys2Proof.Machine

open Sys2Proof

/-! ### Tasks wherever they are (R118, R161, R377) -/

/-- Whether a task is the one of launch `l` in unit `u`, gang `g` and rank `r`. -/
def TaskId.isMember (t : TaskId) (l u g r : Nat) : Bool :=
  t.launch == l && t.unit == u && t.crewRank == g && t.gangRank == r

/-- A saved task whose context is changed by `f`. -/
def SavedTask.upd (t : SavedTask) (f : TaskCtx → TaskCtx) : SavedTask := { t with ctx := f t.ctx }

/-- The first saved task that satisfies `p` changed by `f`. -/
def updFirst (p : SavedTask → Bool) (f : TaskCtx → TaskCtx) : List SavedTask → List SavedTask
  | [] => []
  | t :: r => if p t then t.upd f :: r else t :: updFirst p f r

/-- The saved tasks of launch `l` on die `d`. -/
def State.savedOf (s : State) (d l : Nat) : List SavedTask :=
  match (s.die d).launches.find? (fun x => x.id == l) with
  | some x => x.saved
  | none => []

/-- The saved tasks of launch `l` on die `d` replaced. -/
def State.setSaved (s : State) (d l : Nat) (f : List SavedTask → List SavedTask) : State :=
  s.updDie d (fun k => { k with launches := k.launches.map (fun x => if x.id = l then { x with saved := f x.saved } else x) })

/-- The core on die `d` that holds a member. -/
def State.coreOfMember (s : State) (d l u g r : Nat) : Option Nat :=
  match s.cores.find? (fun e => coreDie e.1 == d && e.2.residency != .free && e.2.task.id.isMember l u g r) with
  | some e => some e.1
  | none => none

/-- The context of a member, on its core or saved. -/
def State.memberCtx (s : State) (d l u g r : Nat) : Option TaskCtx :=
  match s.coreOfMember d l u g r with
  | some c => some (s.task c)
  | none =>
    match (s.savedOf d l).find? (fun t => t.ctx.id.isMember l u g r) with
    | some t => some t.ctx
    | none => none

/-- A member's context changed, on its core or saved. -/
def State.updMember (s : State) (d l u g r : Nat) (f : TaskCtx → TaskCtx) : State :=
  match s.coreOfMember d l u g r with
  | some c => s.updTask c f
  | none => s.setSaved d l (updFirst (fun t => t.ctx.id.isMember l u g r) f)

/-- The running collective command `id`, wherever its task is, changed by `f`. -/
def State.updColl (s : State) (id : Nat) (f : Running → Running) : State :=
  let g (t : TaskCtx) : TaskCtx := { t with cl := t.cl.updRun id f }
  { s with
    cores := s.cores.map (fun e => (e.1, { e.2 with task := g e.2.task }))
    dies := s.dies.map (fun d =>
      (d.1, { d.2 with launches := d.2.launches.map (fun l => { l with saved := l.saved.map (fun t => t.upd g) }) })) }

/-- A collective command ends with a status and value. -/
def State.endColl (s : State) (id : Nat) (status : BitVec 8) (value : Nat) : State :=
  s.updColl id (fun r =>
    match r.st with
    | .ended .. => r
    | _ => { r with st := .ended status (BitVec.ofNat 42 value) })

/-! ### Remote flag operations at their target (R116 to R118) -/

/-- A flag of a task updated. -/
def TaskCtx.putFlag (t : TaskCtx) (f : Nat) (v : Word) (add : Bool) : TaskCtx :=
  t.setFlag f (if add then t.shared.flag.get f 0 + v else v)

/-- An operation that no task takes is counted (R118). -/
def State.loseFlag (s : State) (d : Nat) : State := s.updDie d (fun k => { k with flagLost := k.flagLost + 1 })

/-- A flag operation on a core resolved against launch `l` (R118). A task that is still being placed is not resident yet (R161): its flags
become 0 as it starts. -/
def State.flagAtCore (s : State) (l c f : Nat) (v : Word) (add : Bool) : State :=
  let d := coreDie c
  let k := s.core c
  if k.residency != .free && k.residency != .placing && k.task.id.launch == l then s.updTask c (fun t => t.putFlag f v add)
  else
    match ((s.savedOf d l).reverse).find? (fun t => t.core == c && t.onCore) with
    | some t =>
      let i := t.ctx.id
      s.updMember d l i.unit i.crewRank i.gangRank (fun x => x.putFlag f v add)
    | none => s.loseFlag d

/-- A flag operation on the member of a rank, which never falls under case 3 of R118 (R323): one for a member that has retired has no
effect. -/
def State.flagAtRank (s : State) (d l u g r f : Nat) (v : Word) (add : Bool) : State :=
  match s.memberCtx d l u g r with
  | some _ => s.updMember d l u g r (fun t => t.putFlag f v add)
  | none => s

/-! ### Window records (R205) -/

/-- A window record's fields. -/
structure WinRec where
  wid : Nat
  root : BitVec 16
  npart : Nat
  dbase : Nat
  dlen : Nat
  thr : Nat
  op : Nat
  dv : Bool
  flag : Nat
  core : Nat
  epoch : Nat
  bad : Bool
  deriving DecidableEq, Repr

/-- A window record read from its 256 bits; `bad` marks a reserved field, a reserved OP or a value out of range. -/
def WinRec.ofBits (r : BitVec 256) : WinRec :=
  let op := dbits r 92 4
  let npart := dbits r 192 16
  let dlen := dbits r 104 24
  let dbase := dbits r 128 40
  { wid := dbits r 224 32, root := BitVec.ofNat 16 (dbits r 208 16), npart := npart, dbase := dbase, dlen := dlen,
    thr := dbits r 96 8, op := op, dv := dbits r 91 1 = 1, flag := dbits r 83 5,
    core := coreNum (dbits r 71 3) (dbits r 74 5) (dbits r 79 4), epoch := dbits r 56 8,
    bad := decide (dbits r 168 24 ≠ 0 ∨ dbits r 88 3 ≠ 0 ∨ dbits r 64 7 ≠ 0 ∨ dbits r 0 56 ≠ 0 ∨ 7 ≤ op ∨ npart = 0 ∨
      4096 < npart ∨ dlen = 0 ∨ (op ≤ 3 ∧ 4096 < dlen) ∨ dbase % 256 ≠ 0) }

/-- Whether a window is sparse. -/
def WinRec.sparse (r : WinRec) : Bool := decide (4 ≤ r.op)

/-- The record of a slot. -/
def WinSlot.fields (w : WinSlot) : WinRec := WinRec.ofBits w.wrec
/-- The joins of this module's own dies: the contributions to a line that are first summed here, whose keys this slot records (R211). -/
def WinSlot.ownWeight (w : WinSlot) : Nat := (w.ports.filter (fun p => decide (p.port < 8))).foldl (fun acc p => acc + p.weight) 0

/-- The weight over a slot's ports. -/
def WinSlot.weight (w : WinSlot) : Nat := w.ports.foldl (fun acc p => acc + p.weight) 0

/-- The slot of a window and tenant tag. -/
def State.slot? (s : State) (wid tag : Nat) : Option WinSlot := s.winSlots.find? (fun w => w.wid == wid && w.tag == tag)

/-- A slot changed. -/
def State.updSlot (s : State) (wid tag : Nat) (f : WinSlot → WinSlot) : State :=
  { s with winSlots := s.winSlots.map (fun w => if w.wid = wid ∧ w.tag = tag then f w else w) }

/-- A slot is free. -/
def State.freeSlot (s : State) (wid tag : Nat) : State :=
  { s with
    winSlots := s.winSlots.filter (fun w => !(w.wid == wid && w.tag == tag))
    registrants := s.registrants.filter (fun r => !(r.wid == wid && r.tag == tag && r.link.isSome)) }

/-- The registrants of a window at this module, until its end (R206, R217). -/
def State.registrantsOf (s : State) (wid tag : Nat) : List Registrant :=
  s.registrants.filter (fun r => r.wid == wid && r.tag == tag && r.link.isNone && r.fin.isNone)

/-- Those of them whose join has OK. -/
def State.joinedOf (s : State) (wid tag : Nat) : List Registrant := (s.registrantsOf wid tag).filter (fun r => r.status == some 0)

/-- Whether the join of a registrant is still on its way to the hub (R206). -/
def State.joining (s : State) (r : Registrant) : Bool :=
  s.flits.any (fun f => match f with | .join _ _ _ n _ => n == r.num | _ => false)

/-- The registrants of a window of this root beyond a link. -/
def State.farRegistrants (s : State) (wid tag : Nat) : List Registrant :=
  s.registrants.filter (fun r => r.wid == wid && r.tag == tag && r.link.isSome)

/-- A registrant changed. -/
def State.updReg (s : State) (num : Nat) (f : Registrant → Registrant) : State :=
  { s with registrants := s.registrants.map (fun r => if r.num = num then f r else r) }

/-- A flit joins the fabric's traffic. -/
def State.flit (s : State) (f : Flit) : State := { s with flits := s.flits ++ [f] }

/-- The tenant tag of a function (R206). -/
def State.tagOf (s : State) (fn : Nat) : Nat := (s.cfg.tags.get fn 0).toNat

/-- Whether a link is up. -/
def State.linkUp (s : State) (l : Nat) : Bool := (s.hub.links.get l {}).state == 2

/-- Whether a link's far end is a fabric id, or lies on the way there. -/
def State.reaches (s : State) (fid : BitVec 16) (l : Nat) : Bool :=
  let far := (s.hub.links.get l {}).peer
  far == fid.toNat || Config.leadsOn (BitVec.ofNat 16 far) fid

/-- The link towards a fabric id: the lowest-numbered of those that are up and reach it (R203, assumption 15). -/
def State.linkTo (s : State) (fid : BitVec 16) : Option Nat := (List.range 16).find? (fun l => s.linkUp l && s.reaches fid l)

/-- Whether this module's hub is the root of a window. -/
def State.isRoot (s : State) (r : WinRec) : Bool := r.root == s.cfg.fabricId

/-! ### Joins (R206, R207, R209) -/

/-- The status of a join at this hub, the lowest that holds (R206); `outside` is the failure of R205's or R332's
destination checks. -/
def State.joinStatus (s : State) (port : Nat) (record : BitVec 256) (tag : Nat) (outside : Bool) : Nat :=
  let r := WinRec.ofBits record
  let m := s.slot? r.wid tag
  let noLink := !s.isRoot r && (s.linkTo r.root).isNone
  match m with
  | none =>
    if 256 ≤ s.winSlots.length then 1
    else if r.bad || outside || noLink then 5
    else 0
  | some w =>
    let o := w.fields
    if o.root ≠ r.root ∨ o.npart ≠ r.npart ∨ o.op ≠ r.op ∨ o.thr ≠ r.thr ∨ (!r.sparse ∧ o.dlen ≠ r.dlen) ∨ o.epoch ≠ r.epoch then 2
    else if w.st == .opened || (s.isRoot r && decide (r.npart ≤ w.weight)) then 3
    else if r.sparse && w.ports.any (fun p => p.port == port) then 4
    else if r.bad || outside || noLink || (!r.sparse && decide (port < 8 ∧ 65536 < (w.ownWeight + 1) * r.dlen)) then 5
    else if w.st == .aborted then 6
    else 0

/-- Weight is added to a port of a slot (R206). -/
def addWeight (port : Nat) (l : List WinPort) : List WinPort :=
  if l.any (fun p => p.port == port) then l.map (fun p => if p.port = port then { p with weight := p.weight + 1 } else p)
  else l ++ [{ port := port, weight := 1 }]

/-- A join of weight 1 leaves a slot, which is free when it holds no other (R206, R207). -/
def State.leaveSlot (s : State) (wid tag port : Nat) : State :=
  let s := s.updSlot wid tag (fun w =>
    { w with ports := (w.ports.map (fun p => if p.port = port then { p with weight := p.weight - 1 } else p)).filter (fun p => p.weight != 0) })
  match s.slot? wid tag with
  | some w => if w.ports.isEmpty then s.freeSlot wid tag else s
  | none => s

/-- A join whose status is OK so far takes or finds its slot, and goes on towards the root. -/
def State.takeSlot (s : State) (port : Nat) (record : BitVec 256) (tag : Nat) : State :=
  let r := WinRec.ofBits record
  let s := match s.slot? r.wid tag with
    | some _ => s.updSlot r.wid tag (fun w => { w with ports := addWeight port w.ports })
    | none => { s with winSlots := s.winSlots ++ [{ wid := r.wid, tag := tag, wrec := record, ports := addWeight port [] }] }
  if s.isRoot r then s
  else
    match s.linkTo r.root with
    | some l => s.flit (.outJoin l record tag)
    | none => s

/-- Every task of the module, on its core or saved. -/
def State.tasks (s : State) : List TaskCtx :=
  s.cores.map (fun e => e.2.task) ++ s.dies.flatMap (fun d => d.2.launches.flatMap (fun l => l.saved.map (fun t => t.ctx)))

/-- The running collective commands whose progress satisfies a condition. -/
def State.collsWith (s : State) (p : CollSt → Bool) : List Nat :=
  s.tasks.flatMap (fun t => t.cl.running.filterMap (fun r =>
    match r.st with
    | .coll c => if p c then some r.cmd.id else none
    | _ => none))

/-- A collective command ends as abandoned, with no record, and reports the beats, words or steps that it has sent (R208, R209, R337). -/
def Running.abandoned (r : Running) : Running :=
  match r.st with
  | .ended .. => r
  | .coll c => { r with st := .ended 5 (BitVec.ofNat 42 c.sent) }
  | _ => { r with st := .ended 5 0 }

/-- Collective commands end as abandoned. -/
def State.abandonColls (s : State) (l : List Nat) : State := l.foldl (fun s i => s.updColl i Running.abandoned) s

/-- The status of a registrant's join is fixed: its `JOIN` completes (R206, R332). A failed one is no registrant, and the contributions that
wait for it end as abandoned (R208). -/
def State.fixStatus (s : State) (r : Registrant) (st : Nat) : State :=
  let s := s.endColl r.cmd 1 st
  if st = 0 then s.updReg r.num (fun x => { x with status := some 0 })
  else
    State.abandonColls { s with registrants := s.registrants.filter (fun x => x.num != r.num) }
      (s.collsWith (fun c => c.waiting == some r.num))

/-- A registrant of this root beyond a link is noted, to have its result written (R217). -/
def State.noteFar (s : State) (port : Nat) (record : BitVec 256) (tag : Nat) : State :=
  let r := WinRec.ofBits record
  if !s.isRoot r then s
  else
    { s.bumpId with registrants := s.registrants ++
        [{ num := s.nextId, wid := r.wid, tag := tag, core := 0, launch := 0, unit := 0, gang := 0, crew := 0, lid := 0, vf := 0,
           wrec := record, ntf := false, cmd := 0, status := some 0, link := some (port - 8) }] }

/-- Links through which a slot was joined. -/
def WinSlot.links (w : WinSlot) : List Nat := (w.ports.filter (fun p => decide (8 ≤ p.port))).map (fun p => p.port - 8)

/-- A switch on the way to the root has refused a join that passed this hub's port (R206, R207): its weight leaves the slot, and the status
goes to the registrant `num` of this module, or on through the link that the join came by. -/
def State.refuseJoin (s : State) (w : WinSlot) (port num status : Nat) : State :=
  let s' := s.leaveSlot w.wid w.tag port
  if 8 ≤ port then s'.flit (.outStatus (port - 8) w.wid w.tag status)
  else
    match (s.registrantsOf w.wid w.tag).find? (fun g => g.num == num && g.status.isNone && coreDie g.core == port) with
    | some g => s'.fixStatus g status
    | none => s

/-- The grant of the last free slot that a join from module `origin` with another tenant tag takes over: one of the same cycle to a module of
a higher fabric id, whose join has not gone on yet (R207, assumption 124). -/
def State.contested (s : State) (origin : BitVec 16) (tag : Nat) : Option SlotGrant :=
  match s.hub.granted with
  | none => none
  | some g =>
    match s.slot? g.wid g.tag with
    | none => none
    | some w =>
      let here := s.isRoot w.fields || s.flits.any (fun f => match f with | .outJoin _ r t => r == w.wrec && t == g.tag | _ => false)
      if g.cycle = s.rc ∧ origin.toNat < g.origin.toNat ∧ g.tag ≠ tag ∧ w.st = .joining ∧ w.weight = 1 ∧ here then some g else none

/-- The join that a grant went to gets NO_SLOT after all, and does not go on (R207). -/
def State.deny (s : State) (g : SlotGrant) : State :=
  match s.slot? g.wid g.tag with
  | none => s
  | some w =>
    let on (f : Flit) : Bool := match f with | .outJoin _ r t => r == w.wrec && t == g.tag | _ => false
    State.refuseJoin { s with flits := s.flits.filter (fun f => !on f), hub := { s.hub with granted := none } } w g.port g.num 1

/-- The status of a join at this hub, with the last free slot taken from a join that loses the tie (R206, R207). -/
def State.arbitrate (s : State) (i : Ingress) (record : BitVec 256) (tag : Nat) (outside : Bool) : State × Nat :=
  let st := s.joinStatus i.port record tag outside
  if st ≠ 1 then (s, st)
  else
    match s.contested i.origin tag with
    | none => (s, st)
    | some g => if (s.deny g).joinStatus i.port record tag outside = 0 then (s.deny g, 0) else (s, st)

/-- A join whose status is OK so far takes or finds its slot; that it took the last free one is noted (R207). -/
def State.grantSlot (s : State) (i : Ingress) (record : BitVec 256) (tag num : Nat) : State :=
  let r := WinRec.ofBits record
  let t := s.takeSlot i.port record tag
  if s.winSlots.length = 255 ∧ (s.slot? r.wid tag).isNone then
    { t with hub := { t.hub with granted := some { cycle := s.rc, origin := i.origin, wid := r.wid, tag := tag, port := i.port, num := num } } }
  else t

/-- A join arrives at the hub (R206, R207): one of this module's cores, or through a link, by which it is answered when it is refused. -/
def execJoinArrival (switch : Nat) (ingress : Ingress) (record : BitVec 256) (tag : Nat) (s : State) : Out :=
  let r := WinRec.ofBits record
  let port := ingress.port
  if switch ≠ s.cfg.fabricId.toNat ∨ 24 ≤ port then skip s
  else if 8 ≤ port then
    let (s, st) := s.arbitrate ingress record tag false
    .next (if st = 0 then (s.grantSlot ingress record tag 0).noteFar port record tag else s.flit (.outStatus (port - 8) r.wid tag st))
  else
    let mine (f : Flit) : Bool := match f with | .join p x t _ _ => p == port && x == record && t == tag | _ => false
    match s.flits.find? mine with
    | some (.join p x t num outside) =>
      let i : Ingress := { port := p, origin := s.cfg.fabricId }
      let (s, st) := State.arbitrate { s with flits := s.flits.erase (.join p x t num outside) } i record tag outside
      if st = 0 then .next (s.grantSlot i record tag num)
      else
        .next (match s.registrants.find? (fun g => g.num == num) with
          | some g => s.fixStatus g st
          | none => s)
    | _ => skip s

/-- READY passes a slot of the hub (R206, R209): at the root once it has counted every join, elsewhere when the root's READY
comes through its link. A join that has not come yet is not answered by it: it finds the slot open. A join may get a status other than OK through that link instead. -/
def execReady (switch wid : Nat) (answer : JoinAnswer) (s : State) : Out :=
  if switch ≠ s.cfg.fabricId.toNat then skip s
  else
    match answer with
    | .opens tag =>
      (match s.slot? wid tag with
       | none => skip s
       | some w =>
         let r := w.fields
         if w.st ≠ .joining ∨ (s.isRoot r ∧ w.weight < r.npart) then skip s
         else
           let s := s.updSlot wid tag (fun w => { w with st := .opened })
           let s := w.links.foldl (fun s l => s.flit (.outReady l wid tag)) s
           .next (((s.registrantsOf wid tag).filter (fun g => !s.joining g)).foldl (fun s g => s.fixStatus g 0) s))
    | .refused tag port num status =>
      match s.slot? wid tag with
      | none => skip s
      | some w =>
        if w.st ≠ .joining ∨ s.isRoot w.fields ∨ status = 0 ∨ 6 ≤ status ∨ !w.ports.any (fun p => p.port == port) then skip s
        else .next (s.refuseJoin w port num status)

/-! ### The window's end (R209, R217, R332) -/

/-- The window-end element of a registrant (R332). -/
def windowEnd (status : BitVec 8) (words drops : Nat) : DWord :=
  outElement 3 status 0 (BitVec.ofNat 42 (words % 2 ^ 30 * 4096 + min drops 0xFFF))

/-- Whether the window-end element of a registrant can leave the hub: its task is on its core, not saved (R377), has room in its output FIFO,
and has the element of the `JOIN` itself (R332); or the task has retired, and the element is discarded. -/
def State.endFree (s : State) (r : Registrant) : Bool :=
  let d := coreDie r.core
  match s.memberCtx d r.launch r.unit r.crew r.gang with
  | none => true
  | some t =>
    (s.coreOfMember d r.launch r.unit r.crew r.gang).isSome && decide (t.cl.out.length < outDepth) &&
      !t.cl.running.any (fun x => x.cmd.id == r.cmd)

/-- The traffic of a window is discarded. -/
def State.dropFlits (s : State) (wid tag : Nat) : State :=
  let mine (f : Flit) : Bool :=
    match f with
    | .abort w t | .dense w t _ _ _ _ _ _ | .word w t _ _ _ _ | .result w t _ _ _ => w == wid && t == tag
    | _ => false
  { s with flits := s.flits.filter (fun f => !mine f) }

/-- The commands whose beats for a window are not yet all taken (R209). -/
def State.senders (s : State) (wid tag : Nat) : List Nat :=
  s.flits.filterMap (fun f =>
    match f with
    | .dense w t _ _ _ _ _ c | .word w t _ _ _ c => if w = wid ∧ t = tag then some c else none
    | _ => none)

/-- A registrant's length result in 8 B words: of a dense window its whole destination (R332). -/
def Registrant.length (r : Registrant) : Nat :=
  let w := WinRec.ofBits r.wrec
  if w.sparse then r.words else w.dlen * 32

/-- The window-end element of a registrant is placed, unless its task has retired. -/
def State.placeEnd (s : State) (r : Registrant) (e : DWord) : State :=
  if r.ntf then
    s.updMember (coreDie r.core) r.launch r.unit r.crew r.gang (fun t => { t with cl := { t.cl with out := t.cl.out ++ [e] } })
  else s

/-- The registrants of a window that has ended have their window-end elements placed, each once its flag add has been applied and its task
can take it (R332, R377). -/
def State.placeEnds (s : State) (wid tag : Nat) : State :=
  let done (r : Registrant) : Bool :=
    r.wid == wid && r.tag == tag && r.fin.isSome && !s.remote.any (fun f => f.id == r.flagOp) &&
    (!r.ntf || s.endFree r)
  let place (s : State) (r : Registrant) : State :=
    match r.fin with
    | some (st, drops) => s.placeEnd r (windowEnd st r.length drops)
    | none => s
  (s.registrants.filter done).foldl (fun s r =>
    { place s r with registrants := (place s r).registrants.filter (fun x => x.num != r.num) }) s

/-- An abort reaches the hub's slot (R209): its sums are discarded and it goes along every joined route. -/
def State.startAbortAt (s : State) (w : WinSlot) : State :=
  let up := if s.isRoot w.fields then [] else (s.linkTo w.fields.root).toList
  let s := s.abandonColls (s.senders w.wid w.tag)
  let s := (s.dropFlits w.wid w.tag).updSlot w.wid w.tag (fun w =>
    { w with st := .aborted, lines := [], finished := [], blocks := [] })
  (w.links ++ up).foldl (fun s l => State.bumpId (s.flit (.outAbort s.nextId l w.wid w.tag))) s

/-- A window has ended by an abort for registrants of this module (R209): the commands of those that wait for their join, and every command
that contributes to the window, end, and the others have the window end 0x05 with DROPS. -/
def State.endAborted (s : State) (wid tag : Nat) (regs : List Registrant) (drops : Nat) : State :=
  let s := s.abandonColls (s.collsWith (fun c => c.into == some (wid, tag)))
  let s := regs.foldl (fun s r =>
    match r.status with
    | none => s.fixStatus r 6
    | some _ => s.updReg r.num (fun x => { x with fin := some (5, drops + x.dropped) })) s
  s.placeEnds wid tag

/-- An abort has reached every joined port (R209): the slot is free, and the window has ended for every registrant whose join it holds. -/
def State.finishAbort (s : State) (w : WinSlot) : State :=
  (s.freeSlot w.wid w.tag).endAborted w.wid w.tag ((s.registrantsOf w.wid w.tag).filter (fun r => !s.joining r)) w.drops

/-- The registrants of this module in a window of another root, whose slot here may be free already. -/
def State.outliving (s : State) (wid tag : Nat) : List Registrant :=
  (s.joinedOf wid tag).filter (fun r => !s.isRoot (WinRec.ofBits r.wrec))

/-- An abort of a window (R209): from a registrant of this module or through a link it reaches the slot, and then, once it has reached every
joined port, the slot is free. Where the slot has forwarded everything and is free already, the root's abort ends the window of this module's
registrants. -/
def execWindowAbort (switch wid tag : Nat) (s : State) : Out :=
  if switch ≠ s.cfg.fabricId.toNat then skip s
  else
    match s.slot? wid tag with
    | none =>
      if (s.outliving wid tag).isEmpty then skip s
      else .next (((s.abandonColls (s.senders wid tag)).dropFlits wid tag).endAborted wid tag (s.outliving wid tag) 0)
    | some w =>
      let reached := !s.flits.any (fun f => match f with | .outAbort _ _ a b => a == wid && b == tag | _ => false)
      if w.st = .aborted then (if reached then .next (s.finishAbort w) else skip s)
      else if !s.flits.contains (.abort wid tag) && s.isRoot w.fields && w.links.isEmpty then skip s
      else .next (s.startAbortAt w)

/-! ### Dense windows (R210, R211) -/

/-- The lanes in which a window sums: 64 of 4 B, or 128 of bf16 held as f32. -/
def denseLanes (op : Nat) (v : VReg) : List Nat :=
  if op = 1 then (lanesOf 16 128 v.toNat).map (widen .bf16 .f32) else lanesOf 32 64 v.toNat

/-- One lane combined (R210). -/
def denseCombine (op a b : Nat) : Nat :=
  match op with
  | 0 | 1 => (fltAdd .f32 .nearestEven a b).1
  | 2 => (saturate .i32 (sext a 32 + sext b 32)).1
  | _ => fltMax .f32 a b

/-- A line as it leaves the switch (R210). -/
def denseEgress (op : Nat) (l : List Nat) : VReg :=
  if op = 1 then
    BitVec.ofNat 2048 (packLanes 16 (l.map (fun x => (Sys2Proof.Machine.convert .f32 .bf16 .nearestEven false x).1)))
  else BitVec.ofNat 2048 (packLanes 32 l)

/-- A write of a result for one registrant with DV = 1: of this module as a write of component 8, or through its link (R210, R217). -/
def State.resultFlit (s : State) (r : Registrant) (offset : Nat) (data : List Byte) : State :=
  let w := WinRec.ofBits r.wrec
  if !w.dv then s
  else
    match r.link with
    | none => s.flit (.result r.wid r.tag r.num offset data)
    | some l => s.flit (.outResult l r.wid r.tag w.dbase offset data)

/-- A line of the root goes to every registrant with DV = 1 (R210). -/
def State.deliver (s : State) (w : WinSlot) (offset : Nat) (data : List Byte) : State :=
  (s.joinedOf w.wid w.tag ++ s.farRegistrants w.wid w.tag).foldl (fun s r => s.resultFlit r offset data) s

/-- A slot of a window of another root has forwarded everything and is free (R209); its DROPS stays with its registrants until the completion
signal comes (R211, assumption 125). -/
def State.leaveUp (s : State) (w : WinSlot) : State :=
  let regs := s.joinedOf w.wid w.tag
  regs.foldl (fun s r => s.updReg r.num (fun x => { x with dropped := x.dropped + w.drops })) (s.freeSlot w.wid w.tag)

/-- A line that holds every contribution leaves the slot (R210). -/
def State.forwardLine (s : State) (w : WinSlot) (line : Nat) (lanes : List Nat) (count : Nat) : State :=
  let r := w.fields
  let data := denseEgress r.op lanes
  let s := s.updSlot w.wid w.tag (fun w =>
    { w with lines := w.lines.erase line, finished := if w.finished.contains line then w.finished else w.finished ++ [line] })
  if s.isRoot r then s.deliver w (256 * line) (toBytes data.toNat 256)
  else
    match s.linkTo r.root with
    | some l =>
      let s := s.flit (.outDense l w.wid w.tag line count data)
      match s.slot? w.wid w.tag with
      | some w' => if w'.finished.length = r.dlen then s.leaveUp w' else s
      | none => s
    | none => s

/-- A dense line is summed into its slot, or dropped as stale or as already taken (R210, R211). -/
def State.takeLine (s : State) (w : WinSlot) (port line : Nat) (key : DWord) (count : Nat) (data : VReg) : State :=
  let r := w.fields
  let stale := port < 8 ∧ key.toNat % 256 ≠ r.epoch
  if stale ∨ (port < 8 ∧ w.keys.contains (key, line)) then
    s.updSlot w.wid w.tag (fun w => { w with drops := w.drops + 1 })
  else
    let s := if port < 8 ∧ key ≠ 0 then s.updSlot w.wid w.tag (fun w => { w with keys := w.keys ++ [(key, line)] }) else s
    let new := denseLanes r.op data
    let (lanes, n) := match w.lines.find line with
      | some (old, n) => (List.zipWith (denseCombine r.op) old new, n + count)
      | none => (new, count)
    if w.weight ≤ n then s.forwardLine w line lanes n
    else s.updSlot w.wid w.tag (fun w => { w with lines := w.lines.set line (lanes, n) })

/-- A dense contribution reaches its slot (R208, R210): one of this module's cores, whichever of its dies has joined, or through a joined link.
One that finds its slot free again is dropped. -/
def execDenseContribution (switch wid tag port line : Nat) (key : DWord) (count : Nat) (data : VReg) (s : State) : Out :=
  let mine (f : Flit) : Bool :=
    match f with
    | .dense a b p l k n d _ => a == wid && b == tag && p == port && l == line && k == key && n == count && d == data
    | _ => false
  if switch ≠ s.cfg.fabricId.toNat ∨ 24 ≤ port then skip s
  else
    match s.slot? wid tag with
    | none =>
      (match s.flits.find? mine with
       | some f => if port < 8 then .next { s with flits := s.flits.erase f } else skip s
       | none => skip s)
    | some w =>
      if w.st ≠ .opened ∨ w.fields.sparse ∨ w.fields.dlen ≤ line ∨ (8 ≤ port ∧ !w.ports.any (fun p => p.port == port)) then skip s
      else if 8 ≤ port then .next (s.takeLine w port line key count data)
      else
        match s.flits.find? mine with
        | some f => .next (State.takeLine { s with flits := s.flits.erase f } w port line key count data)
        | none => skip s

/-! ### Gander (R212 to R217) -/

/-- The value type of a sparse window: 0 f32, 1 bf16, 2 i32. -/
def WinRec.vt (r : WinRec) : Nat := r.op - 4

/-- The words of a dense block's body (R213). -/
def denseWords (vt : Nat) : Nat := if vt = 1 then 1024 else 2048

/-- The values of one body word of a dense block. -/
def denseValues (vt : Nat) (w : DWord) : List Nat := if vt = 1 then lanesOf 16 4 w.toNat else lanesOf 32 2 w.toNat

/-- The lowest block that is not yet done (R216, R217); `none` when every port has sent its trailer. -/
def WinSlot.frontier (w : WinSlot) : Option Nat :=
  let open' := w.ports.filter (fun p => !p.trailer)
  match open' with
  | [] => none
  | _ =>
    let head (p : WinPort) : Nat := match p.waiting with | some b => b | none => p.last.getD 0
    some (open'.foldl (fun m p => min m (head p)) (head (open'.headD { port := 0 })))

/-- A block of a slot. -/
def WinSlot.block? (w : WinSlot) (b : Nat) : Option MergeBlock := w.blocks.find? (fun x => x.num == b)

/-- Units of the merge buffer that a block uses (R216). -/
def MergeBlock.units (b : MergeBlock) (vt : Nat) : Nat := if b.dense then denseWords vt else b.values.length

/-- The blocks in progress: those that are not done (R216, R217). -/
def WinSlot.inProgress (w : WinSlot) : List MergeBlock :=
  match w.frontier with
  | some f => w.blocks.filter (fun b => decide (f ≤ b.num))
  | none => []

/-- Units in use by the blocks in progress (R216). -/
def WinSlot.units (w : WinSlot) (vt : Nat) : Nat := w.inProgress.foldl (fun acc b => acc + b.units vt) 0

/-- A block changed, or made. -/
def WinSlot.updBlock (w : WinSlot) (b : Nat) (f : MergeBlock → MergeBlock) : WinSlot :=
  if w.blocks.any (fun x => x.num == b) then { w with blocks := w.blocks.map (fun x => if x.num = b then f x else x) }
  else { w with blocks := w.blocks ++ [f { num := b }] }

/-- A port changed. -/
def WinSlot.updPort (w : WinSlot) (p : Nat) (f : WinPort → WinPort) : WinSlot :=
  { w with ports := w.ports.map (fun x => if x.port = p then f x else x) }

/-- The sparse block that uses the most units, ties to the lower number (R216). -/
def WinSlot.largest (w : WinSlot) (vt : Nat) : Option Nat :=
  (w.inProgress.filter (fun b => !b.dense)).foldl (fun (m : Option (Nat × Nat)) b =>
    match m with
    | none => some (b.num, b.units vt)
    | some (n, u) => if u < b.units vt ∨ (u = b.units vt ∧ b.num < n) then some (b.num, b.units vt) else m) none
  |>.map (·.1)

/-- A block is densified early (R216). -/
def WinSlot.densify (w : WinSlot) (b : Nat) : WinSlot :=
  { (w.updBlock b (fun x => { x with dense := true, forced := true })) with early := true }

/-- Room is made for a new index of block `b`, with `fuel` densifications at most (R216). -/
def WinSlot.makeRoom (w : WinSlot) (vt b : Nat) : Nat → WinSlot
  | 0 => w
  | fuel + 1 =>
    match w.block? b with
    | some x =>
      if x.dense ∨ w.units vt < 65536 then w
      else if denseWords vt ≤ x.units vt then w.densify b
      else
        match w.largest vt with
        | some n => (w.densify n).makeRoom vt b fuel
        | none => w
    | none =>
      if w.units vt < 65536 then w
      else
        match w.largest vt with
        | some n => (w.densify n).makeRoom vt b fuel
        | none => w

/-- A port's value for an index. -/
def MergeBlock.put (b : MergeBlock) (idx port : Nat) (v : Word) : MergeBlock :=
  { b with values := b.values.set idx ((b.values.get idx []).set port v) }

/-- A word dropped for a broken rule (R213). -/
def WinSlot.reject (w : WinSlot) : WinSlot := { w with seqerr := true }

/-- One body word at a port (R213). -/
def WinSlot.body (w : WinSlot) (vt : Nat) (p : WinPort) (v : DWord) : WinSlot :=
  let w := w.updPort p.port (fun q => { q with left := q.left - 1 })
  if p.dropping then w
  else if p.dense then
    let first := 4096 * p.block + (denseWords vt - p.left) * (denseValues vt v).length
    ((denseValues vt v).zipIdx).foldl (fun w (x : Nat × Nat) =>
      w.updBlock p.block (fun b => b.put (first + x.2) p.port (BitVec.ofNat 32 x.1))) w
  else
    let idx := bits v.toNat 0 32
    let after := match p.lastIdx with | none => true | some l => decide (l < idx)
    if idx / 4096 ≠ p.block ∨ !after ∨ (vt = 1 ∧ bits v.toNat 48 16 ≠ 0) then w.reject
    else
      let fresh := match w.block? p.block with | some b => (b.values.find idx).isNone | none => true
      let w := if fresh then w.makeRoom vt p.block 64 else w
      (w.updBlock p.block (fun b => b.put idx p.port (BitVec.ofNat 32 (bits v.toNat 32 32)))).updPort p.port
        (fun q => { q with lastIdx := some idx })

/-- A word in header position at a port (R213): `none` when the header must wait (R216). An entry or a header that is dropped is not the
previous one of a later (assumption 118), and a dense header finds its units where it names a block below L + 32, in use or not
(assumption 120). -/
def WinSlot.headerWord (w : WinSlot) (vt : Nat) (p : WinPort) (v : DWord) : Option WinSlot :=
  let n := v.toNat
  let enc := bits n 62 2
  let bad := decide (bits n 60 2 ≠ vt)
  if enc = 3 then some w.reject
  else if enc = 2 then
    let w := w.updPort p.port (fun q => { q with trailer := true, waiting := none, key := none })
    if bad ∨ bits n 56 4 ≠ 0 ∨ bits n 32 20 ≠ 0 then some w.reject
    else
      some { w with
        trunc := w.trunc || decide (bits n 55 1 = 1)
        early := w.early || decide (bits n 54 1 = 1)
        seqerr := w.seqerr || decide (bits n 53 1 = 1) || decide (bits n 0 32 ≠ p.headers)
        ovf := w.ovf || decide (bits n 52 1 = 1) }
  else
    let b := bits n 13 20
    let count := bits n 0 13
    let later := match p.last with | none => true | some l => decide (l < b)
    let len := if enc = 1 then denseWords vt else count
    if bad ∨ bits n 33 27 ≠ 0 ∨ !later ∨ (enc = 0 ∧ (count = 0 ∨ 4096 < count)) ∨ (enc = 1 ∧ count ≠ 0) then
      some (w.updPort p.port (fun q => { q with left := len, dropping := true })).reject
    else if (match w.frontier with | some f => decide (f + 32 ≤ b) | none => false) then none
    else
      let w := w.updPort p.port (fun q =>
        { q with left := len, dropping := false, block := b, dense := enc == 1, last := some b, lastIdx := none,
                 headers := q.headers + 1, waiting := none })
      some (w.updBlock b (fun x => if enc = 1 then { x with dense := true } else x))

/-- A word of a stream that is dropped whole (R211): only its position is followed. -/
def WinSlot.skipWord (w : WinSlot) (vt : Nat) (p : WinPort) (v : DWord) : WinSlot :=
  let n := v.toNat
  w.updPort p.port (fun q =>
    if 0 < q.left then { q with left := q.left - 1 }
    else
      match bits n 62 2 with
      | 0 => { q with left := bits n 0 13 }
      | 1 => { q with left := denseWords vt }
      | 2 => { q with key := none, skipping := false }
      | _ => q)

/-- The start of a stream at a port of this module's dies (R211): a stale stream, or one whose key is recorded, is
dropped whole; so is a further stream at a port whose trailer has come (assumption 119). -/
def WinSlot.startStream (w : WinSlot) (p : Nat) (key : DWord) : WinSlot :=
  match w.ports.find? (fun q => q.port == p) with
  | none => w
  | some q =>
    if q.key.isSome ∨ 8 ≤ p then w
    else if key.toNat % 256 ≠ w.fields.epoch ∨ w.keys.any (fun k => k.1 == key) ∨ q.trailer then
      { (w.updPort p (fun q => { q with key := some key, skipping := true })) with drops := w.drops + 1 }
    else
      let w := w.updPort p (fun q => { q with key := some key })
      if key = 0 then w else { w with keys := w.keys ++ [(key, 0)] }

/-- A die of this module that contributes without a join of its own has a port of weight 0 at the slot (R208, assumption 86). Once a block
has been emitted, no stream can begin at such a port, for blocks are emitted in ascending order (R217): it is dropped whole. -/
def WinSlot.withPort (w : WinSlot) (p : Nat) : WinSlot :=
  if p < 8 ∧ !w.ports.any (fun q => q.port == p) then
    { w with ports := w.ports ++ [{ port := p, trailer := decide (0 < w.outBlocks) || w.trailerOut }] }
  else w

/-- Gander takes one word at a port, or the port waits. -/
def WinSlot.takeWord (w : WinSlot) (p : Nat) (key v : DWord) : Option WinSlot :=
  let vt := w.fields.vt
  let w := (w.withPort p).startStream p key
  match w.ports.find? (fun q => q.port == p) with
  | none => none
  | some q =>
    if q.skipping then some (w.skipWord vt q v)
    else if q.trailer then some w
    else if 0 < q.left then some (w.body vt q v)
    else w.headerWord vt q v

/-- A word reaches Gander (R213): one of this module's cores, or through a link. A header that must wait is noted (R216). A word that finds
its slot free again is dropped. -/
def execGanderInputWord (switch wid tag port : Nat) (word : DWord) (s : State) : Out :=
  let mine (f : Flit) : Bool := match f with | .word a b p _ _ _ => a == wid && b == tag && p == port | _ => false
  let first := s.flits.find? mine
  if switch ≠ s.cfg.fabricId.toNat ∨ 24 ≤ port then skip s
  else
    match s.slot? wid tag with
    | none =>
      (match first with
       | some f => if port < 8 then .next { s with flits := s.flits.erase f } else skip s
       | none => skip s)
    | some w =>
      if w.st ≠ .opened ∨ !w.fields.sparse ∨ (8 ≤ port ∧ !w.ports.any (fun p => p.port == port)) then skip s
      else
        let key : Option DWord := match first with
          | some (.word _ _ _ x k _) => if port < 8 ∧ x = word then some k else none
          | _ => none
        if port < 8 ∧ key.isNone then skip s
        else
          match w.takeWord port (key.getD 0) word with
          | none => .next (s.updSlot wid tag (fun w => (w.withPort port).updPort port (fun p => { p with waiting := some (bits word.toNat 13 20) })))
          | some w' =>
            let s := s.updSlot wid tag (fun _ => w')
            .next (match first with
              | some f => if port < 8 then { s with flits := s.flits.erase f } else s
              | none => s)

/-- The sum of the ports' values of one index, in ascending port order, with OVF (R214). -/
def mergeIndex (vt : Nat) (vs : SMap Word) : Nat × Bool :=
  let up (v : Word) : Nat := if vt = 1 then widen .bf16 .f32 (v.toNat % 65536) else v.toNat
  match vs with
  | [] => (0, false)
  | (_, v) :: r =>
    if vt = 2 then
      r.foldl (fun (a : Nat × Bool) (x : Nat × Word) =>
        let y := saturate .i32 (sext a.1 32 + sext x.2.toNat 32)
        (y.1, a.2 || y.2 != 0)) (v.toNat, false)
    else
      let finite (x : Nat) : Bool := match Num.ofBits .f32 x with | .fin .. => true | _ => false
      let infinite (x : Nat) : Bool := match Num.ofBits .f32 x with | .inf _ => true | _ => false
      r.foldl (fun (a : Nat × Bool) (x : Nat × Word) =>
        let y := (fltAdd .f32 .nearestEven a.1 (up x.2)).1
        (y, a.2 || (finite a.1 && finite (up x.2) && infinite y))) (up v, false)

/-- A sum as it leaves Gander (R214). -/
def mergeEgress (vt v : Nat) : Nat :=
  match vt with
  | 0 => (roundTo .f32 (Num.ofBits .f32 v) .nearestEven false).1
  | 1 => (Sys2Proof.Machine.convert .f32 .bf16 .nearestEven false v).1
  | _ => v

/-- The words of an emitted block (R212, R215), with OVF. -/
def MergeBlock.emit (b : MergeBlock) (vt thr : Nat) : List DWord × Bool :=
  let sums := b.values.map (fun (e : Nat × SMap Word) => (e.1, mergeIndex vt e.2))
  let ovf := sums.any (fun e => e.2.2)
  let vals : SMap Nat := sums.map (fun e => (e.1, mergeEgress vt e.2.1))
  if b.dense ∨ 16 * thr < b.values.length then
    let all := (List.range 4096).map (fun i => vals.get (4096 * b.num + i) 0)
    let k := if vt = 1 then 16 else 32
    let words := lanesOf 64 (denseWords vt) (packLanes k all)
    ((BitVec.ofNat 64 (2 ^ 62 + vt * 2 ^ 60 + b.num * 2 ^ 13)) :: words.map (BitVec.ofNat 64), ovf)
  else
    ((BitVec.ofNat 64 (vt * 2 ^ 60 + b.num * 2 ^ 13 + b.values.length)) ::
      vals.map (fun e => BitVec.ofNat 64 (e.2 * 2 ^ 32 + e.1)), ovf)

/-- The trailer of a stream of `n` blocks. -/
def WinSlot.trailerWord (w : WinSlot) (n : Nat) (trunc : Bool) : DWord :=
  BitVec.ofNat 64 (2 ^ 63 + w.fields.vt * 2 ^ 60 + bit trunc * 2 ^ 55 + bit w.early * 2 ^ 54 + bit w.seqerr * 2 ^ 53 +
    bit w.ovf * 2 ^ 52 + n % 2 ^ 32)

/-- Whole 256 B lines of a result leave as writes; the rest waits for more, or leaves at the end (R127). -/
def State.flushResult (s : State) (r : Registrant) (bytes : List Byte) (done : Bool) : State :=
  let all := r.pend ++ bytes
  let start := 8 * r.words - r.pend.length
  let full := all.length / 256
  let n := if done then (all.length + 255) / 256 else full
  let s := (List.range n).foldl (fun s i => s.resultFlit r (start + 256 * i) ((all.drop (256 * i)).take 256)) s
  s.updReg r.num (fun x =>
    { x with pend := if done then [] else all.drop (256 * full), words := r.words + bytes.length / 8 })

/-- A block of words written to one registrant under its length limit (R217). -/
def State.writeBlock (s : State) (r : Registrant) (ws : List DWord) : State :=
  let dlen := (WinRec.ofBits r.wrec).dlen
  if r.trunc ∨ dlen * 256 < 8 * (r.words + ws.length) + 8 then s.updReg r.num (fun x => { x with trunc := true })
  else
    let s := s.flushResult r (ws.flatMap (fun w => toBytes w.toNat 8)) false
    s.updReg r.num (fun x => { x with blocks := x.blocks + 1 })

/-- Words of a merged stream leave the slot: at the root to every registrant under its own length limit, elsewhere towards the root (R217). -/
def State.emitWords (s : State) (w : WinSlot) (ws : List DWord) (trailer : Bool) : State :=
  let r := w.fields
  if s.isRoot r then
    (s.joinedOf w.wid w.tag ++ s.farRegistrants w.wid w.tag).foldl (fun s g =>
      if trailer then s.flushResult g (toBytes (w.trailerWord g.blocks (g.trunc || w.trunc)).toNat 8) true
      else s.writeBlock g ws) s
  else
    match s.linkTo r.root with
    | some l => ws.foldl (fun s x => s.flit (.outWord l w.wid w.tag x)) s
    | none => s

/-- Gander emits its next done block, passes over one of which every entry was dropped, or emits the trailer once every port has ended
(R217). -/
def execGanderBlockEmit (switch wid tag : Nat) (s : State) : Out :=
  if switch ≠ s.cfg.fabricId.toNat then skip s
  else
    match s.slot? wid tag with
    | none => skip s
    | some w =>
      if w.st ≠ .opened ∨ !w.fields.sparse ∨ w.trailerOut then skip s
      else
        let low := w.blocks.foldl (fun (m : Option MergeBlock) b =>
          match m with
          | none => some b
          | some x => if b.num < x.num then some b else m) none
        match low, w.frontier with
        | some b, f =>
          if (match f with | some n => decide (n ≤ b.num) | none => false) then skip s
          else if b.values.isEmpty && !b.dense then
            .next (s.updSlot wid tag (fun w => { w with blocks := w.blocks.filter (fun x => x.num != b.num) }))
          else
            let (ws, ovf) := b.emit w.fields.vt w.fields.thr
            let w' := { w with blocks := w.blocks.filter (fun x => x.num != b.num), ovf := w.ovf || ovf, outBlocks := w.outBlocks + 1 }
            .next ((s.updSlot wid tag (fun _ => w')).emitWords w' ws false)
        | none, none =>
          let w' := { w with trailerOut := true }
          let s := (s.updSlot wid tag (fun _ => w')).emitWords w' [w.trailerWord w.outBlocks w.trunc] true
          .next (if s.isRoot w.fields then s else s.leaveUp w')
        | none, some _ => skip s

/-! ### Results at a registrant's module (R210, R217, R376) -/

/-- An access of the hub reaches absent addresses (R46): a machine check of SEQ 8 goes to the log of the stack's die (assumption 110). -/
def State.hubCheck (s : State) (d a : Nat) : State :=
  s.logFault d { s.mkRec (512 * d) .hub { cls := 9, kind := 5, addr := BitVec.ofNat 64 a } with step := 0, lid := 0 }

/-- A write of component 8 applied at its home (R121, R122), or none while it is held; one that reaches absent addresses writes nothing and
meets a machine check (R46). -/
def State.hubWrite (s : State) (places : List Nat) (data : List Byte) : Option State :=
  match places with
  | [] => some s
  | p :: _ =>
    let h := placeDie p
    if s.absent places then some (s.hubCheck h p)
    else if h = 8 then some (s.storeAt places data)
    else
      let (v, s') := s.stampFrom 8
      if s.causalOk h 8 v then some ((s'.storeAt places data).applied h 8 v) else none

/-- The report of a result write that fails its check, once per window and registrant (R376). -/
def State.resultFault (s : State) (r : Registrant) (gpa : Nat) : State :=
  if r.failed then s
  else
    let f := s.mkRec r.core .hub (progError 2 0 (BitVec.ofNat 64 gpa))
    let s := s.logFault (coreDie (WinRec.ofBits r.wrec).core) { f with step := 0, lid := r.lid }
    s.updReg r.num (fun x => { x with failed := true })

/-- The words of a sparse result that has come so far are followed: the body words to come, and whether the trailer has come (R212, R217). -/
def followWords (vt : Nat) : Nat → List DWord → Nat × Bool
  | n, [] => (n, false)
  | n + 1, _ :: r => followWords vt n r
  | 0, w :: r =>
    match bits w.toNat 62 2 with
    | 0 => followWords vt (bits w.toNat 0 13) r
    | 1 => followWords vt (denseWords vt) r
    | _ => (0, true)

/-- What has come of a result whose root is elsewhere: a dense one counts its words, a sparse one comes in order of offset (R217). -/
def Registrant.follow (r : Registrant) (data : List Byte) : Registrant :=
  let w := WinRec.ofBits r.wrec
  let n := data.length / 8
  if !w.sparse then { r with words := r.words + n, ended := decide (32 * w.dlen ≤ r.words + n) }
  else
    let (left, e) := followWords w.vt r.left ((List.range n).map (fun i => BitVec.ofNat 64 (ofBytes ((data.drop (8 * i)).take 8))))
    { r with words := r.words + n, left := left, ended := r.ended || e }

/-- A result write is checked and applied at this module (R376); one of a window whose root is elsewhere comes through a
link. -/
def execWindowResultWrite (wid tag num offset : Nat) (data : List Byte) (s : State) : Out :=
  match (s.registrantsOf wid tag).find? (fun r => r.num == num) with
  | none => skip s
  | some r =>
    let w := WinRec.ofBits r.wrec
    let f : Flit := .result wid tag num offset data
    let own := s.isRoot w
    if (own ∧ !s.flits.contains f) ∨ (!own ∧ (r.status ≠ some 0 ∨ !w.dv ∨ r.ended ∨ (w.sparse ∧ offset ≠ 8 * r.words))) ∨ data.isEmpty then
      skip s
    else
      let t := if own then { s with flits := s.flits.erase f } else s.updReg num (fun x => x.follow data)
      let gpa := w.dbase + offset
      match s.secondStage r.vf gpa data.length with
      | none => .next (t.resultFault r gpa)
      | some p =>
        match t.hubWrite (fromTo p data.length) data with
        | some s' => .next s'
        | none => skip s

/-- Whether a root's slot has delivered everything it merged. -/
def WinSlot.merged (w : WinSlot) : Bool :=
  if w.fields.sparse then w.trailerOut else decide (w.fields.dlen ≤ w.finished.length)

/-- The result words of a registrant as the completion signal of its root gives them: what has come, but of a sparse window of which it
receives nothing the root's count (R217, R332). -/
def Registrant.wordsAt (r : Registrant) (lengths : List (BitVec 256 × Nat)) : Nat :=
  let w := WinRec.ofBits r.wrec
  match lengths.find? (fun e => e.1 == r.wrec) with
  | some e => if w.sparse && !w.dv then e.2 else r.words
  | none => r.words

/-- The completion signal of a window at this module (R127, R217, R332): the hub sends each registrant's flag add, a write of component 8
(R121), before its window-end element. -/
def State.endWindow (s : State) (wid tag : Nat) (e : WinEnd) : State :=
  let s := (s.joinedOf wid tag).foldl (fun s r =>
    let w := WinRec.ofBits r.wrec
    let f : RemoteFlag :=
      { id := s.nextId, source := 8704, agent := .hub, launch := r.launch, target := w.core, flag := w.flag, value := 1, add := true }
    State.updReg { s.bumpId with remote := s.remote ++ [f] } r.num (fun x =>
      { x with fin := some (if x.failed then 4 else 1, e.drops + x.dropped), flagOp := f.id, words := x.wordsAt e.lengths })) s
  s.placeEnds wid tag

/-- What the root's completion signal says to the module beyond a link: DROPS, and the result words of the registrants there (R217, R332). -/
def State.outEndOf (s : State) (w : WinSlot) (l : Nat) : Flit :=
  .outEnd l w.wid w.tag w.drops (((s.farRegistrants w.wid w.tag).filter (fun r => r.link == some l)).map (fun r => (r.wrec, r.words)))

/-- Whether a registrant cannot take a completion signal from another root yet: its join has no OK, or its result has not all come (R127). -/
def State.unended (s : State) (r : Registrant) : Bool :=
  let w := WinRec.ofBits r.wrec
  r.status != some 0 || s.isRoot w || (w.dv && !r.ended)

/-- The root's completion signal (R217, R332). For a window whose root is elsewhere it comes through a link, with its DROPS and lengths, after
every result write (R127). Once it has come, the window-end elements that waited are placed. -/
def execWindowCompletion (switch wid tag : Nat) (ended : WinEnd) (s : State) : Out :=
  if switch ≠ s.cfg.fabricId.toNat then skip s
  else
    let regs := s.registrantsOf wid tag
    let pending := s.flits.any (fun f => match f with | .result w t _ _ _ => w == wid && t == tag | _ => false)
    let late : Out :=
      if s.registrants.any (fun r => r.wid == wid && r.tag == tag && r.fin.isSome) then .next (s.placeEnds wid tag) else skip s
    match s.slot? wid tag with
    | some w =>
      if !s.isRoot w.fields ∨ w.st ≠ .opened ∨ !w.merged ∨ pending then late
      else
        let t := w.links.foldl (fun t l => t.flit (s.outEndOf w l)) s
        .next ((t.endWindow wid tag { drops := w.drops }).freeSlot wid tag)
    | none => if regs.isEmpty ∨ regs.any s.unended then late else .next (s.endWindow wid tag ended)

/-! ### Links (R204, R362) -/

/-- A link has trained and is up (R362). -/
def execLinkTrained (link peer port lanes : Nat) (s : State) : Out :=
  if 16 ≤ link then skip s
  else
    let l : Link := { state := 2, peer := peer % 65536, port := port % 256, lanes := min lanes 8 }
    .next { s with hub := { s.hub with links := s.hub.links.set link l } }

end Sys2Proof.Machine
end

