-- ==== Sys2Proof/Machine/Collective.lean ====
section
/-! DEFINITION. The collective engine (R54, R204, R208, R218 to R220, R331 to R337): what starts each kind, and what it sends. -/

namespace Sys2Proof.Machine

open Sys2Proof

/-! ### Common parts -/

/-- LEN of a collective kind by `disp.cl`, and the bytes of the records that it takes: 96 of a layout, 64 of a shard record, 32 of a window
record or a destination list (R205, R218, R309, R331, R336). -/
def collForm (cmd : Nat) : Option (Nat × List Nat) :=
  match cmd with
  | 0 => some (2, [64, 64])
  | 1 => some (1, [32])
  | 2 => some (1, [96, 96])
  | 3 => some (1, [96, 96])
  | 4 => some (1, [96, 32])
  | 5 => some (0, [32])
  | 6 => some (4, [])
  | 7 => some (2, [])
  | 8 => some (2, [])
  | _ => none

/-- A collective command with its records in place (R331), or the fault of one whose LEN does not match its path, or whose records fail. -/
def State.collRecords (s : State) (core : Nat) (k : Cmd) : Except FaultInfo Cmd :=
  match collForm (headCmd k.head) with
  | none => .error commandError
  | some (len, ns) =>
    if headXb k.head then .error commandError
    else
      match k.path with
      | .fifo =>
        if headLen k.head ≠ len + ns.length then .error commandError
        else
          let r (i : Nat) : Except FaultInfo DReg :=
            match ns[i]? with
            | some n => s.fifoRecord core k (len + 1 + i) n
            | none => .ok 0
          (match r 0, r 1 with
           | .ok a, .ok b => .ok { k with recA := a, recB := b }
           | .error f, _ | _, .error f => .error f)
      | _ => if headLen k.head = len then .ok k else .error commandError

/-- How a collective command starts: an error, an end at once, or a run. -/
inductive CollStart where
  | error (f : FaultInfo)
  | ended (s : State) (value : Nat)
  | run (s : State) (c : CollSt)

/-- The descriptor of a slot that a command names for writing, or the fault of R14 (R332, R335, R336). -/
def State.slotFor (s : State) (core slot off size : Nat) : Except FaultInfo Desc :=
  s.lookup core (BitVec.ofNat 64 (slot * 2 ^ 58 + off)) size .store 2

/-- The places of `n` bytes at an offset of a contiguous slot, when its lease lets them be written. -/
def State.slotPlaces (s : State) (core : Nat) (d : Desc) (off n : Nat) : Option (List Nat × Nat) :=
  match s.contigPlaces (s.task core).id.vf d false [off, off + n - 1] with
  | .ok (p :: q :: _) =>
    let u := d.unit p
    if s.leaseOk u d.lease (BitVec.ofNat 8 d.lgen) [p, q] [] then some (fromTo p n, u) else none
  | _ => none

/-! ### JOIN and ABORT (R205 to R209, R332) -/

/-- The window record in a d register. -/
def windowRecord (r : DReg) : BitVec 256 := r.setWidth 256

/-- Whether the destination of a join fails its checks (R205, R332). -/
def State.joinOutside (s : State) (core slot : Nat) (r : WinRec) : Bool :=
  let d := s.slotDesc core slot
  let n := r.dlen * 256
  match s.slotFor core slot 0 0 with
  | .error _ => true
  | .ok _ =>
    d.tier != 3 || d.kind != 0 || decide (r.dbase < d.base ∨ d.base + d.bound < r.dbase + n) ||
    (match s.slotPlaces core d (r.dbase - d.base) 1, s.secondStage (s.task core).id.vf r.dbase n with
     | some (_, u), some p =>
       !s.leaseOk u d.lease (BitVec.ofNat 8 d.lgen) [p, p + n - 1] []
     | _, _ => true)

/-- JOIN starts: its join leaves for the hub (R206). -/
def State.startJoin (s : State) (core : Nat) (k : Cmd) : CollStart :=
  let w := (k.word 1).toNat
  let record := windowRecord k.recA
  let r := WinRec.ofBits record
  if 64 ≤ w then .error commandError
  else
    let t := (s.task core).id
    let tag := s.tagOf t.vf
    let g : Registrant :=
      { num := s.nextId, wid := r.wid, tag := tag, core := core, launch := t.launch, unit := t.unit, gang := t.gangRank,
        crew := t.crewRank, lid := t.lid, vf := t.vf, wrec := record, ntf := headNtf k.head, cmd := k.id }
    let s' := { s.bumpId with registrants := s.registrants ++ [g] }
    .run (s'.flit (.join (coreDie core) record tag s.nextId (s.joinOutside core w r))) {}

/-- ABORT: the hub sends the abort of the slot that its record names, and it completes (R332). -/
def State.startAbort (s : State) (core : Nat) (k : Cmd) : CollStart :=
  let r := WinRec.ofBits (windowRecord k.recA)
  let tag := s.tagOf (s.task core).id.vf
  match s.slot? r.wid tag with
  | some w => .ended (if w.fields.root = r.root ∧ w.st ≠ .aborted then s.flit (.abort r.wid tag) else s) 0
  | none => .ended s 0

/-! ### ACCREG and ACCFREE (R54, R335) -/

/-- Entries of an accumulate port (R54). -/
def portEntries (port : Nat) : Nat := if port < 256 then 64 else 1024

/-- A free entry of a port. Which one is taken is not stated (assumption 13). -/
def State.freeEntry (s : State) (port : Nat) : Option Nat :=
  let n := portEntries port
  let k := (Config.freeValue s.freeCnt).toNat
  let used := (s.accEntries.filter (fun e => e.port == port)).map (·.index)
  ((List.range n).map (fun i => (i + k) % n)).find? (fun i => !used.contains i)

/-- The tile of a slot at an offset in 256 B units: its place, port, unit and descriptor; an invalid segment otherwise. -/
def State.tile (s : State) (core slot off len : Nat) : Except FaultInfo (Nat × Nat × Desc) :=
  let va : DWord := BitVec.ofNat 64 (slot * 2 ^ 58 + off * 256)
  let inv : FaultInfo := invalidSegment 2 va
  match s.slotFor core slot (off * 256) (len * 256) with
  | .error f => .error (if f.cls = 2 then f else inv)
  | .ok d =>
    if d.kind ≠ 0 ∨ (d.tier ≠ 2 ∧ d.tier ≠ 3) then .error inv
    else
      match s.contigPlaces (s.task core).id.vf d false [off * 256, off * 256 + len * 256 - 1] with
      | .ok (p :: q :: _) =>
        let u := d.unit p
        if s.leaseOk u d.lease (BitVec.ofNat 8 d.lgen) [p, q] [] then .ok (p, u, d) else .error inv
      | _ => .error inv

/-- ACCREG (R335); a reserved bit that is set fails the registration (R54). -/
def State.startAccreg (s : State) (core : Nat) (k : Cmd) : CollStart :=
  let w := (k.word 1).toNat
  let len := (k.word 3).toNat
  let slot := bits w 0 6
  let inv : FaultInfo := invalidSegment 2 (BitVec.ofNat 64 (slot * 2 ^ 58 + (k.word 2).toNat * 256))
  if bits w 27 5 ≠ 0 ∨ len / 2 ^ 24 ≠ 0 ∨ len = 0 ∨ 4 ≤ bits w 6 4 then .error inv
  else
      match s.tile core slot (k.word 2).toNat len with
      | .error f => .error f
      | .ok (p, u, d) =>
        if s.accEntries.any (fun e => decide (p < e.tbase + e.tlen * 256 ∧ e.tbase < p + len * 256)) then .error inv
        else
          match s.freeEntry (portOf p) with
          | none => .error inv
          | some i =>
            let e : AccEntry :=
              { port := portOf p, index := i, flag := bits w 10 5,
                fcore := coreNum (bits w 24 3) (bits w 19 5) (bits w 15 4), lgen := BitVec.ofNat 8 d.lgen, lease := d.lease,
                unit := u, op := bits w 6 4, tlen := len, tbase := p, expect := (k.word 4).toNat,
                launch := (s.task core).id.launch }
            .ended { s with accEntries := s.accEntries ++ [e], freeCnt := s.freeCnt + 1 } i

/-- ACCFREE (R335). -/
def State.startAccfree (s : State) (core : Nat) (k : Cmd) : CollStart :=
  let w := (k.word 1).toNat
  if 64 ≤ w then .error commandError
  else
    let d := s.slotDesc core w
    match s.contigPlaces (s.task core).id.vf d false [(k.word 2).toNat * 256] with
    | .ok (p :: _) =>
      (match s.accEntries.find? (fun e => e.tbase == p) with
       | some e => .ended { s with accEntries := s.accEntries.erase e } e.index
       | none => .ended s 0)
    | _ => .ended s 0

/-! ### XBREG and expert buffers (R220, R336) -/

/-- A write on the collective path to the storage of an expert buffer. -/
def State.bufferWrite (s : State) (b : XBuf) (off cmd : Nat) (data : List Byte) : State :=
  s.send { id := s.nextId, agent := .hub, kind := .store, unit := b.unit, lease := b.lease, lgen := b.lgen, tier := b.tier,
           places := fromTo (b.addr + off) data.length, data := data, collective := true, cmd := cmd }

/-- NEXT and DROPS of an expert buffer written to its header. -/
def State.writeHeader (s : State) (b : XBuf) (cmd : Nat) : State :=
  s.bufferWrite b 0 cmd (toBytes (b.next % 2 ^ 32 + 2 ^ 32 * (b.drops % 2 ^ 32)) 8)

/-- An expert buffer's registration replaced. -/
def State.setBuf (s : State) (n : Nat) (b : XBuf) : State := { s with hub := { s.hub with xbufs := s.hub.xbufs.set n b } }

/-- XBREG (R336). -/
def State.startXbreg (s : State) (core : Nat) (k : Cmd) : CollStart :=
  let w := (k.word 1).toNat
  let count := (k.word 2).toNat
  let n := bits w 0 8
  let esz := bits w 14 7
  let slot := bits w 8 6
  if bits w 21 11 ≠ 0 ∨ 2 ^ 16 ≤ count then .error commandError
  else if count = 0 then
    .ended (match s.hub.xbufs.find n with | some b => s.setBuf n { b with live := false } | none => s) 0
  else if esz = 0 ∨ 64 < esz then .error commandError
  else
    let size := 256 + count * esz * 256
    match s.slotFor core slot 0 size with
    | .error _ => .error commandError
    | .ok d =>
      if d.kind ≠ 0 ∨ (d.tier ≠ 2 ∧ d.tier ≠ 3) then .error commandError
      else
        match s.contigPlaces (s.task core).id.vf d false [0, size - 1] with
        | .ok (p :: _) =>
          let b : XBuf := { addr := p, unit := d.unit p, lease := d.lease, lgen := BitVec.ofNat 8 d.lgen, tier := d.tier,
                            esz := esz, count := count }
          .ended ((s.setBuf n b).writeHeader b k.id) 0
        | _ => .error commandError

/-- A row takes the next entry of its expert buffer, or is dropped and counted (R220, R336). A buffer that is not registered has no header
in memory: its DROPS is the hub's. -/
def State.rowArrival (s : State) (n cmd : Nat) (row : List Byte) : State :=
  let b := s.hub.xbufs.get n { live := false, addr := 0, unit := 0, lease := 0, lgen := 0, esz := 0, count := 0 }
  if !b.live then s.setBuf n { b with drops := b.drops + 1 }
  else
    if b.count ≤ b.next ∨ b.esz * 256 < row.length then
      let b' := { b with drops := b.drops + 1 }
      (s.setBuf n b').writeHeader b' cmd
    else
      let b' := { b with next := b.next + 1 }
      ((s.setBuf n b').bufferWrite b (256 + b.next * b.esz * 256) cmd row).writeHeader b' cmd

/-- A dispatched row arrives at this module through a link (R220). -/
def execDispatchRowArrival (buffer : Nat) (row : List Byte) (s : State) : Out :=
  if 256 ≤ buffer ∨ 16384 < row.length then skip s else .next (s.rowArrival buffer 0 row)

/-! ### RSTORE, SPRED and DISPX at their start (R333, R336) -/

/-- The key of a contribution: LID, TILE and EPOCH from a command (R211). -/
def State.collKey (s : State) (core : Nat) (k : Cmd) : DWord := (s.task core).id.lid ++ k.word 1

/-- The leaf of a page of a pageable slot, as the core's translation buffer or the walk gives it (R22, R23). -/
def State.leafOf (s : State) (core slot : Nat) (d : Desc) (page : Nat) : Option Nat :=
  match (s.core core).tlb.find? (fun t => t.slot == slot && t.lgen == BitVec.ofNat 8 d.lgen && t.page == page) with
  | some t => some t.leaf.toNat
  | none =>
    match s.walk (s.fn (s.task core).id.vf).sstage page 0 3 1 d.base with
    | .ok w => some w.leaf
    | .error _ => none

/-- The guest-physical tier-3 address of an address: in a contiguous segment, or in a page of a pageable one that lies in HBM (R22, R333). -/
def State.guestAddr (s : State) (core : Nat) (va : DWord) : Option Nat :=
  let slot := vaSlot va
  let d := s.slotDesc core slot
  if !d.v || d.tier != 3 then none
  else if d.kind = 0 then some (d.base + vaOff va)
  else
    match s.leafOf core slot d (vaOff va / 65536) with
    | some e => if bits e 9 3 = 0 then some (bits e 16 40 * 65536 + vaOff va % 65536) else none
    | none => none

/-- The page of a contribution in a pageable segment is translated as for a store of `n` bytes (R21 to R27): its A and DT are set, or it
waits for a migration, or it faults. -/
def State.windowPage (s : State) (core : Nat) (va : DWord) (n : Nat) : PageResult :=
  let slot := vaSlot va
  let d := s.slotDesc core slot
  if d.kind = 0 then .at 0 s
  else
    s.pageAt core (s.fn (s.task core).id.vf).sstage slot (BitVec.ofNat 8 d.lgen) d.base (vaOff va / 65536) (vaOff va % 65536) n va.toNat
      true false false

/-- Whether a registrant's window takes contributions, or will: its own join is on its way, or its slot is in JOINING or OPEN (R208, R333). -/
def State.takes (s : State) (r : Registrant) : Bool :=
  s.joining r || (match s.slot? r.wid r.tag with | some w => w.st != .aborted | none => false)

/-- The registrant whose window holds a guest-physical address of its function, one whose join has OK before others (R208). -/
def State.windowAt (s : State) (fn gpa : Nat) : Option Registrant :=
  let l := s.registrants.filter (fun r =>
    let w := WinRec.ofBits r.wrec
    r.vf == fn && r.link.isNone && r.fin.isNone && decide (w.dbase ≤ gpa ∧ gpa < w.dbase + w.dlen * 256) && s.takes r)
  match l.find? (fun r => r.status == some 0) with
  | some r => some r
  | none => l.head?

/-- The window of a registrant takes contributions now: its own join has OK and the slot is open (R208). -/
def State.openTo (s : State) (r : Registrant) : Bool :=
  r.status == some 0 && (match s.slot? r.wid r.tag with | some w => w.st == .opened | none => false)

/-- Whether the window that a command contributes to has been aborted: the command ends with it (R209). -/
def State.cut (s : State) (c : CollSt) : Bool :=
  match c.into with
  | some (w, t) => (match s.slot? w t with | some x => x.st == .aborted | none => false)
  | none => false

/-- The window that holds a guest-physical address of a task's function, by id and tenant tag. -/
def State.windowOf (s : State) (fn : Nat) (g : Option Nat) : Option (Nat × Nat) :=
  (g.bind (s.windowAt fn)).map (fun r => (r.wid, r.tag))

/-- RSTORE at its start (R333). -/
def State.startRstore (s : State) (core : Nat) (k : Cmd) : CollStart :=
  let a := k.layout false
  let b := k.layout true
  if a.bad then .error (reservedField 2)
  else if b.bad then .error (reservedField 3)
  else if a.rank ≠ b.rank ∨ a.fmt ≠ b.fmt ∨ a.wn ≠ b.wn ∨ a.edge = 2 ∨ b.edge = 2 then .error commandError
  else .run s { into := s.windowOf (s.task core).id.vf (s.guestAddr core (BitVec.ofNat 64 b.base)) }

/-- SPRED at its start (R333). A destination whose page does not translate now waits or faults at its first beat. -/
def State.startSpred (s : State) (core : Nat) (k : Cmd) : CollStart :=
  let a := k.layout false
  let b := k.layout true
  if a.bad then .error (reservedField 2)
  else if b.bad then .error (reservedField 3)
  else if a.fmt ≠ 8 ∨ b.fmt ≠ 8 ∨ a.rank ≠ 1 ∨ b.rank ≠ 1 then .error commandError
  else
    let va : DWord := BitVec.ofNat 64 b.base
    match s.guestAddr core va with
    | none => if (s.slotDesc core (vaSlot va)).kind = 1 then .run s {} else .error commandError
    | some g =>
      match s.windowAt (s.task core).id.vf g with
      | none => .error commandError
      | some r =>
        let w := WinRec.ofBits r.wrec
        if w.dbase ≠ g ∨ !w.sparse then .error commandError else .run s { into := some (r.wid, r.tag) }

/-- DISPX at its start (R336). -/
def State.startDispx (s : State) (_core : Nat) (k : Cmd) : CollStart :=
  let a := k.layout false
  if 8 ≤ (k.word 1).toNat then .error commandError
  else if a.bad then .error (reservedField 2)
  else if 16384 < a.points * elemBytes a.fmt then .error commandError
  else .run s {}

/-! ### Shards (R218, R219) -/

/-- A shard record's fields. -/
structure Shard where
  ptab : Nat
  myrank : Nat
  mesh : List Nat
  gsz : List Nat
  split : List Nat
  psum : Nat
  fmt : Nat
  rank : Nat
  bad : Bool
  deriving DecidableEq, Repr

/-- The axes of a mask. -/
def axes (m : Nat) : List Nat := setBits m 4

/-- A shard record read from a d register, with `bad` for a broken rule of R218. -/
def Shard.ofBits (r : DReg) : Shard :=
  let mesh := (List.range 4).map (fun a => dbits r (352 + 8 * a) 8)
  let split := (List.range 6).map (fun l => dbits r (232 + 4 * l) 4)
  let psum := dbits r 228 4
  let rank := dbits r 221 3
  let fmt := dbits r 224 4
  let size := mesh.foldl (fun acc e => acc * max e 1) 1
  let twice := (List.range 4).any (fun a => decide (1 < (split.filter (fun m => decide (bits m a 1 = 1))).length) ||
    (decide (bits psum a 1 = 1) && split.any (fun m => decide (bits m a 1 = 1))))
  { ptab := dbits r 464 48 * 64, myrank := dbits r 448 16, mesh := mesh,
    gsz := (List.range 6).map (fun l => dbits r (256 + 16 * l) 16), split := split, psum := psum, fmt := fmt, rank := rank,
    bad := dbits r 384 64 != 0 || dbits r 0 221 != 0 || decide (5 ≤ fmt) || rank == 0 || rank == 7 || twice ||
      decide (4096 < size) || decide (size ≤ dbits r 448 16) }

/-- The extent of an axis; an unused one has 1. -/
def Shard.ext (h : Shard) (a : Nat) : Nat := max (h.mesh.getD a 0) 1
/-- Devices of the mesh. -/
def Shard.size (h : Shard) : Nat := (List.range 4).foldl (fun acc a => acc * h.ext a) 1

/-- The coordinate of a rank on an axis: axis 0 varies fastest (R218). -/
def Shard.coord (h : Shard) (r a : Nat) : Nat :=
  r / ((List.range a).foldl (fun acc b => acc * h.ext b) 1) % h.ext a

/-- The elements of dimension `l` that rank `r` holds: first and length (R218). -/
def Shard.range (h : Shard) (r l : Nat) : Nat × Nat :=
  let n := h.gsz.getD l 0
  let as := axes (h.split.getD l 0)
  let c := as.foldl (fun acc a => acc * h.ext a + h.coord r a) 0
  let p := as.foldl (fun acc a => acc * h.ext a) 1
  let q := (n + p - 1) / p
  let lo := min n (c * q)
  (lo, min n ((c + 1) * q) - lo)

/-- The element width of a shard. -/
def Shard.width (h : Shard) : Nat := match h.fmt with | 0 => 4 | 1 => 2 | 2 => 2 | 3 => 4 | _ => 1

/-- The byte offset of an element in the shard of rank `r`, dimension 0 fastest. -/
def Shard.offset (h : Shard) (r : Nat) (e : List Nat) : Nat :=
  ((List.range h.rank).foldl (fun (acc : Nat × Nat) l =>
    (acc.1 + (e.getD l 0 - (h.range r l).1) * acc.2, acc.2 * (h.range r l).2)) (0, 1)).1 * h.width

/-- Bytes of the shard of rank `r`. -/
def Shard.bytes (h : Shard) (r : Nat) : Nat := (List.range h.rank).foldl (fun acc l => acc * (h.range r l).2) h.width

/-- The axes over which an exchange sums: R of R219. -/
def sumAxes (a b : Shard) : List Nat := (axes a.psum).filter (fun x => !(axes b.psum).contains x)

/-- Whether rank `u` sends to rank `d` under source record `a` and destination record `b` (R219). -/
def sends (a b : Shard) (u d : Nat) : Bool :=
  let split := a.split.foldl Nat.lor 0
  (List.range 4).all (fun x => decide (bits split x 1 = 1) || (sumAxes a b).contains x || a.coord u x == a.coord d x)

/-- The elements that rank `u` sends to rank `d`, dimension 0 fastest. -/
def exchanged (a b : Shard) (u d : Nat) : List (List Nat) :=
  if !sends a b u d then []
  else
    let box := (List.range a.rank).map (fun l =>
      let (s0, n0) := a.range u l
      let (s1, n1) := b.range d l
      let lo := max s0 s1
      (lo, min (s0 + n0) (s1 + n1) - lo))
    box.foldl (fun (acc : List (List Nat)) (x : Nat × Nat) =>
      (fromTo x.1 x.2).flatMap (fun i => acc.map (fun e => e ++ [i]))) [[]]

/-- The 4-byte words of `d`'s destination shard, which begins at place `p`, that `u` sends to the `n` bytes from place `lo` on. -/
def exchangedWords (a b : Shard) (u d p lo n : Nat) : Nat :=
  ((((exchanged a b u d).map (fun e => (p + b.offset d e) / 4)).eraseDups).filter (fun w => decide (lo ≤ 4 * w ∧ 4 * w < lo + n))).length

/-- The parts of `n` times 256 B from place `lo` on that lie in one stack each, with `fuel` stacks at most: first place and length. -/
def stackParts : Nat → Nat → Nat → List (Nat × Nat)
  | 0, _, _ => []
  | fuel + 1, lo, n =>
    let k := min n ((2 ^ 36 - lo % 2 ^ 36) / 256)
    if n = 0 then [] else (lo, k) :: stackParts fuel (lo + 256 * k) (n - k)

/-- The lease that covers the `n` bytes from a place of a stack on: its handle and generation (R54). -/
def State.covering (s : State) (u lo n : Nat) : Option (Nat × BitVec 8) :=
  ((s.unit u).leases.find? (fun e => e.2.st == .active && !e.2.pg && decide (e.2.base ≤ lo ∧ lo + n ≤ e.2.base + e.2.bytes))).map
    (fun e => (e.1, e.2.lgen))

/-- The accumulate operation of a shard format; none for e4m3. -/
def Shard.accOp (h : Shard) : Option Nat := if h.fmt < 4 then some h.fmt else none

/-- What a read of a command at some places meets (R46, R201): a machine check, or nothing. -/
def State.readCheck (s : State) (ps : List Nat) (va : DWord) (opf : Nat) : Option FaultInfo :=
  if s.absent ps then some { cls := 9, kind := 5, opf := BitVec.ofNat 8 opf, addr := va }
  else if s.poisoned ps then some (poisonFault s (inUnits ps) va opf)
  else none

/-- Entry `r` of a peer table (R218): fabric id and guest-physical address, or what its read meets (R27, R46, R201). -/
def State.peerEntry (s : State) (fn : Nat) (h : Shard) (r : Nat) : Except FaultInfo (BitVec 16 × Nat) :=
  let a := h.ptab + 8 * r
  match s.secondStage fn a 8 with
  | none => .error (progError 2 2 (BitVec.ofNat 64 a))
  | some p =>
    match s.readCheck (fromTo p 8) (BitVec.ofNat 64 a) 2 with
    | some f => .error f
    | none =>
      let v := Memory.readNat s.mem p 8
      .ok (BitVec.ofNat 16 (bits v 48 16), bits v 0 40)

/-- Entry `r` of a peer table, or none when its read fails. -/
def State.peer (s : State) (fn : Nat) (h : Shard) (r : Nat) : Option (BitVec 16 × Nat) :=
  match s.peerEntry fn h r with
  | .ok e => some e
  | .error _ => none

/-- The source and destination records of an exchange. -/
def Cmd.shards (k : Cmd) : Shard × Shard := (Shard.ofBits k.recA, Shard.ofBits k.recB)

/-- The bytes that an exchange's destination lies beyond its source (R334). -/
def Cmd.doff (k : Cmd) : Nat := (k.word 1).toNat * 256

/-- The words that peers sent to a destination shard before its command started, taken out of those noted (R219). -/
def State.takeEarly (s : State) (fn lo len : Nat) : Nat × State :=
  let hit (e : Nat × Nat × Nat) : Bool := e.1 == fn && decide (lo ≤ e.2.1 ∧ e.2.1 < lo + len)
  ((s.early.filter hit).foldl (fun n e => n + e.2.2) 0, { s with early := s.early.filter (fun e => !hit e) })

/-- The accumulate entry of a COLL for `len` times 256 B from place `lo` of its destination shard, which begins at place `p`: under the lease
that covers it, with every sender's words expected; none where the registration fails (R54, R219, assumption 126). -/
def State.shardEntry (s : State) (core : Nat) (k : Cmd) (p lo len : Nat) : Option State :=
  let (a, b) := k.shards
  let n := len * 256
  let u := 256 + lo / 2 ^ 36
  if s.accEntries.any (fun e => decide (lo < e.tbase + e.tlen * 256 ∧ e.tbase < lo + n)) then none
  else
    match s.freeEntry (portOf lo), s.covering u lo n with
    | some i, some (h, g) =>
      let expect := (List.range a.size).foldl (fun acc r => acc + exchangedWords a b r a.myrank p lo n) 0
      let e : AccEntry :=
        { port := portOf lo, index := i, fcore := core, op := a.accOp.getD 0, tlen := len, tbase := lo, expect := expect, unit := u,
          lease := h, lgen := g, ready := decide (expect = 0), launch := (s.task core).id.launch, flagged := false, cmd := k.id }
      some { s with accEntries := s.accEntries ++ [e], freeCnt := s.freeCnt + 1 }
    | _, _ => none

/-- COLL at its start (R219, R334): its records are checked and its accumulate entries are registered. -/
def State.startColl (s : State) (core : Nat) (k : Cmd) : CollStart :=
  let (a, b) := k.shards
  let t := (s.task core).id
  let r := sumAxes a b
  if 256 ≤ (k.word 2).toNat ∨ a.bad ∨ b.bad ∨ a.ptab ≠ b.ptab ∨ a.mesh ≠ b.mesh ∨ a.gsz ≠ b.gsz ∨ a.rank ≠ b.rank ∨ a.fmt ≠ b.fmt ∨
      a.myrank ≠ b.myrank ∨ Nat.land b.psum a.psum ≠ b.psum ∨ (!r.isEmpty ∧ a.accOp.isNone) then .error commandError
  else
    let me := a.myrank
    let size := b.bytes me
    match s.peerEntry t.vf a me with
    | .error f => .error f
    | .ok (_, g) =>
      if r.isEmpty then
        let (n, s') := s.takeEarly t.vf (g + k.doff) size
        .run s' { arrived := n }
      else
      match s.secondStage t.vf (g + k.doff) size with
      | none => .error (progError 2 2 (BitVec.ofNat 64 (g + k.doff)))
      | some p =>
        let lo := p / 256 * 256
        let parts := stackParts 8 lo ((p + size + 255) / 256 - p / 256)
        match parts.foldl (fun (acc : Option State) x => acc.bind (fun s => s.shardEntry core k p x.1 x.2)) (some s) with
        | none => .error (invalidSegment 2 (BitVec.ofNat 64 (g + k.doff)))
        | some s' => .run s' { entries := parts.length }

/-- How a collective command starts (R331). -/
def State.startCollective (s : State) (core : Nat) (k : Cmd) : CollStart :=
  match headCmd k.head with
  | 0 => s.startColl core k
  | 1 => s.startJoin core k
  | 2 => s.startRstore core k
  | 3 => s.startSpred core k
  | 4 => s.startDispx core k
  | 5 => s.startAbort core k
  | 6 => s.startAccreg core k
  | 7 => s.startAccfree core k
  | _ => s.startXbreg core k

/-! ### What a running command sends (R333, R334, R336) -/

/-- The progress of running collective command `id` replaced. -/
def State.setColl (s : State) (core id : Nat) (c : CollSt) : State := s.updRun core .collective id (fun r => { r with st := .coll c })

/-- A collective command ends with a fault. -/
def State.collFault (s : State) (core : Nat) (k : Cmd) (f : FaultInfo) : State := s.cmdFault core .collectiveEngine k.id f

/-- The destination in whose order the points of a command's source are visited: its own record (RSTORE), or the points of the source
one after another (the stream of an SPRED, the row of a DISPX). -/
def Cmd.target (k : Cmd) : Layout :=
  if headCmd k.head = 2 then k.layout true
  else
    let a := k.layout false
    let w := elemBytes a.fmt
    let st := (List.range 6).map (fun l =>
      if l < a.rank then (((List.range l).foldl (fun acc m => acc * a.wn.getD m 1) w : Nat) : Int) else 0)
    { a with base := 0, sz := a.wn, st := st, orig := List.replicate 6 0, ien := false, edge := 0, bim := 0 }

/-- The next beat's sources are read (R312, R313); a row is read beat after beat into one. -/
def collRead (core : Nat) (k : Cmd) (c : CollSt) (empty : State → Out) (s : State) : Out :=
  let src := k.layout false
  let dst := k.target
  match State.formBeat core src dst (List.range 6) false 2 (dst.points - c.point) s { next := c.point } [] with
  | .error .wait => skip s
  | .error .expired => .next (s.collFault core k { cls := 2, kind := 2, opf := 2 })
  | .error (.fault f) => .next (s.collFault core k f)
  | .ok (b, s', _) =>
    if b.elems.isEmpty then empty s'
    else
      let row := headCmd k.head = 4
      let lo := if row then 0 else lowest b.elems
      let old := if row then c.elems else []
      let es := old ++ b.elems.map (fun e => ((e.1 - lo).toNat, match e.2 with | .bits v => v | .at _ => 0))
      match s'.sendSources core k.id .collectiveEngine src 2 (sourceRuns (elemBytes src.fmt) old.length b.elems) es with
      | .error f => .next (s'.collFault core k f)
      | .ok (s2, es) =>
        .next (s2.setColl core k.id
          { c with forming := !row, next := b.next, point := if row then b.next else c.point, va := lo,
                   width := elemBytes src.fmt, elems := es })

/-- Whether beats or words of a command are still on their way to their slot (R127). -/
def State.unaccepted (s : State) (id : Nat) : Bool :=
  s.flits.any (fun f => match f with | .dense _ _ _ _ _ _ _ c | .word _ _ _ _ _ c => c == id | _ => false)

/-- A command whose points are all sent ends when its beats are taken (R127, R337). -/
def collFinish (core : Nat) (k : Cmd) (c : CollSt) (s : State) : Out :=
  if s.unaccepted k.id then skip s
  else .next (s.updRun core .collective k.id (fun r => { r with st := .ended 1 (BitVec.ofNat 42 c.sent) }))

/-- The format that a dense window's OP names (R333). -/
def windowFmt (op : Nat) : Nat := match op with | 1 => 1 | 2 => 5 | _ => 0

/-- A lane value that leaves any sum or maximum as it is, per OP: −0, 0 or −∞. -/
def windowIdentity (op : Nat) : Nat := match op with | 0 => 0x80000000 | 1 => 0x8000 | 2 => 0 | _ => 0xFF800000

/-- A line of contribution elements, with the identity in lanes that the beat does not hold. -/
def windowLine (op w base : Nat) (es : List (Nat × Nat)) : VReg :=
  let lanes : SMap Nat := es.foldl (fun (m : SMap Nat) (e : Nat × Nat) => m.set ((base + e.1) / w) e.2) []
  BitVec.ofNat 2048 (packLanes (8 * w) ((List.range (256 / w)).map (fun i => lanes.get i (windowIdentity op))))

/-- The accumulate operation of a layout format (R333): none when no entry takes it. -/
def accFormat (fmt : Nat) : Option Nat :=
  match fmt with
  | 0 => some 0
  | 1 => some 1
  | 2 => some 2
  | 5 => some 3
  | _ => none

/-- Bytes of a beat widened to whole 4-byte words: a half that the beat does not hold is the identity of its sum. -/
def accBytes (fmt w : Nat) (es : List (Nat × Nat)) : SMap Byte :=
  let m := beatBytes w es
  let words := (m.map (fun e => e.1 / 4)).eraseDups
  words.foldl (fun (acc : SMap Byte) o =>
    (List.range 4).foldl (fun (acc : SMap Byte) i =>
      let fill : Byte := if (fmt = 1 ∨ fmt = 2) ∧ i % 2 = 1 then 0x80 else 0
      acc.set (4 * o + i) (m.get (4 * o + i) fill)) acc) []

/-- The next beat of an RSTORE leaves: a contribution to its window, or an accumulate write (R333). -/
def rstoreSend (core : Nat) (k : Cmd) (c : CollSt) (s : State) : Out :=
  let dst := k.layout true
  let w := elemBytes dst.fmt
  let hi := c.elems.foldl (fun m e => max m e.1) 0 + w - 1
  let fn := (s.task core).id.vf
  let next := { c with point := c.next, sent := c.sent + 1, forming := false, elems := [], waiting := none }
  let at? (o : Nat) : Option Registrant :=
    match s.guestAddr core (c.va + BitVec.ofNat 64 o) with
    | some g => s.windowAt fn g
    | none => none
  if s.cut c then skip s
  else
  match at? 0, at? hi with
  | some r, some r' =>
    let f := WinRec.ofBits r.wrec
    if r.num ≠ r'.num ∨ f.sparse ∨ windowFmt f.op ≠ dst.fmt ∨ dst.bim = 2 then .next (s.collFault core k commandError)
    else
      match s.lookup core c.va (hi + 1) .store 3, s.windowPage core c.va (hi + 1) with
      | .error e, _ => .next (s.collFault core k e)
      | .ok _, .wait => skip s
      | .ok _, .fault (cls, kind, a) =>
        .next (s.collFault core k { cls := BitVec.ofNat 4 cls, kind := BitVec.ofNat 8 kind, opf := 3, addr := BitVec.ofNat 64 a })
      | .ok _, .at _ s =>
        if !s.openTo r then .next (s.setColl core k.id { c with waiting := some r.num, into := some (r.wid, r.tag) })
        else
          let next := { next with into := some (r.wid, r.tag) }
          let g := (s.guestAddr core c.va).getD 0 - f.dbase
          let data := windowLine f.op w (g % 256) c.elems
          .next ((s.flit (.dense r.wid r.tag (coreDie core) (g / 256) (s.collKey core k) 1 data k.id)).setColl core k.id next)
  | none, none =>
    match accFormat dst.fmt with
    | none => .next (s.collFault core k commandError)
    | some op =>
      let m := accBytes dst.fmt w (c.elems.map (fun e => ((vaOff c.va) % 4 + e.1, e.2)))
      let va := c.va - BitVec.ofNat 64 (vaOff c.va % 4)
      match s.engineAccess core { kind := .accumulate op (s.collKey core k), va := va, offs := m.map (·.1), mode := .store,
                                  data := m.map (·.2), opf := 3, cmd := k.id, agent := .collectiveEngine } with
      | .error f => .next (s.collFault core k f)
      | .ok a =>
        if a.kind = .message ∨ dst.bim = 2 then .next (s.collFault core k (invalidSegment 3 c.va))
        else .next ((s.send a).setColl core k.id next)
  | _, _ => .next (s.collFault core k commandError)

/-- The words of a beat in order of offset. -/
def beatWords (es : List (Nat × Nat)) : List DWord :=
  (es.foldl (fun (m : SMap Nat) (e : Nat × Nat) => m.set e.1 e.2) []).map (fun e => BitVec.ofNat 64 e.2)

/-- The next words of an SPRED leave for their slot (R333). -/
def spredSend (core : Nat) (k : Cmd) (c : CollSt) (s : State) : Out :=
  let va : DWord := BitVec.ofNat 64 (k.layout true).base
  if s.cut c then skip s
  else
    match s.windowPage core va 8 with
    | .wait => skip s
    | .fault (cls, kind, a) =>
      .next (s.collFault core k { cls := BitVec.ofNat 4 cls, kind := BitVec.ofNat 8 kind, opf := 3, addr := BitVec.ofNat 64 a })
    | .at _ s =>
      match (s.guestAddr core va).bind (fun g => (s.windowAt (s.task core).id.vf g).map (fun r => (g, r))) with
      | none => .next (s.collFault core k commandError)
      | some (g, r) =>
        let w := WinRec.ofBits r.wrec
        if w.dbase ≠ g ∨ !w.sparse then .next (s.collFault core k commandError)
        else if !s.openTo r then .next (s.setColl core k.id { c with waiting := some r.num, into := some (r.wid, r.tag) })
        else
          let s := (beatWords c.elems).foldl (fun s w =>
            s.flit (.word r.wid r.tag (coreDie core) w (s.collKey core k) k.id)) s
          .next (s.setColl core k.id
            { c with point := c.next, sent := c.sent + 1, forming := false, elems := [], waiting := none, into := some (r.wid, r.tag) })

/-- The destinations of a DISPX: fabric id and buffer (R336). -/
def Cmd.dests (k : Cmd) : List (BitVec 16 × Nat) :=
  (List.range ((k.word 1).toNat % 8 + 1)).map (fun i => (BitVec.ofNat 16 (dbits k.recB (32 * i + 16) 16), dbits k.recB (32 * i) 16))

/-- The links that destinations on other devices lie behind, each once (R220). -/
def State.egress (s : State) (far : List (BitVec 16 × Nat)) : List Nat := (far.filterMap (fun d => s.linkTo d.1)).eraseDups

/-- The row of a DISPX leaves for its destinations: one copy on each link that leads to some of them (R220, R336). The command ends when
every copy has been written or dropped. -/
def dispxSend (core : Nat) (k : Cmd) (c : CollSt) (s : State) : Out :=
  let row := (beatBytes c.width c.elems).map (·.2)
  let far := k.dests.filter (fun d => d.1 != s.cfg.fabricId)
  if far.any (fun d => (s.linkTo d.1).isNone) then .next (s.collFault core k commandError)
  else
    let s := (k.dests.filter (fun d => d.1 == s.cfg.fabricId)).foldl (fun s d => s.rowArrival d.2 k.id row) s
    let s := (s.egress far).foldl (fun s l =>
      State.bumpId (s.flit (.outRow s.nextId k.id l (far.filter (fun d => s.linkTo d.1 == some l)) row))) s
    .next (s.updRun core .collective k.id (fun r => { r with st := .ended 1 (BitVec.ofNat 42 ((row.length + 255) / 256)) }))

/-- Writes of an exchange grouped by 256 B line of the destination: first address and bytes of each run. -/
def runsOf : List (Nat × Byte) → List (Nat × List Byte)
  | [] => []
  | (o, b) :: r =>
    match runsOf r with
    | (p, bs) :: rest => if p = o + 1 ∧ p % 256 ≠ 0 then (o, b :: bs) :: rest else (o, [b]) :: (p, bs) :: rest
    | [] => [(o, [b])]

/-- One write of an exchange at this module: on the collective path, or to the accumulate port (R126, R219). -/
def State.exchangeWrite (s : State) (core : Nat) (k : Cmd) (kind : AccKind) (gpa : Nat) (data : List Byte) : Except FaultInfo State :=
  match s.secondStage (s.task core).id.vf gpa data.length with
  | none => .error (progError 2 3 (BitVec.ofNat 64 gpa))
  | some p =>
    .ok (s.send { id := s.nextId, core := core, agent := .collectiveEngine, kind := kind, va := BitVec.ofNat 64 gpa, slot := 64,
                  unit := 256 + p / 2 ^ 36, tier := 3, places := fromTo p data.length, data := data, cmd := k.id,
                  collective := kind == .store, vf := (s.task core).id.vf, lid := (s.task core).id.lid, offs := List.range data.length })

/-- The writes of one peer step (R219, R334). -/
def State.exchangeStep (s : State) (core : Nat) (k : Cmd) (d : Nat) (fid : BitVec 16) (link : Option Nat) (base : Nat) (mine : Nat)
    (key : DWord) : Except FaultInfo State :=
  let (a, b) := k.shards
  let me := a.myrank
  let w := a.width
  let from' := (exchanged a b me d).map (fun e => mine + a.offset me e)
  let es := (exchanged a b me d).map (fun e => (b.offset d e, Memory.readNat s.mem (mine + a.offset me e) w))
  let acc := !(sumAxes a b).isEmpty
  let fmt := if a.fmt = 3 then 5 else a.fmt
  let start := base + k.doff
  let shift := es.map (fun e => (start % 4 + e.1, e.2))
  let m := if acc then accBytes fmt w shift else beatBytes w shift
  let runs := runsOf (m.map (fun e => (start - start % 4 + e.1, e.2)))
  match s.readCheck (from'.flatMap (fun p => fromTo p w)) 0 2 with
  | some f => .error f
  | none => runs.foldl (fun (r : Except FaultInfo State) (x : Nat × List Byte) =>
    match r with
    | .error f => .error f
    | .ok s =>
      match link with
      | some l => .ok (State.bumpId (s.flit (.outWrite s.nextId k.id l fid x.1 key acc x.2)))
      | none =>
        s.exchangeWrite core k (if acc then .accumulate (a.accOp.getD 0) key else .store) x.1 x.2) (.ok s)

/-- The bytes that peers send a command as plain writes. -/
def exchangeExpected (a b : Shard) : Nat :=
  if !(sumAxes a b).isEmpty then 0
  else
    (List.range a.size).foldl (fun acc u =>
      if u = a.myrank then acc else acc + (exchanged a b u a.myrank).length * a.width) 0

/-- One peer step of a COLL, or its end once every word has arrived (R219, R334). -/
def collStep (core : Nat) (k : Cmd) (c : CollSt) (s : State) : Out :=
  let (a, b) := k.shards
  let fn := (s.task core).id.vf
  if a.size ≤ c.sent then
    let mine := s.accEntries.filter (fun e => e.cmd == k.id && !e.flagged)
    let ready := mine.length == c.entries && mine.all (fun e => e.ready)
    if !ready ∨ c.arrived < exchangeExpected a b then skip s
    else
      let s := { s with accEntries := s.accEntries.filter (fun e => !(e.cmd == k.id && !e.flagged)) }
      .next (s.updRun core .collective k.id (fun r => { r with st := .ended 1 (BitVec.ofNat 42 c.sent) }))
  else
    let bad (g : Nat) : Out := .next (s.collFault core k (progError 2 2 (BitVec.ofNat 64 g)))
    match s.peerEntry fn a c.sent, s.peerEntry fn a a.myrank with
    | .ok (fid, base), .ok (_, own) =>
      match s.secondStage fn own (a.bytes a.myrank) with
      | none => bad own
      | some mine =>
        let far := fid != s.cfg.fabricId
        let link := if far then s.linkTo fid else none
        let sent := !(exchanged a b a.myrank c.sent).isEmpty
        if far ∧ sent ∧ link.isNone then .next (s.collFault core k commandError)
        else
          let key : DWord := (s.task core).id.lid ++ BitVec.ofNat 32 (a.myrank * 256 + (k.word 2).toNat % 256)
          match s.exchangeStep core k c.sent fid link base mine key with
          | .error f => .next (s.collFault core k f)
          | .ok s' => .next (s'.setColl core k.id { c with sent := c.sent + 1 })
    | .error f, _ | _, .error f => .next (s.collFault core k f)

/-- The collective engine sends the next beat, words or peer step of a running command (R333, R334, R336). -/
def execCollectiveSend (core index : Nat) (s : State) : Out :=
  match (s.task core).cl.running[index]? with
  | none => skip s
  | some r =>
    match r.st with
    | .coll c =>
      if !s.enginesRun core ∨ s.cmdBusy r.cmd.id then skip s
      else
        (match headCmd r.cmd.head with
         | 0 => collStep core r.cmd c s
         | 2 => if c.forming then rstoreSend core r.cmd c s else collRead core r.cmd c (collFinish core r.cmd c) s
         | 3 => if c.forming then spredSend core r.cmd c s else collRead core r.cmd c (collFinish core r.cmd c) s
         | 4 => collRead core r.cmd c (dispxSend core r.cmd c) s
         | _ => skip s)
    | _ => skip s

/-! ### Writes of peers' exchanges (R55, R121, R219) -/

/-- A running COLL whose destination shard holds a guest-physical address of its function counts bytes that a peer sent: not those of its
own local copy, by its command `own`. Bytes that no running COLL expects yet are noted (R219). -/
def State.countArrival (s : State) (own fn gpa n : Nat) : State :=
  let hit (t : TaskCtx) (r : Running) : Bool :=
    t.id.vf == fn && headCmd r.cmd.head == 0 && (match r.st with | .coll _ => true | _ => false) &&
    (let (a, b) := r.cmd.shards
     match s.peer fn a a.myrank with
     | some (_, g) => decide (g + r.cmd.doff ≤ gpa ∧ gpa < g + r.cmd.doff + b.bytes b.myrank)
     | none => false)
  let ids := s.tasks.flatMap (fun t => (t.cl.running.filter (hit t)).map (·.cmd.id))
  if ids.isEmpty then { s with early := s.early ++ [(fn, gpa, n)] }
  else
    (ids.filter (fun i => i != own)).foldl (fun s i => s.updColl i (fun r =>
      match r.st with | .coll c => { r with st := .coll { c with arrived := c.arrived + n } } | _ => r)) s

/-- A plain write that a peer's exchange sends to this module: it counts as arrived, and goes to its home on the collective path as a write
of component 8 (R121, R126, R219). -/
def State.peerStore (s : State) (fn gpa : Nat) (data : List Byte) : State :=
  match s.secondStage fn gpa data.length with
  | none => s
  | some p =>
    (s.send { id := s.nextId, agent := .hub, kind := .store, slot := 64, unit := 256 + p / 2 ^ 36, tier := 3,
              places := fromTo p data.length, offs := List.range data.length, data := data, collective := true }).countArrival 0 fn gpa data.length

/-- An accumulate write that a peer's exchange sends to this module, of its command `cmd` (R55, R211, R219). -/
def State.peerAccumulate (s : State) (fn gpa : Nat) (key : DWord) (cmd : Nat) (data : List Byte) : Option State :=
  match s.secondStage fn gpa data.length with
  | none => some s
  | some p =>
    let places := fromTo p data.length
    let fmt := match s.accEntries.find? (fun e => e.covers p) with | some e => e.op | none => 0
    let h := placeDie p
    let (v, s') := s.stampFrom 8
    if data.length % 4 ≠ 0 ∨ p % 4 ≠ 0 ∨ !s.causalOk h 8 v then none
    else
      match s'.accumulateAt places data fmt key (2 * cmd + 1) 0 with
      | .done s2 => some (s2.applied h 8 v)
      | _ => some (s'.applied h 8 v)

/-! ### A link fails (R204) -/

/-- Whether a running command has beats still to cross a link. -/
def State.crosses (s : State) (link : Nat) (t : TaskCtx) (r : Running) : Bool :=
  match r.st with
  | .coll c =>
    (match headCmd r.cmd.head with
     | 0 =>
       let (a, b) := r.cmd.shards
       (fromTo c.sent (a.size - c.sent)).any (fun d =>
         match s.peer t.id.vf a d with
         | some (fid, _) => fid != s.cfg.fabricId && s.linkTo fid == some link && !(exchanged a b a.myrank d).isEmpty
         | none => false)
     | 4 => r.cmd.dests.any (fun d => d.1 != s.cfg.fabricId && s.linkTo d.1 == some link)
     | _ => false)
  | _ => false

/-- The commands of a task that still have beats to cross a link, those whose beats it has not taken yet among them. -/
def State.crossing (s : State) (link : Nat) (t : TaskCtx) : List Running :=
  let sent := s.flits.filterMap (fun f => match f with
    | .outRow _ c l _ _ => if l = link then some c else none
    | .outWrite _ c l _ _ _ _ _ => if l = link then some c else none
    | _ => none)
  t.cl.running.filter (fun r => s.crosses link t r || sent.contains r.cmd.id)

/-- A command ends as its link fails: also one that has sent all its beats, some of which have not crossed. -/
def Running.lost (r : Running) : Running :=
  match r.st with
  | .ended st v => if st = 1 then { r with st := .ended 4 v } else r
  | _ => r.finish 4

/-- A command ends since its link has failed (R204), wherever its task is: the record of core `c` goes to the die's fault log. -/
def State.linkFault (s : State) (c : Nat) (t : TaskCtx) (link : Nat) (r : Running) : State :=
  let f := s.mkRec c .collectiveEngine { cls := 5, kind := 6, addr := BitVec.ofNat 64 link }
  (s.logFault (coreDie c) { f with step := BitVec.ofNat 64 r.num, word := 0, lid := t.id.lid }).updColl r.cmd.id Running.lost

/-- A link that cannot retrain (R204): it is failed, and every command with beats still to cross it ends, of a saved task too. What was on
its way over the link is lost. -/
def execLinkFailure (link : Nat) (s : State) : Out :=
  if 16 ≤ link then skip s
  else if !s.linkUp link then skip s
  else
    let tasks := s.cores.map (fun e => (e.1, e.2.task)) ++
      s.dies.flatMap (fun d => d.2.launches.flatMap (fun l => l.saved.map (fun t => (t.core, t.ctx))))
    let s := (tasks.flatMap (fun x => (s.crossing link x.2).map (fun r => (x, r)))).foldl (fun s x => s.linkFault x.1.1 x.1.2 link x.2) s
    let l : Link := { s.hub.links.get link {} with state := 3, lanes := 0 }
    let gone (f : Flit) : Bool := match f with
      | .outRow _ _ l _ _ => l == link
      | .outWrite _ _ l _ _ _ _ _ => l == link
      | .outFlag _ _ _ l _ _ _ _ _ => l == link
      | .outAbort _ l _ _ => l == link
      | _ => false
    .next { s with flits := s.flits.filter (fun f => !gone f), hub := { s.hub with links := s.hub.links.set link l } }

/-! ### The overlap of collective commands (R87, R331) -/

/-- What a collective command reads and writes locally (R87): lines of virtual addresses or of the main file, or lines of guest-physical
addresses, which is how an exchange names its shards. -/
structure CollCover where
  guest : Bool := false
  src : Cover := .none
  dst : Cover := .none
  deriving DecidableEq, Repr

/-- The lines of `n` bytes from a guest-physical address. -/
def guestLines (g n : Nat) : Cover := if n = 0 then .none else .lines false (g / 256 : Nat) ((g + n - 1) / 256 : Nat)

/-- The local source and destination of a collective command (R87, R219). -/
def State.collCover (s : State) (core : Nat) (k : Cmd) : CollCover :=
  match headCmd k.head with
  | 0 =>
    let (a, b) := k.shards
    (match s.peer (s.task core).id.vf a a.myrank with
     | some (_, g) => { guest := true, src := guestLines g (a.bytes a.myrank), dst := guestLines (g + k.doff) (b.bytes b.myrank) }
     | none => {})
  | 2 | 3 => { src := (k.layout false).cover, dst := (k.layout true).cover }
  | 4 => { src := (k.layout false).cover }
  | _ => {}

/-- Lines of virtual addresses as the guest-physical lines that a contiguous tier-3 segment gives them. -/
def State.guestCover (s : State) (core : Nat) : Cover → Cover
  | .all => .all
  | .none | .lines true _ _ => .none
  | .lines false lo hi =>
    match s.guestAddr core (wrap 64 (lo * 256)) with
    | some g => .lines false (g / 256 : Nat) ((g / 256 : Nat) + (hi - lo))
    | none => .none

/-- A cover as guest-physical lines, where the other command names such lines. -/
def State.coverFor (s : State) (core : Nat) (mine other : CollCover) (c : Cover) : Cover :=
  if other.guest && !mine.guest then s.guestCover core c else c

/-- Whether a later collective command must wait for one in flight (R87). -/
def State.collOverlap (s : State) (core : Nat) (new old : CollCover) : Bool :=
  let a := s.coverFor core new old new.src
  let b := s.coverFor core new old new.dst
  let x := s.coverFor core old new old.src
  let y := s.coverFor core old new old.dst
  a.meets y || b.meets y || b.meets x

/-- Whether a collective command must wait for those in flight (R87, R331). -/
def State.collWaits (s : State) (core : Nat) (k : Cmd) : Bool :=
  let live := (s.task core).cl.running.filter (fun r => match r.st with | .ended st _ => decide (st ≠ 5) | _ => true)
  decide (4 ≤ live.length) ||
  (match s.collRecords core k with
   | .ok k => live.any (fun r => s.collOverlap core (s.collCover core k) (s.collCover core r.cmd))
   | .error _ => false)

end Sys2Proof.Machine
end

