-- ==== Sys2Proof/Machine/Engines.lean ====
section
/-! DEFINITION. The dequeue of engine commands and their completion (R53, R87, R91, R97, R98, R100, R119, R222, R292, R300 to R302, R314,
R316, R331, R337, R370). -/

namespace Sys2Proof.Machine

open Sys2Proof

/-! ### What a dequeue waits for -/

/-- The pacing gap of an engine has passed since its last dequeue (R370). -/
def EngineSt.paced (e : EngineSt) (floor ac : Nat) : Bool :=
  match e.lastDequeue with
  | none => true
  | some t => decide (t + max e.gap.toNat floor ≤ ac)

/-- The token and the flag that a command waits for let it start (R91, R119): an update of the flag may have met its await before now
(R324). -/
def State.mayStart (s : State) (core : Nat) (k : Cmd) : Bool :=
  (match k.waitTok with
   | some w => s.tokenSeen core w != 0
   | none => true) &&
  (match k.await with
   | some (f, v) => k.woken || serialGe ((s.task core).shared.flag.get f 0) v
   | none => true)

/-- Whether an engine has no room for the command at its head: the matrix engine and Mule run one at a time (R292, R316), the
others as R87, R315 and R331 give. -/
def State.engineBusy (s : State) (core : Nat) (e : Engine) (k : Cmd) : Bool :=
  match e with
  | .matrix => !(s.task core).mx.running.isEmpty
  | .mule => !(s.task core).ml.running.isEmpty
  | .copy => s.copyWaits core k
  | .collective => s.collWaits core k

/-- The command that an engine may dequeue now (R97, R292): it stood in the queue when the ac began (R370), its pusher's stores have
performed, its token and flag are there, the gap, as it stood then, has passed and the engine has room. A copy that R87 does not start yet
stays at the head, undequeued (assumption 111). -/
def State.dequeueable (s : State) (core : Nat) (e : Engine) : Option Cmd :=
  let t := s.task core
  let q := t.engine e
  match q.queue with
  | [] => none
  | k :: _ =>
    let old := (s.was core).engine e
    if s.enginesRun core && decide (q.busyTill ≤ s.ac) && old.queue.any (fun o => o.id == k.id) && !s.anyLive k.after && s.mayStart core k &&
        EngineSt.paced { q with gap := old.gap } s.hub.paceFloor s.ac && !s.engineBusy core e k
    then some k else none

/-- The head of an engine's queue leaves it as a running command, and its token wait subtracts (R91, R97). Copies and tensor moves share one
queue and one count of the commands dequeued (R186, assumption 117). -/
def State.takeHead (s : State) (core : Nat) (e : Engine) (k : Cmd) : State :=
  s.updTask core (fun t =>
    let t := t.updEngine e (fun q =>
      { q with queue := q.queue.drop 1, running := q.running ++ [{ cmd := k, num := q.count, st := .io }],
               lastDequeue := some s.ac, count := q.count + 1 })
    match k.waitTok with
    | some w =>
      let g := t.shared.token.get w {}
      { t with shared := { t.shared with token := t.shared.token.set w { g with count := g.count - 1, taken := g.taken + 1 } } }
    | none => t)

/-! ### What each engine starts -/

/-- The running command `k` takes its state and, with its records in place, its words. -/
def State.begin (s : State) (core : Nat) (e : Engine) (k : Cmd) (st : RunSt) : State :=
  s.updRun core e k.id (fun r => { r with cmd := k, st := st })

/-- A command that reads words of its own sends its reads. -/
def State.beginLoads (s : State) (core : Nat) (e : Engine) (a : Agent) (k : Cmd) (qs : Except FaultInfo (List Request)) : State :=
  let fail (s : State) (f : FaultInfo) : State :=
    if e = .mule then s.muleCmdFault core k.id (s.mkRec core .mule f)
    else s.cmdFault core a k.id f
  match qs with
  | .error f => fail s f
  | .ok l => s.sendLoads core [] l

/-- A matrix command starts (R292, R296, R301, R302). -/
def State.beginMatrix (s : State) (core : Nat) (k : Cmd) : State :=
  match headCmd k.head with
  | 0 =>
    (match s.startNest core k with
     | .error f => s.cmdFault core .matrixEngine k.id f
     | .ok st => s.begin core .matrix k st)
  | 1 => s.beginLoads core .matrix .matrixEngine k (fmtldLoads k)
  | 2 => s.beginLoads core .matrix .matrixEngine k (cstldLoads k)
  | _ => s.cmdFault core .matrixEngine k.id commandError

/-- The tag-in-use fault of R53. -/
def tagInUse (t : Nat) : FaultInfo := { cls := 5, kind := 2, opf := BitVec.ofNat 8 (opfTag t) }

/-- A copy or tensor move starts (R53, R314): it clears its tag, unless a transfer in flight holds it. -/
def State.beginCopy (s : State) (core : Nat) (k : Cmd) : State :=
  if 3 ≤ headCmd k.head then
    (s.cmdFault core .copyEngine k.id commandError).updRun core .copy k.id (fun r => { r with actions := false })
  else
    let held := (s.task core).cp.running.any (fun r => r.cmd.id != k.id && r.inFlight && r.cmd.tag == k.tag)
    if held then
      (s.cmdFault core k.mover k.id (tagInUse k.tag)).updRun core .copy k.id (fun r => { r with actions := false })
    else
      let s := s.updShared core (fun h =>
        { h with tags := h.tags &&& ~~~ BitVec.ofNat 64 (2 ^ k.tag), tagrec := h.tagrec.set k.tag 0 })
      match s.startCopy core k with
      | .error f => s.cmdFault core k.mover k.id f
      | .ok (k, c) => s.begin core .copy k (.copy c)

/-- A collective command starts (R331). -/
def State.beginColl (s : State) (core : Nat) (k : Cmd) : State :=
  match s.collRecords core k with
  | .error f => s.cmdFault core .collectiveEngine k.id f
  | .ok k =>
    match s.startCollective core k with
    | .error f => s.cmdFault core .collectiveEngine k.id f
    | .ended s' v => s'.begin core .collective k (.ended 1 (BitVec.ofNat 42 v))
    | .run s' c => s'.begin core .collective k (.coll c)

/-- An `MRUN` starts Mule (R103, R316). -/
def State.beginMrun (s : State) (core : Nat) (k : Cmd) : State :=
  let w := (k.word 1).toNat
  if headLen k.head ≠ 2 ∨ headXb k.head ∨ bits w 16 16 ≠ 0 then s.beginLoads core .mule .mule k (.error commandError)
  else
    (s.updTask core (fun t =>
      { t with mule := { t.mule with st := .run, step := bits w 0 10, mslot := bits w 10 6, g := t.mule.g.set 1 (k.word 2) } })).begin
      core .mule k .mule

/-- A command of Mule's queue starts (R316). -/
def State.beginMule (s : State) (core : Nat) (k : Cmd) : State :=
  match headCmd k.head with
  | 0 => s.beginMrun core k
  | 1 => s.beginLoads core .mule .mule k (mloadLoads k)
  | _ => s.beginLoads core .mule .mule k (.error commandError)

/-- A dequeued command starts on its engine. -/
def State.begins (s : State) (core : Nat) (e : Engine) (k : Cmd) : State :=
  match e with
  | .matrix => s.beginMatrix core k
  | .copy => s.beginCopy core k
  | .collective => s.beginColl core k
  | .mule => s.beginMule core k

/-- The command at the head starts, or ends with a machine check where its queue entry shows an uncorrectable error in this turn (R201). -/
def State.startHead (s : State) (core : Nat) (e : Engine) (k : Cmd) : State :=
  let u := s.takeHead core e k
  let f : FaultInfo := { cls := 9, kind := 1 }
  if s.cur.struck.isNone then u.begins core e k
  else
    match e with
    | .mule => u.muleCmdFault core k.id (u.engineRec core .mule k.id f)
    | .matrix => u.cmdFault core .matrixEngine k.id f
    | .copy => (u.cmdFault core k.mover k.id f).updRun core .copy k.id (fun r => { r with actions := decide (headCmd k.head < 3) })
    | .collective => u.cmdFault core .collectiveEngine k.id f

/-- The engine dequeues the command at its head. -/
def dequeue (core : Nat) (e : Engine) (s : State) : Out :=
  match s.dequeueable core e with
  | none => skip s
  | some k => .next (s.startHead core e k)

/-- An engine dequeues a command and starts it (R97). -/
def execCommandDequeue (core : Nat) (engine : Engine) (s : State) : Out := dequeue core engine s

/-- The dequeue of a command of one kind: CMD `cmd` of its engine (R239). -/
def dequeueKind (core : Nat) (e : Engine) (cmd : Nat) (s : State) : Out :=
  match s.dequeueable core e with
  | none => skip s
  | some k => if headCmd k.head = cmd then .next (s.startHead core e k) else skip s

/-- A nest starts (R296). -/
def execNest (core : Nat) (s : State) : Out := dequeueKind core .matrix 0 s
/-- A load of format-table entries starts (R301). -/
def execFmtld (core : Nat) (s : State) : Out := dequeueKind core .matrix 1 s
/-- A load of a sign matrix starts (R302). -/
def execCstld (core : Nat) (s : State) : Out := dequeueKind core .matrix 2 s
/-- A copy starts (R314). -/
def execCopy (core : Nat) (s : State) : Out := dequeueKind core .copy 0 s
/-- A resumed copy starts (R314). -/
def execCopyr (core : Nat) (s : State) : Out := dequeueKind core .copy 1 s
/-- A tensor move starts (R314). -/
def execTmove (core : Nat) (s : State) : Out := dequeueKind core .copy 2 s
/-- An exchange of shards starts (R334). -/
def execColl (core : Nat) (s : State) : Out := dequeueKind core .collective 0 s
/-- A join starts (R332). -/
def execJoin (core : Nat) (s : State) : Out := dequeueKind core .collective 1 s
/-- A reduction store starts (R333). -/
def execRstore (core : Nat) (s : State) : Out := dequeueKind core .collective 2 s
/-- A sparse reduction starts (R333). -/
def execSpred (core : Nat) (s : State) : Out := dequeueKind core .collective 3 s
/-- A dispatch of a row starts (R336). -/
def execDispx (core : Nat) (s : State) : Out := dequeueKind core .collective 4 s
/-- An abort of a window starts (R332). -/
def execAbort (core : Nat) (s : State) : Out := dequeueKind core .collective 5 s
/-- The registration of an accumulate entry (R335). -/
def execAccreg (core : Nat) (s : State) : Out := dequeueKind core .collective 6 s
/-- The freeing of an accumulate entry (R335). -/
def execAccfree (core : Nat) (s : State) : Out := dequeueKind core .collective 7 s
/-- The registration of an expert buffer (R336). -/
def execXbreg (core : Nat) (s : State) : Out := dequeueKind core .collective 8 s
/-- Mule's program starts (R316). -/
def execMrun (core : Nat) (s : State) : Out := dequeueKind core .mule 0 s
/-- A load of Mule's control store starts (R316). -/
def execMload (core : Nat) (s : State) : Out := dequeueKind core .mule 1 s

/-! ### Completion (R98) -/

/-- The status and value with which a running command completes now, or none while it runs (R98, R103, R316). -/
def State.outcome (s : State) (core : Nat) (r : Running) : Option (BitVec 8 × BitVec 42) :=
  if s.cmdBusy r.cmd.id then none
  else
    match r.st with
    | .ended st v => some (st, v)
    | .io => some (1, 0)
    | .mule =>
      (match (s.task core).mule.st with
       | .halted | .idle => some (1, 0)
       | _ => none)
    | _ => none

/-- Whether a command is a transfer. -/
def isTransfer (e : Engine) (k : Cmd) : Bool := e == .copy && decide (headCmd k.head ≤ 2)

/-- The tag step of a completion in an ac (R53): TAGREC first, then the bit, which a `TAGCLR` of that ac leaves set (R325). -/
def Shared.retireTag (h : Shared) (t : Nat) (status : BitVec 8) (resume : BitVec 42) (ac : Nat) : Shared :=
  let h := { h with tagrec := h.tagrec.set t (BitVec.ofNat 64 (resume.toNat * 2 ^ 16 + status.toNat)) }
  let bit : DWord := BitVec.ofNat 64 (2 ^ t)
  { h with tags := h.tags ||| bit, retired := (ac, if h.retired.1 = ac then h.retired.2 ||| bit else bit) }

/-- The token and flag step of a completion (R91, R98, R119). -/
def TaskCtx.signalDone (t : TaskCtx) (k : Cmd) : TaskCtx :=
  let t := match k.sigTok with
    | some j =>
      let g := t.shared.token.get j {}
      { t with shared := { t.shared with token := t.shared.token.set j { g with count := g.count + 1 } } }
    | none => t
  match k.sets with
  | some (f, v) => t.setFlag f v
  | none => t

/-- Whether a completion must wait for its token to fall below 255 (R91). -/
def State.tokenHeld (s : State) (core : Nat) (k : Cmd) : Bool :=
  match k.sigTok with
  | some j => !s.tokenRoom core j
  | none => false

/-- The element of a command that has a KIND of its own (R100, R300, R315, R337). The KIND and VALUE that another command's
element carries are not stated: they are free values (assumption 16). -/
def State.element (s : State) (e : Engine) (k : Cmd) (status : BitVec 8) (value : BitVec 42) : DWord :=
  match e with
  | .collective => outElement 3 status 0 value
  | .copy => outElement 2 status (if isTransfer e k then k.tag else 0) value
  | _ =>
    if e = .matrix ∧ headCmd k.head = 0 then outElement 1 status 0 value
    else
      let v := (Config.freeValue s.freeCnt).toNat
      outElement (1 + v % 4) status 0 (BitVec.ofNat 42 (v / 4))

/-- Step 1 of a completion (R98): a transfer's tag (R53). The leases that the command holds are released (R77). -/
def State.completeTag (s : State) (core : Nat) (e : Engine) (r : Running) (status : BitVec 8) (value : BitVec 42) : State :=
  let s := if isTransfer e r.cmd && r.actions then s.updShared core (fun h => h.retireTag r.cmd.tag status value s.ac) else s
  let s := r.holds.foldl (fun s h => s.releaseHold h.1 h.2) s
  s.updRun core e r.cmd.id (fun x => { x with tagged := true, holds := [], st := .ended status value })

/-- Step 2 of a completion (R98): its token and its flag. -/
def State.completeSignal (s : State) (core : Nat) (e : Engine) (k : Cmd) : State :=
  let s := s.updTask core (fun t => t.signalDone k)
  (s.updRun core e k.id (fun x => { x with acted := true })).updCore core (fun k => { k with idleSince := s.rc })

/-- A command leaves its engine. -/
def State.dropRun (s : State) (core : Nat) (e : Engine) (id : Nat) : State :=
  s.updTask core (fun t => t.updEngine e (fun q => { q with running := q.running.filter (fun r => r.cmd.id != id) }))

/-- Step 3 of a completion (R98): the element goes to the output FIFO, or is held while the FIFO is full. -/
def State.completeElement (s : State) (core : Nat) (e : Engine) (k : Cmd) (status : BitVec 8) (value : BitVec 42) : State :=
  if !headNtf k.head then s.dropRun core e k.id
  else if s.outFull core e then s
  else
    let v := s.element e k status value
    State.dropRun { (s.updTask core (fun t => t.updEngine e (fun q => { q with out := q.out ++ [v] }))) with
      freeCnt := s.freeCnt + 1 } core e k.id

/-- Whether a core's engines may complete commands: also while its task stops (R196, R377). -/
def Core.enginesComplete (k : Core) : Bool :=
  match k.residency with
  | .resident | .retiring _ | .stopping _ => true
  | _ => false

/-- A command completes (R98): tags, then token and flag, then its element. While its token stands at 255 it goes no further than
its tag (R91). While another command's completion has begun and is not over, no further command of the engine completes. -/
def execCommandCompletion (core : Nat) (engine : Engine) (index : Nat) (s : State) : Out :=
  let q := (s.task core).engine engine
  match q.running[index]? with
  | none => skip s
  | some r =>
    if !(s.core core).enginesComplete ∨ s.hub.relocking then skip s
    else if r.acted then
      match r.st with
      | .ended st v => .next (s.completeElement core engine r.cmd st v)
      | _ => skip s
    else
      match s.outcome core r with
      | none => skip s
      | some (st, v) =>
        if q.running.any (fun x => (x.acted || x.tagged) && x.cmd.id != r.cmd.id) then skip s
        else
          let s := if r.tagged then s else s.completeTag core engine r st v
          if s.tokenHeld core r.cmd then .next s
          else .next ((s.completeSignal core engine r.cmd).completeElement core engine r.cmd st v)

end Sys2Proof.Machine
end

