-- ==== Sys2Proof/Machine/Admission.lean ====
section
/-! DEFINITION. Launch records and their admission (R165, R166), symmetry groups (R170 to R172) and the order in which Ox visits
index vectors (R167). -/

namespace Sys2Proof.Machine

open Sys2Proof

/-! ### Launch records (R165) -/

/-- A launch record read from its 1024 bits. -/
def LaunchRec.ofBits (n : Nat) : LaunchRec :=
  { entry := BitVec.ofNat 64 (bits n 0 64), symw := BitVec.ofNat 64 (bits n 64 64), rank := bits n 128 3, crew := bits n 131 5,
    gsize := bits n 136 4, nslot := bits n 140 8, acct := bits n 148 12, lid := BitVec.ofNat 32 (bits n 160 32),
    oslot := bits n 192 6, cdim := bits n 198 3, rdim := bits n 201 3, prio := bits n 204 2, order := bits n 206 2,
    die := bits n 208 3, coremask := BitVec.ofNat 16 (bits n 240 16), obase := bits n 256 58,
    clmask := BitVec.ofNat 32 (bits n 320 32), ors := bits n 352 32, stimg := bits n 400 48, synct := bits n 464 48,
    ext := (List.range 6).map (fun l => bits n (512 + 32 * l) 32),
    ots := (List.range 6).map (fun l => sext (bits n (704 + 32 * l) 32) 32),
    reservedZero := decide (bits n 896 128 = 0 ∧ bits n 448 16 = 0 ∧ bits n 384 16 = 0 ∧ bits n 314 6 = 0 ∧ bits n 211 29 = 0) }

/-- The extent of level `l`. -/
def LaunchRec.extent (r : LaunchRec) (l : Nat) : Nat := r.ext.getD l 0

/-- Index vectors of a launch. -/
def LaunchRec.total (r : LaunchRec) : Nat := (List.range r.rank).foldl (fun acc l => acc * r.extent l) 1

/-- Generators that a record names (R170). -/
def LaunchRec.ngen (r : LaunchRec) : Nat := bits r.symw.toNat 48 2

/-- Tasks of a whole unit: a gang, or a crew of gangs (R168). -/
def LaunchRec.unitSize (r : LaunchRec) : Nat := (r.crew + 1) * (r.gsize + 1)

/-! ### Symmetry groups (R171, R172) -/

/-- A generator's fields (R170). -/
structure Generator where
  kind : Nat
  char : Bool
  da : Nat
  db : Nat
  param : Nat
  deriving DecidableEq, Repr

/-- Generator `n` of a record. -/
def LaunchRec.gen (r : LaunchRec) (n : Nat) : Generator :=
  let g := bits r.symw.toNat (16 * n) 16
  { kind := bits g 14 2, char := bits g 13 1 = 1, da := bits g 10 3, db := bits g 7 3, param := bits g 0 7 }

/-- The admission conditions of one generator (R171). -/
def LaunchRec.genOk (r : LaunchRec) (g : Generator) : Bool :=
  decide (g.da < r.rank ∧ g.db < r.rank) &&
  (match g.kind with
   | 0 =>
     let has (l : Nat) : Bool := l == r.rdim || l == r.cdim
     g.da != g.db && r.extent g.da == r.extent g.db && g.param == 0 && has g.da == has g.db
   | 1 => g.param == 0
   | 2 => decide (1 ≤ g.param ∧ g.param < r.extent g.da ∧ g.param < r.extent g.db)
   | _ => false)

/-- The symmetry word keeps the rules of R170 and R171. -/
def LaunchRec.symOk (r : LaunchRec) : Bool :=
  bits r.symw.toNat 50 14 == 0 &&
  (List.range 3).all (fun n => if n < r.ngen then r.genOk (r.gen n) else bits r.symw.toNat (16 * n) 16 == 0) &&
  (r.ngen == 0 || decide (r.rdim ≠ r.cdim ∧ r.rdim < r.rank ∧ r.cdim < r.rank))

/-- The identity of a group. -/
def SymElem.one : SymElem := { perm := List.range 6, neg := List.replicate 6 false, off := List.replicate 6 0 }

/-- The map of a generator (R171). -/
def LaunchRec.genMap (r : LaunchRec) (g : Generator) : SymElem :=
  let at? (l : Nat) : Bool := l == g.da || l == g.db
  { perm := (List.range 6).map (fun l => if g.kind = 0 then (if l = g.da then g.db else if l = g.db then g.da else l) else l),
    neg := (List.range 6).map (fun l => g.kind == 1 && at? l),
    off := (List.range 6).map (fun l => if at? l then (match g.kind with | 1 => r.extent l - 1 | 2 => g.param | _ => 0) else 0) }

/-- The map `g` after `e`. -/
def LaunchRec.compose (r : LaunchRec) (g e : SymElem) : SymElem :=
  { perm := (List.range 6).map (fun l => e.perm.getD (g.perm.getD l 0) 0),
    neg := (List.range 6).map (fun l => g.neg.getD l false != e.neg.getD (g.perm.getD l 0) false),
    off := (List.range 6).map (fun l =>
      let n := max (r.extent l) 1
      let x := e.off.getD (g.perm.getD l 0) 0
      ((if g.neg.getD l false then n - x % n else x) + g.off.getD l 0) % n) }

/-- A map in a form that two maps share when they agree on every vector (R172): a level of extent 1 holds only 0, and of extent 2 a
reflection is a shift. -/
def LaunchRec.normal (r : LaunchRec) (e : SymElem) : SymElem :=
  { perm := (List.range 6).map (fun l => if r.extent l ≤ 1 then l else e.perm.getD l 0),
    neg := (List.range 6).map (fun l => decide (2 < r.extent l) && e.neg.getD l false),
    off := (List.range 6).map (fun l => if r.extent l ≤ 1 then 0 else e.off.getD l 0 % r.extent l) }

/-- The index of the element that equals `e`. -/
def LaunchRec.indexOf (r : LaunchRec) (e : SymElem) (es : List SymElem) : Option Nat :=
  es.findIdx? (fun x => r.normal x == r.normal e)

/-- Generators from `n` on applied to element `i`, `fuel` of them, with the elements and characters found; none refuses the
launch (R172). On a level of extent 2, where a reflection equals a shift, an element keeps the sign of the composition that found it
(assumption 115). -/
def LaunchRec.closeOne (r : LaunchRec) (i : Nat) : Nat → Nat → List SymElem → List Bool → Option (List SymElem × List Bool)
  | 0, _, es, cs => some (es, cs)
  | fuel + 1, n, es, cs =>
    let g := r.gen n
    let h := r.compose (r.genMap g) (es.getD i SymElem.one)
    let c := cs.getD i false != g.char
    match r.indexOf h es with
    | some m => if cs.getD m false = c then r.closeOne i fuel (n + 1) es cs else none
    | none => if 16 ≤ es.length then none else r.closeOne i fuel (n + 1) (es ++ [h]) (cs ++ [c])

/-- The closure of R172 from element `i` on. A group has at most 16 elements, so 17 rounds end it. -/
def LaunchRec.close (r : LaunchRec) : Nat → Nat → List SymElem → List Bool → Option (List SymElem × List Bool)
  | 0, _, es, cs => some (es, cs)
  | fuel + 1, i, es, cs =>
    if es.length ≤ i then some (es, cs)
    else
      match r.closeOne i r.ngen 0 es cs with
      | none => none
      | some (es, cs) => r.close fuel (i + 1) es cs

/-- The group of a launch and its characters, true for −1; no elements for a launch without generators; none refuses the launch. -/
def LaunchRec.group (r : LaunchRec) : Option (List SymElem × List Bool) :=
  if r.ngen = 0 then some ([], []) else r.close 17 0 [SymElem.one] [false]

/-- An element applied to an index vector (R172, R175). -/
def LaunchRec.apply (r : LaunchRec) (e : SymElem) (t : List Nat) : List Nat :=
  (List.range r.rank).map (fun l =>
    let n := max (r.extent l) 1
    let x := t.getD (e.perm.getD l 0) 0
    ((if e.neg.getD l false then n - x % n else x) + e.off.getD l 0) % n)

/-- Lexicographic order with level 0 first. -/
def lexLe : List Nat → List Nat → Bool
  | a :: s, b :: t => decide (a < b) || (a == b && lexLe s t)
  | _, _ => true

/-- Whether a vector is canonical (R172). -/
def Launch.canonical (l : Launch) (t : List Nat) : Bool := l.elems.all (fun e => lexLe t (l.lrec.apply e t))

/-- The stabiliser of a vector as a mask (R172). -/
def Launch.stabiliser (l : Launch) (t : List Nat) : BitVec 16 :=
  if l.elems.isEmpty then 1
  else BitVec.ofNat 16 ((l.elems.zipIdx).foldl (fun acc e => if l.lrec.apply e.1 t = t then acc + 2 ^ e.2 else acc) 0)

/-! ### Visiting order (R167) -/

/-- Digits of a number, the fastest level last: level RANK − 1 fastest. -/
def LaunchRec.rowMajor (r : LaunchRec) (n : Nat) : List Nat :=
  ((List.range r.rank).foldl (fun (acc : List Nat × Nat) i =>
    let e := max (r.extent (r.rank - 1 - i)) 1
    (acc.2 % e :: acc.1, acc.2 / e)) ([], n)).1

/-- Digits of a number, level 0 fastest. -/
def LaunchRec.columnMajor (r : LaunchRec) (n : Nat) : List Nat :=
  ((List.range r.rank).foldl (fun (acc : List Nat × Nat) l =>
    let e := max (r.extent l) 1
    (acc.1 ++ [acc.2 % e], acc.2 / e)) ([], n)).1

/-- The vector of a Morton code: bit b of level l is bit b × RANK + l. -/
def LaunchRec.morton (r : LaunchRec) (code : Nat) : List Nat :=
  (List.range r.rank).map (fun l => (List.range 32).foldl (fun acc b => acc + bits code (b * r.rank + l) 1 * 2 ^ b) 0)

/-- Row-major digits with the levels that run in descending order turned (R167). -/
def LaunchRec.serpentine (r : LaunchRec) (n : Nat) : List Nat :=
  ((r.rowMajor n).zipIdx).foldl (fun (acc : List Nat) (x : Nat × Nat) =>
    acc ++ [if x.2 ≠ 0 ∧ acc.foldl (· + ·) 0 % 2 = 1 then r.extent x.2 - 1 - x.1 else x.1]) []

/-- What Ox meets at position `n` of a launch. -/
inductive Visit where
  | done
  | passed
  | vector (t : List Nat)
  deriving DecidableEq, Repr

/-- Bits of the largest index of a launch. -/
def LaunchRec.indexBits (r : LaunchRec) : Nat :=
  (List.range r.rank).foldl (fun acc l => max acc (if r.extent l ≤ 1 then 0 else (r.extent l - 1).log2 + 1)) 0

/-- Position `n` of the visiting order. -/
def LaunchRec.visit (r : LaunchRec) (n : Nat) : Visit :=
  match r.order with
  | 2 =>
    if 2 ^ (r.indexBits * r.rank) ≤ n then .done
    else
      let t := r.morton n
      if (t.zipIdx).all (fun x => decide (x.1 < r.extent x.2)) then .vector t else .passed
  | o =>
    if r.total ≤ n then .done
    else .vector (match o with | 0 => r.rowMajor n | 1 => r.columnMajor n | _ => r.serpentine n)

/-! ### Admission (R166) -/

/-- Whether a core number is enabled for placement (R162, R190, R361). -/
def State.coreEnabled (s : State) (c : Nat) : Bool := s.coreUsable c && !(s.core c).fw.halted

/-- Clusters of a record's CLMASK. -/
def LaunchRec.clusters (r : LaunchRec) : List Nat := setBits r.clmask.toNat 32

/-- Eligible cores of cluster `cl` of the record's die, in ascending number. -/
def LaunchRec.eligible (r : LaunchRec) (cl : Nat) : List Nat := (setBits r.coremask.toNat 16).map (coreNum r.die cl)

/-- Whether a record is admitted for function `fn` (R166); none when it is refused, else its group. -/
def State.enrol (s : State) (fn : Nat) (r : LaunchRec) : Option (List SymElem × List Bool) :=
  let a := s.account r.acct
  let big := r.clusters.filter (fun cl => decide (r.gsize + 1 ≤ ((r.eligible cl).filter s.coreUsable).length))
  if !r.reservedZero ∨ r.rank = 0 ∨ r.rank = 7 then none
  else if (List.range 6).any (fun l => if l < r.rank then r.extent l == 0 else r.extent l != 0) then none
  else if 2 ^ 48 < r.total ∨ r.nslot = 0 ∨ 144 < r.nslot ∨ r.entry.toNat % 16 ≠ 0 then none
  else if big.length < r.crew + 1 then none
  else if a.ast = 0 ∨ a.ast = 3 ∨ a.vf ≠ fn then none
  else if !r.symOk then none
  else r.group

/-- Whether an admitted launch waits in the shadow bank of some ring for die `d` (R349). -/
def Chain.waitsFor (c : Chain) (d : Nat) : Bool :=
  match c.shadow with
  | some (_, body, true) => bits body.toNat 2000 3 == 0 && bits body.toNat 208 3 == d
  | _ => false

/-- Admitted launches of a die that have not completed, with those in shadow banks (R166). -/
def State.admitted (s : State) (d : Nat) : Nat :=
  (s.die d).launches.length +
  (s.hub.functions.flatMap (fun f => f.2.rings.flatMap (fun r => r.2.chains.filter (fun c => c.waitsFor d)))).length

/-- Whether a die's launch queues are full (R166). -/
def State.dieFull (s : State) (d : Nat) : Bool := decide (1024 ≤ s.admitted d)

/-- A launch enters the tail of its queue (R179). -/
def State.enqueueLaunch (s : State) (fn : Nat) (r : LaunchRec) (g : List SymElem × List Bool) (chain : Nat × Nat × Nat) : State :=
  let l : Launch := { id := s.nextId, fn := fn, lrec := r, elems := g.1, chi := g.2, cls := r.prio, chain := chain }
  s.bumpId.updDie r.die (fun d => { d with launches := d.launches ++ [l] })

end Sys2Proof.Machine
end

