-- ==== Sys2Proof/Machine/Chains.lean ====
section
/-! DEFINITION. Operator records, their chains and the completion of packets and records (R345 to R351, R374). -/

namespace Sys2Proof.Machine

open Sys2Proof

/-! ### Rings and packets (R345 to R347) -/

/-- Ring `n` of a function. -/
def Function.ring (f : Function) (n : Nat) : Ring := f.rings.get n {}

/-- Ring `n` of function `fn`. -/
def State.ring (s : State) (fn n : Nat) : Ring := (s.fn fn).ring n

/-- `s` with a ring changed by `f`. -/
def State.updRing (s : State) (fn n : Nat) (f : Ring → Ring) : State :=
  s.updFn fn (fun k => { k with rings := k.rings.set n (f (k.ring n)) })

/-- Whether a ring is served (R345). -/
def Ring.on (r : Ring) : Bool := r.reg.getLsbD 0
/-- The address of a ring's memory. -/
def Ring.base (r : Ring) : Nat := r.reg.toNat / 4096 * 4096
/-- Slots of a ring. -/
def Ring.size (r : Ring) : Nat := 2 ^ (bits r.reg.toNat 4 4 + 4)
/-- The die whose control cores serve a ring. -/
def Ring.die (r : Ring) : Nat := bits r.reg.toNat 8 3

/-- The place of `n` bytes at an address in a ring's LOC space (R345, R27): host memory, or tier 3 of its function. -/
def State.ringPlace (s : State) (fn n a len : Nat) : Option Nat :=
  if (s.ring fn n).reg.getLsbD 11 then s.secondStage fn a len else some (hostPlace a)

/-- The packet of count `c` among those consumed. -/
def Ring.packet (r : Ring) (c : Nat) : Option Packet := r.packets.find? (fun p => p.count == c)

/-- Whether a consumed packet may start (R346, R347). The acquire before the
start and the release at the completion hold for every observer, whatever FSCOPE names (R105, assumption 121). -/
def Ring.mayStart (r : Ring) (p : Packet) : Bool :=
  let earlier := r.packets.takeWhile (fun q => q.count != p.count)
  !p.started &&
  (match bits p.body.toNat (2016 + 6) 2 with
   | 0 => earlier.isEmpty
   | 1 => earlier.all (fun q => q.started)
   | _ => true)

/-- TYPE of a packet. -/
def Packet.type (p : Packet) : Nat := bits p.body.toNat 2016 6
/-- A field of a packet's body. -/
def Packet.field (p : Packet) (lo n : Nat) : Nat := bits p.body.toNat lo n

/-- NKIND of an operator record. -/
def recKind (b : BitVec 2048) : Nat := bits b.toNat 2000 3
/-- NEXT of an operator record. -/
def recNext (b : BitVec 2048) : Nat := bits b.toNat 1792 64

/-- Whether a reserved field or value of an operator record is set (R348). -/
def recBad (b : BitVec 2048) : Bool :=
  let n := b.toNat
  let k := recKind b
  decide (bits n 1984 16 ≠ 0 ∨ bits n 1024 768 ≠ 0 ∨ 4 ≤ k ∨ ((k = 1 ∨ k = 2) ∧ (bits n 288 736 ≠ 0 ∨ bits n 130 62 ≠ 0)))

/-- Whether a packet's trailer or signal fields are bad (R346). -/
def Packet.bad (p : Packet) (fn : Nat) : Bool :=
  let n := p.body.toNat
  let t := p.type
  decide (bits n (2016 + 13) 11 ≠ 0 ∨ bits n (2016 + 6) 2 = 3 ∨ t = 0 ∨ 8 ≤ t ∨ (t = 2 ∧ fn ≠ 0) ∨
    (t ≠ 1 ∧ (bits n 2000 3 ≠ 0 ∨ bits n 1984 16 ≠ 0)) ∨ (t = 1 ∧ recBad p.body))

/-- A packet starts. -/
def State.startPacket (s : State) (fn n c : Nat) : State :=
  s.updRing fn n (fun r => { r with packets := r.packets.map (fun p => if p.count = c then { p with started := true } else p) })

/-! ### Completion records (R351) -/

/-- The 64 B of a completion record. -/
def completionBytes (body : BitVec 2048) (code ops detail extra : Nat) : List Byte :=
  toBytes (bits body.toNat 1920 64 + (code + detail * 2 ^ 8 + ops % 2 ^ 32 * 2 ^ 32) * 2 ^ 64 + extra % 2 ^ 256 * 2 ^ 128) 64

/-- Word `n` of a function's MSI-X table: a vector is masked until its control word, the upper half of its second word, is written with bit 0
clear (assumption 123). -/
def Function.msixWord (f : Function) (n : Nat) : DWord := f.msixTab.get n (if n % 2 = 1 then 2 ^ 32 else 0)

/-- Whether a vector is masked (assumption 123). -/
def Function.masked (f : Function) (vec : Nat) : Bool := (f.msixWord (2 * vec + 1)).getLsbD 32

/-- An interrupt of a vector: it is sent, or stays pending while the vector is masked (assumption 123). -/
def Function.sendVector (f : Function) (vec : Nat) : Function :=
  if f.masked vec then { f with pended := if f.pended.contains vec then f.pended else f.pended ++ [vec] } else { f with msix := f.msix ++ [vec] }

/-- A write of a word of the MSI-X table: a vector that it unmasks is sent if it is pending (assumption 123). -/
def Function.writeMsix (f : Function) (n : Nat) (v : DWord) : Function :=
  let f := { f with msixTab := f.msixTab.set n (if n % 2 = 1 then v &&& 0x7FFFFFFFFFFFFFFF else v) }
  if f.pended.contains (n / 2) && !f.masked (n / 2) then
    { f with pended := f.pended.filter (fun x => x != n / 2), msix := f.msix ++ [n / 2] }
  else f

/-- The interrupt of a record's SIGMODE (R351). -/
def State.interrupt (s : State) (fn n : Nat) (body : BitVec 2048) : State :=
  let vec := bits body.toNat 2008 8
  match bits body.toNat 2003 2 with
  | 2 =>
    let dcn := bits body.toNat 2005 3
    s.updDie (s.ring fn n).die (fun d => { d with irq := d.irq.set dcn (d.irq.get dcn 0 ||| BitVec.ofNat 64 (2 ^ vec)) })
  | 3 => s.updFn fn (fun k => k.sendVector vec)
  | _ => s

/-- A record is signalled (R351): its completion record is written, and then its interrupt is sent. None while the write cannot yet
be applied (R122). -/
def State.signalRecord (s : State) (fn n : Nat) (body : BitVec 2048) (code ops detail extra : Nat) : Option State :=
  let a := bits body.toNat 1856 64
  let written : Option State :=
    if bits body.toNat 2003 2 = 0 ∨ a = 0 then some s
    else
      match s.ringPlace fn n a 64 with
      | some p => s.hubWrite (fromTo p 64) (completionBytes body code ops detail extra)
      | none => some s
  written.map (fun s => s.interrupt fn n body)

/-- A packet completes (R351). -/
def State.completePacket (s : State) (fn n : Nat) (p : Packet) (code ops detail extra : Nat) : Option State :=
  (s.signalRecord fn n p.body code ops detail extra).map (fun s =>
    s.updRing fn n (fun r => { r with packets := r.packets.filter (fun q => q.count != p.count) }))

/-! ### Chains (R348 to R350, R374) -/

/-- Whether a record's expansion succeeds for function `fn` (R349). -/
def State.recOk (s : State) (fn : Nat) (b : BitVec 2048) : Bool :=
  !recBad b && (recKind b != 0 || (s.enrol fn (LaunchRec.ofBits b.toNat)).isSome)

/-- The record at guest-physical address `a`, if it can be read: none lies outside its function's part of HBM, in absent addresses (R46) or in
poisoned units (R201, assumption 110). -/
def State.readRecord (s : State) (fn a : Nat) : Option (BitVec 2048) :=
  if a % 256 ≠ 0 then none
  else
    match s.secondStage fn a 256 with
    | some p => if s.absentIn p 256 ∨ s.poisonedIn p 256 then none else some (BitVec.ofNat 2048 (Memory.readNat s.mem p 256))
    | none => none

/-- The chain of packet `c` of a ring. -/
def Ring.chain (r : Ring) (c : Nat) : Option Chain := r.chains.find? (fun x => x.count == c)

/-- `s` with a chain replaced. -/
def State.setChain (s : State) (fn n : Nat) (c : Chain) : State :=
  s.updRing fn n (fun r => { r with chains := r.chains.map (fun x => if x.count = c.count then c else x) })

/-- A chain ends with its packet's completion (R351). -/
def State.endChain (s : State) (fn n : Nat) (c : Chain) (code extra : Nat) : Option State :=
  let p : Packet := { count := c.count, body := c.packet }
  (s.completePacket fn n p code c.ops 0 extra).map (fun s =>
    s.updRing fn n (fun r => { r with chains := r.chains.filter (fun x => x.count != c.count) }))

/-- A record of a chain completes (R349, R351): it signals, unless it is the packet's own, whose signal comes at the chain's end; then
the chain ends, at once or as soon as its own signal may be written (R122), or goes on to `next`. -/
def State.recordDone (s : State) (fn n : Nat) (c : Chain) (body : BitVec 2048) (code extra next : Nat) : Option State :=
  let signalled := if c.first then some s else s.signalRecord fn n body code c.ops 0 extra
  match signalled with
  | none => none
  | some s =>
    if code ≠ 0 ∨ next = 0 then
      some ((s.endChain fn n c code extra).getD (s.setChain fn n { c with active := none, ending := some (code, extra) }))
    else some (s.setChain fn n { c with active := none, first := false, pendingNext := some next })

/-- Whether a test holds on a word (R348). -/
def testHolds (t w v : Nat) : Bool :=
  match t with
  | 0 => w != v
  | 1 => w == v
  | 2 => decide (w < v)
  | _ => decide (v ≤ w)

/-- A test node is evaluated (R350): where the chain goes and the loop counts after it; none is a refusal. -/
def State.testNode (s : State) (fn n addr : Nat) (b : BitVec 2048) : Option (Nat × List (Nat × Nat)) :=
  let v := b.toNat
  let loops := (s.ring fn n).loops
  match s.secondStage fn (bits v 0 64) 8 with
  | none => none
  | some p =>
    if s.absentIn p 8 ∨ s.poisonedIn p 8 then none else
    let hold := testHolds (bits v 128 2) (Memory.readNat s.mem p 8) (bits v 64 64)
    let alt := bits v 192 64
    if recKind b = 1 then some (if hold then recNext b else alt, loops)
    else
      let max := bits v 256 32
      match loops.find? (fun l => l.1 == addr) with
      | some (_, k) =>
        if hold ∧ (max = 0 ∨ k < max) then some (alt, loops.map (fun l => if l.1 = addr then (addr, k + 1) else l))
        else some (recNext b, loops.filter (fun l => l.1 != addr))
      | none =>
        if hold then (if 8 ≤ loops.length then none else some (alt, loops ++ [(addr, 1)])) else some (recNext b, loops)

/-- A record swaps in (R349, R374). -/
def State.swapIn (s : State) (fn n : Nat) (c : Chain) (addr : Nat) (b : BitVec 2048) (ok : Bool) : Option State :=
  let c := { c with shadow := none, pendingNext := none }
  if !ok then s.recordDone fn n c b 1 0 0
  else
    match recKind b with
    | 0 =>
      let r := LaunchRec.ofBits b.toNat
      let id := s.nextId
      some ((s.enqueueLaunch fn r (r.group.getD ([], [])) (fn, n, c.count)).setChain fn n { c with active := some (addr, b, id) })
    | 3 => s.recordDone fn n c b 0 0 (recNext b)
    | _ =>
      match s.testNode fn n addr b with
      | none => s.recordDone fn n c b 1 0 0
      | some (next, loops) => (s.updRing fn n (fun r => { r with loops := loops })).recordDone fn n c b 0 0 next

/-- The shadow bank swaps in when the record before it has completed (R349). -/
def State.trySwap (s : State) (fn n count : Nat) : Option State :=
  match (s.ring fn n).chain count with
  | none => some s
  | some c =>
    match c.pendingNext, c.shadow with
    | some a, some (b, body, ok) => if a = b then s.swapIn fn n c b body ok else some (s.setChain fn n { c with shadow := none })
    | _, _ => some s

/-- A launch record completes with its code (R351), and the next record may swap in. -/
def State.launchDone (s : State) (l : Launch) (code : Nat) : Option State :=
  let (fn, n, count) := l.chain
  match (s.ring fn n).chain count with
  | none => some s
  | some c =>
    match c.active with
    | none => some s
    | some (_, body, id) =>
      if id ≠ l.id then some s
      else
        let c := { c with ops := c.ops + (if code = 1 then 0 else 1) }
        let extra := match l.faulted with | some r => if code = 2 then r.toBits.toNat else 0 | none => 0
        let c := if code = 0 then c else { c with shadow := none }
        (s.recordDone fn n c body code extra (recNext body)).map (fun s => (s.trySwap fn n count).getD s)

/-- The front end expands the next record of a chain (R349): into the shadow bank while a launch runs, or, when the record before it
has completed, to swap in at once. It waits while the record's die is full (R166). An end or a swap that waited to write its signal (R122)
is made now. -/
def execRecordExpansion (fn ring count : Nat) (s : State) : Out :=
  match (s.ring fn ring).chain count with
  | none => skip s
  | some c =>
    if c.ending.isSome ∨ (c.pendingNext.isSome ∧ c.shadow.isSome) then
      match (match c.ending with | some (code, extra) => s.endChain fn ring c code extra | none => s.trySwap fn ring count) with
      | some s' => .next s'
      | none => skip s
    else
    let target : Option Nat :=
      match c.pendingNext, c.active, c.shadow with
      | some a, _, none => some a
      | none, some (_, body, _), none => if recNext body = 0 then none else some (recNext body)
      | _, _, _ => none
    match target with
    | none => skip s
    | some a =>
      let b := (s.readRecord fn a).getD 0
      let ok := (s.readRecord fn a).isSome && s.recOk fn b
      if ok ∧ recKind b = 0 ∧ s.dieFull (LaunchRec.ofBits b.toNat).die then skip s
      else
        let s := s.setChain fn ring { c with shadow := some (a, b, ok) }
        .next ((s.trySwap fn ring count).getD s)

/-- A packet of TYPE 0x01 starts its chain (R347, R349): the packet is expanded and swaps in. -/
def execOperatorChain (fn ring count : Nat) (s : State) : Out :=
  let r := s.ring fn ring
  match r.packet count with
  | none => skip s
  | some p =>
    if !r.mayStart p ∨ p.type ≠ 1 ∨ p.bad fn then skip s
    else
      let addr := r.base + 256 * (1 + count % r.size)
      let ok := s.recOk fn p.body
      let c : Chain := { count := count, packet := p.body }
      if ok ∧ recKind p.body = 0 ∧ s.dieFull (LaunchRec.ofBits p.body.toNat).die then skip s
      else
        let s' := (s.startPacket fn ring count).updRing fn ring (fun r => { r with chains := r.chains ++ [c] })
        match s'.swapIn fn ring c addr p.body ok with
        | some s2 => .next s2
        | none => skip s

end Sys2Proof.Machine
end

