-- ==== Sys2Proof/Machine/Launch.lean ====
section
/-! DEFINITION. Ox and the die launch queues (R163, R167, R168, R179 to R183), the start of a task (R13, R90, R146, R169, R246), the
images of Lamb (R173 to R178), and the retirement of tasks and launches (R159, R351). -/

namespace Sys2Proof.Machine

open Sys2Proof

/-! ### Launches of a die -/

/-- Launch `l` of die `d`, by its number. -/
def State.launch (s : State) (d l : Nat) : Option Launch := (s.die d).launches.find? (fun x => x.id == l)

/-- `s` with launch `l` of die `d` changed by `f`. -/
def State.updLaunch (s : State) (d l : Nat) (f : Launch → Launch) : State :=
  s.updDie d (fun k => { k with launches := k.launches.map (fun x => if x.id = l then f x else x) })

/-! ### Ox (R167, R168) -/

/-- The vectors formed so far become the launch's next unit (R168). -/
def Launch.formUnit (l : Launch) : Launch :=
  if l.forming.isEmpty then l else { l with forming := [], formed := some { num := l.nextUnit, members := l.forming } }

/-- Ox examines one position of a launch (R167, R168, R172). -/
def Launch.examine (l : Launch) : Launch :=
  match l.lrec.visit l.pos with
  | .done => { l.formUnit with exhausted := true }
  | .passed => { l with pos := l.pos + 1 }
  | .vector t =>
    if !l.canonical t then { l with pos := l.pos + 1 }
    else
      let l := { l with pos := l.pos + 1, forming := l.forming ++ [(t, l.stabiliser t)] }
      if l.forming.length = l.lrec.unitSize then l.formUnit else l

/-- Whether Ox has still to form a launch's next unit (R167). -/
def Launch.oxWork (l : Launch) : Bool := !l.exhausted && l.formed.isNone && !l.refused

/-- The launch whose turn it is with Ox (R167): of those it has work for, the next by number after the last, or the first. -/
def Die.oxNext (k : Die) : Option Nat :=
  let ids := (k.launches.filter Launch.oxWork).map (·.id)
  let later := ids.filter (fun i => match k.oxLast with | some n => decide (n < i) | none => true)
  (if later.isEmpty then ids else later).min?

/-- Ox of a die examines one vector in an ac, of the launch whose turn it is (R167). -/
def execOxVectorExamine (die launch : Nat) (s : State) : Out :=
  if 8 ≤ die then skip s
  else if (s.die die).oxAc = some s.ac ∨ (s.die die).oxNext ≠ some launch then skip s
  else .next ((s.updLaunch die launch Launch.examine).updDie die (fun k => { k with oxLast := some launch, oxAc := some s.ac }))

/-! ### Units (R161, R163, R181) -/

/-- A member of a unit that is to be placed. -/
inductive Member where
  | fresh (vector : List Nat) (stab : BitVec 16)
  | saved (t : SavedTask)

/-- A list cut into pieces of `n`, at most `fuel` of them. -/
def chunks {α : Type} (n : Nat) : Nat → List α → List (List α)
  | 0, _ => []
  | fuel + 1, l => if l.isEmpty then [] else l.take n :: chunks n fuel (l.drop n)

/-- Whether some core of a die still holds a member of a unit. -/
def State.unitHeld (s : State) (d l u : Nat) : Bool :=
  s.cores.any (fun e => coreDie e.1 == d && e.2.residency != .free && e.2.task.id.launch == l && e.2.task.id.unit == u)

/-- The unit of a launch's oldest saved task all of whose members have left their cores (R161). -/
def State.savedUnit (s : State) (d : Nat) (l : Launch) : Option Nat :=
  (l.saved.find? (fun t => !s.unitHeld d l.id t.ctx.id.unit)).map (fun t => t.ctx.id.unit)

/-- The saved members of gang `g` of a unit, by rank. -/
def Launch.savedGang (l : Launch) (u g : Nat) : List Member :=
  let mine := l.saved.filter (fun t => t.ctx.id.unit == u && t.ctx.id.crewRank == g)
  (List.range 16).filterMap (fun r => (mine.find? (fun t => t.ctx.id.gangRank == r)).map Member.saved)

/-- The gangs of the unit that a launch places next (R168, R181 step 4), with the number of a saved one. -/
def State.nextUnit (s : State) (d : Nat) (l : Launch) : Option (Option Nat × List (List Member)) :=
  match s.savedUnit d l with
  | some u => some (some u, ((List.range 32).map (l.savedGang u)).filter (fun g => !g.isEmpty))
  | none =>
    match l.formed with
    | some f => some (none, chunks (l.lrec.gsize + 1) 32 (f.members.map (fun m => Member.fresh m.1 m.2)))
    | none => none

/-- The units of one tick of a task's slots (R82). -/
def meterUnits (nslot : Nat) : Nat := nslot * 16384 * 64

/-- Bytes of a save area (R197). -/
def areaBytes (nslot : Nat) : Nat := nslot * 16384 + 65536

/-- The allowance that a member needs: a tick of its slots and, after a refused save-area debit, that debit (R83, R197). -/
def Member.needs (l : Launch) : Member → Nat
  | .fresh _ _ => meterUnits l.lrec.nslot
  | .saved t => meterUnits l.lrec.nslot + (if t.debitOk then 0 else 2 * areaBytes l.lrec.nslot)

/-- Whether a page that a member waits for holds it back (R375). -/
def Member.waits : Member → Bool
  | .fresh _ _ => false
  | .saved t => t.ctx.waitPage.isSome

/-- Whether a launch is ready (R83, R179, R197, R375): a refused one never is (R344). -/
def State.launchReady (s : State) (d : Nat) (l : Launch) : Bool :=
  let a := s.account l.lrec.acct
  match s.nextUnit d l with
  | none => false
  | some (_, gangs) =>
    let ms := gangs.flatten
    !l.refused && a.ast == 1 && !ms.any Member.waits && decide (ms.foldl (fun acc m => acc + m.needs l) 0 ≤ a.allow)

/-! ### Where a unit fits (R162, R163, R168, R182) -/

/-- Whether a task's segment table, as its launch's image now holds it, has a live tier-1 segment homed on core `c` (R163). -/
def State.holdsNear (s : State) (t : TaskCtx) (c : Nat) : Bool :=
  match s.secondStage t.id.vf (t.id.stimg * 2048) 2048 with
  | none => false
  | some p =>
    (List.range 64).any (fun n =>
      let d := Desc.ofBits (BitVec.ofNat 256 (Memory.readNat s.mem (p + 32 * n) 32))
      let l := s.lease (d.unit 0) d.lease
      d.v && !d.bad && d.tier == 1 && d.kind == 0 && d.homeCore == c && l.st == .active && l.lgen.toNat == d.lgen)

/-- The core to which a member is pinned (R163). -/
def State.pinOf (s : State) : Member → Option Nat
  | .fresh _ _ => none
  | .saved t => if t.pinned && s.holdsNear t.ctx t.core then some t.core else none

/-- Whether a core is free for placement (R162, R190). -/
def State.coreFree (s : State) (c : Nat) : Bool := (s.core c).residency == .free && s.coreEnabled c

/-- Whether a core may be given to a launch: not one held for another launch (R182). `only` restricts it to the clusters of the
launch's own reservation. -/
def State.coreOpen (s : State) (d : Nat) (l : Launch) (only : Option (List Nat)) (c : Nat) : Bool :=
  let cl := c / 16 % 32
  match only with
  | some cls => cls.contains cl
  | none =>
    match (s.die d).reservation with
    | none => true
    | some (id, cls) =>
      id == l.id || !cls.contains cl ||
      (match s.launch d id with
       | some o => !(o.lrec.eligible cl).contains c
       | none => true)

/-- Cores for a gang in cluster `cl`: pinned members keep theirs, and the others take the free eligible ones in ascending number. -/
def State.fitGang (s : State) (d : Nat) (l : Launch) (only : Option (List Nat)) (cl : Nat) (pins : List (Option Nat)) :
    Option (List Nat) :=
  let kept := pins.filterMap id
  let pool := (l.lrec.eligible cl).filter (fun c => s.coreFree c && s.coreOpen d l only c && !kept.contains c)
  if !kept.all (fun c => s.coreFree c && s.coreOpen d l only c) then none
  else
    let r := pins.foldl (fun (acc : List Nat × List Nat × Bool) p =>
      match p, acc.2.1 with
      | some c, q => (acc.1 ++ [c], q, acc.2.2)
      | none, c :: q => (acc.1 ++ [c], q, acc.2.2)
      | none, [] => (acc.1, [], false)) (([] : List Nat), pool, true)
    if r.2.2 then some r.1 else none

/-- The cluster that a gang with a pinned member must take. -/
def pinnedCluster (pins : List (Option Nat)) : Option Nat := (pins.filterMap id).head?.map (fun c => c / 16 % 32)

/-- Cores for the gangs of a unit: each in the lowest cluster after the one before it, or in the cluster of its pinned member. -/
def State.fitGangs (s : State) (d : Nat) (l : Launch) (only : Option (List Nat)) (taken : List Nat) :
    List (List (Option Nat)) → Nat → Option (List (List Nat))
  | [], _ => some []
  | g :: r, from' =>
    match pinnedCluster g with
    | some cl =>
      (match s.fitGang d l only cl g with
       | some cs => (s.fitGangs d l only taken r from').map (fun rest => cs :: rest)
       | none => none)
    | none =>
      match l.lrec.clusters.find? (fun cl => decide (from' ≤ cl) && !taken.contains cl && (s.fitGang d l only cl g).isSome) with
      | none => none
      | some cl =>
        match s.fitGang d l only cl g with
        | some cs => (s.fitGangs d l only taken r (cl + 1)).map (fun rest => cs :: rest)
        | none => none

/-- Cores for a unit, if it fits. -/
def State.fitUnit (s : State) (d : Nat) (l : Launch) (only : Option (List Nat)) (gangs : List (List Member)) :
    Option (List (List Nat)) :=
  let pins := gangs.map (fun g => g.map s.pinOf)
  s.fitGangs d l only (pins.filterMap pinnedCluster) pins 0

/-! ### Save areas (R197, R343) -/

/-- The save areas that a function's tasks hold: base and length. -/
def State.areasOf (s : State) (fn : Nat) : List (Nat × Nat) :=
  let resident := (s.cores.filter (fun e => e.2.residency != .free && e.2.task.id.vf == fn)).map (fun e => e.2.task)
  let saved := s.dies.flatMap (fun d => d.2.launches.flatMap (fun l => if l.fn = fn then l.saved.map (·.ctx) else []))
  (resident ++ saved).map (fun t => (t.area, areaBytes t.id.nslot))

/-- Lowest free areas of `len` bytes in a function's pool, `n` of them. -/
def State.takeAreas (s : State) (fn len : Nat) : Nat → List Nat → Option (List Nat)
  | 0, acc => some acc.reverse
  | n + 1, acc =>
    let lo := (s.fn fn).spbase.toNat
    let hi := lo + bits (s.fn fn).spsize.toNat 0 24 * 65536
    let runs := (s.areasOf fn ++ acc.map (fun a => (a, len))).foldl (fun l r => insertRun r l) []
    match (gapsOf lo hi runs).find? (fun g => decide (len ≤ g.2)) with
    | some g => s.takeAreas fn len n (g.1 :: acc)
    | none => none

/-! ### Placement (R82, R161, R162) -/

/-- Whether a register is the firmware context's (R155). -/
def Target.isFw : Target → Bool
  | .fwx _ | .fwp _ => true
  | _ => false

/-- What a core holds when a task has just been given it. -/
def Core.given (k : Core) (s : State) (r : Residency) (t : TaskCtx) : Core :=
  { k with residency := r, task := t, table := [], expired := [], tlb := [], refill := [], idleSince := s.rc, preempt := none,
           faultStatus := none, status := 0, reported := false, badRegs := k.badRegs.filter Target.isFw }

/-- The slots taken from a task as it stops: what has passed of its window, in which no run goes on (R157, R195). -/
def Share.stop (h : Share) (ac : Nat) : Share :=
  let passed := ac - h.window
  { window := passed % 256, used := if passed < 256 then h.used else [] }

/-- A task's window goes on from where it stopped (R195). -/
def Share.resume (h : Share) (ac : Nat) : Share := { h with window := ac - h.window }

/-- The task of a fresh member (R146, R168, R169). -/
def freshTask (l : Launch) (u gang rank gangs size : Nat) (vector : List Nat) (stab : BitVec 16) (area : Nat) : TaskCtx :=
  { id := { launch := l.id, lid := l.lrec.lid, vf := l.fn, acct := l.lrec.acct, nslot := l.lrec.nslot, unit := u,
            gangRank := rank, gangCount := size, crewRank := gang, crewCount := gangs, vector := vector, stab := stab,
            stimg := l.lrec.stimg, entry := l.lrec.entry, synct := l.lrec.synct },
    area := area }

/-- One member takes a core. -/
def State.placeMember (s : State) (l : Launch) (u gang rank gangs size : Nat) (area : Nat) (m : Member) (c : Nat) : State :=
  let d := coreDie c
  let s := match m with
    | .fresh v st =>
      s.updCore c (fun k => k.given s .placing { freshTask l u gang rank gangs size v st area with share := { window := s.ac } })
    | .saved t => s.updCore c (fun k => k.given s .restoring { t.ctx with share := t.ctx.share.resume s.ac })
  let s := s.updAccount l.lrec.acct (fun a => { a with ntask := a.ntask + 1 })
  s.updLaunch d l.id (fun x =>
    let left : List SavedTask := match m with
      | .saved t => x.saved.filter (fun y => y.ctx.id != t.ctx.id)
      | .fresh _ _ => x.saved
    { x with
      saved := left.map (fun y => if y.core = c then { y with onCore := false } else y)
      live := match m with | .fresh _ _ => x.live + 1 | .saved _ => x.live })

/-- How an attempt to place a unit ends. -/
inductive Tried where
  | noFit
  | waits
  | placed (s : State)

/-- The meter debits of a unit's first tick, one for each member (R82): none when one is refused. -/
def State.meterAll (s : State) (l : Launch) : Nat → Option State
  | 0 => some s
  | n + 1 => (s.debit l.lrec.acct (meterUnits l.lrec.nslot)).bind (fun s => s.meterAll l n)

/-- A unit is placed when its cores are free, its debits are granted and, for fresh members, the save pool holds their areas (R82,
R161, R181, R343); a function with no save pool has no task placed. -/
def State.tryPlace (s : State) (d : Nat) (l : Launch) (only : Option (List Nat)) : Tried :=
  match s.nextUnit d l with
  | none => .waits
  | some (old, gangs) =>
    if bits (s.fn l.fn).spsize.toNat 0 24 = 0 then .waits else
    match s.fitUnit d l only gangs with
    | none => .noFit
    | some cores =>
      let n := gangs.flatten.length
      let areas := if old.isSome then some (List.replicate n 0) else s.takeAreas l.fn (areaBytes l.lrec.nslot) n []
      match areas, s.meterAll l n with
      | some areas, some s' =>
        let u := match old with | some u => u | none => l.nextUnit
        let flat := ((gangs.zip cores).zipIdx).flatMap (fun (x : (List Member × List Nat) × Nat) =>
          ((x.1.1.zip x.1.2).zipIdx).map (fun (y : (Member × Nat) × Nat) => (x.2, y.2, x.1.1.length, y.1.1, y.1.2)))
        let s' := ((flat.zip areas).foldl (fun (s : State) (x : (Nat × Nat × Nat × Member × Nat) × Nat) =>
          s.placeMember l u x.1.1 x.1.2.1 gangs.length x.1.2.2.1 x.2 x.1.2.2.2.1 x.1.2.2.2.2) s')
        .placed (if old.isSome then s' else
          s'.updLaunch d l.id (fun x =>
            { x with formed := none, nextUnit := u + 1, unitSizes := x.unitSizes.set u (gangs.map List.length) }))
      | _, _ => .waits

/-! ### Reservations (R182) -/

/-- The free eligible cores of a cluster. -/
def State.freeIn (s : State) (l : Launch) (cl : Nat) : Nat := ((l.lrec.eligible cl).filter s.coreFree).length

/-- The `n` clusters of a list with the most free eligible cores, the lowest number first among equals. -/
def State.bestClusters (s : State) (l : Launch) : Nat → List Nat → List Nat
  | 0, _ => []
  | n + 1, cls =>
    match cls with
    | [] => []
    | c :: r =>
      let b := r.foldl (fun b x => if s.freeIn l b < s.freeIn l x then x else b) c
      b :: s.bestClusters l n (cls.filter (fun x => x != b))

/-- The clusters in which a reservation is held (R163, R182). -/
def State.heldClusters (s : State) (d : Nat) (l : Launch) : List Nat :=
  let gangs := match s.nextUnit d l with | some (_, g) => g | none => []
  let pins := ((gangs.map (fun g => g.map s.pinOf)).filterMap pinnedCluster)
  let n := l.lrec.crew + 1
  pins ++ s.bestClusters l (n - pins.length) (l.lrec.clusters.filter (fun c => !pins.contains c))

/-- The die grants the next request for its reservation, if it holds none (R182); a request of a launch that has gone is passed over. -/
def State.grantReservation (s : State) (d : Nat) : State :=
  let k := s.die d
  let gone (r : Option (Nat × List Nat)) : Bool := match r with | some (id, _) => (s.launch d id).isNone | none => true
  if !gone k.reservation then s
  else
    let live := k.requests.filter (fun i => (s.launch d i).isSome)
    match live with
    | [] => s.updDie d (fun k => { k with reservation := none, requests := [] })
    | i :: r =>
      let held := match s.launch d i with | some l => s.heldClusters d l | none => []
      s.updDie d (fun k => { k with reservation := some (i, held), requests := r })

/-- A launch whose fit count reaches 8 asks for the reservation (R182). -/
def State.missed (s : State) (d : Nat) (l : Launch) : State :=
  let s := s.updLaunch d l.id (fun x => { x with fits := x.fits + 1 })
  let k := s.die d
  let has := k.requests.contains l.id || (match k.reservation with | some (i, _) => i == l.id | none => false)
  if 8 ≤ l.fits + 1 ∧ !has then (s.updDie d (fun k => { k with requests := k.requests ++ [l.id] })).grantReservation d else s

/-! ### Selection (R179 to R181) -/

/-- The launches of a function in class order, each class from its head. -/
def State.queueOf (s : State) (d fn : Nat) : List Launch :=
  (List.range 4).flatMap (fun c => (s.die d).launches.filter (fun l => l.fn == fn && l.cls == c))

/-- Whether a launch still stands in its queue (R179): it has left once it has issued every vector and its saved tasks are placed. -/
def Launch.queued (l : Launch) : Bool := !l.refused && !(l.exhausted && l.formed.isNone && l.forming.isEmpty && l.saved.isEmpty)

/-- Skips of the head launches of the lower classes that were ready, with the promotion of R181. -/
def State.skipLower (s s0 : State) (d fn cls : Nat) : State :=
  ((List.range 4).filter (fun c => decide (cls < c))).foldl (fun s c =>
    match (s0.die d).launches.find? (fun l => l.fn == fn && l.cls == c && l.queued) with
    | none => s
    | some h =>
      if !s0.launchReady d h then s
      else if 64 ≤ h.skips + 1 then
        s.updDie d (fun k =>
          match k.launches.find? (fun x => x.id == h.id) with
          | some x => { k with launches := k.launches.filter (fun y => y.id != h.id) ++ [{ x with skips := 0, cls := c - 1 }] }
          | none => k)
      else s.updLaunch d h.id (fun x => { x with skips := x.skips + 1 })) s

/-- Steps 3 to 6 of R181 over a list of launches: whether one was placed. -/
def State.serveList (d fn : Nat) : List Launch → State → State × Bool
  | [], s => (s, false)
  | l :: r, s =>
    if !s.launchReady d l then State.serveList d fn r s
    else
      match s.tryPlace d l none with
      | .placed s' => (State.skipLower s' s d fn l.cls, true)
      | .noFit => State.serveList d fn r (s.missed d l)
      | .waits => State.serveList d fn r s

/-- WEIGHT of a function on a die (R180). -/
def Die.weight (k : Die) (fn : Nat) : Nat := k.dlshare.get fn 1 % 256

/-- Selections that a function has left in the round. -/
def Die.left (k : Die) (fn : Nat) : Nat := k.weight fn - k.served.get fn 0

/-- Whether a function has a ready launch. -/
def State.fnReady (s : State) (d fn : Nat) : Bool := (s.die d).launches.any (fun l => l.fn == fn && s.launchReady d l)

/-- A selection is counted. -/
def State.countServed (s : State) (d fn : Nat) : State :=
  s.updDie d (fun k => { k with served := k.served.set fn (k.served.get fn 0 + 1), lastServed := fn })

/-- Step 2 of R181 over the functions in turn; one with no ready launch gives up what it has left of the round. -/
def State.serveFns (d : Nat) : List Nat → State → State
  | [], s => s
  | fn :: r, s =>
    if !s.fnReady d fn then State.serveFns d r (s.updDie d (fun k => { k with served := k.served.set fn (k.weight fn) }))
    else if (s.die d).left fn = 0 then State.serveFns d r s
    else
      match State.serveList d fn (s.queueOf d fn) s with
      | (s', true) => s'.countServed d fn
      | (s', false) => State.serveFns d r s'

/-- Step 1 of R181: the reservation's unit, if it fits now, whatever WEIGHT its function has (assumption 116). -/
def State.serveReservation (s : State) (d : Nat) : Option State :=
  match (s.die d).reservation with
  | none => none
  | some (i, cls) =>
    match s.launch d i with
    | none => none
    | some l =>
      if !s.launchReady d l then none
      else
        match s.tryPlace d l (some cls) with
        | .placed s' =>
          let s' := (s'.updLaunch d i (fun x => { x with fits := 0 })).updDie d (fun k => { k with reservation := none })
          some ((s'.countServed d l.fn).grantReservation d)
        | _ => none

/-- Whether a die has a free core (R181). -/
def State.anyFree (s : State) (d : Nat) : Bool := (List.range 512).any (fun n => s.coreFree (512 * d + n))

/-- One selection of a die, which is made whenever free cores exist (R181). -/
def execLaunchSelection (die : Nat) (s : State) : Out :=
  if 8 ≤ die then skip s
  else if !s.anyFree die then skip s
  else
    let s := s.grantReservation die
    match s.serveReservation die with
    | some s' => .next s'
    | none =>
      let fns := (List.range 256).map (fun i => ((s.die die).lastServed + 1 + i) % 256)
      let left := fns.any (fun f => s.fnReady die f && (s.die die).left f != 0)
      let s := if left then s else s.updDie die (fun k => { k with served := [] })
      .next (State.serveFns die fns s)

/-! ### The start of a task (R13, R90, R146, R169, R246) -/

/-- The task word of R169. -/
def taskWord (l : Launch) (t : TaskId) : DWord :=
  let order := max l.elems.length 1
  let n := popBits t.stab.toNat 16
  BitVec.ofNat 64 (t.gangRank + (t.gangCount - 1) * 2 ^ 4 + t.crewRank * 2 ^ 8 + (t.crewCount - 1) * 2 ^ 13 +
    (if t.stab.toNat / 2 = 0 then 0 else 2 ^ 18) + order * 2 ^ 19 + order / max n 1 * 2 ^ 24 + t.stab.toNat * 2 ^ 32)

/-- The registers at a task's first step (R146, R169). -/
def startRegs (l : Launch) (t : TaskId) : Regs :=
  { x := [(24, BitVec.ofNat 64 (t.vector.getD 0 0)), (25, BitVec.ofNat 64 (t.vector.getD 1 0)),
          (26, BitVec.ofNat 64 (t.vector.getD 2 0)), (27, BitVec.ofNat 64 (t.vector.getD 3 0)),
          (28, BitVec.ofNat 64 (t.vector.getD 4 0)), (29, BitVec.ofNat 64 (t.vector.getD 5 0)), (30, taskWord l t),
          (31, t.lid.setWidth 64)] }

/-- Whether an entry of the synchronisation table breaks its rules (R246). -/
def tokenBad (e : Nat) : Bool :=
  let used := bits e 7 1
  decide (bits e 16 16 ≠ 0 ∨ bits e 4 3 ≠ 0 ∨ (used = 1 ∧ bits e 2 2 = bits e 0 2) ∨ (used = 0 ∧ (bits e 8 8 ≠ 0 ∨ bits e 0 4 ≠ 0)))

/-- A token from its entry (R90, R246). -/
def tokenOf (e : Nat) : Token :=
  { count := BitVec.ofNat 8 (bits e 8 8), used := bits e 7 1 = 1, prod := BitVec.ofNat 2 (bits e 2 2), cons := BitVec.ofNat 2 (bits e 0 2) }

/-- The 16 entries of a synchronisation table. -/
def tableEntries (m : List Host.Cell) (p : Nat) : List Nat := (List.range 16).map (fun k => Memory.readNat m (p + 4 * k) 4)

/-- The fault of reading `n` bytes at guest-physical `g` at placement, if any (R27, R46, R166, R201). -/
def State.placeFault (s : State) (fn g n : Nat) : Option FaultInfo :=
  match s.secondStage fn g n with
  | none => some (progError 2 0 (BitVec.ofNat 64 g))
  | some p => if s.absent (fromTo p n) then some { cls := 9, kind := 5, addr := BitVec.ofNat 64 g } else if s.poisoned (fromTo p n) then some (poisonFault s (inUnits (fromTo p n)) (BitVec.ofNat 64 g) 0) else none

/-- The segment table loaded from a launch's image (R13). -/
def State.loadTable (s : State) (fn stimg : Nat) : SMap (BitVec 256) :=
  match s.secondStage fn (stimg * 2048) 2048 with
  | some p =>
    (List.range 64).filterMap (fun n =>
      let v := BitVec.ofNat 256 (Memory.readNat s.mem (p + 32 * n) 32)
      if v = 0 then none else some (n, v))
  | none => []

/-- The tokens of a container (R90): a container without a table has none with parties. -/
def State.loadTokens (s : State) (fn synct : Nat) : List Nat :=
  if synct = 0 then []
  else
    match s.secondStage fn (synct * 64) 64 with
    | some p => tableEntries s.mem p
    | none => []

/-- The faults that placement meets, which belong to the first task of a launch (R166, R246). -/
def State.startFault (s : State) (t : TaskId) : Option FaultInfo :=
  if t.unit ≠ 0 ∨ t.gangRank ≠ 0 ∨ t.crewRank ≠ 0 then none
  else
    match s.placeFault t.vf (t.stimg * 2048) 2048 with
    | some f => some f
    | none =>
      match (if t.synct = 0 then none else s.placeFault t.vf (t.synct * 64) 64) with
      | some f => some f
      | none =>
        match (s.loadTokens t.vf t.synct).findIdx? tokenBad with
        | some k => some (reservedField (opfToken k))
        | none => none

/-- What a core's file holds now is what its new task sees there in the ac at hand (R40). -/
def State.newFile (s : State) (c n : Nat) : State :=
  { s with acMem := s.acMem.map (fun m => Memory.take m s.mem (filePlace c 0) n) }

/-- A task in PLACING becomes RESIDENT (R161): its table and tokens are loaded and its registers set. -/
def execTaskStart (core : Nat) (s : State) : Out :=
  let k := s.core core
  let id := k.task.id
  match k.residency, s.launchOf core k.task with
  | .placing, some l =>
    let tokens : SMap Token := ((s.loadTokens id.vf id.synct).zipIdx).map (fun (e : Nat × Nat) => (e.2, tokenOf e.1))
    let t : TaskCtx :=
      { k.task with regs := startRegs l id, shared := { token := tokens }, ctl := { st := .run, step := id.entry } }
    let s' := s.updCore core (fun k =>
      { k with residency := .resident, task := t, table := s.loadTable id.vf id.stimg, idleSince := s.rc })
    let s' := State.clean { s' with mem := Memory.zero s'.mem (filePlace core 0) (16384 * id.nslot) } (wholeIn (filePlace core 0) (16384 * id.nslot))
    let s' := s'.newFile core (16384 * id.nslot)
    .next ((match s.startFault id with
      | some f => s'.takeFault core .control { s'.mkRec core .control f with word := 0 }
      | none => s').takeLatched core)
  | _, _ => skip s

/-! ### Images (R174 to R177) -/

/-- Whether element `n` of a launch's group is an image element for vector `t` (R174). -/
def Launch.isImage (l : Launch) (t : List Nat) (n : Nat) : Bool :=
  match l.elems[n]? with
  | none => false
  | some e =>
    let g := l.lrec.apply e t
    g != t && !(l.elems.take n).any (fun m => l.lrec.apply m t == g)

/-- The element whose image of a row comes next. -/
def ImageRow.next (l : Launch) (r : ImageRow) : Option Nat :=
  (List.range l.elems.length).find? (fun n => decide (r.elem ≤ n) && l.isImage r.vector n)

/-- A value negated for an image with character −1 (R175). -/
def negated (f : NumFmt) (v : Nat) : Nat :=
  if f.isInt then
    let x := sext v (8 * f.bytes)
    if x = f.minInt then f.maxInt.toNat else (wrap (8 * f.bytes) (-x)).toNat
  else if (Num.ofBits f v).isNan then f.nan
  else v ^^^ 2 ^ f.signBit

/-- Whether an element keeps a row a row (R175). -/
def Launch.keepsRows (l : Launch) (e : SymElem) : Bool := e.perm.getD l.lrec.rdim 0 == l.lrec.rdim

/-- The index in an image for indices (i, j) of the primary, on level `dim` (R175). -/
def Launch.imageIndex (l : Launch) (e : SymElem) (dim i j : Nat) : Nat :=
  let v := if e.perm.getD dim 0 = l.lrec.rdim then i else j
  if e.neg.getD dim false then 63 - v else v

/-- One write of an image: the exact offset of its first byte, and its bytes (R175). -/
def ImageRow.writeOf (l : Launch) (r : ImageRow) (e : SymElem) (neg : Bool) : Int × List Byte :=
  let f := outFmt r.fmt
  let w := f.bytes
  let t := l.lrec.apply e r.vector
  let tile : Int := (l.lrec.obase : Int) + (List.range l.lrec.rank).foldl (fun acc k => acc + (t.getD k 0 : Int) * l.lrec.ots.getD k 0) 0
  let val (j : Nat) : Nat := let v := vbytes r.data (w * j) w; if neg then negated f v else v
  let place (j : Nat) : Nat × Nat := (l.imageIndex e l.lrec.rdim r.row j, l.imageIndex e l.lrec.cdim r.row j)
  if l.keepsRows e then
    let i := (place 0).1
    let vals : SMap Nat := (List.range 64).foldl (fun (m : SMap Nat) j => m.set (place j).2 (val j)) []
    (tile + (i * l.lrec.ors : Nat), (vals.map (fun v => toBytes v.2 w)).flatten)
  else
    let p := place r.write
    (tile + (p.1 * l.lrec.ors + p.2 * w : Nat), toBytes (val r.write) w)

/-- Writes of one row's image under an element. -/
def Launch.writesOf (l : Launch) (e : SymElem) : Nat := if l.keepsRows e then 1 else 64

/-- The oldest row of core `c` after its write has performed: its next write, its next image, or gone (R176). -/
def ImageRow.advance (l : Launch) (r : ImageRow) : Option ImageRow :=
  let n := (r.next l).getD r.elem
  let e := l.elems.getD n SymElem.one
  let r' := if r.write + 1 < l.writesOf e then { r with elem := n, write := r.write + 1 } else { r with elem := n + 1, write := 0 }
  if (r'.next l).isSome then some r' else none

/-- The oldest row of core `c` replaced, or removed. -/
def replaceFirst (c : Nat) (f : ImageRow → Option ImageRow) : List ImageRow → List ImageRow
  | [] => []
  | r :: l => if r.core = c then (match f r with | some x => x :: l | none => l) else r :: replaceFirst c f l

/-- An image write of core `c` has performed at its home. -/
def State.imageDone (s : State) (c : Nat) : State :=
  match s.launchOf c (s.task c) with
  | some l => s.updDie (coreDie c) (fun d => { d with lamb := replaceFirst c (fun r => r.advance l) d.lamb })
  | none => s

/-- Whether Lamb may write for a row: its task's oldest, not held at a fault, with no write of the task on its way or kept as a message
(R48, R176, R177). -/
def State.rowReady (s : State) (d : Nat) (r : ImageRow) : Bool :=
  !r.held && !(s.transit ++ s.refusedMessages ++ (s.task r.core).keptMessages).any (fun a => a.of r.core .image) &&
  ((s.die d).lamb.find? (fun x => x.core == r.core)) == some r

/-- The record of an image fault (R177, R186). -/
def State.imageRec (s : State) (r : ImageRow) (n : Nat) (f : FaultInfo) : FaultRec :=
  { s.mkRec r.core .image { f with opf := BitVec.ofNat 8 (opfTag n) } with step := BitVec.ofNat 64 r.num, word := 0, img := true }

/-- A message enters transit, if its writer's limits let it (R48). -/
def State.sendMessage (s : State) (a : Access) : Option State :=
  let w := (s.task a.core).writer a.slot
  if w.stop ∨ 8 ≤ w.unacked then none
  else some ((s.updShared a.core (fun h => { h with mq := h.mq.set a.slot { w with unacked := w.unacked + 1 } })).send a)

/-- The next image write of a row (R175): it passes the lookup of R14 in its core's table and goes to its home, as a message where the
segment is a message queue (R47). -/
def imageWrite (l : Launch) (r : ImageRow) (n : Nat) (s : State) : State :=
  let e := l.elems.getD n SymElem.one
  let neg := l.chi.getD n false
  let (off, bytes) := r.writeOf l e neg
  let va : DWord := BitVec.ofNat 64 (l.lrec.oslot * 2 ^ 58 + (off % 2 ^ 58).toNat)
  let fault (f : FaultInfo) : State := s.imageFault r.core (s.imageRec r n f)
  if neg ∧ r.fmt = 6 then fault { cls := 5, kind := 5, addr := va, slot := l.lrec.oslot }
  else if off < 0 ∨ 2 ^ 58 ≤ off then fault (progError 2 0 va l.lrec.oslot)
  else
    match s.engineAccess r.core { kind := .store, va := va, offs := List.range bytes.length, mode := .store, data := bytes,
                                  opf := opfTag n, agent := .image } with
    | .error f => fault f
    | .ok a =>
      let a := { a with step := BitVec.ofNat 64 r.num }
      if a.kind = .message then (s.sendMessage a).getD s else s.send a

/-- Lamb of a die makes its next image write (R174 to R177); a row with no image left leaves it. While the clock relocks it stands still
(R364). -/
def execImageStore (die : Nat) (s : State) : Out :=
  if 8 ≤ die ∨ s.hub.relocking then skip s
  else
    match (s.die die).lamb.find? (s.rowReady die) with
    | none => skip s
    | some r =>
      match s.launchOf r.core (s.task r.core) with
      | none => skip s
      | some l =>
        match r.next l with
        | none => .next (s.updDie die (fun d => { d with lamb := replaceFirst r.core (fun _ => none) d.lamb }))
        | some n =>
          let s := s.updDie die (fun d => { d with lamb := firstRow r.core (fun x => { x with elem := n }) d.lamb })
          .next (imageWrite l { r with elem := n } n s)

/-! ### Retirement (R159, R160, R178) -/

/-- Whether an engine has nothing queued and nothing running. -/
def EngineSt.empty (e : EngineSt) : Bool := e.queue.isEmpty && e.running.isEmpty

/-- Whether a sequencer has stopped. -/
def SeqSt.stopped : SeqSt → Bool
  | .idle | .halted => true
  | _ => false

/-- Whether a task's sequencers and engines satisfy R159; under abandonment or a fault status the sequencers no longer count. -/
def TaskCtx.finished (t : TaskCtx) (abandon : Bool) : Bool :=
  (abandon || (t.load.st.stopped && t.compute.st.stopped && t.store.st.stopped && t.mule.st.stopped)) &&
  t.mx.empty && t.cp.empty && t.cl.empty && t.ml.empty &&
  t.ctl.pipe.isEmpty && t.load.pipe.isEmpty && t.compute.pipe.isEmpty && t.store.pipe.isEmpty && t.mule.pipe.isEmpty

/-- The operations of a core's task that have not performed: its completion is a release of them (R107, R159). Agents parked by an
abandoned or ended task count no longer, and neither do the stores from the faulting one on of a task that ended at a store's fault (R199). -/
def State.taskLive (s : State) (c : Nat) (abandon : Bool) : Bool :=
  let ended := (s.core c).faultStatus.isSome
  let stuck (a : Access) : Bool :=
    ended && a.agent == .store && (a.held || s.transit.any (fun b => b.of c .store && b.held && decide (b.id < a.id)))
  s.transit.any (fun a => a.core == c && a.agent != .hub && !stuck a) ||
  (!abandon && s.waiters.any (fun w => w.access.core == c)) ||
  s.remote.any (fun r => r.source == c) || (s.flits.filterMap Flit.farFlag).any (fun f => f.2.1 == c) ||
  s.slotOps.any (fun o => o.access.core == c) || (s.debits.filterMap (fun d => d.purpose.access)).any (fun a => a.core == c) ||
  (s.task c).shared.mq.any (fun w => !w.2.kept.isEmpty) || s.mqNotices.any (fun n => n.core == c) ||
  (!ended && s.deferred.any (fun d => d.core == c))

/-- The condition for the retirement of the task on core `c` (R159, R160, R178). -/
def State.mayRetire (s : State) (c : Nat) : Bool :=
  let k := s.core c
  match k.residency with
  | .retiring abandon =>
    k.task.finished abandon && !s.taskLive c abandon && !(s.die (coreDie c)).lamb.any (fun r => r.core == c) &&
    k.task.pending.isEmpty && !k.task.suspended
  | _ => false

/-- What belongs to a task that has gone leaves the module: stores held at a fault, faults on their way, and what was still to be written to its
table (R18, R159). The meter debits that
were sent for it stay, since their ticks are billed (R82). -/
def State.clearTask (s : State) (c : Nat) : State :=
  let s := (s.dropSlotWrites c).discard (fun a => a.core == c && a.agent != .hub && !a.collective)
  { s with
    deferred := s.deferred.filter (fun d => d.core != c)
    granted := s.granted.filter (fun g => g.core != c)
    waiters := s.waiters.filter (fun w => w.access.core != c)
    marks := s.marks.filter (fun m => m.core != c) }

/-- A core is free, with nothing of its task (R13, R159). -/
def Core.freed (k : Core) : Core :=
  { k with residency := .free, task := {}, table := [], expired := [], tlb := [], preempt := none, faultStatus := none, status := 0 }

/-- A task retires (R159): queues and FIFOs are discarded, the meter stops, NTASK falls, its rows are zeroed and the core is free. The
launch notes how it ended (R351). -/
def execTaskRetirement (core : Nat) (s : State) : Out :=
  if !s.mayRetire core then skip s
  else
    let k := s.core core
    let id := k.task.id
    let abandoned := match k.residency with | .retiring a => a | _ => false
    let s := State.clean { s with mem := Memory.zero s.mem (filePlace core 0) (16384 * id.nslot) } (wholeIn (filePlace core 0) (16384 * id.nslot))
    let s := s.updAccount id.acct (fun a => { a with ntask := a.ntask - 1 })
    let s := s.updLaunch (coreDie core) id.launch (fun l =>
      { l with
        live := l.live - 1
        faulted := match l.faulted, k.faultStatus with | none, some r => some r | o, _ => o
        aborted := l.aborted || (abandoned && k.faultStatus.isNone) })
    .next ((s.clearTask core).updCore core Core.freed)

/-! ### The completion of a launch (R183, R351) -/

/-- Whether a launch has issued every vector and its tasks have retired (R183); a refused one has none (R344). -/
def Launch.finished (l : Launch) : Bool :=
  (l.refused || (l.exhausted && l.formed.isNone && l.forming.isEmpty)) && l.live == 0 && l.saved.isEmpty

/-- CODE of a launch's completion (R351). -/
def Launch.code (l : Launch) : Nat :=
  if l.refused then 1 else if l.faulted.isSome then 2 else if l.aborted then 3 else 0

/-- A launch completes (R183): its record completes, and its chain goes on (R349 to R351). -/
def execLaunchCompletion (die launch : Nat) (s : State) : Out :=
  if 8 ≤ die then skip s
  else
    match s.launch die launch with
    | none => skip s
    | some l =>
      if !l.finished then skip s
      else
        let s' := s.updDie die (fun k => { k with launches := k.launches.filter (fun x => x.id != launch) })
        match (s'.grantReservation die).launchDone l l.code with
        | some s2 => .next s2
        | none => skip s

end Sys2Proof.Machine
end

