-- ==== Sys2Proof/Machine/Traps.lean ====
section
/-! DEFINITION. Pre-emption, the saving and restoring of tasks (R161, R177, R178, R194 to R199, R320, R377), deferred faults (R188, R199),
the handling of a trap by Rinty (R189, R338, R375), faults of the firmware context (R190) and the watchdog (R202). -/

namespace Sys2Proof.Machine

open Sys2Proof

/-! ### Requests (R194) -/

/-- A pre-emption request reaches the task on a core, and through it its gang or crew (R194). -/
def execPreemptionRequest (core cause : Nat) (s : State) : Out :=
  if 4096 ≤ core then skip s
  else if cause = 0 ∨ 3 < cause ∨ (s.core core).residency = .free then skip s
  else .next (s.requestPreempt core cause)

/-! ### Deferred faults (R188, R199) -/

/-- The queue entries that a faulting load leaves: those of earlier loads (R199). -/
def keepEarlier (entry : Nat) (q : SMap (List QEntry)) : SMap (List QEntry) :=
  q.map (fun e => if e.1 < 8 then (e.1, e.2.filter (fun x => decide (x.id < entry))) else e)

/-- The load sequencer goes back to before a faulting load: its later loads and their entries go, and its registers, step and results
in flight are those of the checkpoint (R199). A load made again for a marked entry has no checkpoint and leaves them (R94). -/
def TaskCtx.backLoad (t : TaskCtx) (d : Deferred) : TaskCtx :=
  match d.ckpt with
  | none => t
  | some ⟨regs, step, pipe, _⟩ =>
    let t := { t with shared := { t.shared with queue := keepEarlier d.entry t.shared.queue } }
    let kept := t.load.pipe.filter (fun f => match f.target with | .qent _ e => decide (e < d.entry) | _ => false)
    { t with regs := { t.regs with aLoad := regs }, load := { t.load with step := step, pipe := pipe ++ kept } }

/-- The store sequencer goes back to before a faulting store; its pending stores are held, and the signals that it gave after the store are
given again (R199). -/
def TaskCtx.backStore (t : TaskCtx) (d : Deferred) : TaskCtx :=
  match d.ckpt with
  | none => t
  | some ⟨regs, step, pipe, n⟩ =>
    { t with
      regs := { t.regs with aStore := regs }
      store := { t.store with step := step, pipe := pipe }
      shared := { t.shared with signals := t.shared.signals.filter (fun g => !g.after.contains d.access) }
      stqs := n }

/-- A deferred fault is taken at its agent's boundary (R188, R199); faults of later accesses of the load or store sequencer go with it, since
those are made again. -/
def State.takeDeferred (s : State) (d : Deferred) : State :=
  let later (x : Deferred) : Bool := x.core == d.core && x.agent == d.agent && (d.agent == .load || d.agent == .store) && d.ckpt.isSome
  let s := { s with deferred := (s.deferred.erase d).filter (fun x => !later x) }
  match d.agent with
  | .load =>
    let s := if d.ckpt.isNone then s
      else { s with transit := s.transit.filter (fun a => !(a.of d.core .load && decide (d.access < a.id))) }
    (s.updTask d.core (fun t => t.backLoad d)).takeFault d.core .load d.info
  | .store => (s.updTask d.core (fun t => t.backStore d)).takeFault d.core .store d.info
  | a => s.takeFault d.core a d.info

/-- The oldest deferred fault of an agent. -/
def State.oldestFault (s : State) (c : Nat) (a : Agent) : Option Deferred :=
  match s.deferred.filter (fun d => d.core == c && d.agent == a) with
  | [] => none
  | d :: r => some (r.foldl (fun b x => if x.access < b.access then x else b) d)

/-- The deferred fault that an agent takes at its next boundary: its oldest. The load and store sequencers take one once the accesses
before the faulting one have performed or have faulted themselves (R199, assumption 109). -/
def State.deferredOf (s : State) (c : Nat) (a : Agent) : Option Deferred :=
  match s.oldestFault c a with
  | none => none
  | some d =>
    if (a == .load || a == .store) && s.transit.any (fun x => x.of c a && !x.held && decide (x.id < d.access)) then none else some d

/-- A deferred fault traps at the next boundary of its sequencer (R188, R199). -/
def execDeferredFault (core : Nat) (agent : Agent) (s : State) : Out :=
  if (s.core core).residency = .free then skip s
  else
    match s.deferredOf core agent with
    | some d => .next (s.takeDeferred d)
    | none => skip s

/-! ### Saving a task (R195 to R197, R377) -/

/-- The point at which a running command stops (R195, R377): reads of a beat that is not written are made again, and a drain that has
begun starts again. -/
def RunSt.stop (r : RunSt) : RunSt :=
  match r with
  | .nest n => .nest { n with drainRow := 0, rotated := false, rows := [] }
  | .copy c => .copy { c with forming := false, elems := [] }
  | .coll c => .coll (if c.forming then { c with forming := false, elems := [] } else c)
  | r => r

/-- An engine's running commands at their stop points, with no holds. -/
def EngineSt.stop (e : EngineSt) : EngineSt :=
  { e with running := e.running.map (fun r => { r with st := r.st.stop, holds := [] }) }

/-- A collective command that completes before the task stops (R377), unless its token holds it back (R91). -/
def State.collPending (s : State) (c : Nat) (r : Running) : Bool :=
  decide (5 ≤ headCmd r.cmd.head) && !r.acted && !s.tokenHeld c r.cmd

/-- Whether a join of a core has not left the hub (R377). -/
def State.joinLeaving (s : State) (c : Nat) : Bool :=
  s.flits.any (fun f => match f with
    | .join _ _ _ num _ => s.registrants.any (fun r => r.num == num && r.core == c)
    | _ => false)

/-- Whether everything that a stop waits for has happened (R196, R377). -/
def State.maySave (s : State) (c : Nat) : Bool :=
  let t := s.task c
  let rows := (s.die (coreDie c)).lamb.filter (fun r => r.core == c)
  !s.transit.any (fun a => a.core == c && a.agent != .hub && !a.collective && !(a.of c .store && a.held)) &&
  !s.remote.any (fun r => r.source == c) && !(s.flits.filterMap Flit.farFlag).any (fun f => f.2.1 == c) && !s.slotOps.any (fun o => o.access.core == c) &&
  !(s.debits.filterMap (fun d => d.purpose.access)).any (fun a => a.core == c) &&
  !s.deferred.any (fun d => d.core == c) && !s.slotWrites.any (fun w => w.core == c) &&
  !s.invals.any (fun i => match i.reply with | some (k, _) => k == c | none => false) &&
  (match rows with | [] => true | r :: _ => r.held) &&
  !t.cl.running.any (s.collPending c) && !s.joinLeaving c

/-- The results of a sequencer in flight, with its signals, go to its snapshot buffer (R191, R195). -/
def TaskCtx.captureAt (t : TaskCtx) (a : Agent) : TaskCtx :=
  (t.updSeq a (fun q => { q with pipe := q.pipe ++ t.signalsOf a }.capture)).dropSignals a

/-- A task's sequencers and engines at their stop points (R195). -/
def TaskCtx.stopped (t : TaskCtx) : TaskCtx :=
  let t := (((t.captureAt .control).captureAt .load).captureAt .compute).captureAt .store
  { t with
    mx := t.mx.stop
    cp := t.cp.stop
    cl := t.cl.stop
    ml := t.ml.stop
    shared := { t.shared with awaiting := [] } }

/-- A core's poisoned units of `n` bytes from `src` go with their bytes to `dst`. -/
def movePoison (src dst n : Nat) (l : List Nat) : List Nat :=
  l.map (fun u => if src ≤ 8 * u ∧ 8 * u < src + n then u - src / 8 + dst / 8 else u)

/-- The holds of a task's transfers are released (R77, R195). -/
def State.releaseAll (s : State) (c : Nat) : State :=
  let hs := ((s.task c).cp.running ++ (s.task c).cl.running).flatMap (fun r => r.holds)
  hs.foldl (fun s (h : Nat × Nat) => s.releaseHold h.1 h.2) s

/-- A STOPPING task enters SAVED (R161, R195 to R197): its state is captured, requests parked for it are withdrawn, its rows are spilled
to its save area, NTASK falls and its core is free. A save area in absent addresses ends it (R46, assumption 110). -/
def execTaskSaveComplete (core : Nat) (s : State) : Out :=
  let id := (s.task core).id
  let len := 16384 * id.nslot
  match (s.core core).residency, s.secondStage id.vf (s.task core).area (areaBytes id.nslot) with
  | .stopping _, some p =>
    if !s.maySave core then skip s
    else if s.absentIn p (areaBytes id.nslot) then
      .next (s.endTask core 9 (s.mkRec core .control { cls := 9, kind := 5, addr := BitVec.ofNat 64 (s.task core).area }))
    else
      let s := s.landAll core .mule (s.pipe core .mule)
      let s := (s.setPipe core .mule []).releaseAll core
      let pinned := (List.range 64).any (fun n =>
        let d := s.slotDesc core n
        let l := s.lease (d.unit 0) d.lease
        d.v && !d.bad && d.tier == 1 && d.kind == 0 && d.homeCore == core && l.st == .active && l.lgen.toNat == d.lgen)
      let die := coreDie core
      let t := (s.task core).stopped
      let t : TaskCtx := { t with
        images := (s.die die).lamb.filter (fun r => r.core == core)
        heldStores := s.transit.filter (fun a => a.of core .store)
        granted := s.granted.filter (fun g => g.core == core)
        share := (s.task core).share.stop s.ac }
      let s := { s with
        mem := Memory.move s.mem (filePlace core 0) p len
        poison := movePoison (filePlace core 0) p len (s.poison.filter (fun u => !wholeIn p len u))
        struck := movePoison (filePlace core 0) p len (s.struck.filter (fun u => !wholeIn p len u)) }
      let s := s.updDie die (fun d => { d with lamb := d.lamb.filter (fun r => r.core != core) })
      let s := s.updAccount id.acct (fun a => { a with ntask := a.ntask - 1 })
      let s := s.updLaunch die id.launch (fun l => { l with saved := l.saved ++ [{ ctx := t, core := core, pinned := pinned }] })
      .next ((s.clearTask core).updCore core Core.freed)
  | _, _ => skip s

/-! ### Restoring a task (R198) -/

/-- A pending store of a task that has another core now (R199); its page is looked up again. -/
def Access.restored (a : Access) (c : Nat) : Access :=
  let a := { a with core := c, held := true }
  if a.pageable then { a with walk := true, places := [] } else a

/-- Kept messages of a writer that was told to go on are sent again (R48). -/
def State.resendKept (s : State) (c slot : Nat) : State :=
  let w := (s.task c).writer slot
  if w.stop ∨ w.kept.isEmpty then s
  else
    let s := { s with transit := s.transit ++ w.kept.map (fun (a : Access) => { a with core := c }) }
    s.updShared c (fun h => { h with mq := h.mq.set slot { w with kept := [], pollAt := none } })

/-- A sequencer of a restored task replays its buffer (R193, R198), unless it still waits for its handler. -/
def State.resumeSeq (s : State) (c : Nat) (a : Agent) : State :=
  let t := s.task c
  let q := t.seq a
  if q.st = .faulted ∨ (a = .control ∧ t.suspended) then s
  else if (q.replayList a).isNone then s.takeFault c a (s.mkRec c a (reservedField 0))
  else s.updTask c (fun t => t.replay a)

/-- A RESTORING task becomes RESIDENT (R161, R193, R198), once Lamb has room for the rows it brings (R173); an uncorrectable error in its save
area, or absent addresses there, end it (R46, R201), and so does a reset of its function that came while it was saved (R344). -/
def execTaskRestore (core : Nat) (s : State) : Out :=
  let t := s.task core
  let len := 16384 * t.id.nslot
  match (s.core core).residency, s.secondStage t.id.vf t.area (areaBytes t.id.nslot) with
  | .restoring, some p =>
    if 512 < s.lambRows (coreDie core) + t.images.length then skip s else
    let hit := inRange p (areaBytes t.id.nslot)
    let struck : Option FaultInfo :=
      if s.absentIn p (areaBytes t.id.nslot) then some { cls := 9, kind := 5, addr := BitVec.ofNat 64 t.area }
      else if s.poisonedIn p (areaBytes t.id.nslot) then some (poisonFault s hit 0 0) else none
    let stores := t.heldStores.map (fun a => a.restored core)
    let rows : List ImageRow := t.images.map (fun r => { r with core := core, held := r.held && (t.pending.find 9).isSome })
    let s := { s with
      mem := Memory.copy s.mem p (filePlace core 0) len
      poison := movePoison p (filePlace core 0) len s.poison
      struck := movePoison p (filePlace core 0) len s.struck
      transit := s.transit ++ stores
      granted := s.granted ++ t.granted.map (fun (g : Granted) => { g with core := core }) }
    let s := s.newFile core len
    let s := s.updDie (coreDie core) (fun d => { d with lamb := d.lamb ++ rows })
    let s := s.updCore core (fun k =>
      { k with residency := .resident, table := s.loadTable t.id.vf t.id.stimg, idleSince := s.rc,
               task := { t with heldStores := [], granted := [], images := [], waitPage := none, ends := none } })
    let s := (((s.resumeSeq core .control).resumeSeq core .load).resumeSeq core .compute).resumeSeq core .store
    let s := if (t.pending.find 3).isSome then s else s.release core .store
    let s := (t.shared.mq.map (fun e => e.1)).foldl (fun s n => s.resendKept core n) s
    .next (match t.ends, struck with
      | some r, _ => s.endTask core 6 r
      | none, some f => s.endTask core 9 (s.mkRec core .control f)
      | none, none => s.takeLatched core)
  | _, _ => skip s

/-! ### Rinty's handling of a trap (R189, R338, R375) -/

/-- A page that is not present (R375): the record goes to the log, and the task is pre-empted until the page's invalidation. -/
def State.pageAbsent (s : State) (c : Nat) (r : FaultRec) : State := (s.logFault (coreDie c) r).trapPreempt c r

/-- The trap of a pre-emption request (R194, R375): the control sequencer is set to resume where it stood, and the task stops with the
request's cause. -/
def State.preempted (s : State) (c : Nat) (r : FaultRec) : State :=
  (s.updTask c (fun t => (t.setResume r).endTrap r.seq.toNat)).stopAtOnce c r.kind.toNat

/-- A service that Rinty does not provide (R338): x10 := all ones, and the return to the next bundle. -/
def State.noService (s : State) (c : Nat) (r : FaultRec) : State :=
  let s := s.land c { target := .x 10, data := (BitVec.allOnes 64).setWidth 2048 }
  s.returnTo c .control (r.step + 16) false

/-- Rinty handles the trap that a core's task has met, by the class of its record (R375). -/
def State.handle (s : State) (c : Nat) (r : FaultRec) : State :=
  match r.cls.toNat with
  | 3 => s.pageAbsent c r
  | 6 => s.preempted c r
  | 7 => s.noService c r
  | n => s.endTask c n r

/-- Whether a trap of a core's task is handled now: one that is met while the task stops is saved as pending (R196). -/
def Core.handles (k : Core) : Bool :=
  (match k.residency with | .resident | .retiring _ => true | _ => false) && !k.fw.halted && k.task.suspended

/-- A trap that a core's task has met is handled by Rinty in the firmware context (R189, R375). The trap itself suspended the control
sequencer when the fault was raised (`State.takeFault`). -/
def execTrapEntry (core : Nat) (s : State) : Out :=
  let k := s.core core
  match k.task.current with
  | some r => if k.handles then .next (s.handle core r) else skip s
  | none => skip s

/-- A fault of the firmware context (R190): a program error of a kind. -/
def execFirmwareContextFault (core kind opf : Nat) (s : State) : Out :=
  if 4096 ≤ core then skip s
  else if kind = 0 ∨ 5 < kind ∨ (s.core core).fw.halted then skip s
  else .next (s.takeFault core .firmware (s.mkRec core .firmware (progError kind opf)))

/-! ### The watchdog (R202) -/

/-- The watchdog of a core (R202): nothing has issued or completed for WDLIM rc, firmware does not hold the core in a trap, and the clock does
not relock (R364). -/
def execWatchdog (core : Nat) (s : State) : Out :=
  let k := s.core core
  match k.residency with
  | .resident | .retiring _ =>
    if s.hub.relocking ∨ k.task.suspended ∨ s.rc < k.idleSince + (s.die (coreDie core)).wdlim then skip s
    else
      .next (State.takeFault (s.updCore core (fun k => { k with idleSince := s.rc })) core .control
        { s.mkRec core .control { cls := 8, kind := 1 } with word := 0 })
  | _ => skip s

end Sys2Proof.Machine
end

