-- ==== Sys2Proof/Machine/Perform.lean ====
section
/-! DEFINITION. What happens away from the issuing agents: accesses at their homes (R15, R30, R45, R46, R76, R77, R84, R201), page walks (R21 to
R26), cross-die writes (R121, R122), message queues (R47, R48, R120), ring grants (R326), waits on an address (R327), host memory (R29),
remote flag operations (R116 to R120), token signals (R90), loss of decoupling (R94), page invalidations (R24) and the crossing
between code regions (R19, R150). -/

namespace Sys2Proof.Machine

open Sys2Proof

/-! ### An access at its home -/

/-- Whether an access only reads. -/
def AccKind.reads : AccKind → Bool
  | .load _ | .prefetch | .waita .. | .fetch => true
  | _ => false

/-- Whether an access stands for a fence that follows its bundle's own words (assumption 12). -/
def Access.isFence (a : Access) : Bool := a.kind == .prefetch && a.offs.isEmpty

/-- Whether an earlier access `x` of the agent of `a` may touch the same location, one of them reaching it through a page table, so that the
places could not be compared as `a` issued (R85): their places meet, or the walk of `x` is still to come. Of one that waits for a migration
they are those that its tables name now. -/
def State.sameLocation (s : State) (x a : Access) : Bool :=
  decide (x.id < a.id) && x.of a.core a.agent && x.cmd == a.cmd && (x.pageable || a.pageable) && !x.isFence &&
  ((x.walk && !x.migWait) || (s.likely x).any (fun p => a.places.contains p))

/-- Whether nothing but its home keeps an access from performing: it is not held (R199), its sequencer's cycles have passed (R154), its page
is known, and the operations that it follows have performed (R85 to R87, R107). -/
def State.mayArrive (s : State) (a : Access) : Bool :=
  !a.held && decide (a.lag = 0) && !a.walk && !a.migWait && !s.anyLive a.after && !s.transit.any (fun x => s.sameLocation x a)

/-- An access in transit, by its number. -/
def State.access (s : State) (id : Nat) : Option Access := s.transit.find? (fun a => a.id == id)

/-- `s` with an access in transit replaced. -/
def State.setAccess (s : State) (a : Access) : State :=
  { s with transit := s.transit.map (fun x => if x.id = a.id then a else x) }

/-- Whether an access belongs to a transfer, which holds its leases (R77). -/
def Access.ofTransfer (a : Access) : Bool := (a.agent == .copyEngine || a.agent == .tensorMove) && a.cmd != 0

/-- The running transfer that an access belongs to. -/
def State.transfer (s : State) (a : Access) : Option Running := (s.task a.core).cp.running.find? (fun r => r.cmd.id == a.cmd)

/-- Whether a message or ring operation would read an error in its queue's or ring's descriptor (R201). -/
def State.ringPoisoned (s : State) (a : Access) : Bool :=
  match a.kind with
  | .message | .ring _ _ => s.poisonedIn (a.places.headD 0) 64
  | _ => false

/-- What an access meets at its home: the class and kind of its fault, or none (R15, R46, R76, R201). An exchange's writes and those to the
main file carry no lease. -/
def State.meets (s : State) (a : Access) (holds : List (Nat × Nat)) : Option (Nat × Nat) :=
  if a.slot ≠ 64 ∧ !s.leaseOk a.unit a.lease a.lgen a.places holds then some (2, 2)
  else if s.absent a.places then some (9, 5)
  else if (a.kind.reads || (match a.kind with | .atomic _ _ => true | _ => false)) && s.poisoned a.places then some (9, s.checkKind (inUnits a.places))
  else if s.ringPoisoned a then some (9, s.checkKind (inRange (a.places.headD 0) 64))
  else none

/-- An access meets a fault. A prefetch is dropped, and counted where it meets a condition of R14, R15, R22, R26 or R27 (R30). A message to a
queue whose lease has ended is discarded (R48). -/
def State.fail (s : State) (a : Access) (cls kind : Nat) (addr : DWord) : State :=
  if a.kind = .prefetch then (if cls = 9 then s.dropAccess a.id else (s.dropAccess a.id).specMiss a.core)
  else if a.kind = .message ∧ cls = 2 then s.dropAccess a.id
  else s.accessFault a cls kind addr

/-- An access does at its home what its kind says. -/
def State.performKind (s : State) (a : Access) : State :=
  match a.kind with
  | .load signed => s.performLoad a signed
  | .prefetch | .fetch => s.dropAccess a.id
  | .store => s.performStore a
  | .atomic op cmp => s.performAtomic a op cmp
  | .message => s.performMessage a
  | .accumulate fmt key => s.performAccumulate a fmt key
  | .waita cmp park polls => s.performWait a cmp park polls
  | .ring op count => s.performRing a op count
  | .rent op => s.performRent a op

/-- Whether an access that performs from `s` to `t` writes its places. -/
def Access.wrote (a : Access) (s t : State) : Bool :=
  match a.kind with
  | .store => true
  | .atomic op cmp => op != 2 || ofBytes (readPlaces s.mem a.places) == cmp.toNat % 2 ^ (8 * a.places.length)
  | .accumulate _ _ => t.accEntries != s.accEntries
  | _ => false

/-- An access performs at its home under its account's key (R45): what it reads of a data unit under another key is a free value, and what it
writes, a partial write being a read-modify-write of its whole unit, lies under its own. -/
def State.performKeyed (s : State) (a : Access) : State :=
  let us := s.foreign a
  let s' := s.decipher us
  let t := s'.performKind a
  if a.wrote s' t then t.sealed a (s.keyFor a) else t.cipherBack s.mem us

/-- Whether a message was refused. -/
def State.refused (s : State) (id : Nat) : Bool :=
  s.mqNotices.any (fun n => match n.refused with | some a => a.id == id | none => false)

/-- What follows for the unit that made an access once it has performed: a drain row (R298), a beat (R313), an image write (R176), words
of an exchange (R334). -/
def State.afterPerform (s : State) (a : Access) : State :=
  match a.agent, a.kind with
  | .matrixEngine, .store => s.rowDone a
  | .copyEngine, .store | .tensorMove, .store => s.beatDone a.core a.cmd
  | .copyEngine, .message | .tensorMove, .message => if s.refused a.id then s else s.beatDone a.core a.cmd
  | .image, .store => s.imageDone a.core
  | .image, .message => if s.refused a.id then s else s.imageDone a.core
  | .collectiveEngine, .store => if a.slot = 64 then s.countArrival a.cmd a.vf a.va.toNat a.data.length else s
  | _, _ => s

/-- Whether a message faults at its queue (R47, R49), so that the unit that sent it stays at it. -/
def State.messageBad (s : State) (a : Access) : Bool :=
  a.kind == .message && (!(s.ringAt (a.places.headD 0)).mq || (s.ringAt (a.places.headD 0)).bad)

/-- What follows for the unit whose message was discarded at its queue (R48): it goes on. -/
def State.messageGone (s : State) (a : Access) : State := if a.kind = .message then s.afterPerform a else s

/-- An access is checked at its home and performs, or faults (R15, R76): with the machine check `err` where the host has answered its read
with an error, or not at all (R29). -/
def State.checked (s : State) (a : Access) (holds : List (Nat × Nat)) (err : Option Nat) : State :=
  match s.meets a holds, err with
  | some (2, kind), _ => (s.fail a 2 kind a.va).messageGone a
  | _, some kind => s.fail a 9 kind a.va
  | some (cls, kind), _ => s.fail a cls kind a.va
  | none, none => if s.messageBad a then s.performKeyed a else (s.performKeyed a).afterPerform a

/-- An access arrives at its home (R76, R77): none while it has to wait there for a hold or for the boundary of the tick. -/
def State.arrive (s : State) (a : Access) (err : Option Nat := none) : Option State :=
  if a.isFence then some (s.dropAccess a.id)
  else
    match a.bad with
    | some r => some (s.fail a r.cls.toNat r.kind.toNat r.addr)
    | none =>
      if a.slot ≠ 64 ∧ !s.unitReady a.unit then none
      else
        match a.kind with
        | .rent op => some (s.performRent a op)
        | _ =>
          if !a.ofTransfer then some (s.checked a [] err)
          else
            match s.transfer a with
            | none => some (s.dropAccess a.id)
            | some r =>
              match r.st with
              | .ended .. => some (s.dropAccess a.id)
              | _ =>
                match s.takeHold a.unit a.lease a.lgen r.holds with
                | .wait => none
                | .expired => some ((s.dropAccess a.id).expireCopy a.core r.cmd)
                | .ok s' hs => some ((s'.setHolds a.core .copy a.cmd hs).checked a hs err)

/-- An access performs at its home (R76, R84): one whose home is on its own die, or a cross-die load (R122 steps 4 and 5). -/
def execDataAccessPerform (access : Nat) (s : State) : Out :=
  match s.access access with
  | none => skip s
  | some a =>
    if !s.mayArrive a then skip s
    else if a.isFence ∨ a.bad.isSome then (match s.arrive a with | some s' => .next s' | none => skip s)
    else
      match a.kind with
      | .message | .accumulate _ _ => skip s
      | _ =>
        if a.crossWrite ∨ (a.kind.reads ∧ a.home = 8) then skip s
        else if a.from ≠ a.home ∧ !s.causalLoadOk a.home a.from (a.stamp.getD []) then skip s
        else
          match s.arrive a with
          | some s' => .next (if s.waiters.length < s'.waiters.length then s' else s'.loadReturns a.from a.home)
          | none => skip s

/-! ### Cross-die writes (R121, R122) -/

/-- A cross-die write that may leave its die takes its stamp (R122 step 1). -/
def State.stampAccess (s : State) (a : Access) : State :=
  let (v, s) := s.stampFrom a.from
  s.setAccess { a with stamp := some v }

/-- A write goes to its home: on its own die at once, and across dies when it has its stamp and its cause has been applied; one that
faults there counts as applied (R122). -/
def State.writeArrives (s : State) (a : Access) : Option State :=
  if !a.crossWrite then s.arrive a
  else
    match a.stamp with
    | none => some (s.stampAccess a)
    | some v =>
      if !s.causalOk a.home a.from v then none
      else
        (s.arrive a).map (fun s' =>
          let s' := s'.applied a.home a.from v
          match a.kind with
          | .atomic _ _ => s'.loadReturns a.from a.home
          | _ => s')

/-- A cross-die write leaves its die or is applied at its home (R122); `arrival` is a peer's write, by function, guest-physical address
and bytes, which enters the module as a write of component 8 (R121). -/
def execCrossDieWriteApply (access : Nat) (arrival : Option (Nat × Nat × List Byte)) (s : State) : Out :=
  match arrival with
  | some (fn, gpa, data) => .next (s.peerStore fn gpa data)
  | none =>
    match s.access access with
    | none => skip s
    | some a =>
      if !s.mayArrive a ∨ a.bad.isSome ∨ !a.crossWrite then skip s
      else
        match a.kind with
        | .message | .accumulate _ _ => skip s
        | _ => (match s.writeArrives a with | some s' => .next s' | none => skip s)

/-- The hub's next APPLIED reaches a die (R122 step 2). -/
def execAppliedVectorUpdate (die : Nat) (s : State) : Out :=
  if 8 ≤ die then skip s
  else
    match (s.die die).appliedMail with
    | [] => skip s
    | v :: r => .next (s.updDie die (fun d => { d with applied := v, appliedMail := r }))

/-- An accumulate write performs at its port (R54, R55); `arrival` is a peer's, with its key and the number of its command (R211, R219). -/
def execAccumulateWrite (access : Nat) (arrival : Option (Nat × Nat × DWord × Nat × List Byte)) (s : State) : Out :=
  match arrival with
  | some (fn, gpa, key, cmd, data) => (match s.peerAccumulate fn gpa key cmd data with | some s' => .next s' | none => skip s)
  | none =>
    match s.access access with
    | none => skip s
    | some a =>
      match a.kind with
      | .accumulate _ _ =>
        if !s.mayArrive a ∨ a.bad.isSome then skip s
        else (match s.writeArrives a with | some s' => .next s' | none => skip s)
      | _ => skip s

/-! ### Page walks (R21 to R26) -/

/-- The walk of an access (R21 to R26, R30): its places become known, it waits for a migration, or it faults. -/
def State.walkAccess (s : State) (a : Access) : State :=
  let store := !a.kind.reads
  let spec := a.kind == .prefetch
  let atomic := match a.kind with | .atomic _ _ => true | _ => false
  let fault (f : WalkFault) : State := s.fail a f.1 f.2.1 (BitVec.ofNat 64 f.2.2)
  match s.pagePlaces a.core a.stage a.slot a.lgen a.table a.va.toNat store spec atomic (a.offs.map (fun o => vaOff a.va + o)) with
  | .ok (ps, s') => s'.setAccess { a with places := ps, walk := false, migWait := false, migGo := false }
  | .error none => if spec then (s.dropAccess a.id).specMiss a.core else s.setAccess { a with migWait := true, migGo := false }
  | .error (some f) => fault f

/-- A pageable access walks its tables (R21 to R25). -/
def execPageWalk (access : Nat) (s : State) : Out :=
  match s.access access with
  | some a => if a.walk ∧ !a.migWait ∧ !a.held then .next (s.walkAccess a) else skip s
  | none => skip s

/-- Whether an invalidation covers a page that an access touches (R24, R353). -/
def Inval.coversAccess (i : Inval) (a : Access) : Bool :=
  a.vf == i.fn && a.lid == i.lid && a.slot == i.slot &&
  a.offs.any (fun o => decide (i.first ≤ (vaOff a.va + o) / 65536 ∧ (vaOff a.va + o) / 65536 < i.first + i.length))

/-- A store that waits for a migration walks the tables again (R26), once an invalidation that covers its page has completed (R24). -/
def execMigrationStoreRetry (access : Nat) (s : State) : Out :=
  match s.access access with
  | some a => if a.walk ∧ a.migWait ∧ a.migGo ∧ !a.held then .next (s.walkAccess a) else skip s
  | none => skip s

/-- A page invalidation completes once every access that used a dropped entry has performed (R24, R340, R353). -/
def execInvalidationComplete (index : Nat) (s : State) : Out :=
  match s.invals[index]? with
  | none => skip s
  | some i =>
    if s.anyLive i.after then skip s
    else
      let s' := State.wakePages { s with
        invals := s.invals.eraseIdx index
        transit := s.transit.map (fun (a : Access) => if a.migWait ∧ i.coversAccess a then { a with migGo := true } else a) } i
      let s' := match i.reply with | some (c, t) => s'.land c { target := t, data := 0 } | none => s'
      match i.packet with
      | none => .next s'
      | some (fn, n, count) =>
        match (s'.ring fn n).packet count with
        | none => .next s'
        | some p => (match s'.completePacket fn n p 0 0 0 0 with | some s2 => .next s2 | none => skip s)

/-! ### Host memory (R29, R201) -/

/-- A read of host memory that a PCIe completion answers, if it is at the point of performing. -/
def State.hostReadOf (s : State) (access : Nat) : Option Access :=
  match s.access access with
  | some a => if s.mayArrive a && a.kind.reads && a.bad.isNone && !a.isFence && a.home == 8 then some a else none
  | none => none

/-- A PCIe completion returns the data of a tier-4 load, or its error status (R29, R201). -/
def execPcieCompletion (access : Nat) (ok : Bool) (s : State) : Out :=
  match s.hostReadOf access with
  | none => skip s
  | some a =>
    if !s.causalLoadOk 8 a.from (a.stamp.getD []) then skip s
    else
      match s.arrive a (if ok then none else some 3) with
      | some s' => .next (if s.waiters.length < s'.waiters.length then s' else s'.loadReturns a.from 8)
      | none => skip s

/-- No PCIe completion comes for a tier-4 load (R29, R201). -/
def execPcieCompletionTimeout (access : Nat) (s : State) : Out :=
  match s.hostReadOf access with
  | none => skip s
  | some a => (match s.arrive a (some 4) with | some s' => .next s' | none => skip s)

/-! ### Remote writes and their order (R116 to R120) -/

/-- The die of a flag operation's source: a core's, an accumulate port's, or the hub's as 8 (R121). -/
def RemoteFlag.die (r : RemoteFlag) : Nat :=
  if r.source < 8192 then coreDie r.source
  else if r.source < 8448 then (r.source - 8192) / 32
  else if r.source < 8704 then r.source - 8448
  else 8

/-- The core that a flag operation goes to, if it names one here. -/
def State.flagCore (s : State) (r : RemoteFlag) : Option Nat :=
  if r.peer.isSome then none
  else
    match r.byRank with
    | some (u, g, k) => s.coreOfMember (coreDie r.target) r.launch u g k
    | none => some r.target

/-- The core whose queue a message goes to. -/
def Access.queueCore (a : Access) : Nat := (a.places.headD 0 - 2 ^ 40) / 2 ^ 21

/-- Whether an earlier remote write of core `c` to core `target` goes first (R120): one of the same agent, or one that has left the
core, a message among them that was refused and waits to be sent again (R48). -/
def State.remoteBefore (s : State) (c : Nat) (agent : Agent) (id : Nat) (target : Option Nat) : Bool :=
  let first (i : Nat) (a : Agent) (after : List Nat) : Bool := decide (i < id) && (a == agent || !s.anyLive after)
  s.remote.any (fun r => r.source == c && (s.flagCore r).isSome && s.flagCore r == target && first r.id r.agent r.after) ||
  (s.transit ++ s.refusedMessages ++ (s.task c).keptMessages).any (fun a =>
    a.core == c && a.kind == .message && some a.queueCore == target && first a.id a.agent a.after)

/-- A remote flag operation takes its stamp. -/
def State.stampFlag (s : State) (index : Nat) (r : RemoteFlag) : State :=
  let (v, s) := s.stampFrom r.die
  { s with remote := s.remote.set index { r with stamp := some v } }

/-- The launch id under which a flag operation goes to a peer (assumption 87). -/
def State.lidOf (s : State) (r : RemoteFlag) : Word :=
  match (s.die r.die).launches.find? (fun l => l.id == r.launch) with | some l => l.lrec.lid | none => 0

/-- A remote flag operation is applied at its target (R116 to R118, R323); one to another device leaves through a link. -/
def State.applyFlag (s : State) (r : RemoteFlag) : State :=
  match r.peer with
  | some fid =>
    (match s.linkTo fid with
     | some l => s.flit (.outFlag r.id r.source r.agent l fid (s.lidOf r) r.target r.flag r.value)
     | none => s)
  | none =>
    match r.byRank with
    | some (u, g, k) => s.flagAtRank (coreDie r.target) r.launch u g k r.flag r.value r.add
    | none => s.flagAtCore r.launch r.target r.flag r.value r.add

/-- A flag add that a peer sent reaches its core, resolved against the launch of that die with its launch id (R116, R118, assumption 87). -/
def State.peerFlag (s : State) (lid : Word) (core f : Nat) (v : Word) : State :=
  match (s.die (coreDie core)).launches.find? (fun l => l.lrec.lid == lid) with
  | some l => s.flagAtCore l.id core f v true
  | none => s.loseFlag (coreDie core)

/-- A remote flag operation leaves its die or reaches its target (R116 to R122); a peer's flag add is a write of component 8 (R121). -/
def execRemoteFlagOperation (event : FlagEvent) (s : State) : Out :=
  match event with
  | .peer lid core f v =>
    if 4096 ≤ core ∨ 32 ≤ f then skip s
    else
      let (st, s') := s.stampFrom 8
      if s.causalOk (coreDie core) 8 st then .next ((s'.peerFlag lid core f v).applied (coreDie core) 8 st) else skip s
  | .own index =>
    match s.remote[index]? with
    | none => skip s
    | some r =>
      let home := coreDie r.target
      if s.anyLive r.after ∨ s.remoteBefore r.source r.agent r.id (s.flagCore r) then skip s
      else
        let done := State.applyFlag { s with remote := s.remote.eraseIdx index } r
        if r.peer.isSome ∨ r.die = home then .next done
        else
          match r.stamp with
          | none => .next (s.stampFlag index r)
          | some v => if s.causalOk home r.die v then .next (done.applied home r.die v) else skip s

/-! ### Message queues (R47, R48) -/

/-- Whether an earlier message of a writer to the same queue, through whichever slot, was refused and waits, so that this one waits behind
it (R47, R48). -/
def State.behindKept (s : State) (a : Access) : Bool :=
  (s.refusedMessages ++ (s.task a.core).keptMessages).any (fun k =>
    k.core == a.core && decide (k.id < a.id) && k.places.headD 0 == a.places.headD 0)

/-- A message leaves its die or reaches its queue (R47, R48, R120). -/
def execMessageQueueAppend (access : Nat) (s : State) : Out :=
  match s.access access with
  | none => skip s
  | some a =>
    if a.kind ≠ .message ∨ !s.mayArrive a ∨ a.bad.isSome then skip s
    else if s.remoteBefore a.core a.agent a.id (some a.queueCore) ∨ s.behindKept a then skip s
    else (match s.writeArrives a with | some s' => .next s' | none => skip s)

/-- The writer that a notice is for, changed by `f`, wherever its task is. -/
def State.updWriter (s : State) (n : MqNotice) (f : MqWriter → MqWriter) : State :=
  let i := n.who
  s.updMember (coreDie n.core) i.launch i.unit i.crewRank i.gangRank (fun t =>
    { t with shared := { t.shared with mq := t.shared.mq.set n.slot (f (t.writer n.slot)) } })

/-- An acknowledgement or refusal reaches its writer (R48). -/
def execMqAcknowledgement (index : Nat) (s : State) : Out :=
  match s.mqNotices[index]? with
  | none => skip s
  | some n =>
    let s' := { s with mqNotices := s.mqNotices.eraseIdx index }
    match n.refused with
    | some a =>
      .next (s'.updWriter n (fun w =>
        { w with stop := true, kept := w.kept ++ [{ a with stamp := none }],
                 pollAt := if n.poll then some (s.rc + 1024) else w.pollAt }))
    | none =>
      if n.poll then skip s
      else .next (s'.updWriter n (fun w => { w with unacked := w.unacked - 1, stop := w.stop || n.free == 0 }))

/-- Whether a core's task sends kept messages again: it is placed, and has not left the core. -/
def Core.resends (k : Core) : Bool :=
  match k.residency with
  | .resident | .retiring _ | .stopping _ => true
  | _ => false

/-- The kept messages of the writer that a notice is for are sent again, if its task is on a core (R48). -/
def State.resendFor (s : State) (n : MqNotice) : State :=
  let i := n.who
  match s.coreOfMember (coreDie n.core) i.launch i.unit i.crewRank i.gangRank with
  | some c => if (s.core c).resends then s.resendKept c n.slot else s
  | none => s

/-- A resume notice reaches its writer (R48): the stop bit clears, and a kept message is sent again first. -/
def execResumeNotice (index : Nat) (s : State) : Out :=
  match s.mqNotices[index]? with
  | none => skip s
  | some n =>
    if n.refused.isSome ∨ !n.poll then skip s
    else
      let s' := { s with mqNotices := s.mqNotices.eraseIdx index }
      .next ((s'.updWriter n (fun w => { w with stop := false })).resendFor n)

/-- A writer whose refusal was marked for polling sends the kept message again, 1024 rc after the refusal (R48). -/
def execMqPollResend (core slot : Nat) (s : State) : Out :=
  match ((s.task core).writer slot).pollAt with
  | none => skip s
  | some t =>
    if s.rc < t ∨ !(s.core core).resends then skip s
    else
      .next ((s.updShared core (fun h =>
        { h with mq := h.mq.set slot { h.mq.get slot {} with stop := false, pollAt := none } })).resendKept core slot)

/-! ### Rings and waits on an address (R326, R327) -/

/-- The first claim of a kind parked at a ring. -/
def State.parkedClaim (s : State) (place op : Nat) : Option Waiter :=
  s.waiters.find? (fun w => match w.access.kind with
    | .ring o _ => o == op && w.access.places.headD 0 == place
    | _ => false)

/-- The first parked claim of a kind is granted, if its count has moved (R326). -/
def State.grantClaim (s : State) (place op : Nat) : Option State :=
  match s.parkedClaim place op with
  | none => none
  | some w =>
    let r := s.ringAt place
    let s' := { s with waiters := s.waiters.erase w }
    if s.ringPoisoned w.access then some (s'.accessFaultVa w.access 9 (s.checkKind (inRange place 64)))
    else if r.bad then some (s'.accessFaultVa w.access 1 3)
    else
      match r.apply op 0 with
      | .claim n r' =>
        let s' := s'.setRing place r'
        some { s' with granted := s'.granted ++
            [{ core := w.access.core, step := w.access.step, agent := w.access.agent, word := w.access.word,
               value := BitVec.ofNat 64 n }] }
      | _ => none

/-- The ring logic of core `home` grants a parked claim at the descriptor at near-store byte `desc` (R50, R326). -/
def execRingClaimGrant (home desc : Nat) (s : State) : Out :=
  if 4096 ≤ home ∨ 0x180000 ≤ desc then skip s
  else
    match s.grantClaim (nearPlace home desc) 0 with
    | some s' => .next s'
    | none =>
      match s.grantClaim (nearPlace home desc) 2 with
      | some s' => .next s'
      | none => skip s

/-- A waiter that is not parked reads its word again (R327): the read goes to its home, or as a PCIe request to host memory (R29), and is
checked there against its lease. -/
def execWaitaPoll (index : Nat) (s : State) : Out :=
  match s.waiters[index]? with
  | none => skip s
  | some w =>
    match w.poll with
    | none => skip s
    | some t =>
      if s.rc < t then skip s
      else
        let a := { w.access with stamp := some (s.clock w.access.from), after := [] }
        .next { s with waiters := s.waiters.eraseIdx index, transit := s.transit ++ [a] }

/-! ### Token signals and sequencers (R90, R148, R152) -/

/-- The sequencer that a party code names. -/
def partyAgent (n : BitVec 2) : Agent :=
  match n.toNat with
  | 1 => .load
  | 2 => .compute
  | 3 => .store
  | _ => .control

/-- Whether a sequencer is frozen in exposed mode (R152). -/
def Seq.frozen (q : Seq) : Bool := q.st == .blocked && q.lm != some true

/-- The slot codes (R145, R156): the agents that issue, and the firmware context in the compute sequencer's stream as 6. -/
def slotCode : Agent → Nat
  | .control => 0
  | .load => 1
  | .compute => 2
  | .store => 3
  | .mule => 4
  | .firmware => 5
  | _ => 7

/-- Whether the firmware context has taken the slot of an agent in the ac at hand (R156). -/
def Core.slotLost (k : Core) (a : Agent) (ac : Nat) : Bool :=
  match a with
  | .control => k.issuedAt.find 5 == some ac
  | .compute => k.issuedAt.find 6 == some ac
  | _ => false

/-- Whether the results of an agent do not advance in the ac at hand (R152). -/
def State.still (s : State) (c : Nat) (a : Agent) : Bool :=
  let q := (s.task c).seq a
  q.frozen || (q.lm != some true && (s.core c).slotLost a s.ac)

/-- A token signal is applied (R90): its producer's earlier accesses have performed, its producer is not frozen and has not lost its slot
(R152), earlier signals of the token have been applied and the count is below 255. -/
def execTokenSignalApply (core index : Nat) (s : State) : Out :=
  let t := s.task core
  match t.shared.signals[index]? with
  | none => skip s
  | some g =>
    let k := t.shared.token.get g.token {}
    if s.anyLive g.after ∨ !s.tokenRoom core g.token ∨ (t.shared.signals.take index).any (fun x => x.token == g.token) ∨
        s.still core (partyAgent k.prod) then skip s
    else
      .next (s.updShared core (fun h =>
        { h with
          signals := h.signals.eraseIdx index
          token := h.token.set g.token { k with count := k.count + 1 } }))

/-- A token signal of a sequencer that cannot be applied holds it back (R90). -/
def State.signalStall (s : State) : Bool :=
  s.me.shared.signals.any (fun g =>
    let k := s.me.shared.token.get g.token {}
    k.prod == partyCode s.cur.agent && k.count == 255 && !s.anyLive g.after)

/-- A register's target as its instruction words name it: the firmware context's own x, and the store sequencer's own a, by the same
number. -/
def Target.plain : Target → Target
  | .fwx n => .x n
  | .aStore n => .aLoad n
  | t => t

/-- The registers that an access of the issuing agent will write when it performs. -/
def Access.dests (a : Access) : List Target :=
  match a.kind, a.dest.plain with
  | .rent .lstat, .x n => [.x n, .x (n + 1)]
  | _, .none => []
  | _, t => [t]

/-- The registers that the issuing agent's accesses, rent operations and page invalidations on their way will write (R86, R256, R320). -/
def State.awaited (s : State) : List Target :=
  let mine (a : Access) : Bool := a.of s.cur.core s.cur.agent
  (s.transit.filter mine).flatMap Access.dests ++ ((s.debits.filterMap (fun d => d.purpose.access)).filter mine).flatMap Access.dests ++
  ((s.slotOps.map (·.access)).filter mine).flatMap Access.dests ++
  (s.invals.filterMap (fun i => match i.reply with
    | some (c, t) => if c = s.cur.core ∧ s.isFw then some t.plain else none
    | none => none))

/-- Whether the home or an abort has granted the issuing agent's request at its step (R320, R324). -/
def State.hasGrant (s : State) : Bool :=
  s.granted.any (fun g => g.core == s.cur.core && g.agent == s.cur.agent && g.step == s.stepOf s.cur.core s.cur.agent)

/-- Whether a cause for which the issuing agent is BLOCKED still stands (R148); a wait that names none ends as its word issues. -/
def State.stands (s : State) (w : Cause) : Bool :=
  match w with
  | .none => true
  | .ops ids => s.anyLive ids
  | .registers l => s.awaited.any (fun t => l.contains t)
  | .tokenEmpty k => s.tokenSeen s.cur.core k == 0
  | .tokenFull k => !s.tokenRoom s.cur.core k
  | .signal => s.signalStall
  | .pop q => !s.canPop q
  | .push q => !s.canPush q
  | .output e => if s.cur.agent = .mule then s.outFull s.cur.core (engineOf e) else !s.outSeen (engineOf e)
  | .input e => s.queueFull (engineOf e)
  | .tags m all => if all then s.tagsOf m != m else s.tagsOf m == 0
  | .flag f v =>
    !s.hasGrant && !serialGe (s.flag f) v &&
    !s.me.shared.awaiting.any (fun e => e.woken && e.agent == s.cur.agent && e.flag == f && e.value == v)
  | .grant => !s.hasGrant
  | .message n => (let q := s.me.writer n; q.stop || decide (8 ≤ q.unacked))
  | .pendingStores => decide (8 ≤ (s.transit.filter (fun x => x.of s.cur.core .store && decide (2 ≤ x.tier))).length)
  | .farLoads => s.farLoads
  | .commands => !s.me.muleCmds.isEmpty || s.outFull s.cur.core .mule
  | .nests => s.me.mx.queue.any (fun c => c.pusher == .mule && headCmd c.head == 0) ||
      s.me.mx.running.any (fun r => r.cmd.pusher == .mule && headCmd r.cmd.head == 0)

/-- A BLOCKED sequencer returns to RUN once its cause has cleared (R148), and those of the other words of its bundle (R149): the waiting
micro-order or bundle issues next. -/
def execSequencerUnblock (core : Nat) (agent : Agent) (s : State) : Out :=
  let u := { s with cur := { core := core, agent := agent } }
  match agent with
  | .control | .load | .compute | .store =>
    let q := (s.task core).seq agent
    if q.st = .blocked ∧ !u.stands q.cause ∧ !q.more.any u.stands then
      .next (s.updTask core (fun t => t.updSeq agent (fun q => { q with st := .run, cause := .none, more := [] })))
    else skip s
  | .mule =>
    let m := (s.task core).mule
    if m.st = .blocked ∧ !u.stands m.cause then
      .next (s.updTask core (fun t => { t with mule := { t.mule with st := .run, cause := .none } }))
    else skip s
  | _ => skip s

/-! ### Loss of decoupling (R94) -/

/-- The oldest marked entry of the load queues that is still to be loaded again, with its queue. -/
def TaskCtx.nextDue (t : TaskCtx) : Option (Nat × QEntry) :=
  let all := (List.range 8).flatMap (fun q => ((t.shared.queue.get q []).filter QEntry.due).map (fun e => (q, e)))
  match all with
  | [] => none
  | x :: r => some (r.foldl (fun b e => if e.2.id < b.2.id then e else b) x)

/-- The record of a load made again that faults: the micro-order that pushed the entry, deferred (R94). -/
def State.reloadFault (s : State) (c : Nat) (e : QEntry) (f : FaultInfo) : State :=
  { s with deferred := s.deferred ++
      [{ core := c, agent := .load, entry := e.id,
         info := { s.mkRec c .load f with step := e.step, word := 0, defer := true } }] }

/-- The load of a marked entry is made again (R94). -/
def State.reload (s : State) (c q : Nat) (e : QEntry) : State :=
  let va := e.va.getD 0
  if inWindow va then
    s.land c { target := .qent q e.id, data := BitVec.ofNat 2048 (s.readFile c (windowOff va) 256) }
  else
    match s.lookup c va 256 .load 3 with
    | .error f => s.reloadFault c e f
    | .ok d =>
      let a := s.mkAccess c { kind := .load false, va := va, offs := List.range 256, mode := .load, skew := e.skew,
                              dest := .qent q e.id, opf := 3, agent := .load } d
      if d.tier = 1 ∧ d.kind = 0 ∧ d.homeCore ≠ c then s.reloadFault c e (invalidSegment 3 va)
      else s.send { a with step := e.step, word := 0, after := [] }

/-- The loads of the entries that a loss of decoupling has marked are made again, in their original order, whatever block has marked them
(R94); the event itself is taken as the store performs (`State.loseDecoupling`). -/
def execLossOfDecoupling (core _block : Nat) (s : State) : Out :=
  let t := s.task core
  if t.load.st = .faulted ∨ s.deferred.any (fun d => d.core == core && d.agent == .load) then skip s
  else
    match t.nextDue with
    | none => skip s
    | some (q, e) =>
      if s.transit.any (fun a => a.of core .load && t.toDue a.dest) then skip s else .next (s.reload core q e)

/-! ### The crossing between code regions (R19, R150) -/

/-- The LM value of the segment that an agent's next step lies in. -/
def State.nextLm (s : State) (c : Nat) (a : Agent) : Bool :=
  let q := (s.task c).seq a
  let va := match a with
    | .load | .compute | .store => q.epbase + 4 * q.step
    | _ => q.step
  (s.slotDesc c (vaSlot va)).lm

/-- The engine queues of a core are drained (R150). -/
def TaskCtx.drained (t : TaskCtx) : Bool := t.mx.empty && t.cp.empty && t.cl.empty && t.ml.empty

/-- A sequencer passes into a segment with the other LM value (R150): its results in flight land, and it goes on once the engines are
drained. -/
def State.cross (s : State) (c : Nat) (a : Agent) : State × Bool :=
  let q := (s.task c).seq a
  let lm := s.nextLm c a
  if q.lm = none ∨ q.lm = some lm then (s.updTask c (fun t => t.updSeq a (fun q => { q with lm := some lm })), true)
  else
    let s' := (s.setPipe c a []).landAll c a (s.pipe c a)
    if (s'.task c).drained ∧ (s'.pipe c a).isEmpty then
      (s'.updTask c (fun t => t.updSeq a (fun q => { q with lm := some lm })), true)
    else (s', false)

/-- The crossing of a sequencer between code regions (R19, R150). -/
def execCodeRegionCrossing (core : Nat) (agent : Agent) (s : State) : Out :=
  match agent with
  | .control | .load | .compute | .store => if (s.core core).residency = .resident then .next (s.cross core agent).1 else skip s
  | _ => skip s

end Sys2Proof.Machine
end

