-- ==== Sys2Proof/Machine/Host.lean ====
section
/-! DEFINITION. The host interface: BAR0 and its registers (R28, R157, R180, R202, R342, R343, R356, R365, R367), the capability list (R361,
R362), command rings and their packets (R345 to R347), account commands (R61, R352, R360), saved prefixes (R354, R355), page invalidations
(R353), attestation (R358, R359), function-level reset (R344), power-on (R371) and the host's reads and writes (R125). -/

namespace Sys2Proof.Machine

open Sys2Proof

/-! ### Registers of the physical function's window (R343) -/

/-- Whether a function is enabled (R357, R371). -/
def State.fnEnabled (s : State) (fn : Nat) : Bool := fn == 0 || (decide (fn < 256) && (s.fn fn).enabled && !s.hub.recovery)

/-- A write that breaks a register's layout or range is refused and reported (R28, R343). -/
def State.configError (s : State) : State := { s with hub := { s.hub with configErrors := s.hub.configErrors + 1 } }

/-- A register write that is taken when a condition holds. -/
def State.setIf (s : State) (ok : Bool) (f : State → State) : State := if ok then f s else s.configError

/-- `s` with the hub's registers changed. -/
def State.updHub (s : State) (f : Hub → Hub) : State := { s with hub := f s.hub }

/-- Whether a second-stage entry breaks its layout (R28). -/
def stageBad (e : Nat) : Bool :=
  decide (bits e 104 24 ≠ 0 ∨ bits e 65 15 ≠ 0 ∨ bits e 39 25 ≠ 0 ∨ bits e 0 16 ≠ 0 ∨ 2 ^ 23 < bits e 80 24 ∨
    2 ^ 39 < bits e 16 23 * 65536 + bits e 80 24 * 65536)

/-- The upper word of a second-stage entry writes the whole entry, with the lower word last staged (R28, R343); it enables a virtual
function (R371). -/
def State.writeStage (s : State) (n : Nat) (upper : DWord) : State :=
  let e : BitVec 128 := upper ++ (s.fn n).staged
  s.setIf (!stageBad e.toNat) (fun s => s.updFn n (fun f => { f with sstage := e, enabled := true }))

/-- A write of the upper word of a second-stage entry by the physical function (R28). -/
def execSecondStageEntryWrite (entry : Nat) (upper : DWord) (s : State) : Out :=
  if 256 ≤ entry then skip s else .next (s.writeStage entry upper)

/-- Whether a save pool lies within its function's carve-out (R343). -/
def State.poolOk (s : State) (n base size : Nat) : Bool :=
  decide (base % 65536 = 0 ∧ base < 2 ^ 40 ∧ size < 2 ^ 24 ∧ base + size * 65536 ≤ (s.stage n).2.2)

/-- A write of word `n` of the SESSION register that SESSSEL names (R356): the reserved word stays zero. -/
def State.writeSession (s : State) (n : Nat) (v : DWord) : State :=
  s.setIf (n != 6 || v == 0) (fun s =>
    s.updFn s.hub.sesssel.toNat (fun f =>
      { f with session := BitVec.ofNat 512 (putBits f.session.toNat (64 * n) 64 v.toNat) }))

/-- A write of the physical function's window at `off` (R343). -/
def State.writePf (s : State) (off : Nat) (v : DWord) : State :=
  let n := v.toNat
  if off = 0x8000 then s.setIf (decide (1000 ≤ n ∧ n ≤ 4800)) (fun s => s.updHub (fun h => { h with pcap := n }))
  else if off = 0x8008 then s.setIf (decide (100 ≤ n ∧ n ≤ 3000)) (fun s => s.updHub (fun h => { h with ilim := n }))
  else if off = 0x8010 then s.setIf (decide (10 ≤ n ∧ n ≤ 1000)) (fun s => s.updHub (fun h => { h with slew := n }))
  else if 0x8100 ≤ off ∧ off < 0x8140 ∧ off % 8 = 0 then
    s.setIf (decide (1 ≤ n ∧ n < 2 ^ 32)) (fun s => s.updDie ((off - 0x8100) / 8) (fun d => { d with wdlim := n }))
  else if off = 0x8200 then s.setIf (decide (n < 4096)) (fun s => s.updHub (fun h => { h with pssel := BitVec.ofNat 13 n }))
  else if off = 0x8208 then s.setIf (decide (n < 65536)) (fun s => s.writePshare s.hub.pssel.toNat v)
  else if off = 0x8300 then s.setIf (decide (n < 256)) (fun s => s.updHub (fun h => { h with sesssel := BitVec.ofNat 8 n }))
  else if 0x8308 ≤ off ∧ off < 0x8348 ∧ off % 8 = 0 then s.writeSession ((off - 0x8308) / 8) v
  else if 0x9000 ≤ off ∧ off < 0xA000 ∧ off % 8 = 0 then
    (if off % 16 = 0 then s.updFn ((off - 0x9000) / 16) (fun f => { f with staged := v }) else s.writeStage ((off - 0x9000) / 16) v)
  else if 0xA000 ≤ off ∧ off < 0xB000 ∧ off % 8 = 0 then
    let f := (off - 0xA000) / 16
    (if off % 16 = 0 then
      s.setIf (s.poolOk f n (s.fn f).spsize.toNat) (fun s => s.updFn f (fun k => { k with spbase := v }))
     else s.setIf (s.poolOk f (s.fn f).spbase.toNat n) (fun s => s.updFn f (fun k => { k with spsize := v })))
  else if 0xC000 ≤ off ∧ off < 0xE000 ∧ off % 4 = 0 then
    s.setIf (decide (n < 256)) (fun s =>
      s.updDie ((off - 0xC000) / 1024) (fun d => { d with dlshare := d.dlshare.set ((off - 0xC000) % 1024 / 4) n }))
  else s

/-- A read of the physical function's window at `off` (R343). -/
def State.readPf (s : State) (off : Nat) : Nat :=
  if off = 0x8000 then s.hub.pcap
  else if off = 0x8008 then s.hub.ilim
  else if off = 0x8010 then s.hub.slew
  else if 0x8100 ≤ off ∧ off < 0x8140 ∧ off % 8 = 0 then (s.die ((off - 0x8100) / 8)).wdlim
  else if off = 0x8200 then s.hub.pssel.toNat
  else if off = 0x8208 then (s.core s.hub.pssel.toNat).pshare.toNat
  else if off = 0x8300 then s.hub.sesssel.toNat
  else if 0x8308 ≤ off ∧ off < 0x8348 ∧ off % 8 = 0 then
    bits (s.fn s.hub.sesssel.toNat).session.toNat (8 * (off - 0x8308)) 64
  else if 0x9000 ≤ off ∧ off < 0xA000 ∧ off % 8 = 0 then bits (s.fn ((off - 0x9000) / 16)).sstage.toNat (off % 16 * 8) 64
  else if 0xA000 ≤ off ∧ off < 0xB000 ∧ off % 8 = 0 then
    let f := s.fn ((off - 0xA000) / 16)
    (if off % 16 = 0 then f.spbase.toNat else f.spsize.toNat)
  else if 0xC000 ≤ off ∧ off < 0xE000 ∧ off % 4 = 0 then
    (s.die ((off - 0xC000) / 1024)).dlshare.get ((off - 0xC000) % 1024 / 4) 1
  else 0

/-! ### Ring registers (R345) -/

/-- A write of a ring register (R345): refused while the ring is on, unless it clears EN only; setting EN reads HEAD. -/
def State.writeRing (s : State) (fn n : Nat) (v : DWord) : State :=
  let r := s.ring fn n
  if v.toNat / 2 % 8 ≠ 0 then s
  else if r.on then (if v + 1 = r.reg then s.updRing fn n (fun r => { r with reg := v }) else s)
  else if !v.getLsbD 0 then s.updRing fn n (fun r => { r with reg := v })
  else
    let on := s.updRing fn n (fun r => { r with reg := v })
    match on.ringPlace fn n ((on.ring fn n).base + 8) 8 with
    | some p => on.updRing fn n (fun r => { r with head := Memory.readNat s.mem p 8 })
    | none => s

/-- A write of a ring register by its own function (R342, R345). -/
def execRingRegisterWrite (fn ring : Nat) (value : DWord) (s : State) : Out :=
  if 256 ≤ fn ∨ 16 ≤ ring then skip s
  else if !s.fnEnabled fn then skip s
  else .next (s.writeRing fn ring value)

/-! ### The capability list (R361, R362) -/

/-- The core mask of a cluster, without the disabled cores. -/
def State.coreMask (s : State) (die cl : Nat) : Nat :=
  (List.range 16).foldl (fun acc n => if s.coreUsable (coreNum die cl n) then acc + 2 ^ n else acc) 0

/-- The cluster mask of a die: clusters with an enabled core. -/
def State.clusterMask (s : State) (die : Nat) : Nat :=
  (List.range 32).foldl (fun acc c => if s.coreMask die c ≠ 0 then acc + 2 ^ c else acc) 0

/-- Bits set for the numbers below `n` that satisfy `p`. -/
def maskOf (n : Nat) (p : Nat → Bool) : Nat := (List.range n).foldl (fun acc i => if p i then acc + 2 ^ i else acc) 0

/-- Enabled pseudo-channels of a stack (R46). -/
def State.channels (s : State) (stack : Nat) : Nat := 2 ^ 256 - 1 - (s.channelsOff stack).toNat

/-- The record of a function. -/
def State.fnRecord (s : State) (n : Nat) : Nat × List Nat :=
  (5, [n % 256 + (s.cfg.tags.get n 0).toNat * 2 ^ 16 + (s.stage n).2.2 / 65536 * 2 ^ 32])

/-- The record of a link. -/
def State.linkRecord (s : State) (l : Nat) : Nat × List Nat :=
  let k := s.hub.links.get l {}
  (4, [l + k.state % 16 * 2 ^ 4 + k.port % 256 * 2 ^ 8 + k.peer % 65536 * 2 ^ 16 + k.lanes % 16 * 2 ^ 32])

/-- The record of a stack. -/
def State.stackRecord (s : State) (t : Nat) : Nat × List Nat :=
  let ch := s.channels t
  (3, [t + popBits ch 256 * 2 ^ 16, bits ch 0 64, bits ch 64 64, bits ch 128 64, bits ch 192 64])

/-- The record of a die. -/
def State.dieRecord (s : State) (d : Nat) : Nat × List Nat :=
  (2, (d + maskOf 8 (fun n => !s.cfg.dcsOff.contains (d, n)) * 2 ^ 8 + s.clusterMask d * 2 ^ 32) ::
    (List.range 8).map (fun w => (List.range 4).foldl (fun acc c => acc + s.coreMask d (4 * w + c) * 2 ^ (16 * c)) 0))

/-- The record of the module. -/
def State.moduleRecord (s : State) : Nat × List Nat :=
  (1, [s.cfg.fabricId.toNat + Config.revision.toNat * 2 ^ 16 + maskOf 8 (fun d => s.clusterMask d != 0) * 2 ^ 32 +
    maskOf 8 (fun t => s.channels t != 0) * 2 ^ 40 + maskOf 16 (fun l => (s.hub.links.get l {}).state != 0) * 2 ^ 48])

/-- The records of the list that a function reads (R362). -/
def State.capRecords (s : State) (fn : Nat) : List (Nat × List Nat) :=
  s.moduleRecord :: ((List.range 8).filter (fun d => s.clusterMask d != 0)).map s.dieRecord ++ (List.range 8).map s.stackRecord ++
    (List.range 16).map s.linkRecord ++
    (if fn = 0 then ((List.range 256).filter s.fnEnabled).map s.fnRecord else [s.fnRecord fn])

/-- The words of the list from word `at`, each record with its header (R361). -/
def capWords : Nat → List (Nat × List Nat) → List Nat
  | _, [] => []
  | at', (id, body) :: r =>
    let len := body.length + 1
    let next := if r.isEmpty then 0 else (8 * (at' + len)) % 4096
    (id * 2 ^ 48 + len * 2 ^ 36 + next) :: body ++ capWords (at' + len) r

/-! ### BAR0 (R342) -/

/-- Whether an interval boundary has come that the power controller has not yet acted on (R363). -/
def State.boundaryDue (s : State) : Bool := decide (s.hub.interval < s.rc / 65536)

/-- A write of PSREQ (R365): one made at a boundary takes effect at the boundary after it. -/
def State.writePsreq (s : State) (fn : Nat) (v : BitVec 3) : State :=
  s.updFn fn (fun f =>
    { f with psreq := v, psreqDue := if s.boundaryDue && f.psreqDue.isNone then some f.psreq else f.psreqDue })

/-- A write of PSMAP by the physical function (R365): one made at a boundary takes effect at the boundary after it. -/
def State.writePsmap (s : State) (v : Word) : State :=
  s.updHub (fun h =>
    { h with psmap := v, psmapDue := if s.boundaryDue && h.psmapDue.isNone then some h.psmap else h.psmapDue })

/-- A write of 8 B at offset `off` of a function's BAR0, of 4 B for DLSHARE (R342, R343). -/
def State.writeBar0 (s : State) (fn off : Nat) (v : DWord) : State :=
  if off < 0x1000 then (if off % 256 = 0 then s.writeRing fn (off / 256) v else s)
  else if 0x2000 ≤ off ∧ off < 0x2400 ∧ off % 8 = 0 then
    s.updFn fn (fun f => f.writeMsix ((off - 0x2000) / 8) v)
  else if off = 0x2400 then s.updFn fn (fun f => { f with hpbase := v })
  else if off = 0x2408 then s.updFn fn (fun f => { f with hpsize := v })
  else if off = 0x2800 then (if v.toNat < 8 then s.writePsreq fn (v.setWidth 3) else s)
  else if off = 0x2810 ∧ fn = 0 then (if v.toNat < 2 ^ 32 then s.writePsmap (v.setWidth 32) else s)
  else if 0x8000 ≤ off ∧ fn = 0 then s.writePf off v
  else s

/-- A read of a word of the MSI-X table, with the vector's pending bit in bit 63 of its second word (assumption 123). -/
def Function.readMsix (f : Function) (n : Nat) : Nat :=
  (f.msixWord n).toNat % 2 ^ 63 + (if n % 2 = 1 ∧ f.pended.contains (n / 2) then 2 ^ 63 else if n % 2 = 0 then (f.msixWord n).toNat / 2 ^ 63 * 2 ^ 63 else 0)

/-- A read at offset `off` of a function's BAR0 (R342). -/
def State.readBar0 (s : State) (fn off : Nat) : Nat :=
  let f := s.fn fn
  if off < 0x1000 then (if off % 256 = 0 then (f.ring (off / 256)).reg.toNat else 0)
  else if off < 0x2000 ∧ off % 8 = 0 then (capWords 0 (s.capRecords fn)).getD ((off - 0x1000) / 8) 0
  else if 0x2000 ≤ off ∧ off < 0x2400 ∧ off % 8 = 0 then f.readMsix ((off - 0x2000) / 8)
  else if off = 0x2400 then f.hpbase.toNat
  else if off = 0x2408 then f.hpsize.toNat
  else if off = 0x2800 then f.psreq.toNat
  else if off = 0x2808 then f.vcur.toNat + bit f.throt * 16
  else if off = 0x2810 then s.hub.psmap.toNat
  else if 0x2C00 ≤ off ∧ off < 0x2C40 ∧ off % 8 = 0 then bits f.session.toNat (8 * (off - 0x2C00)) 64
  else if 0x8000 ≤ off ∧ fn = 0 then s.readPf off
  else 0

/-- A write to a register with no behaviour of its own: a system register of the issuing agent's core, or a BAR0 offset of a function
(R260, R342, R343). -/
def execRegisterWrite (target : RegTarget) (value : DWord) (s : State) : Out :=
  match target with
  | .sys n => writeReg n value s
  | .bar0 fn off =>
    if 256 ≤ fn ∨ 0x10000 ≤ off then skip s
    else if !s.fnEnabled fn then skip s
    else .next (s.writeBar0 fn off value)

/-- The bytes of a word of BAR0: 8 B, and 4 B in DLSHARE (R343). -/
def bar0Size (off : Nat) : Nat := if 0xC000 ≤ off then 4 else 8

/-- The byte at offset `off` of a function's BAR0. -/
def State.bar0Byte (s : State) (fn off : Nat) : Byte :=
  let n := bar0Size off
  if 0x10000 ≤ off then 0 else BitVec.ofNat 8 (s.readBar0 fn (off / n * n) / 2 ^ (8 * (off % n)))

/-- A host's write of bytes to a function's BAR0, word by word in ascending order: a word that it writes in part keeps its other bytes, but in the
window of the physical function, whose words are accessed whole (R343), it is dropped (assumption 123). -/
def State.writeBar0Bytes (s : State) (fn off : Nat) (data : List Byte) : State :=
  let words := ((List.range data.length).map (fun i => (off + i) / bar0Size (off + i) * bar0Size (off + i))).eraseDups
  words.foldl (fun s w =>
    let n := bar0Size w
    let mine (o : Nat) : Bool := decide (off ≤ o ∧ o < off + data.length)
    let bytes := (fromTo w n).map (fun o => if mine o then data.getD (o - off) 0 else s.bar0Byte fn o)
    if w < 0x8000 ∨ (fromTo w n).all mine then s.writeBar0 fn w (BitVec.ofNat 64 (ofBytes bytes)) else s) s

/-! ### The host's reads and writes (R125, R342) -/

/-- Where a host access goes: a tier-3 address of a function, the host's own memory from 2⁶⁴ on, or the function's BAR0 from 2⁶⁵ on
(assumption 17). -/
inductive HostTarget where
  | carve (gpa : Nat)
  | own (a : Nat)
  | bar0 (off : Nat)

/-- The target of a host address. -/
def hostTarget (a : Nat) : HostTarget :=
  if a < 2 ^ 64 then .carve a else if a < 2 ^ 65 then .own (a - 2 ^ 64) else .bar0 (a - 2 ^ 65)

/-- A host write: into the module as a write of component 8 (R121, R125), to the host's own memory, or to BAR0. -/
def execHostWrite (fn gpa : Nat) (data : List Byte) (s : State) : Out :=
  if !s.fnEnabled fn then skip s
  else
    match hostTarget gpa with
    | .own a => .next (s.storeAt (fromTo (hostPlace a) data.length) data)
    | .bar0 off =>
      if 0x10000 ≤ off then skip s
      else .next (s.writeBar0Bytes fn off data)
    | .carve a =>
      match s.secondStage fn a data.length with
      | none => skip s
      | some p => (match s.hubWrite (fromTo p data.length) data with | some s' => .next s' | none => skip s)

/-- The bytes that a host read returns, at the host. -/
def State.hostGets (s : State) (bs : List Byte) : State := s.updHub (fun h => { h with hostRead := bs })

/-- A host read of the module's memory that meets absent addresses (R46): a machine check goes to the log of the stack's die, and what the host
gets is a free value (assumption 110). -/
def State.hostAbsent (s : State) (gpa p n : Nat) : State :=
  let bs := (List.range n).map (fun i => (Config.freeValue (s.freeCnt + i)).setWidth 8)
  State.hostGets { (s.hubCheck (placeDie p) gpa) with freeCnt := s.freeCnt + n } bs

/-- A host read: of a module location, which follows R122 step 5 (R125), of the host's own memory, or of BAR0. -/
def execHostRead (fn gpa length : Nat) (s : State) : Out :=
  if !s.fnEnabled fn then skip s
  else
    match hostTarget gpa with
    | .own a => .next (s.hostGets (Memory.readBytes s.mem (hostPlace a) length))
    | .bar0 off => .next (s.hostGets ((fromTo off length).map (s.bar0Byte fn)))
    | .carve a =>
      match s.secondStage fn a length with
      | none => skip s
      | some p =>
        let h := placeDie p
        if s.absentIn p length then .next (s.hostAbsent a p length)
        else if !s.causalLoadOk h 8 (s.clock 8) then skip s
        else .next ((s.hostGets (Memory.readBytes s.mem p length)).loadReturns 8 h)

/-! ### The consumption of packets (R345 to R347) -/

/-- The work of a packet is done: it completes, or keeps its result until its record can be applied (R351). -/
def State.finishPacket (s : State) (fn n : Nat) (p : Packet) (code detail extra : Nat) : State :=
  match s.completePacket fn n p code 0 detail extra with
  | some s' => s'
  | none =>
    s.updRing fn n (fun r => { r with packets := r.packets.map (fun q =>
      if q.count = p.count then { q with started := true, result := some (code, detail, extra) } else q) })

/-- The event of a packet's type: its work once it may start, and its completion when that had to wait. -/
def packetEvent (fn n count type : Nat) (work : Packet → State → State) (s : State) : Out :=
  let r := s.ring fn n
  match r.packet count with
  | none => skip s
  | some p =>
    if p.type ≠ type ∨ p.bad fn then skip s
    else
      match p.result with
      | some (code, detail, extra) =>
        (match s.completePacket fn n p code 0 detail extra with | some s' => .next s' | none => skip s)
      | none => if r.mayStart p then .next (work p (s.startPacket fn n count)) else skip s

/-- The next packet of a ring, if it is published and the front end has room (R347): its bits. -/
def State.nextPacket (s : State) (fn n : Nat) : Option (BitVec 2048) :=
  let r := s.ring fn n
  let unstarted := (r.packets.filter (fun p => !p.started)).length
  match s.ringPlace fn n r.base 8, s.ringPlace fn n (r.base + 256 * (1 + r.head % r.size)) 256 with
  | some t, some p =>
    let b := BitVec.ofNat 2048 (Memory.readNat s.mem p 256)
    if !r.on ∨ 16 ≤ unstarted ∨ Memory.readNat s.mem t 8 = r.head ∨ bits b.toNat 2040 8 ≠ 0x5A then none else some b
  | _, _ => none

/-- Whether an operator record waits in its ring because its die is full (R166). -/
def State.mustWait (s : State) (b : BitVec 2048) : Bool :=
  decide (bits b.toNat 2016 6 = 1 ∧ recKind b = 0) && s.dieFull (LaunchRec.ofBits b.toNat).die

/-- A packet is consumed (R347): its VALID byte becomes 0 and HEAD advances. A bad packet that was consumed completes with status bad packet
(R346). -/
def execPacketConsume (fn ring : Nat) (s : State) : Out :=
  if 256 ≤ fn ∨ 16 ≤ ring then skip s
  else if !s.fnEnabled fn then skip s
  else
    match (s.ring fn ring).packets.find? (fun p => p.bad fn) with
    | some p => (match s.completePacket fn ring p 4 0 0 0 with | some s' => .next s' | none => skip s)
    | none =>
      let r := s.ring fn ring
      match s.nextPacket fn ring with
      | none => skip s
      | some b =>
        if s.mustWait b then skip s
        else
          let head := (r.head + 1) % 2 ^ 64
          let valid := r.base + 256 * (1 + r.head % r.size) + 255
          match s.ringPlace fn ring valid 1, s.ringPlace fn ring (r.base + 8) 8 with
          | some v, some h =>
            (match s.hubWrite (v :: fromTo h 8) (0 :: toBytes head 8) with
             | none => skip s
             | some s' =>
               let p : Packet := { count := r.head, body := b, session := (s.fn fn).session }
               .next (s'.updRing fn ring (fun r => { r with head := head, packets := r.packets ++ [p] })))
          | _, _ => skip s

/-- A no-op packet (R346). -/
def execNoOpPacket (fn ring count : Nat) (s : State) : Out :=
  packetEvent fn ring count 5 (fun p s => s.finishPacket fn ring p (if p.field 0 1856 = 0 then 0 else 4) 0 0) s

/-! ### Account commands (R61, R352, R360) -/

/-- The 256 bits of an account record (R59). -/
def Account.toNat (a : Account) : Nat :=
  a.ntask % 2 ^ 16 * 2 ^ 16 + a.lowm % 2 ^ 24 * 2 ^ 32 + a.nlease % 2 ^ 24 * 2 ^ 56 + a.ast % 4 * 2 ^ 82 + a.keyid % 2 ^ 12 * 2 ^ 84 +
    a.vf % 2 ^ 8 * 2 ^ 96 + a.spent % 2 ^ 64 * 2 ^ 128 + a.allow % 2 ^ 64 * 2 ^ 192

/-- Whether the body of an account packet breaks its layout (R346, R352). -/
def Packet.accountBad (p : Packet) : Bool :=
  decide (p.field 20 44 ≠ 0 ∨ p.field 148 1708 ≠ 0 ∨ (p.field 0 8 ≠ 0 ∧ p.field 128 20 ≠ 0))

/-- An account command of number `k` (R352): applied, or refused with DETAIL 1. -/
def accountEvent (fn ring count k : Nat) (refused : Account → Packet → Bool) (apply : Nat → Packet → State → State) (s : State) : Out :=
  match (s.ring fn ring).packet count with
  | none => skip s
  | some p =>
    if p.field 0 8 ≠ k ∧ !(k = 7 ∧ 8 ≤ p.field 0 8) then skip s
    else
      packetEvent fn ring count 2 (fun p s =>
        let a := p.field 8 12
        if p.accountBad ∨ 8 ≤ p.field 0 8 then s.finishPacket fn ring p 4 0 0
        else if refused (s.account a) p then s.finishPacket fn ring p 0 1 0
        else
          let s' := apply a p s
          s'.finishPacket fn ring p 0 0 (if k = 7 then (s.account a).toNat else 0)) s

/-- Whether an open account holds a key id (R360). -/
def State.keyHeld (s : State) (key : Nat) : Bool :=
  s.hub.accounts.any (fun e => (e.2.ast == 1 || e.2.ast == 2) && e.2.keyid == key)

/-- OPEN (R61): the key of a key id that no open account holds is made (R360). -/
def execAccountOpen (fn ring count : Nat) (s : State) : Out :=
  accountEvent fn ring count 0 (fun a _ => a.ast != 0) (fun n p s =>
    let key := p.field 136 12
    let s := if s.keyHeld key then s else s.updHub (fun h => { h with keys := h.keys ++ [key] })
    s.updAccount n (fun _ => { ast := 1, vf := p.field 128 8, keyid := key })) s

/-- CREDIT (R60, R61). -/
def execAccountCredit (fn ring count : Nat) (s : State) : Out :=
  accountEvent fn ring count 1 (fun a _ => a.ast == 0)
    (fun n p s => s.updAccount n (fun a => { a with allow := min (a.allow + p.field 64 64) (2 ^ 64 - 1) })) s

/-- WITHDRAW (R61). -/
def execAccountWithdraw (fn ring count : Nat) (s : State) : Out :=
  accountEvent fn ring count 2 (fun a p => a.ast == 0 || decide (a.allow < p.field 64 64))
    (fun n p s => s.updAccount n (fun a => { a with allow := a.allow - p.field 64 64 })) s

/-- FREEZE (R61). -/
def execAccountFreeze (fn ring count : Nat) (s : State) : Out :=
  accountEvent fn ring count 3 (fun a _ => a.ast != 1) (fun n _ s => s.updAccount n (fun a => { a with ast := 2 })) s

/-- THAW (R61). -/
def execAccountThaw (fn ring count : Nat) (s : State) : Out :=
  accountEvent fn ring count 4 (fun a _ => a.ast != 2) (fun n _ s => s.updAccount n (fun a => { a with ast := 1 })) s

/-- SETLOW (R61); a mark wider than its field is refused (R59). -/
def execAccountSetlow (fn ring count : Nat) (s : State) : Out :=
  accountEvent fn ring count 5 (fun a p => a.ast == 0 || decide (2 ^ 24 ≤ p.field 64 64))
    (fun n p s => s.updAccount n (fun a => { a with lowm := p.field 64 64 })) s

/-- CLOSE (R61): ALLOW is reported and cleared, and the last holder of a key id takes its key with it (R360), so that no
key shows again what was written under it (R45). -/
def execAccountClose (fn ring count : Nat) (s : State) : Out :=
  accountEvent fn ring count 6 (fun a _ => a.ast == 0 || a.nlease != 0 || a.ntask != 0) (fun n _ s =>
    let a := s.account n
    let s := s.updAccount n (fun a => { a with ast := 0, allow := 0 })
    let s := if s.keyHeld a.keyid then s
      else { s with keyed := s.keyed.map (fun e => if e.2 = a.keyid then (e.1, 4096) else e) }
    s.updHub (fun h =>
      { h with
        reported := h.reported ++ [(n, a.allow)]
        keys := if s.keyHeld a.keyid then h.keys else h.keys.filter (fun k => k != a.keyid) })) s

/-- READ (R61): the record goes to bytes 16 to 47 of the completion record (R351). -/
def execAccountRead (fn ring count : Nat) (s : State) : Out :=
  accountEvent fn ring count 7 (fun _ _ => false) (fun _ _ s => s) s

/-! ### Saved prefixes (R354, R355) -/

/-- MODEL and WDIG of a SESSION register. -/
def sessionParts (v : BitVec 512) : Nat × Nat := (bits v.toNat 448 64, bits v.toNat 0 384)

/-- Whether the body of a prefix packet breaks its layout (R346, R354). -/
def Packet.prefixBad (p : Packet) : Bool :=
  decide (p.field 160 1696 ≠ 0 ∨ p.field 64 32 = 0 ∨ 4096 < p.field 64 32)

/-- The record of an export over its block (R354). -/
def prefixRecord (session : BitVec 512) (tenant len : Nat) (block : List Byte) : List Byte :=
  let (model, wdig) := sessionParts session
  let low := toBytes (len * 2 ^ 400 + tenant * 2 ^ 432 + model * 2 ^ 448 + wdig * 2 ^ 512 + (Config.sha384 block).toNat * 2 ^ 896) 160
  low ++ toBytes (Config.groupSign low).toNat 96

/-- A prefix export (R354): the record and the block behind it go to the destination, an address in the ring's LOC space. -/
def execPrefixExport (fn ring count : Nat) (s : State) : Out :=
  packetEvent fn ring count 3 (fun p s =>
    let len := p.field 64 32
    match s.secondStage fn (p.field 0 64) (256 * len), s.ringPlace fn ring (p.field 96 64) (256 + 256 * len) with
    | some src, some dst =>
      if p.prefixBad then s.finishPacket fn ring p 4 0 0
      else
        let block := Memory.readBytes s.mem src (256 * len)
        let data := prefixRecord p.session (s.tagOf fn) len block ++ block
        (match s.hubWrite (fromTo dst data.length) data with
         | some s' => s'.finishPacket fn ring p 0 0 0
         | none => s.updRing fn ring (fun r => { r with packets := r.packets.map (fun q =>
             if q.count = p.count then { q with started := false } else q) }))
    | _, _ => s.finishPacket fn ring p 4 0 0) s

/-- Whether an imported record passes every check (R355). -/
def importOk (session : BitVec 512) (tenant len : Nat) (record block : List Byte) : Bool :=
  let v := ofBytes record
  let (model, wdig) := sessionParts session
  Config.groupVerify (record.take 160) (BitVec.ofNat 768 (v / 2 ^ 1280)) && bits v 0 400 == 0 && bits v 448 64 == model &&
    bits v 512 384 == wdig && bits v 432 16 == tenant && bits v 400 32 == len && bits v 896 384 == (Config.sha384 block).toNat

/-- A prefix import (R355): the block goes to its destination, a tier-3 address, only when every check passes. -/
def execPrefixImport (fn ring count : Nat) (s : State) : Out :=
  packetEvent fn ring count 4 (fun p s =>
    let len := p.field 64 32
    match s.ringPlace fn ring (p.field 0 64) (256 + 256 * len), s.secondStage fn (p.field 96 64) (256 * len) with
    | some src, some dst =>
      if p.prefixBad then s.finishPacket fn ring p 4 0 0
      else
        let block := Memory.readBytes s.mem (src + 256) (256 * len)
        if !importOk p.session (s.tagOf fn) len (Memory.readBytes s.mem src 256) block then s.finishPacket fn ring p 5 0 0
        else
          match s.hubWrite (fromTo dst block.length) block with
          | some s' => s'.finishPacket fn ring p 0 0 0
          | none => s.updRing fn ring (fun r => { r with packets := r.packets.map (fun q =>
              if q.count = p.count then { q with started := false } else q) })
    | _, _ => s.finishPacket fn ring p (if p.prefixBad then 4 else 5) 0 0) s

/-! ### Page invalidations and attestation (R353, R358, R359) -/

/-- A page invalidation asked for by a packet (R24, R353). -/
def execPageInvalidation (fn ring count : Nat) (s : State) : Out :=
  packetEvent fn ring count 6 (fun p s =>
    let first := p.field 64 64
    let len := p.field 128 64
    if p.field 192 1664 ≠ 0 ∨ p.field 38 26 ≠ 0 ∨ len = 0 ∨ len % 65536 ≠ 0 ∨ first % 65536 ≠ 0 then s.finishPacket fn ring p 4 0 0
    else
      let i : Inval := { fn := fn, lid := BitVec.ofNat 32 (p.field 0 32), slot := p.field 32 6, first := first / 65536,
                         length := len / 65536, packet := some (fn, ring, count) }
      match s.startInval i with
      | some s' => s'
      | none => (s.wakePages i).finishPacket fn ring p 0 1 0) s

/-- The attestation report of a function (R358, R359). -/
def attestation (session : BitVec 512) (nonce tenant fn : Nat) : List Byte :=
  let cert := (Config.vendorCert.take 2048).length
  let low := toBytes (cert * 2 ^ 216 + fn % 256 * 2 ^ 232 + tenant * 2 ^ 240 + session.toNat * 2 ^ 256 +
    (Config.imageDigest 2).toNat * 2 ^ 768 + (Config.imageDigest 1).toNat * 2 ^ 1152 + (Config.imageDigest 0).toNat * 2 ^ 1536 +
    nonce * 2 ^ 1920) 288
  low ++ toBytes (Config.identitySign low).toNat 96

/-- An attestation request (R358, R359): the report and the certificate go to DEST. -/
def execAttestationRequest (fn ring count : Nat) (s : State) : Out :=
  packetEvent fn ring count 7 (fun p s =>
    let dest := p.field 384 64
    let data := attestation p.session (p.field 0 384) (s.tagOf fn) fn ++ Config.vendorCert.take 2048
    match s.ringPlace fn ring dest data.length with
    | some d =>
      if p.field 448 1408 ≠ 0 ∨ dest % 64 ≠ 0 then s.finishPacket fn ring p 4 0 0
      else
        (match s.hubWrite (fromTo d data.length) data with
         | some s' => s'.finishPacket fn ring p 0 0 0
         | none => s.updRing fn ring (fun r => { r with packets := r.packets.map (fun q =>
             if q.count = p.count then { q with started := false } else q) }))
    | none => s.finishPacket fn ring p 4 0 0) s

/-! ### Function-level reset and power-on (R344, R371) -/

/-- The record of a task that a function-level reset ends: it names the task and no fault. -/
def resetRecord (core : Nat) (lid : Word) (tick : Nat) : FaultRec :=
  { tick := BitVec.ofNat 48 tick, lid := lid, die := BitVec.ofNat 3 (coreDie core), cl := BitVec.ofNat 5 (core / 16 % 32),
    core := BitVec.ofNat 4 (core % 16) }

/-- Whether a saved task has work left that one which ends still does: rows of Lamb (R178), and commands that its engines have dequeued
(R160). -/
def TaskCtx.unfinished (t : TaskCtx) : Bool := !t.images.isEmpty || [t.mx, t.cp, t.cl, t.ml].any (fun e => !e.running.isEmpty)

/-- A launch of a function that is reset (R344): its saved tasks end, those with work left as soon as they are on a core again (assumption 64),
and it is refused when no task of it was placed. -/
def Launch.resetBy (l : Launch) (tick : Nat) : Launch :=
  let rec' (t : SavedTask) : FaultRec := resetRecord t.core l.lrec.lid tick
  let gone := l.saved.filter (fun t => !t.ctx.unfinished)
  let left := (l.saved.filter (fun t => t.ctx.unfinished)).map (fun t => { t with ctx := { t.ctx with ends := some (rec' t) } })
  { l with
    saved := left
    live := l.live - gone.length
    faulted := match l.faulted with | some r => some r | none => gone.head?.map rec'
    refused := l.refused || (l.live == 0 && l.nextUnit == 0) }

/-- A function-level reset of a virtual function (R344). -/
def execFunctionLevelReset (fn : Nat) (s : State) : Out :=
  if fn = 0 ∨ 256 ≤ fn then skip s
  else
    let s := s.updFn fn (fun f => { f with rings := f.rings.map (fun r => (r.1, { r.2 with reg := r.2.reg &&& ~~~ 1 })) })
    let mine := (s.cores.filter (fun e => e.2.residency != .free && e.2.task.id.vf == fn)).map (fun e => e.1)
    let s := mine.foldl (fun s c => s.endTask c 6 (resetRecord c (s.task c).id.lid s.tick)) s
    .next { s with dies := s.dies.map (fun d =>
      (d.1, { d.2 with launches := d.2.launches.map (fun l => if l.fn = fn then l.resetBy s.tick else l) })) }

/-- Power-on (R371): the module stands at the end of bring-up, with the signed configuration in force and the host's memory as it was; when a
step of verification fails, the module is left in recovery (R357), and a stack that fails its training is absent (R46). -/
def execPowerOn (how : PowerUp) (s : State) : Out :=
  .next { State.reset with
    turns := s.turns
    freeCnt := s.freeCnt
    nextId := s.nextId
    cfg := s.cfg
    mem := s.mem.filter (fun c => decide (2 ^ 64 ≤ c.1))
    hub := { recovery := !how.verified, untrained := if how.verified then how.failed else [] } }

end Sys2Proof.Machine
end

