-- ==== Sys2Proof/Machine/Power.lean ====
section
/-! DEFINITION. Power: the point that each control interval takes (R363 to R368), the relock of the arithmetic clock (R364) and ballast
k-steps (R369). -/

namespace Sys2Proof.Machine

open Sys2Proof

/-- The physical point that virtual state `v` maps to (R365). -/
def psPoint (map : Word) (v : BitVec 3) : Nat := bits map.toNat (4 * v.toNat) 4

/-- The functions that have a task on a core (R366). -/
def State.busyFns (s : State) : List Nat :=
  ((s.cores.filter (fun e => e.2.residency != .free)).map (fun e => e.2.task.id.vf)).eraseDups

/-- The virtual state that a function requests at the boundary at hand (R365). -/
def State.vreqAt (s : State) (fn : Nat) : BitVec 3 := (s.fn fn).psreqDue.getD (s.fn fn).psreq

/-- PSMAP as it stood at the boundary at hand (R365). -/
def State.psmapAt (s : State) : Word := s.hub.psmapDue.getD s.hub.psmap

/-- The requested point: the lowest that a function with a resident task maps to, or 15 (R366). -/
def State.requestedPoint (s : State) : Nat := (s.busyFns.map (fun f => psPoint s.psmapAt (s.vreqAt f))).foldl min 15

/-- The point of the next interval (R368): `high` is current above ILIM, `hot` power above PCAP or a die above its thermal limit. A boost
point is void while either holds. -/
def limitPoint (req : Nat) (high hot : Bool) : Nat :=
  if high then max 7 (min 15 (req + 2)) else if hot then max 7 (min 15 (req + 1)) else req

/-- PSCUR of a function after a boundary (R365). -/
def Function.atBoundary (f : Function) (point : Nat) (map : Word) (v : BitVec 3) : Function :=
  { f with vcur := v, throt := decide (psPoint map v < point), psreqDue := none }

/-- Whether the closing interval meets row 2 of R368: power above PCAP, less the ballast energy that the interval before has used above it
(R369), or a die above its thermal limit. -/
def State.overPower (s : State) (r : Reading) : Bool :=
  decide (s.hub.pcap < r.power + s.hub.owed) ||
  (List.range 8).any (fun d => match s.cfg.thermal.find d with | some t => decide (t < r.heat.getD d 0) | none => false)

/-- An interval boundary (R363 to R368): the controller judges the closing interval, in which it has measured a matrix-rail current and the
rest of a reading, and chooses the point of the next one; a change of point makes the clock relock. -/
def State.boundary (s : State) (current : Nat) (r : Reading) : State :=
  let high := decide (s.hub.ilim < current)
  let point := limitPoint s.requestedPoint high (s.overPower r)
  let map := s.psmapAt
  let all := if (s.hub.functions.find 0).isSome then s.hub.functions else s.hub.functions.set 0 {}
  let functions := all.map (fun e => (e.1, e.2.atBoundary point map (s.vreqAt e.1)))
  s.updHub (fun h =>
    { h with interval := h.interval + 1, point := point, paceFloor := if high then 16 else 0, functions := functions, psmapDue := none,
             relocking := h.relocking || point != h.point, relockAt := if point = h.point then h.relockAt else s.rc,
             owed := min r.ballast (r.power - h.pcap) })

/-- The event of an interval boundary: the controller acts on the interval that has ended (R363 to R368). -/
def execControlIntervalBoundary (current : Nat) (reading : Reading) (s : State) : Out :=
  if s.boundaryDue then .next (s.boundary current reading) else skip s

/-- The controller acts on a boundary that has come with what it has measured, before anything else happens (R363), unless the turn's event is
the boundary itself. -/
def State.meet (s : State) (t : Turn) : State :=
  match t.event with
  | some (.controlIntervalBoundary ..) => s
  | _ => if s.boundaryDue then s.boundary t.measured.1 t.measured.2 else s

/-- The relock ends (R364): the rc that it took are not counted by the watchdog. -/
def State.endRelock (s : State) : State :=
  let lost := s.rc - s.hub.relockAt
  { s with
    cores := s.cores.map (fun e => (e.1, { e.2 with idleSince := e.2.idleSince + lost }))
    hub := { s.hub with relocking := false } }

/-- The arithmetic clock has relocked (R364). -/
def execClockRelock (s : State) : Out := if s.hub.relocking then .next s.endRelock else skip s

/-- A ballast k-step on an idle matrix engine (R369), which the controller orders as the matrix-rail current would fall by more than SLEW: it
holds the engine for one ac and does nothing else. -/
def execBallastKstep (order : Ballast) (s : State) : Out :=
  let core := order.core
  if 4096 ≤ core ∨ order.fall ≤ s.hub.slew then skip s
  else if !s.enginesRun core ∨ !(s.task core).mx.running.isEmpty ∨ s.ac < (s.task core).mx.busyTill then skip s
  else .next (s.updTask core (fun t => t.updEngine .matrix (fun e => { e with busyTill := s.ac + 1 })))

/-! ### Time (R3, R31, R128, R202, R363, R364) -/

/-- Reference clocks pass: expiry marks that are due are applied (R31), rent operations that may complete do so (R128), and the time in which
firmware holds a core in a trap is not counted by its watchdog (R202). -/
def State.elapse (s : State) (drc : Nat) : State :=
  let cores := if drc = 0 then s.cores
    else s.cores.map (fun e => (e.1, if e.2.task.suspended then { e.2 with idleSince := e.2.idleSince + drc } else e.2))
  State.completeRents (State.applyDueMarks { s with cores := cores, rc := s.rc + drc })

/-- The ac at hand begins: its token, queue and engine-port operations see what stands now (R40, R90, R92). -/
def State.beginAc (s : State) : State := { s with acCores := s.cores, acMem := some s.mem }

/-- The acs that pass before a turn: at most those up to the next interval boundary (R363). -/
def State.acsTo (s : State) (dac : Nat) : Nat :=
  min dac ((((s.hub.interval + 1) * 65536 - s.rc) * (42 - s.hub.point) - s.phase + 19) / 20)

/-- Clock cycles pass before a turn, none while an interval boundary is to be acted on. While the arithmetic clock runs, `dac` of its cycles
pass, each of 20 / (42 − n) rc at point n (R3, R363). While it relocks it stands still and `drc` reference clocks pass, at most 2048 in all
(R364). -/
def State.pass (s : State) (dac drc : Nat) : State :=
  if s.boundaryDue then s
  else if s.hub.relocking then
    let t := s.elapse (min drc (s.hub.relockAt + 2048 - s.rc))
    if s.hub.relockAt + 2048 ≤ t.rc then t.endRelock else t
  else
    let n := s.acsTo dac
    if n = 0 then s.elapse 0
    else
      let p := s.phase + 20 * n
      let m := 42 - s.hub.point
      State.beginAc { s.elapse (p / m) with ac := s.ac + n, phase := p % m }

/-! ### Speculative accesses (R30) -/

/-- Whether an access that the hardware makes ahead of the program would meet a condition of R14, R15, R22, R26 or R27, or a leaf with MIG = 1:
a fetch of a bundle, or the data of a load. Its home judges the lease once it has processed the tick's boundary (R75). -/
def State.specDropped (s : State) (c : Nat) (fetch : Bool) (va : DWord) : Bool :=
  let n := if fetch then 16 else 256
  match s.lookup c va n (if fetch then .fetch else .load) with
  | .error _ => true
  | .ok d =>
    let a := s.mkAccess c { kind := .prefetch, va := va, offs := List.range n, mode := .load, agent := .load } d
    if a.bad.isSome then true
    else if a.pageable then
      match s.pagePlaces c a.stage a.slot a.lgen a.table va.toNat false true false (a.offs.map (fun o => vaOff va + o)) with
      | .ok (ps, _) => s.unitReady a.unit && !s.leaseOk a.unit a.lease a.lgen ps []
      | .error _ => true
    else s.unitReady a.unit && !s.leaseOk a.unit a.lease a.lgen a.places []

/-- The speculative accesses of a turn (R30): each that is dropped counts in SPECMISS, and none does anything else. -/
def State.speculate (s : State) (l : List (Nat × Bool × DWord)) : State :=
  l.foldl (fun s x =>
    if decide (x.1 < 4096) && (s.core x.1).residency == .resident && s.specDropped x.1 x.2.1 x.2.2 then s.specMiss x.1 else s) s

/-- Errors of a turn (R201): the uncorrectable ones of the turn before have poisoned their units, those of this turn show in theirs, and each
corrected one counts in its core's CECNT. Host memory has errors of its own, which its completions report (R29). -/
def State.strike (s : State) (errors corrected : List Nat) : State :=
  let s := { s with
    poison := s.poison ++ s.struck.filter (fun u => !s.poison.contains u)
    struck := errors.filter (fun u => placeTier (8 * u) != 4 && !s.poison.contains u && !s.struck.contains u) }
  corrected.foldl (fun s c => if c < 4096 then s.updCore c (fun k => { k with cecnt := k.cecnt + 1 }) else s) s

end Sys2Proof.Machine
end

