-- ==== Sys2Proof/Machine/Dispatch.lean ====
section
/-! DEFINITION. One arm per row of the opcode table: each calls the instruction's meaning. -/

namespace Sys2Proof.Machine

open Sys2Proof

/-- What an instruction, command kind or event does to a state. -/
def exec (i : Instr) (s : State) : Host.Outcome State Fault Refusal :=
  match i with
  | .add d a b => Sys2Proof.Machine.execAdd d a b s
  | .sub d a b => Sys2Proof.Machine.execSub d a b s
  | .and d a b => Sys2Proof.Machine.execAnd d a b s
  | .or d a b => Sys2Proof.Machine.execOr d a b s
  | .xor d a b => Sys2Proof.Machine.execXor d a b s
  | .andn d a b => Sys2Proof.Machine.execAndn d a b s
  | .sll d a b => Sys2Proof.Machine.execSll d a b s
  | .srl d a b => Sys2Proof.Machine.execSrl d a b s
  | .sra d a b => Sys2Proof.Machine.execSra d a b s
  | .mul d a b => Sys2Proof.Machine.execMul d a b s
  | .mulh d a b => Sys2Proof.Machine.execMulh d a b s
  | .mulhn d a b => Sys2Proof.Machine.execMulhn d a b s
  | .min d a b => Sys2Proof.Machine.execMin d a b s
  | .max d a b => Sys2Proof.Machine.execMax d a b s
  | .minn d a b => Sys2Proof.Machine.execMinn d a b s
  | .maxn d a b => Sys2Proof.Machine.execMaxn d a b s
  | .clz d a => Sys2Proof.Machine.execClz d a s
  | .popc d a => Sys2Proof.Machine.execPopc d a s
  | .ceq d a b => Sys2Proof.Machine.execCeq d a b s
  | .cne d a b => Sys2Proof.Machine.execCne d a b s
  | .clt d a b => Sys2Proof.Machine.execClt d a b s
  | .cge d a b => Sys2Proof.Machine.execCge d a b s
  | .cltn d a b => Sys2Proof.Machine.execCltn d a b s
  | .cgen d a b => Sys2Proof.Machine.execCgen d a b s
  | .pand d a b => Sys2Proof.Machine.execPand d a b s
  | .por d a b => Sys2Proof.Machine.execPor d a b s
  | .pxor d a b => Sys2Proof.Machine.execPxor d a b s
  | .pandn d a b => Sys2Proof.Machine.execPandn d a b s
  | .addi d a im => Sys2Proof.Machine.execAddi d a im s
  | .andi d a im => Sys2Proof.Machine.execAndi d a im s
  | .ori d a im => Sys2Proof.Machine.execOri d a im s
  | .xori d a im => Sys2Proof.Machine.execXori d a im s
  | .slli d a im => Sys2Proof.Machine.execSlli d a im s
  | .srli d a im => Sys2Proof.Machine.execSrli d a im s
  | .srai d a im => Sys2Proof.Machine.execSrai d a im s
  | .ceqi d a im => Sys2Proof.Machine.execCeqi d a im s
  | .clti d a im => Sys2Proof.Machine.execClti d a im s
  | .cltni d a im => Sys2Proof.Machine.execCltni d a im s
  | .ld d b k z sf o => Sys2Proof.Machine.execLd d b k z sf o s
  | .ldn d b k z sf o => Sys2Proof.Machine.execLdn d b k z sf o s
  | .st d b k z sf o => Sys2Proof.Machine.execSt d b k z sf o s
  | .atomAdd d a b sf o z => Sys2Proof.Machine.execAtomAdd d a b sf o z s
  | .atomSwap d a b sf o z => Sys2Proof.Machine.execAtomSwap d a b sf o z s
  | .atomCas d a b sf o z => Sys2Proof.Machine.execAtomCas d a b sf o z s
  | .atomAnd d a b sf o z => Sys2Proof.Machine.execAtomAnd d a b sf o z s
  | .atomOr d a b sf o z => Sys2Proof.Machine.execAtomOr d a b sf o z s
  | .atomXor d a b sf o z => Sys2Proof.Machine.execAtomXor d a b sf o z s
  | .atomMin d a b sf o z => Sys2Proof.Machine.execAtomMin d a b sf o z s
  | .atomMax d a b sf o z => Sys2Proof.Machine.execAtomMax d a b sf o z s
  | .br p sf o => Sys2Proof.Machine.execBr p sf o s
  | .call p sf o => Sys2Proof.Machine.execCall p sf o s
  | .jr d a => Sys2Proof.Machine.execJr d a s
  | .loop d im => Sys2Proof.Machine.execLoop d im s
  | .mfsr d n p r => Sys2Proof.Machine.execMfsr d n p r s
  | .mtsr a n p r => Sys2Proof.Machine.execMtsr a n p r s
  | .dset d a sf => Sys2Proof.Machine.execDset d a sf s
  | .dget d a sf => Sys2Proof.Machine.execDget d a sf s
  | .sqstart a t => Sys2Proof.Machine.execSqstart a t s
  | .sqstop t => Sys2Proof.Machine.execSqstop t s
  | .sqbase a t => Sys2Proof.Machine.execSqbase a t s
  | .sqstat d t => Sys2Proof.Machine.execSqstat d t s
  | .tsig k => Sys2Proof.Machine.execTsig k s
  | .twait k => Sys2Proof.Machine.execTwait k s
  | .twaitnb d k => Sys2Proof.Machine.execTwaitnb d k s
  | .fset a f o => Sys2Proof.Machine.execFset a f o s
  | .fadd a f o => Sys2Proof.Machine.execFadd a f o s
  | .fawait d a f o => Sys2Proof.Machine.execFawait d a f o s
  | .fradd t a f o => Sys2Proof.Machine.execFradd t a f o s
  | .fmcast t a f o => Sys2Proof.Machine.execFmcast t a f o s
  | .fread d f => Sys2Proof.Machine.execFread d f s
  | .tagwany d b => Sys2Proof.Machine.execTagwany d b s
  | .tagwall d b => Sys2Proof.Machine.execTagwall d b s
  | .tagffr d b => Sys2Proof.Machine.execTagffr d b s
  | .tagclr b => Sys2Proof.Machine.execTagclr b s
  | .rgprod d b o => Sys2Proof.Machine.execRgprod d b o s
  | .rgpub a b o => Sys2Proof.Machine.execRgpub a b o s
  | .rgcons d b o => Sys2Proof.Machine.execRgcons d b o s
  | .rgrel a b o => Sys2Proof.Machine.execRgrel a b o s
  | .barinit a f o => Sys2Proof.Machine.execBarinit a f o s
  | .barinitf a f o => Sys2Proof.Machine.execBarinitf a f o s
  | .baradd t a f o => Sys2Proof.Machine.execBaradd t a f o s
  | .barcast t a f o => Sys2Proof.Machine.execBarcast t a f o s
  | .fenceRel o => Sys2Proof.Machine.execFenceRel o s
  | .fenceAcq o => Sys2Proof.Machine.execFenceAcq o s
  | .fenceFull o => Sys2Proof.Machine.execFenceFull o s
  | .fenceX => Sys2Proof.Machine.execFenceX s
  | .waita d a b o => Sys2Proof.Machine.execWaita d a b o s
  | .waitanb d a b o => Sys2Proof.Machine.execWaitanb d a b o s
  | .rent d a b => Sys2Proof.Machine.execRent d a b s
  | .renew d a b => Sys2Proof.Machine.execRenew d a b s
  | .prepay d a b => Sys2Proof.Machine.execPrepay d a b s
  | .sublet d a b => Sys2Proof.Machine.execSublet d a b s
  | .adopt d a b => Sys2Proof.Machine.execAdopt d a b s
  | .vacate d a => Sys2Proof.Machine.execVacate d a s
  | .lstat d a => Sys2Proof.Machine.execLstat d a s
  | .exit => Sys2Proof.Machine.execExit s
  | .exitAbandon => Sys2Proof.Machine.execExitAbandon s
  | .fcall a => Sys2Proof.Machine.execFcall a s
  | .eret a b => Sys2Proof.Machine.execEret a b s
  | .pinval d a b => Sys2Proof.Machine.execPinval d a b s
  | .dispMx w k sf j a b c => Sys2Proof.Machine.execDispMx w k sf j a b c s
  | .dispCp w k sf j a b c => Sys2Proof.Machine.execDispCp w k sf j a b c s
  | .dispCl w k sf j a b c => Sys2Proof.Machine.execDispCl w k sf j a b c s
  | .dispMl w k sf j a b c => Sys2Proof.Machine.execDispMl w k sf j a b c s
  | .xpfx im => Sys2Proof.Machine.execXpfx im s
  | .vmov d a h j m g => Sys2Proof.Machine.execVmov d a h j m g s
  | .vrd d a l h j m g => Sys2Proof.Machine.execVrd d a l h j m g s
  | .vwr d a l h j m g => Sys2Proof.Machine.execVwr d a l h j m g s
  | .vsel d a b h j m g => Sys2Proof.Machine.execVsel d a b h j m g s
  | .mand d a b g => Sys2Proof.Machine.execMand d a b g s
  | .mor d a b g => Sys2Proof.Machine.execMor d a b g s
  | .mxor d a b g => Sys2Proof.Machine.execMxor d a b g s
  | .mandn d a b g => Sys2Proof.Machine.execMandn d a b g s
  | .vaddI t d a b h j m g => Sys2Proof.Machine.execVaddI t d a b h j m g s
  | .vaddSat t d a b h j m g => Sys2Proof.Machine.execVaddSat t d a b h j m g s
  | .vsubI t d a b h j m g => Sys2Proof.Machine.execVsubI t d a b h j m g s
  | .vsubSat t d a b h j m g => Sys2Proof.Machine.execVsubSat t d a b h j m g s
  | .vmulI t d a b h j m g => Sys2Proof.Machine.execVmulI t d a b h j m g s
  | .vmulSat t d a b h j m g => Sys2Proof.Machine.execVmulSat t d a b h j m g s
  | .vminI t d a b h j m g => Sys2Proof.Machine.execVminI t d a b h j m g s
  | .vmaxI t d a b h j m g => Sys2Proof.Machine.execVmaxI t d a b h j m g s
  | .vand t d a b h j m g => Sys2Proof.Machine.execVand t d a b h j m g s
  | .vor t d a b h j m g => Sys2Proof.Machine.execVor t d a b h j m g s
  | .vxor t d a b h j m g => Sys2Proof.Machine.execVxor t d a b h j m g s
  | .vshl t d a b h j m g => Sys2Proof.Machine.execVshl t d a b h j m g s
  | .vshr t d a b h j m g => Sys2Proof.Machine.execVshr t d a b h j m g s
  | .vsra t d a b h j m g => Sys2Proof.Machine.execVsra t d a b h j m g s
  | .vceqI t d a b h j m g => Sys2Proof.Machine.execVceqI t d a b h j m g s
  | .vcltI t d a b h j m g => Sys2Proof.Machine.execVcltI t d a b h j m g s
  | .vaddF t r d a b h j m g => Sys2Proof.Machine.execVaddF t r d a b h j m g s
  | .vsubF t r d a b h j m g => Sys2Proof.Machine.execVsubF t r d a b h j m g s
  | .vmulF t r d a b h j m g => Sys2Proof.Machine.execVmulF t r d a b h j m g s
  | .vfma t r d a b h j m g => Sys2Proof.Machine.execVfma t r d a b h j m g s
  | .vminF t d a b h j m g => Sys2Proof.Machine.execVminF t d a b h j m g s
  | .vmaxF t d a b h j m g => Sys2Proof.Machine.execVmaxF t d a b h j m g s
  | .vcltF t d a b h j m g => Sys2Proof.Machine.execVcltF t d a b h j m g s
  | .vceqF t d a b h j m g => Sys2Proof.Machine.execVceqF t d a b h j m g s
  | .vcvt sf d a r u f h j m g => Sys2Proof.Machine.execVcvt sf d a r u f h j m g s
  | .vpack d a r u f h j m g => Sys2Proof.Machine.execVpack d a r u f h j m g s
  | .vunpk d a p f h j m g => Sys2Proof.Machine.execVunpk d a p f h j m g s
  | .vexp2 t d a h m g => Sys2Proof.Machine.execVexp2 t d a h m g s
  | .vrcp t d a h m g => Sys2Proof.Machine.execVrcp t d a h m g s
  | .vrsq t d a h m g => Sys2Proof.Machine.execVrsq t d a h m g s
  | .vrsum t d a h m g => Sys2Proof.Machine.execVrsum t d a h m g s
  | .vrmax t d a h m g => Sys2Proof.Machine.execVrmax t d a h m g s
  | .vrmin t d a h m g => Sys2Proof.Machine.execVrmin t d a h m g s
  | .vsnap d a sf m g => Sys2Proof.Machine.execVsnap d a sf m g s
  | .vrot c => Sys2Proof.Machine.execVrot c s
  | .vstg n => Sys2Proof.Machine.execVstg n s
  | .vlane sf a l g => Sys2Proof.Machine.execVlane sf a l g s
  | .vbcast d sf m g => Sys2Proof.Machine.execVbcast d sf m g s
  | .vsetwb sf im => Sys2Proof.Machine.execVsetwb sf im s
  | .vsetacc m => Sys2Proof.Machine.execVsetacc m s
  | .saddi d sf im => Sys2Proof.Machine.execSaddi d sf im s
  | .sadd d sf b => Sys2Proof.Machine.execSadd d sf b s
  | .smovi d im => Sys2Proof.Machine.execSmovi d im s
  | .smoviHi d im => Sys2Proof.Machine.execSmoviHi d im s
  | .vhalt => Sys2Proof.Machine.execVhalt s
  | .vtsig k => Sys2Proof.Machine.execVtsig k s
  | .vtwait k => Sys2Proof.Machine.execVtwait k s
  | .vfenceRel o => Sys2Proof.Machine.execVfenceRel o s
  | .vfenceAcq o => Sys2Proof.Machine.execVfenceAcq o s
  | .vfenceFull o => Sys2Proof.Machine.execVfenceFull o s
  | .vfenceX => Sys2Proof.Machine.execVfenceX s
  | .vmfsr d n r => Sys2Proof.Machine.execVmfsr d n r s
  | .vmtsr sf n r => Sys2Proof.Machine.execVmtsr sf n r s
  | .vloop d im => Sys2Proof.Machine.execVloop d im s
  | .vbnz sf im => Sys2Proof.Machine.execVbnz sf im s
  | .vjmp im => Sys2Proof.Machine.execVjmp im s
  | .anop => Sys2Proof.Machine.execAnop s
  | .ldq q b im p k o => Sys2Proof.Machine.execLdq q b im p k o s
  | .stq q b im p k o => Sys2Proof.Machine.execStq q b im p k o s
  | .pref b im p k o => Sys2Proof.Machine.execPref b im p k o s
  | .ald d b im p k o => Sys2Proof.Machine.execAld d b im p k o s
  | .aaddi d b im => Sys2Proof.Machine.execAaddi d b im s
  | .aadd d b im => Sys2Proof.Machine.execAadd d b im s
  | .asub d b im => Sys2Proof.Machine.execAsub d b im s
  | .aslli d b n => Sys2Proof.Machine.execAslli d b n s
  | .aseth d im => Sys2Proof.Machine.execAseth d im s
  | .aandi d b im => Sys2Proof.Machine.execAandi d b im s
  | .ajmp o => Sys2Proof.Machine.execAjmp o s
  | .abnz b o => Sys2Proof.Machine.execAbnz b o s
  | .aloop b o => Sys2Proof.Machine.execAloop b o s
  | .atsig k => Sys2Proof.Machine.execAtsig k s
  | .atwait k => Sys2Proof.Machine.execAtwait k s
  | .ahalt => Sys2Proof.Machine.execAhalt s
  | .afenceRel o => Sys2Proof.Machine.execAfenceRel o s
  | .afenceAcq o => Sys2Proof.Machine.execAfenceAcq o s
  | .afenceFull o => Sys2Proof.Machine.execAfenceFull o s
  | .afenceX => Sys2Proof.Machine.execAfenceX s
  | .amfsr d n r => Sys2Proof.Machine.execAmfsr d n r s
  | .amtsr d b n r => Sys2Proof.Machine.execAmtsr d b n r s
  | .arprod d b => Sys2Proof.Machine.execArprod d b s
  | .arpub d b => Sys2Proof.Machine.execArpub d b s
  | .arcons d b => Sys2Proof.Machine.execArcons d b s
  | .arrel d b => Sys2Proof.Machine.execArrel d b s
  | .muleNop => Sys2Proof.Machine.execMuleNop s
  | .muleHalt => Sys2Proof.Machine.execMuleHalt s
  | .mulePost a n => Sys2Proof.Machine.execMulePost a n s
  | .muleJmp t => Sys2Proof.Machine.execMuleJmp t s
  | .muleLoop d t => Sys2Proof.Machine.execMuleLoop d t s
  | .muleBnz a t => Sys2Proof.Machine.execMuleBnz a t s
  | .muleSeti d im => Sys2Proof.Machine.execMuleSeti d im s
  | .muleAddi d a im => Sys2Proof.Machine.execMuleAddi d a im s
  | .muleAdd d a b => Sys2Proof.Machine.execMuleAdd d a b s
  | .muleAgdim a b f e => Sys2Proof.Machine.execMuleAgdim a b f e s
  | .muleAgind a f e => Sys2Proof.Machine.execMuleAgind a f e s
  | .muleAgrun d => Sys2Proof.Machine.execMuleAgrun d s
  | .muleMx a b o => Sys2Proof.Machine.execMuleMx a b o s
  | .muleMxw => Sys2Proof.Machine.execMuleMxw s
  | .muleEx a b t f => Sys2Proof.Machine.execMuleEx a b t f s
  | .muleCp a b d sf g => Sys2Proof.Machine.execMuleCp a b d sf g s
  | .muleTagw a b => Sys2Proof.Machine.execMuleTagw a b s
  | .muleFwait a o f => Sys2Proof.Machine.execMuleFwait a o f s
  | .muleFset a o f => Sys2Proof.Machine.execMuleFset a o f s
  | .muleFence o k => Sys2Proof.Machine.execMuleFence o k s
  | .muleLd d a im => Sys2Proof.Machine.execMuleLd d a im s
  | .muleSt a b im => Sys2Proof.Machine.execMuleSt a b im s
  | .muleMfsr d n => Sys2Proof.Machine.execMuleMfsr d n s
  | .muleMtsr a n => Sys2Proof.Machine.execMuleMtsr a n s
  | .nest core => Sys2Proof.Machine.execNest core s
  | .fmtld core => Sys2Proof.Machine.execFmtld core s
  | .cstld core => Sys2Proof.Machine.execCstld core s
  | .copy core => Sys2Proof.Machine.execCopy core s
  | .copyr core => Sys2Proof.Machine.execCopyr core s
  | .tmove core => Sys2Proof.Machine.execTmove core s
  | .coll core => Sys2Proof.Machine.execColl core s
  | .join core => Sys2Proof.Machine.execJoin core s
  | .rstore core => Sys2Proof.Machine.execRstore core s
  | .spred core => Sys2Proof.Machine.execSpred core s
  | .dispx core => Sys2Proof.Machine.execDispx core s
  | .abort core => Sys2Proof.Machine.execAbort core s
  | .accreg core => Sys2Proof.Machine.execAccreg core s
  | .accfree core => Sys2Proof.Machine.execAccfree core s
  | .xbreg core => Sys2Proof.Machine.execXbreg core s
  | .mrun core => Sys2Proof.Machine.execMrun core s
  | .mload core => Sys2Proof.Machine.execMload core s
  | .inputFifoAppend engine word => Sys2Proof.Machine.execInputFifoAppend engine word s
  | .outputFifoPop engine dest => Sys2Proof.Machine.execOutputFifoPop engine dest s
  | .mxgo value => Sys2Proof.Machine.execMxgo value s
  | .mlgo value => Sys2Proof.Machine.execMlgo value s
  | .fstatWrite value => Sys2Proof.Machine.execFstatWrite value s
  | .pshareWrite core value => Sys2Proof.Machine.execPshareWrite core value s
  | .paceWrite engine value => Sys2Proof.Machine.execPaceWrite engine value s
  | .preempt value => Sys2Proof.Machine.execPreempt value s
  | .endtask value => Sys2Proof.Machine.execEndtask value s
  | .registerWrite target value => Sys2Proof.Machine.execRegisterWrite target value s
  | .ringRegisterWrite fn ring value => Sys2Proof.Machine.execRingRegisterWrite fn ring value s
  | .secondStageEntryWrite entry upper => Sys2Proof.Machine.execSecondStageEntryWrite entry upper s
  | .packetConsume fn ring => Sys2Proof.Machine.execPacketConsume fn ring s
  | .operatorChain fn ring count => Sys2Proof.Machine.execOperatorChain fn ring count s
  | .accountOpen fn ring count => Sys2Proof.Machine.execAccountOpen fn ring count s
  | .accountCredit fn ring count => Sys2Proof.Machine.execAccountCredit fn ring count s
  | .accountWithdraw fn ring count => Sys2Proof.Machine.execAccountWithdraw fn ring count s
  | .accountFreeze fn ring count => Sys2Proof.Machine.execAccountFreeze fn ring count s
  | .accountThaw fn ring count => Sys2Proof.Machine.execAccountThaw fn ring count s
  | .accountSetlow fn ring count => Sys2Proof.Machine.execAccountSetlow fn ring count s
  | .accountClose fn ring count => Sys2Proof.Machine.execAccountClose fn ring count s
  | .accountRead fn ring count => Sys2Proof.Machine.execAccountRead fn ring count s
  | .prefixExport fn ring count => Sys2Proof.Machine.execPrefixExport fn ring count s
  | .prefixImport fn ring count => Sys2Proof.Machine.execPrefixImport fn ring count s
  | .noOpPacket fn ring count => Sys2Proof.Machine.execNoOpPacket fn ring count s
  | .pageInvalidation fn ring count => Sys2Proof.Machine.execPageInvalidation fn ring count s
  | .attestationRequest fn ring count => Sys2Proof.Machine.execAttestationRequest fn ring count s
  | .recordExpansion fn ring count => Sys2Proof.Machine.execRecordExpansion fn ring count s
  | .functionLevelReset fn => Sys2Proof.Machine.execFunctionLevelReset fn s
  | .powerOn how => Sys2Proof.Machine.execPowerOn how s
  | .hostWrite fn gpa data => Sys2Proof.Machine.execHostWrite fn gpa data s
  | .hostRead fn gpa length => Sys2Proof.Machine.execHostRead fn gpa length s
  | .pcieCompletion access ok => Sys2Proof.Machine.execPcieCompletion access ok s
  | .pcieCompletionTimeout access => Sys2Proof.Machine.execPcieCompletionTimeout access s
  | .pageWalk access => Sys2Proof.Machine.execPageWalk access s
  | .migrationStoreRetry access => Sys2Proof.Machine.execMigrationStoreRetry access s
  | .invalidationComplete index => Sys2Proof.Machine.execInvalidationComplete index s
  | .dataAccessPerform access => Sys2Proof.Machine.execDataAccessPerform access s
  | .slotWriteApply core slot => Sys2Proof.Machine.execSlotWriteApply core slot s
  | .expiryMark core slot => Sys2Proof.Machine.execExpiryMark core slot s
  | .codeRegionCrossing core agent => Sys2Proof.Machine.execCodeRegionCrossing core agent s
  | .messageQueueAppend access => Sys2Proof.Machine.execMessageQueueAppend access s
  | .mqAcknowledgement index => Sys2Proof.Machine.execMqAcknowledgement index s
  | .resumeNotice index => Sys2Proof.Machine.execResumeNotice index s
  | .mqPollResend core slot => Sys2Proof.Machine.execMqPollResend core slot s
  | .ringClaimGrant home desc => Sys2Proof.Machine.execRingClaimGrant home desc s
  | .accumulateWrite access arrival => Sys2Proof.Machine.execAccumulateWrite access arrival s
  | .waitaPoll index => Sys2Proof.Machine.execWaitaPoll index s
  | .tickBoundary unit tick => Sys2Proof.Machine.execTickBoundary unit tick s
  | .leaseExpiry unit lease => Sys2Proof.Machine.execLeaseExpiry unit lease s
  | .hubDebit index => Sys2Proof.Machine.execHubDebit index s
  | .rentDebitGrant index => Sys2Proof.Machine.execRentDebitGrant index s
  | .deferredDebitRefusal unit lease => Sys2Proof.Machine.execDeferredDebitRefusal unit lease s
  | .meterRefusal core => Sys2Proof.Machine.execMeterRefusal core s
  | .scrubComplete unit lease => Sys2Proof.Machine.execScrubComplete unit lease s
  | .tokenSignalApply core index => Sys2Proof.Machine.execTokenSignalApply core index s
  | .sequencerUnblock core agent => Sys2Proof.Machine.execSequencerUnblock core agent s
  | .lossOfDecoupling core block => Sys2Proof.Machine.execLossOfDecoupling core block s
  | .commandDequeue core engine => Sys2Proof.Machine.execCommandDequeue core engine s
  | .commandCompletion core engine index => Sys2Proof.Machine.execCommandCompletion core engine index s
  | .matrixKstep core => Sys2Proof.Machine.execMatrixKstep core s
  | .hadamardPrepass core => Sys2Proof.Machine.execHadamardPrepass core s
  | .drainRowWrite core => Sys2Proof.Machine.execDrainRowWrite core s
  | .copyBeat core index => Sys2Proof.Machine.execCopyBeat core index s
  | .ballastKstep order => Sys2Proof.Machine.execBallastKstep order s
  | .crossDieWriteApply access arrival => Sys2Proof.Machine.execCrossDieWriteApply access arrival s
  | .appliedVectorUpdate die => Sys2Proof.Machine.execAppliedVectorUpdate die s
  | .remoteFlagOperation event => Sys2Proof.Machine.execRemoteFlagOperation event s
  | .oxVectorExamine die launch => Sys2Proof.Machine.execOxVectorExamine die launch s
  | .launchSelection die => Sys2Proof.Machine.execLaunchSelection die s
  | .taskStart core => Sys2Proof.Machine.execTaskStart core s
  | .imageStore die => Sys2Proof.Machine.execImageStore die s
  | .taskRetirement core => Sys2Proof.Machine.execTaskRetirement core s
  | .launchCompletion die launch => Sys2Proof.Machine.execLaunchCompletion die launch s
  | .preemptionRequest core cause => Sys2Proof.Machine.execPreemptionRequest core cause s
  | .taskSaveComplete core => Sys2Proof.Machine.execTaskSaveComplete core s
  | .taskRestore core => Sys2Proof.Machine.execTaskRestore core s
  | .trapEntry core => Sys2Proof.Machine.execTrapEntry core s
  | .deferredFault core agent => Sys2Proof.Machine.execDeferredFault core agent s
  | .firmwareContextFault core kind opf => Sys2Proof.Machine.execFirmwareContextFault core kind opf s
  | .watchdog core => Sys2Proof.Machine.execWatchdog core s
  | .joinArrival switch port record tag => Sys2Proof.Machine.execJoinArrival switch port record tag s
  | .ready switch wid answer => Sys2Proof.Machine.execReady switch wid answer s
  | .windowAbort switch wid tag => Sys2Proof.Machine.execWindowAbort switch wid tag s
  | .denseContribution switch wid tag port line key count data => Sys2Proof.Machine.execDenseContribution switch wid tag port line key count data s
  | .ganderInputWord switch wid tag port word => Sys2Proof.Machine.execGanderInputWord switch wid tag port word s
  | .ganderBlockEmit switch wid tag => Sys2Proof.Machine.execGanderBlockEmit switch wid tag s
  | .windowResultWrite wid tag num offset data => Sys2Proof.Machine.execWindowResultWrite wid tag num offset data s
  | .windowCompletion switch wid tag drops => Sys2Proof.Machine.execWindowCompletion switch wid tag drops s
  | .dispatchRowArrival buffer row => Sys2Proof.Machine.execDispatchRowArrival buffer row s
  | .linkFailure link => Sys2Proof.Machine.execLinkFailure link s
  | .controlIntervalBoundary current reading => Sys2Proof.Machine.execControlIntervalBoundary current reading s
  | .clockRelock => Sys2Proof.Machine.execClockRelock s
  | .collectiveSend core index => Sys2Proof.Machine.execCollectiveSend core index s
  | .linkTrained link peer port lanes => Sys2Proof.Machine.execLinkTrained link peer port lanes s

end Sys2Proof.Machine
end

