-- ==== Sys2Proof/Machine/Issue.lean ====
section
/-! DEFINITION. The issue of one bundle, micro-order or Mule word (R14, R19, R148 to R153, R155 to R158, R161, R221, R222, R226, R316, R317):
when an agent may issue, how its words are fetched, what holds them back, and how the agent's cycle ends. -/

namespace Sys2Proof.Machine

open Sys2Proof

/-! ### What the words of a bundle name (R149, R226, R256) -/

/-- Whether a word may follow a prefix (R226). -/
def takesPfx : Instr → Bool
  | .addi .. | .andi .. | .ori .. | .xori .. | .ceqi .. | .clti .. | .cltni .. | .loop .. => true
  | _ => false

/-- Whether a word is a prefix. -/
def isPfx : Instr → Bool
  | .xpfx _ => true
  | _ => false

/-- Whether a word is a transfer word: a branch, loop, exit or trap word (R149). -/
def transferWord : Instr → Bool
  | .br .. | .call .. | .jr .. | .loop .. | .exit | .exitAbandon | .fcall .. | .eret .. => true
  | _ => false

/-- The sequencer that a sequencer instruction names (R264). -/
def seqNamed : Instr → Option (BitVec 2)
  | .sqstart _ t | .sqstop t | .sqbase _ t | .sqstat _ t => some t
  | _ => none

/-- The x register that a result is for, but for x0 (R149). -/
def xDest (d : BitVec 5) : List Target := if d = 0 then [] else [.x d.toNat]
/-- The predicate that a result is for, but for p0 (R149). -/
def pDest (d : BitVec 3) : List Target := if d = 0 then [] else [.p d.toNat]

/-- The destination registers that a word names (R149): of the control stream x, p and d registers, of the access space a registers. Two words that write one system
register, or one flag, share no destination register (assumption 113). -/
def destsOf : Instr → List Target
  | .add d _ _ | .sub d _ _ | .and d _ _ | .or d _ _ | .xor d _ _ | .andn d _ _ | .sll d _ _ | .srl d _ _ | .sra d _ _ => xDest d
  | .mul d _ _ | .mulh d _ _ | .mulhn d _ _ | .min d _ _ | .max d _ _ | .minn d _ _ | .maxn d _ _ => xDest d
  | .clz d _ | .popc d _ => xDest d
  | .ceq d _ _ | .cne d _ _ | .clt d _ _ | .cge d _ _ | .cltn d _ _ | .cgen d _ _ => pDest d
  | .pand d _ _ | .por d _ _ | .pxor d _ _ | .pandn d _ _ => pDest d
  | .addi d _ _ | .andi d _ _ | .ori d _ _ | .xori d _ _ => xDest d
  | .slli d _ _ | .srli d _ _ | .srai d _ _ => xDest d
  | .ceqi d _ _ | .clti d _ _ | .cltni d _ _ => pDest d
  | .ld d .. | .ldn d .. => xDest d
  | .atomAdd d .. | .atomSwap d .. | .atomCas d .. | .atomAnd d .. | .atomOr d .. | .atomXor d .. | .atomMin d .. | .atomMax d .. => xDest d
  | .call .. => [.x 1]
  | .jr d _ => xDest d
  | .loop d _ => xDest d
  | .mfsr d n p _ => xDest d ++ (if n = 1 then pDest p else [])
  | .mtsr _ n p _ => if n = 1 then pDest p else []
  | .dset d _ _ => [.d d.toNat]
  | .dget d _ _ => xDest d
  | .sqstat d _ => xDest d
  | .twaitnb d _ => pDest d
  | .fawait d _ _ _ => xDest d
  | .fread d _ => xDest d
  | .tagwany d _ | .tagwall d _ | .tagffr d _ => xDest d
  | .rgprod d _ _ | .rgcons d _ _ => xDest d
  | .waita d _ _ _ | .waitanb d _ _ _ => xDest d
  | .rent d _ _ | .renew d _ _ | .prepay d _ _ | .sublet d _ _ | .adopt d _ _ => xDest d
  | .vacate d _ => xDest d
  | .lstat d _ => xDest d ++ xDest (d + 1)
  | .pinval d _ _ => xDest d
  | .ldq _ b _ p _ _ | .stq _ b _ p _ _ | .pref b _ p _ _ => if p = 1 then [.aLoad b.toNat] else []
  | .ald d b _ p _ _ => .aLoad d.toNat :: (if p = 1 then [.aLoad b.toNat] else [])
  | .aaddi d _ _ | .aadd d _ _ | .asub d _ _ | .aslli d _ _ | .aseth d _ | .aandi d _ _ => [.aLoad d.toNat]
  | .aloop b _ => [.aLoad b.toNat]
  | .amfsr d _ _ => [.aLoad d.toNat]
  | .amtsr d _ n _ => if n = 1 then [.aLoad d.toNat] else []
  | .arprod d _ | .arcons d _ => [.aLoad d.toNat]
  | _ => []

/-- A source x register, by the operand field that names it (R186). -/
def xSrc (opf : Nat) (n : BitVec 5) : List (Nat × Target) := if n = 0 then [] else [(opf, .x n.toNat)]
/-- A source predicate. -/
def pSrc (opf : Nat) (n : BitVec 3) : List (Nat × Target) := if n = 0 then [] else [(opf, .p n.toNat)]
/-- A source a register. -/
def aSrc (opf : Nat) (n : BitVec 4) : List (Nat × Target) := [(opf, .aLoad n.toNat)]
/-- A source s register. -/
def sSrc (opf : Nat) (n : BitVec 4) : List (Nat × Target) := [(opf, .s n.toNat)]
/-- A source mask. -/
def mSrc (n : BitVec 3) : List (Nat × Target) := if n = 0 then [] else [(5, .m n.toNat)]
/-- A source g register. -/
def gSrc (opf : Nat) (n : BitVec 3) : List (Nat × Target) := if n = 0 then [] else [(opf, .g n.toNat)]

/-- The oldest entry of a queue, as a source. -/
def State.qSrc (s : State) (opf q : Nat) : List (Nat × Target) :=
  match s.queue q with
  | [] => []
  | e :: _ => [(opf, .qent q e.id)]

/-- A vector source (R232): a v register or the oldest entry of a queue; a row is memory. -/
def State.vSrc (s : State) (opf : Nat) (v : BitVec 6) : List (Nat × Target) :=
  if v.toNat < 32 then [(opf, .v (s.me.regs.vphys v.toNat))]
  else if v.toNat < 48 then s.qSrc opf ((v.toNat - 32) % 8)
  else []

/-- The sources of a gated micro-order: none where its stage is off (R271). -/
def State.gated (s : State) (g : BitVec 1) (l : List (Nat × Target)) : List (Nat × Target) := if g = 1 && !s.stageOn then [] else l

/-- The registers that a dispatched command is read from (R227). -/
def State.dispRegs (s : State) (a b : BitVec 3) (c : BitVec 5) : List (Nat × Target) :=
  let n := (headCount (s.dispWord c 0) - 1) / 2
  (List.range (n + 1)).flatMap (fun i => xSrc 4 (c + BitVec.ofNat 5 i)) ++ [(2, .d a.toNat), (3, .d b.toNat)]

/-- The registers and queue entries that a control-stream word reads, each with the operand field that names it. -/
def State.controlReads (s : State) : Instr → List (Nat × Target)
  | .add _ a b | .sub _ a b | .and _ a b | .or _ a b | .xor _ a b | .andn _ a b | .sll _ a b | .srl _ a b | .sra _ a b => xSrc 2 a ++ xSrc 3 b
  | .mul _ a b | .mulh _ a b | .mulhn _ a b | .min _ a b | .max _ a b | .minn _ a b | .maxn _ a b => xSrc 2 a ++ xSrc 3 b
  | .clz _ a | .popc _ a => xSrc 2 a
  | .ceq _ a b | .cne _ a b | .clt _ a b | .cge _ a b | .cltn _ a b | .cgen _ a b => xSrc 2 a ++ xSrc 3 b
  | .pand _ a b | .por _ a b | .pxor _ a b | .pandn _ a b => pSrc 2 a ++ pSrc 3 b
  | .addi _ a _ | .andi _ a _ | .ori _ a _ | .xori _ a _ => xSrc 2 a
  | .slli _ a _ | .srli _ a _ | .srai _ a _ => xSrc 2 a
  | .ceqi _ a _ | .clti _ a _ | .cltni _ a _ => xSrc 2 a
  | .ld _ b .. | .ldn _ b .. => xSrc 3 b
  | .st d b .. => xSrc 1 d ++ xSrc 3 b
  | .atomAdd _ a b .. | .atomSwap _ a b .. | .atomAnd _ a b .. | .atomOr _ a b .. | .atomXor _ a b .. | .atomMin _ a b ..
  | .atomMax _ a b .. => xSrc 2 a ++ xSrc 3 b
  | .atomCas d a b .. => xSrc 1 d ++ xSrc 2 a ++ xSrc 3 b
  | .br p .. | .call p .. => pSrc 5 p
  | .jr _ a => xSrc 2 a
  | .loop d _ => xSrc 1 d
  | .mtsr a .. => xSrc 2 a
  | .dset d a _ => xSrc 2 a ++ [(1, .d d.toNat)]
  | .dget _ a _ => [(2, .d a.toNat)]
  | .sqstart a _ | .sqbase a _ => xSrc 2 a
  | .fset a _ _ | .fadd a _ _ => xSrc 2 a
  | .fawait _ a _ _ => xSrc 2 a
  | .fradd t a _ _ | .fmcast t a _ _ => xSrc 1 t ++ xSrc 2 a
  | .tagwany _ b | .tagwall _ b | .tagffr _ b => xSrc 3 b
  | .tagclr b => xSrc 3 b
  | .rgprod _ b _ | .rgcons _ b _ => xSrc 3 b
  | .rgpub a b _ | .rgrel a b _ => xSrc 2 a ++ xSrc 3 b
  | .barinit a _ _ | .barinitf a _ _ => xSrc 2 a
  | .baradd t a _ _ | .barcast t a _ _ => xSrc 1 t ++ xSrc 2 a
  | .waita _ a b _ | .waitanb _ a b _ => xSrc 2 a ++ xSrc 3 b
  | .rent _ a b => xSrc 2 a ++ (if bits (s.x b).toNat 3 1 = 1 then xSrc 2 (a + 1) else []) ++ xSrc 3 b
  | .renew _ a b | .prepay _ a b | .adopt _ a b => xSrc 2 a ++ xSrc 3 b
  | .sublet _ a b => xSrc 2 a ++ xSrc 3 b ++ xSrc 3 (b + 1)
  | .vacate _ a | .lstat _ a => xSrc 2 a
  | .fcall a => xSrc 2 a
  | .eret a b => xSrc 2 a ++ xSrc 3 b
  | .pinval _ a b => xSrc 2 a ++ xSrc 3 b ++ xSrc 3 (b + 1)
  | .dispMx _ _ _ _ a b c | .dispCp _ _ _ _ a b c | .dispCl _ _ _ _ a b c | .dispMl _ _ _ _ a b c => s.dispRegs a b c
  | _ => []

/-- The registers and queue entries that an access micro-order reads. -/
def State.accessReads (s : State) : Instr → List (Nat × Target)
  | .stq q b i p _ _ => aSrc 3 b ++ (if p = 1 then aSrc 4 i else []) ++ s.qSrc 2 q.toNat
  | .ldq _ b i p _ _ | .pref b i p _ _ | .ald _ b i p _ _ => aSrc 3 b ++ (if p = 1 then aSrc 4 i else [])
  | .aaddi _ b _ | .aslli _ b _ | .aandi _ b _ => aSrc 3 b
  | .aadd _ b i | .asub _ b i => aSrc 3 b ++ aSrc 4 i
  | .aseth d _ => aSrc 1 d
  | .abnz b _ | .aloop b _ => aSrc 3 b
  | .amtsr _ b _ _ => aSrc 3 b
  | .arprod _ b | .arcons _ b => aSrc 3 b
  | .arpub d b | .arrel d b => aSrc 1 d ++ aSrc 3 b
  | _ => []

/-- The registers and queue entries that a vector micro-order reads. -/
def State.vectorReads (s : State) : Instr → List (Nat × Target)
  | .vmov _ a _ _ m g | .vrd _ a _ _ _ m g | .vwr _ a _ _ _ m g => s.gated g (s.vSrc 2 a ++ mSrc m)
  | .vsel _ a b _ _ m g => s.gated g (s.vSrc 2 a ++ s.vSrc 3 b ++ mSrc m)
  | .mand _ a b g | .mor _ a b g | .mxor _ a b g | .mandn _ a b g => s.gated g (mSrc a ++ mSrc b)
  | .vaddI _ _ a b _ _ m g | .vaddSat _ _ a b _ _ m g | .vsubI _ _ a b _ _ m g | .vsubSat _ _ a b _ _ m g | .vmulI _ _ a b _ _ m g
  | .vmulSat _ _ a b _ _ m g | .vminI _ _ a b _ _ m g | .vmaxI _ _ a b _ _ m g | .vand _ _ a b _ _ m g | .vor _ _ a b _ _ m g
  | .vxor _ _ a b _ _ m g | .vshl _ _ a b _ _ m g | .vshr _ _ a b _ _ m g | .vsra _ _ a b _ _ m g | .vceqI _ _ a b _ _ m g
  | .vcltI _ _ a b _ _ m g => s.gated g (s.vSrc 2 a ++ s.vSrc 3 b ++ mSrc m)
  | .vaddF _ _ _ a b _ _ m g | .vsubF _ _ _ a b _ _ m g | .vmulF _ _ _ a b _ _ m g => s.gated g (s.vSrc 2 a ++ s.vSrc 3 b ++ mSrc m)
  | .vfma _ _ d a b _ _ m g => s.gated g (s.vSrc 2 a ++ s.vSrc 3 b ++ (if d.toNat < 32 then s.vSrc 1 d else []) ++ mSrc m)
  | .vminF _ _ a b _ _ m g | .vmaxF _ _ a b _ _ m g | .vcltF _ _ a b _ _ m g | .vceqF _ _ a b _ _ m g =>
    s.gated g (s.vSrc 2 a ++ s.vSrc 3 b ++ mSrc m)
  | .vcvt _ _ a _ _ _ _ _ m g | .vpack _ a _ _ _ _ _ m g | .vunpk _ a _ _ _ _ m g => s.gated g (s.vSrc 2 a ++ mSrc m)
  | .vexp2 _ _ a _ m g | .vrcp _ _ a _ m g | .vrsq _ _ a _ m g | .vrsum _ _ a _ m g | .vrmax _ _ a _ m g | .vrmin _ _ a _ m g =>
    s.gated g (s.vSrc 2 a ++ mSrc m)
  | .vsnap _ a c m g => s.gated g (s.vSrc 2 a ++ sSrc 3 c ++ mSrc m)
  | .vlane _ a _ g => s.gated g (s.vSrc 2 a)
  | .vbcast _ c m g => s.gated g (sSrc 2 c ++ mSrc m)
  | .vsetwb c _ | .vbnz c _ | .vmtsr c _ _ => sSrc 2 c
  | .saddi _ c _ => sSrc 2 c
  | .sadd _ c b => sSrc 2 c ++ sSrc 3 b
  | .smoviHi d _ | .vloop d _ => sSrc 1 d
  | _ => []

/-- The registers that a word of Mule reads. -/
def muleReads : Instr → List (Nat × Target)
  | .mulePost a _ | .muleBnz a _ | .muleAddi _ a _ | .muleAgind a _ _ | .muleFwait a _ _ | .muleFset a _ _ | .muleLd _ a _ | .muleMtsr a _ =>
    gSrc 2 a
  | .muleLoop d _ => gSrc 1 d
  | .muleAdd _ a b | .muleAgdim a b _ _ | .muleMx a b _ | .muleEx a b _ _ | .muleCp a b _ _ _ | .muleTagw a b | .muleSt a b _ => gSrc 2 a ++ gSrc 3 b
  | _ => []

/-- The registers and queue entries that a word of the issuing agent reads, each with the operand field that names it (R186). -/
def State.reads (s : State) (i : Instr) : List (Nat × Target) :=
  match s.cur.agent with
  | .compute => s.vectorReads i
  | .load | .store => s.accessReads i
  | .mule => muleReads i
  | _ => s.controlReads i

/-- The source registers that a word reads, of those that a transfer from another tier may still be on its way to (R256). -/
def State.sourcesOf (s : State) (i : Instr) : List Target := (s.reads i).map (·.2)

/-- The registers that a word names. -/
def State.named (s : State) (i : Instr) : List Target := destsOf i ++ s.sourcesOf i

/-- Whether a word waits at an interlock for a register that is still to be written (R86, R256). -/
def State.interlocked (s : State) (i : Instr) : Bool :=
  let l := s.awaited
  !l.isEmpty && (s.named i).any (fun t => l.contains t)

/-- A register as the issuing agent's own. -/
def State.ownTarget (s : State) (t : Target) : Target :=
  match t with
  | .x n => if s.isFw then .fwx n else t
  | .p n => if s.isFw then .fwp n else t
  | .aLoad n => if s.cur.agent = .store then .aStore n else t
  | t => t

/-- Errors of the registers and queue entries that words read (R201): one that shows now marks its register poisoned, and one that has shown
before lies there still. The word, its operand field, the kind of the machine check, and the state after it; none meets no error. -/
def State.regErrors (s : State) (ws : List (Nat × Instr)) : Option (Nat × Nat × Nat × State) :=
  let c := s.cur.core
  let bad := (s.core c).badRegs
  if bad.isEmpty && s.cur.struck.isNone then none
  else
    let all := ws.flatMap (fun w => (s.reads w.2).map (fun r => (w.1, r.1, s.ownTarget r.2)))
    match all.find? (fun r => bad.contains r.2.2) with
    | some (w, f, _) => some (w, f, 6, s)
    | none =>
      match s.cur.struck.bind (fun n => all[n]?) with
      | some (w, f, t) => some (w, f, 1, s.updCore c (fun k => { k with badRegs := k.badRegs ++ [t] }))
      | none => none

/-- A machine check at issue of a register or queue entry that a word reads (R187, R201, assumption 75). -/
def raiseError (e : Nat × Nat × Nat × State) : Out :=
  raise { cls := 9, kind := BitVec.ofNat 8 e.2.2.1, opf := BitVec.ofNat 8 e.2.1 }
    { e.2.2.2 with cur := { e.2.2.2.cur with word := BitVec.ofNat 2 e.1 } }

/-- The first item that stands twice in a list of words' items: the number of its second word. -/
def firstTwice {α : Type} [DecidableEq α] : List (Nat × List α) → List α → Option Nat
  | [], _ => none
  | (i, l) :: r, seen =>
    if l.any (fun t => decide (t ∈ seen)) || !l.Nodup then some i else firstTwice r (seen ++ l)

/-- A prefix in word 3, or before a word that takes none (R226): the number of the prefix. -/
def badPfx : List (Nat × Instr) → Option Nat
  | [] => none
  | [(i, w)] => if isPfx w then some i else none
  | (i, w) :: (j, v) :: r => if isPfx w && !takesPfx v then some i else badPfx ((j, v) :: r)

/-- The rule of R149, R226 or R264 that a bundle breaks: the word and its operand field. -/
def bundleBreach (ws : List (Nat × Instr)) : Option (Nat × Field) :=
  match badPfx ws with
  | some i => some (i, .opcode)
  | none =>
    match firstTwice (ws.map (fun w => (w.1, if transferWord w.2 then [()] else []))) [] with
    | some i => some (i, .opcode)
    | none =>
      match firstTwice (ws.map (fun w => (w.1, (seqNamed w.2).toList))) [] with
      | some i => some (i, .opcode)
      | none => (firstTwice (ws.map (fun w => (w.1, destsOf w.2))) []).map (fun i => (i, .d))

/-! ### Fetching (R14, R15, R221) -/

/-- What a fetch of bytes gives. -/
inductive Fetched where
  | bytes (l : List Byte)
  | wait
  | fault (f : FaultInfo)

/-- `n` bytes of code at `va` for core `c` (R14, R15): the lookup with X = 1 and the check at the home; a read of host memory may meet an
error (R29). -/
def State.fetch (s : State) (c : Nat) (va : DWord) (n : Nat) : Fetched :=
  match s.lookup c va n .fetch with
  | .error f => .fault f
  | .ok d =>
    let a := s.mkAccess c { kind := .fetch, va := va, offs := List.range n, mode := .fetch, agent := s.cur.agent } d
    if d.tier = 1 ∧ d.homeCore ≠ c then .fault (invalidSegment 0 va)
    else
      match a.bad with
      | some r => .fault { cls := r.cls, kind := r.kind, addr := r.addr, slot := a.slot }
      | none =>
        if !s.unitReady a.unit then .wait
        else
          match s.meets a [], (if a.home = 8 then s.cur.host else none) with
          | some (cls, kind), _ =>
            .fault { cls := BitVec.ofNat 4 cls, kind := BitVec.ofNat 8 kind, addr := va, slot := a.slot }
          | none, some err => .fault { cls := 9, kind := if err then 3 else 4, addr := va, slot := a.slot }
          | none, none => .bytes (readPlaces (s.decipher (s.foreign a)).mem a.places)

/-- The little-endian words of a list of bytes (R9, R221). -/
def wordsOf : List Byte → List Word
  | a :: b :: c :: d :: r => BitVec.ofNat 32 (ofBytes [a, b, c, d]) :: wordsOf r
  | _ => []

/-- The instructions of words, numbered from `i` on, or the first word that no table assigns with its field (R222). -/
def decodeWords (sp : Space) : Nat → List Word → Except (Nat × Field) (List (Nat × Instr))
  | _, [] => .ok []
  | i, w :: r =>
    match decodeIn sp w with
    | .error f => .error (i, f)
    | .ok ins =>
      match decodeWords sp (i + 1) r with
      | .error e => .error e
      | .ok l => .ok ((i, ins) :: l)

/-! ### When an agent may issue (R148, R157, R158, R161, R364) -/

/-- Whether every member of a core's gang or crew is on its core (R161). -/
def State.unitPlaced (s : State) (c : Nat) : Bool :=
  (s.unitCores c).all (fun m => match (s.core m).residency with | .placing | .restoring => false | _ => true)

/-- A sequencer in RUN or BLOCKED (R148). -/
def SeqSt.going (q : SeqSt) : Bool := q == .run || q == .blocked

/-- Whether a task's load, compute and store sequencers and Mule may move (R159, R161). -/
def Residency.working : Residency → Bool
  | .resident => true
  | .retiring abandon => !abandon
  | _ => false

/-- The order in which the agents of a core act in one ac (R99): control sequencer or firmware context, load, compute and store sequencers,
Mule. -/
def slotRank : Nat → Nat
  | 0 | 5 => 0
  | 1 => 1
  | 2 | 6 => 2
  | 3 => 3
  | _ => 4

/-- Whether a slot of the ac at hand is still free: neither it nor one that comes after it has been taken (R99, R145, R156). -/
def Core.slotFree (k : Core) (code ac : Nat) : Bool := k.issuedAt.all (fun e => e.2 != ac || decide (slotRank e.1 < slotRank code))

/-- A slot of the ac at hand is taken. -/
def State.useSlot (s : State) (c code : Nat) : State := s.updCore c (fun k => { k with issuedAt := k.issuedAt.set code s.ac })

/-- The firmware context's counts for the window and the run that the ac at hand lies in, for one sequencer's stream (R157). -/
def Share.counts (h : Share) (code ac : Nat) : Nat × Nat × Nat :=
  let w := h.window + (ac - h.window) / 256 * 256
  (w, if w = h.window then h.used.get code 0 else 0, if h.last.get code 0 + 1 < ac then 0 else h.run.get code 0)

/-- A slot of a stream is taken by the firmware context (R157); as a new window begins, the counts of every stream begin anew. -/
def Share.take (h : Share) (code ac : Nat) : Share :=
  let (w, used, run) := h.counts code ac
  { window := w, used := (if w = h.window then h.used else []).set code (used + 1), run := h.run.set code (run + 1), last := h.last.set code ac }

/-- Whether the firmware context may take a slot of a stream (R157, R158, R190): of a compute sequencer in RUN at most 255 of any 256, also while
the control sequencer is suspended (R145). A die control core has no other context. -/
def State.fwSlot (s : State) (c code : Nat) : Bool :=
  let k := s.core c
  let (_, used, run) := k.task.share.counts code s.ac
  let share := k.pshare.toNat % 256
  let burst := max 1 (k.pshare.toNat / 256 % 256)
  !k.fw.halted && k.slotFree code s.ac &&
  (if isDc c then !s.cfg.dcsOff.contains (coreDie c, c % 8)
   else k.residency != .free &&
     (if k.task.suspended then code != 6 || k.task.compute.st != .run || decide (used < 255)
      else decide (used < share) && decide (run < burst)))

/-- Whether the issuing agent may issue (R148, R155 to R158, R161, R199, R264, R364). -/
def State.mayIssue (s : State) : Bool :=
  let c := s.cur.core
  let a := s.cur.agent
  let k := s.core c
  !s.hub.relocking && decide (c < (if a = .firmware then 4160 else 4096)) && k.slotFree (slotCode a) s.ac &&
  match a with
  | .control => k.residency == .resident && s.unitPlaced c && !k.task.suspended && k.task.ctl.st.going
  | .firmware => s.fwSlot c 5
  | .load | .compute => k.residency.working && s.unitPlaced c && (k.task.seq a).st.going && (k.task.seq a).started != some s.ac
  | .store => k.residency.working && s.unitPlaced c && k.task.store.st.going && k.task.store.started != some s.ac && !s.transit.any (fun x => x.of c .store && x.first)
  | .mule => k.residency.working && s.unitPlaced c && k.task.mule.st.going
  | _ => false

/-! ### One bundle (R149, R151, R187) -/

/-- How the words of a bundle fared. -/
inductive Ran where
  | done (s : State)
  | stop (word : Nat) (i : Instr)
  | fault (r : FaultRec)
  | other (o : Out)

/-- The words of a bundle act in word order. -/
def runWords : List (Nat × Instr) → State → Ran
  | [], s => .done s
  | (i, ins) :: r, s =>
    match exec ins { s with cur := { s.cur with word := BitVec.ofNat 2 i, sig := .none } } with
    | .next t =>
      (match t.cur.sig with
       | .none => runWords r (if isPfx ins then t else { t with cur := { t.cur with pfx := none } })
       | .blocked => .stop i ins
       | .fault f => .fault f)
    | o => .other o

/-- The issuing agent's step (R146, R148). -/
def State.setStep (s : State) (v : DWord) : State :=
  match s.cur.agent with
  | .firmware => s.updFw (fun f => { f with pc := v })
  | .mule => s.updMe (fun t => { t with mule := { t.mule with step := v.toNat % 1024 } })
  | a => s.updMe (fun t => t.updSeq a (fun q => { q with step := v }))

/-- An agent that was BLOCKED and has issued is in RUN (R148). -/
def SeqSt.issued : SeqSt → SeqSt
  | .blocked => .run
  | q => q

/-- The issuing agent has issued: its slot is taken, its waits are over (R148), and the watchdog counts anew (R202). -/
def State.hasIssued (s : State) : State :=
  let a := s.cur.agent
  let s := s.useSlot s.cur.core (slotCode a)
  let s := s.updShared s.cur.core (fun h => { h with awaiting := h.awaiting.filter (fun e => e.agent != a) })
  let s := match a with
    | .firmware => s
    | .mule => s.updMe (fun t => { t with mule := { t.mule with st := t.mule.st.issued, cause := .none } })
    | a => s.updMe (fun t => t.updSeq a (fun q => { q with st := q.st.issued, cause := .none }))
  s.updCore s.cur.core (fun k => { k with idleSince := if a = .firmware then k.idleSince else s.rc })

/-- The stores of the store sequencer to its own near store and main file whose cycles have passed perform (R154, class AS). -/
def State.settleNear (s : State) (c : Nat) (a : Agent) : State :=
  if a = .store then
    (s.transit.filter (fun x => x.of c .store && decide (x.tier ≤ 1) && x.kind == .store && decide (x.lag = 0))).foldl State.performNear s
  else s

/-- One sequencer cycle of an agent passes (R151, R154). -/
def State.cycle (s : State) (c : Nat) (a : Agent) : State := (s.endCycle c a).settleNear c a

/-- A cycle of the issuing agent in which it issues nothing. -/
def State.idleCycle (s : State) : State := (s.useSlot s.cur.core (slotCode s.cur.agent)).cycle s.cur.core s.cur.agent

/-- The end of an issue: the agent's cycle passes, and its step moves on by `next`, or to the transfer's target, at which it issues 3 cycles
after the transfer (R149, R151, R154). -/
def State.endIssue (s : State) (next : DWord) : State :=
  let c := s.cur.core
  let a := s.cur.agent
  let t := (s.hasIssued.cycle c a).setStep (s.cur.target.getD next)
  if s.cur.target.isSome then t.updCore c (fun k => { k with refill := k.refill.set (slotCode a) 2 }) else t

/-- The end of a bundle: writes that waited for it, the trap of a firmware call, which keeps the step (R338), and the exit or return that
the bundle makes (R149). -/
def State.endBundle (s : State) : State :=
  let c := s.cur.core
  let a := s.cur.agent
  let t := s.applyLate s.cur.late
  let t := match s.cur.call with
    | some r => (t.hasIssued.cycle c a).takeFault c a r
    | none => t.endIssue (s.bundle + 16)
  t.applyLeave c s.cur.leave

/-- The firmware context takes a slot of the control sequencer (R156, R157); a bundle of the program ends its run. -/
def State.countSlot (s : State) : State :=
  s.updTask s.cur.core (fun t =>
    if s.isFw then { t with share := t.share.take 5 s.ac } else { t with share := { t.share with run := t.share.run.set 5 0 } })

/-- What the words of the bundle at hand that would block by themselves wait for (R149). -/
def State.causes (s : State) (ws : List (Nat × Instr)) : List Cause :=
  ws.filterMap (fun w =>
    match exec w.2 { s with cur := { s.cur with word := BitVec.ofNat 2 w.1 } } with
    | .next t => if t.cur.sig = .blocked then some (t.me.seq t.cur.agent).cause else none
    | _ => none)

/-- A BLOCKED bundle of the program has every cause of its words (R149). -/
def State.withCauses (s : State) (l : List Cause) : State :=
  if s.isFw then s else s.updMe (fun t => t.updSeq .control (fun q => { q with more := l }))

/-- The words of a bundle issue as a unit (R149, R187): one that blocks makes the whole bundle wait, with only that word's own request
made (R320), and one that faults leaves the bundle without effect. -/
def State.runBundle (s : State) (ws : List (Nat × Instr)) : Out :=
  match runWords ws s with
  | .done t => .next t.endBundle.countSlot
  | .fault r => .next (s.takeFault s.cur.core s.cur.agent r)
  | .other o => o
  | .stop i ins =>
    match exec ins { s with cur := { s.cur with word := BitVec.ofNat 2 i } } with
    | .next t =>
      if t.cur.sig = .blocked then .next (t.withCauses (s.causes ws))
      else
        match block s .none with
        | .next u => .next (u.withCauses (s.causes ws))
        | o => o
    | o => o

/-- A reserved use of a word of the bundle at hand (R222). -/
def raiseAt (e : Nat × Field) (s : State) : Out :=
  raise (reservedField e.2.code) { s with cur := { s.cur with word := BitVec.ofNat 2 e.1 } }

/-- A fetched bundle of the control sequencer or the firmware context issues (R149, R222). -/
def State.issueWords (s : State) (ws : List Word) : Out :=
  match decodeWords .control 0 ws with
  | .error e => raiseAt e s
  | .ok l =>
    match bundleBreach l with
    | some e => raiseAt e s
    | none =>
      if l.any (fun w => s.interlocked w.2) then block s (.registers (l.flatMap (fun w => s.named w.2)))
      else if !s.isFw && s.signalStall then block s .signal
      else
        match s.regErrors l with
        | some e => raiseError e
        | none => s.runBundle l

/-- The control sequencer or the firmware context issues its next bundle (R149, R150, R155). -/
def State.issueBundle (s : State) : Out :=
  let c := s.cur.core
  let pc := s.bundle
  if pc.toNat % 16 ≠ 0 then raise (progError 2 0 pc (vaSlot pc)) s
  else
    match s.fetch c pc 16 with
    | .fault f => raise f s
    | .wait => .next s
    | .bytes bs =>
      if s.isFw then s.issueWords (wordsOf bs)
      else
        let x := s.cross c s.cur.agent
        if x.2 then x.1.issueWords (wordsOf bs) else .next x.1

/-! ### One micro-order (R148, R222) -/

/-- A micro-order of the compute sequencer ends the run of slots that the firmware context takes of its stream (R157). -/
def State.endRun (s : State) : State :=
  if s.cur.agent = .compute then
    s.updTask s.cur.core (fun t => { t with share := { t.share with run := t.share.run.set 6 0 } })
  else s

/-- One word of an engine program or of Mule acts, and its agent's cycle ends. -/
def State.runWord (s : State) (i : Instr) : Out :=
  match exec i s with
  | .next t => if t.cur.sig = .none then .next (t.endIssue (s.bundle + 1)).endRun else .next t
  | o => o

/-- The space of a sequencer's micro-orders (R221). -/
def orderSpace : Agent → Space
  | .compute => .vector
  | .mule => .mule
  | _ => .access

/-- A fetched micro-order of a load, compute or store sequencer issues. -/
def State.issueOrder (s : State) (w : Word) : Out :=
  match decodeIn (orderSpace s.cur.agent) w with
  | .error f => raise (reservedField f.code) s
  | .ok i =>
    if s.interlocked i then block s (.registers (s.named i))
    else if s.signalStall then block s .signal
    else
      match s.regErrors [(0, i)] with
      | some e => raiseError e
      | none => s.runWord i

/-- A sequencer stops at its boundary, with its results landed (R148). -/
def State.stopAt (s : State) (c : Nat) (a : Agent) : State :=
  ((s.setPipe c a []).landAll c a (s.pipe c a)).updTask c (fun t =>
    t.updSeq a (fun q => { q with st := .idle, cause := .none, stopPending := false }))

/-- Whether the load sequencer waits for the entries that a loss of decoupling has marked (R94). -/
def TaskCtx.reloading (t : TaskCtx) : Bool := (List.range 8).any (fun q => (t.shared.queue.get q []).any (fun e => e.marked))

/-- A load, compute or store sequencer issues its next micro-order (R94, R148): the load sequencer stops issuing while entries are marked. -/
def State.issueEngine (s : State) : Out :=
  let c := s.cur.core
  let a := s.cur.agent
  let q := s.me.seq a
  let va := q.epbase + 4 * q.step
  if q.stopPending then .next (s.stopAt c a)
  else if a = .load ∧ s.me.reloading then .next s.idleCycle
  else if 0xFFFF < q.step.toNat then raise (progError 2 0 va (vaSlot va)) s
  else
    match s.fetch c va 4 with
    | .fault f => raise f s
    | .wait => .next s
    | .bytes bs =>
      let x := s.cross c a
      if x.2 then x.1.issueOrder ((wordsOf bs).headD 0) else .next x.1

/-- Mule issues the word of its control store at its step (R316, R317). -/
def State.issueMule (s : State) : Out :=
  match decodeIn .mule (s.me.mule.store.get s.me.mule.step 0) with
  | .error f => raise (reservedField f.code) s
  | .ok i =>
    match s.regErrors [(0, i)] with
    | some e => raiseError e
    | none => s.runWord i

/-- An agent that is at rest still has results in flight, which land as its cycles pass (R148, R160). -/
def State.restCycle (s : State) : State :=
  let k := s.core s.cur.core
  let rest := match s.cur.agent with
    | .control => match k.residency with | .retiring _ => true | _ => false
    | .load | .compute | .store => (k.task.seq s.cur.agent).resting
    | .mule => k.task.mule.st == .halted || k.task.mule.st == .idle
    | _ => false
  if rest && !s.hub.relocking && decide (s.cur.core < 4096) && k.slotFree (slotCode s.cur.agent) s.ac then s.idleCycle else s

/-- The issuing agent's cursor at the start of an issue (R149, R262). -/
def State.point (s : State) (c : Nat) (a : Agent) (host : Option Bool := none) (struck : Option Nat := none) : State :=
  { s with cur := { core := c, agent := a, since := some s.nextId, free := (s.was c).freeList, host := host, struck := struck } }

/-- A step's result with its cursor at rest. -/
def rested (o : Out) : Out :=
  match o with
  | .next s => .next { s with cur := {} }
  | o => o

/-- The agent's next bundle, micro-order or word. -/
def State.issueNext (s : State) : Out :=
  match s.cur.agent with
  | .mule => s.issueMule
  | .load | .compute | .store => s.issueEngine
  | _ => s.issueBundle

/-- While the store sequencer waits in a scoreboard region, the cycles that its stores wait for pass (R153, R154). -/
def State.ageBlocked (s : State) : State :=
  if s.cur.agent = .store && s.cur.sig == .blocked && s.scoreboard then
    ((s.useSlot s.cur.core 3).ageStores s.cur.core .store).settleNear s.cur.core .store
  else s

/-- A cycle of a transfer that the issuing agent has taken (R154). -/
def State.refillCycle (s : State) (n : Nat) : State :=
  (s.updCore s.cur.core (fun k => { k with refill := k.refill.set (slotCode s.cur.agent) (n - 1) })).idleCycle

/-- Agent `a` of core `c` takes its turn (R148 to R161): a deferred fault is taken at its boundary (R188, R199); else a cycle of a taken
transfer passes (R154), or it issues its next bundle, micro-order or word, if it may. -/
def State.issue (s : State) (c : Nat) (a : Agent) (host : Option Bool := none) (struck : Option Nat := none) : Out :=
  let s := s.point c a host struck
  rested (
    if !s.mayIssue then .next s.restCycle
    else
      match s.deferredOf c a with
      | some d => .next (s.takeDeferred d)
      | none =>
        if (a == .load || a == .store) && (s.oldestFault c a).isSome then .next s.idleCycle else
        let n := (s.core c).refill.get (slotCode a) 0
        if n ≠ 0 then .next (s.refillCycle n)
        else
          match s.issueNext with
          | .next t => .next t.ageBlocked
          | o => o)

/-- The firmware context of core `c` inserts a vector micro-order into the compute stream (R156): it acts on the program's main file and v
registers alone, takes no hold of the operand buffer (R272), reads owned rows as R286 shows them, and its result goes to one of the four
rows of the transfer buffer and nowhere else (assumption 90). -/
def State.insertOrder (s : State) (c : Nat) (w : Word) (row : Nat) : Out :=
  let k := s.core c
  if s.hub.relocking ∨ 4096 ≤ c ∨ !s.fwSlot c 6 then .next s
  else
    match decodeIn .vector w with
    | .error _ => .next s
    | .ok i =>
      let bare (t : TaskCtx) : TaskCtx :=
        { t with
          regs := { t.regs with held := [], sreg := [], m := [] }
          shared := { t.shared with queue := [] }
          compute := { t.compute with pipe := [] } }
      match exec i ((s.point c .compute).updTask c bare) with
      | .next t =>
        if t.cur.sig = .none then
          let v := (t.pipe c .compute).foldl (fun v f =>
            match f.target with | .v _ | .row _ => mergeLanes v f.data f.mask f.lane | _ => v) (k.fw.buffer.get (row % 4) 0)
          .next (((s.updCore c (fun k => { k with fw := { k.fw with buffer := k.fw.buffer.set (row % 4) v } })).useSlot c 6).updTask c
            (fun t => { t with share := t.share.take 6 s.ac }))
        else .next s
      | _ => .next s

/-! ### The turns of the module (R88, R110, assumption 1) -/

/-- Whether an event row is a happening of its own: encoded words are fetched, and register writes by an agent are made by its words. -/
def isEvent (i : Instr) : Bool :=
  match i with
  | .inputFifoAppend .. | .outputFifoPop .. | .mxgo .. | .mlgo .. | .fstatWrite .. | .paceWrite .. | .preempt .. | .endtask ..
  | .registerWrite (.sys _) _ => false
  | i => i.space.isNone

/-- An agent by number, for a turn that no script gives (assumption 1). -/
def agentNum (n : Nat) : Agent :=
  match n with
  | 0 => .control
  | 1 => .load
  | 2 => .compute
  | 3 => .store
  | 4 => .mule
  | _ => .firmware

/-- The next turn: the script's first, or one that Config leaves free (assumption 1). -/
def State.nextTurn (s : State) : Turn × State :=
  match s.turns with
  | t :: r => (t, { s with turns := r })
  | [] =>
    ({ dac := 1, drc := Config.drcOf s.freeCnt, core := Config.coreOf s.freeCnt, agent := agentNum (Config.agentOf s.freeCnt).val,
       errors := Config.errorsOf s.freeCnt, corrected := Config.correctedOf s.freeCnt,
       regError := Config.regErrorOf s.freeCnt, acks := Config.acksOf s.freeCnt, specs := Config.specsOf s.freeCnt,
       hostErr := Config.hostErrOf s.freeCnt, insert := Config.insertOf s.freeCnt,
       measured := Config.measuredOf s.freeCnt },
     { s with freeCnt := s.freeCnt + 1 })

/-- A turn's agent issues, its core's firmware inserts a micro-order (R156), or its event happens. -/
def State.act (s : State) (t : Turn) : Out :=
  match t.event, t.insert with
  | none, some (w, row) => s.insertOrder t.core w row
  | none, none => s.issue t.core t.agent t.hostErr t.regError
  | some i, _ => if isEvent i then rested (exec i { s with cur := { struck := t.regError } }) else .next s

end Sys2Proof.Machine
end

