-- ==== Sys2Proof/Machine/Step.lean ====
section
/-! DEFINITION. One step of the module, and the placing of one instruction where the next step fetches it. -/

namespace Sys2Proof.Machine

open Sys2Proof

/-- One step of the module (assumption 1): the clocks pass, up to the next interval boundary (R363), errors show (R201), peers acknowledge (R124),
accesses run ahead (R30), and the next turn's agent moves. -/
def step (s : State) : Host.Outcome State Fault Refusal :=
  let t := s.nextTurn.1
  ((((((s.nextTurn.2.meet t).pass t.dac t.drc).meet t).strike t.errors t.corrected).acknowledge t.acks).speculate t.specs).act t

/-- The descriptor of the code segment that `withFetchWord` gives core 0: slot 0, tier 1, its own near store, with read, write, execute and
scoreboard mode, under lease 0 of cluster unit 0 (R16). -/
def loadDesc : BitVec 256 := BitVec.ofNat 256 (1 + 16 + 2 ^ 8 + 2 ^ 9 + 2 ^ 10 + 2 ^ 11 + 0x180000 * 2 ^ 96)

/-- The agent that fetches a space's words (R221). -/
def spaceAgent : Space → Agent
  | .control => .control
  | .vector => .compute
  | .access => .load
  | .mule => .mule

/-- The agent that runs an instruction: the store sequencer for its own micro-orders (R304). -/
def runsIn (sp : Space) (i : Instr) : Agent :=
  match i with
  | .stq .. => .store
  | _ => spaceAgent sp

/-- The task that `withFetchWord` leaves on core 0: the sequencer that fetches the word in RUN at step 0, or Mule with the word in its control
store, and 144 slots. -/
def loadTask (a : Agent) (w : Word) : TaskCtx :=
  let st (b : Agent) : SeqSt := if a = b then .run else .idle
  { id := { nslot := 144 }, load := { st := st .load }, compute := { st := st .compute }, store := { st := st .store },
    mule := { st := if a = .mule then .run else .halted, store := if a = .mule then [(0, w)] else [] } }

end Sys2Proof.Machine

namespace Sys2Proof.Machine.State

open Sys2Proof

/-- `s` with one instruction where the next step fetches it: a task on core 0 whose code lies at the bottom of its near store, under an
active lease, and the turn of the agent in whose space the word decodes (assumption 18). -/
def withFetchWord (s : State) (nbits w : Nat) : State :=
  let v : Word := BitVec.ofNat 32 (if nbits = 0 then 0 else w)
  let agent := match decodeAny v with
    | some (sp, i) => runsIn sp i
    | none => .control
  let k : Core := { residency := .resident, task := loadTask agent v, table := [(0, loadDesc)] }
  let l : Lease := { st := .active, paid := s.tick + 1, ngran := 0x6000, base := nearPlace 0 0, tier := 1 }
  let s := s.setCore 0 k
  let s := s.updUnit 0 (fun u => { u with leases := u.leases.set 0 l, ticked := s.tick })
  { s with
    mem := if agent = .mule then s.mem else Memory.writeNat s.mem (nearPlace 0 0) 16 v.toNat
    turns := [{ agent := agent }]
    hub := { s.hub with relocking := false, interval := s.rc / 65536 } }

end Sys2Proof.Machine.State
end

