-- ==== Sys2Proof/Safety.lean ====
section
/-! DEFINITION. What counts as a safe state and a safe run of the module: memory in its canonical form, ranges that the manual
gives kept, and no stop of the model; and the conditions under which the statements say that an instruction completes. -/

namespace Sys2Proof

open Sys2Proof.Machine

/-- The invariant of the memory list: its canonical form (`Memory.wf`). -/
def MemInv (s : State) : Prop := Memory.wf s.mem = true

/-- A run of `k` steps ends in a state, with no fault and no refusal on the way. -/
def RunsTo (k : Nat) (s t : State) : Prop := core.run k s = .next t

/-- A state from which no step of any length stops the model. -/
def Safe (s : State) : Prop := ∀ k, ∃ t, RunsTo k s t

end Sys2Proof

namespace Sys2Proof.Machine

open Sys2Proof

/-! ### When an access of the issuing agent completes -/

/-- The segment that an address of the issuing core names. -/
def State.seg (s : State) (va : DWord) : Desc := s.slotDesc s.cur.core (vaSlot va)

/-- The lookup of R14 passes for `n` bytes at `va`: the slot is not marked expired, its descriptor is valid and keeps R17, it
permits the access, and the bytes end at or below its bound. -/
structure SegmentOk (s : State) (va : DWord) (n : Nat) (mode : Mode) : Prop where
  live : (s.core s.cur.core).expired.get (vaSlot va) false = false
  valid : (s.seg va).v = true
  good : (s.seg va).bad = false
  permits : (match mode with | .load => (s.seg va).r | .store => (s.seg va).w | .fetch => (s.seg va).x) = true
  bound : vaOff va + n ≤ (s.seg va).bound

/-- The places of `n` bytes at `va` through a near-store segment of the issuing core, in plain or skewed mode (R39, R42). -/
def State.nearBytes (s : State) (va : DWord) (n : Nat) (skew : Bool) : List Nat :=
  (List.range n).map (fun o =>
    let a := (s.seg va).base + (vaOff va + o)
    nearPlace s.cur.core (if skew then skewAddr a else a))

/-- An access of `n` bytes to the issuing core's own near store performs at its issue point: the lookup passes, nothing that it
would have to follow is on its way, its rent unit has processed the tick's boundary, and its lease is active and paid. -/
structure OwnNear (s : State) (va : DWord) (n : Nat) (skew : Bool) (mode : Mode) : Prop where
  seg : SegmentOk s va n mode
  tier : (s.seg va).tier = 1
  kind : (s.seg va).kind = 0
  own : (s.seg va).homeCore = s.cur.core
  quiet : s.liveIds = []
  ready : s.unitReady ((s.seg va).hdie * 32 + (s.seg va).hcl) = true
  lease : s.leaseOk ((s.seg va).hdie * 32 + (s.seg va).hcl) (s.seg va).lease (BitVec.ofNat 8 (s.seg va).lgen)
    (s.nearBytes va n skew) [] = true

/-- An access of `n` bytes leaves the issuing core: the lookup passes, the segment is neither the core's own near store nor a message
queue, and nothing that the access would have to wait for is on its way. -/
structure LeavesCore (s : State) (va : DWord) (n : Nat) (mode : Mode) : Prop where
  seg : SegmentOk s va n mode
  away : (s.seg va).tier ≠ 1 ∨ (s.seg va).kind ≠ 0
  kind : (s.seg va).kind ≠ 2
  quiet : s.liveIds = []

/-! ### When an access performs at its home -/

/-- An access in transit can perform at its home now (R15, R76, R84, R85, R107, R154): nothing holds it, its sequencer's cycles have passed, its
page is known, what it follows has performed, no earlier access of its agent may touch its location, its home's rent unit has processed the tick's boundary, and its lease and its bytes pass the home's checks. -/
structure AtHome (s : State) (a : Access) : Prop where
  listed : s.access a.id = some a
  free : a.held = false
  timely : a.lag = 0
  known : a.walk = false
  still : a.migWait = false
  ordered : s.anyLive a.after = false
  alone : s.transit.any (fun x => s.sameLocation x a) = false
  good : a.bad = none
  real : a.isFence = false
  plain : a.ofTransfer = false
  ready : s.unitReady a.unit = true
  sound : s.meets a [] = none

/-! ### When a vector micro-order takes effect -/

/-- A vector micro-order with these operands takes effect (R231, R232, R271, R273): its gate lets it, no operand names a row outside the held
slots, no destination lies in a slot that a nest owns, every queue operand can move its entry, and no row read holds an uncorrectable
error (R201). -/
structure VReady (s : State) (o : VOp) : Prop where
  gate : o.gate = true → s.stageOn = true
  rowD : s.rowBreach o.d = false
  rowA : s.rowBreach o.a = false
  rowB : s.rowBreach o.b = false
  ownD : s.rowOwned o.d = false
  ownA : o.rowA = true → s.rowOwned o.a = false
  waits : s.queuesReady o false = true
  moves : s.queuesReady o true = true
  cleanA : s.rowBad o.a = false
  cleanB : s.rowBad o.b = false
  cleanD : o.dsrc = true → s.rowBad o.d = false

/-- The destination of a vector micro-order, and the state in which its result is formed: entries of source queues are popped, an entry of a
destination queue is reserved, m7 is set when an operand does not block, and held sources enter the operand buffer
(R92, R232, R269, R272, R274). -/
def State.vStart (s : State) (o : VOp) : Target × State :=
  let p := (s.popSources o).vdest o (s.me.regs.mask o.mask.toNat)
  let t := if o.hasNb then p.2.putM7 true else p.2
  (p.1, (t.holdSrc o.a o.ha (s.vsrc o.a)).holdSrc o.b o.hb (s.vsrc o.b))

/-- Lane `i` of width `w` of a vector. -/
def lane (v : VReg) (w i : Nat) : BitVec w := v.extractLsb' (w * i) w

end Sys2Proof.Machine
end

