-- ==== Sys2Proof/Certificates/Slice0/Obligations.lean ====
section
/-! DEFINITION. The statements about the model, for the provers. -/

open Sys2Proof Sys2Proof.Machine

/-! ### Scalar and control instructions -/

/-- The integer functions (R248): each gives a result for xd of the value in the table, of class S1, or S3 for the three products; and its word. -/
def Claim.IntegerFunctions : Prop :=
  ∀ (s : State) (d a b : BitVec 5),
    exec (.add d a b) s = .next (s.putX d 1 (s.x a + s.x b)) ∧
    exec (.sub d a b) s = .next (s.putX d 1 (s.x a - s.x b)) ∧
    exec (.and d a b) s = .next (s.putX d 1 (s.x a &&& s.x b)) ∧
    exec (.or d a b) s = .next (s.putX d 1 (s.x a ||| s.x b)) ∧
    exec (.xor d a b) s = .next (s.putX d 1 (s.x a ^^^ s.x b)) ∧
    exec (.andn d a b) s = .next (s.putX d 1 (s.x a &&& ~~~ s.x b)) ∧
    exec (.sll d a b) s = .next (s.putX d 1 (s.x a <<< ((s.x b).extractLsb' 0 6).toNat)) ∧
    exec (.srl d a b) s = .next (s.putX d 1 (s.x a >>> ((s.x b).extractLsb' 0 6).toNat)) ∧
    exec (.sra d a b) s = .next (s.putX d 1 ((s.x a).sshiftRight ((s.x b).extractLsb' 0 6).toNat)) ∧
    exec (.mul d a b) s = .next (s.putX d 3 (((s.x a).signExtend 128 * (s.x b).signExtend 128).extractLsb' 0 64)) ∧
    exec (.mulh d a b) s = .next (s.putX d 3 (((s.x a).signExtend 128 * (s.x b).signExtend 128).extractLsb' 64 64)) ∧
    exec (.mulhn d a b) s = .next (s.putX d 3 (((s.x a).setWidth 128 * (s.x b).setWidth 128).extractLsb' 64 64)) ∧
    exec (.min d a b) s = .next (s.putX d 1 (if (s.x a).toInt ≤ (s.x b).toInt then s.x a else s.x b)) ∧
    exec (.max d a b) s = .next (s.putX d 1 (if (s.x a).toInt ≤ (s.x b).toInt then s.x b else s.x a)) ∧
    exec (.minn d a b) s = .next (s.putX d 1 (if s.x a ≤ s.x b then s.x a else s.x b)) ∧
    exec (.maxn d a b) s = .next (s.putX d 1 (if s.x a ≤ s.x b then s.x b else s.x a)) ∧
    (encode (.add d a b)).toNat = d.toNat * 2 ^ 21 + a.toNat * 2 ^ 16 + b.toNat * 2 ^ 11 + 0 ∧
    (encode (.sub d a b)).toNat = d.toNat * 2 ^ 21 + a.toNat * 2 ^ 16 + b.toNat * 2 ^ 11 + 1 ∧
    (encode (.and d a b)).toNat = d.toNat * 2 ^ 21 + a.toNat * 2 ^ 16 + b.toNat * 2 ^ 11 + 2 ∧
    (encode (.or d a b)).toNat = d.toNat * 2 ^ 21 + a.toNat * 2 ^ 16 + b.toNat * 2 ^ 11 + 3 ∧
    (encode (.xor d a b)).toNat = d.toNat * 2 ^ 21 + a.toNat * 2 ^ 16 + b.toNat * 2 ^ 11 + 4 ∧
    (encode (.andn d a b)).toNat = d.toNat * 2 ^ 21 + a.toNat * 2 ^ 16 + b.toNat * 2 ^ 11 + 5 ∧
    (encode (.sll d a b)).toNat = d.toNat * 2 ^ 21 + a.toNat * 2 ^ 16 + b.toNat * 2 ^ 11 + 6 ∧
    (encode (.srl d a b)).toNat = d.toNat * 2 ^ 21 + a.toNat * 2 ^ 16 + b.toNat * 2 ^ 11 + 7 ∧
    (encode (.sra d a b)).toNat = d.toNat * 2 ^ 21 + a.toNat * 2 ^ 16 + b.toNat * 2 ^ 11 + 8 ∧
    (encode (.mul d a b)).toNat = d.toNat * 2 ^ 21 + a.toNat * 2 ^ 16 + b.toNat * 2 ^ 11 + 9 ∧
    (encode (.mulh d a b)).toNat = d.toNat * 2 ^ 21 + a.toNat * 2 ^ 16 + b.toNat * 2 ^ 11 + 10 ∧
    (encode (.mulhn d a b)).toNat = d.toNat * 2 ^ 21 + a.toNat * 2 ^ 16 + b.toNat * 2 ^ 11 + 11 ∧
    (encode (.min d a b)).toNat = d.toNat * 2 ^ 21 + a.toNat * 2 ^ 16 + b.toNat * 2 ^ 11 + 12 ∧
    (encode (.max d a b)).toNat = d.toNat * 2 ^ 21 + a.toNat * 2 ^ 16 + b.toNat * 2 ^ 11 + 13 ∧
    (encode (.minn d a b)).toNat = d.toNat * 2 ^ 21 + a.toNat * 2 ^ 16 + b.toNat * 2 ^ 11 + 14 ∧
    (encode (.maxn d a b)).toNat = d.toNat * 2 ^ 21 + a.toNat * 2 ^ 16 + b.toNat * 2 ^ 11 + 15

/-- `CLZ` and `POPC` (R248): the leading zero bits, 0 to 64, and the one bits of xa, with their words; the FUNC values that are reserved, and xb that must be zero. -/
def Claim.CountingFunctions : Prop :=
  ∀ (s : State) (d a : BitVec 5),
    (∃ n, exec (.clz d a) s = .next (s.putX d 1 (BitVec.ofNat 64 n)) ∧ n ≤ 64 ∧
      (∀ i, 64 ≤ i + n → (s.x a).getLsbD i = false) ∧ (n < 64 → (s.x a).getLsbD (63 - n) = true)) ∧
    exec (.popc d a) s =
      .next (s.putX d 1 (BitVec.ofNat 64 (((List.range 64).filter (fun i => (s.x a).getLsbD i)).length))) ∧
    (encode (.clz d a)).toNat = d.toNat * 2 ^ 21 + a.toNat * 2 ^ 16 + 16 ∧ (encode (.popc d a)).toNat = d.toNat * 2 ^ 21 + a.toNat * 2 ^ 16 + 17 ∧
    (∀ (w : Word) (j : Instr), w.toNat / 2 ^ 26 = 0 → 18 ≤ w.toNat % 2 ^ 11 ∨ 16 ≤ w.toNat % 2 ^ 11 ∧ w.toNat / 2 ^ 11 % 2 ^ 5 ≠ 0 →
      decodeIn .control w ≠ .ok j) ∧
    encode (.add 0 0 0) = 0

/-- The immediate functions and the prefix (R226, R249): the immediate is the word's own, or with a prefix the 32 bits
of the two, extended as the row gives. -/
def Claim.ImmediateFunctions : Prop :=
  ∀ (s : State) (d a : BitVec 5) (i : BitVec 16) (n : BitVec 6) (signed zero : DWord),
    (match s.cur.pfx with
      | none => signed = i.signExtend 64 ∧ zero = i.setWidth 64
      | some p => signed = (p ++ i).signExtend 64 ∧ zero = (p ++ i).setWidth 64) →
    exec (.addi d a i) s = .next (s.putX d 1 (s.x a + signed)) ∧
    exec (.andi d a i) s = .next (s.putX d 1 (s.x a &&& zero)) ∧
    exec (.ori d a i) s = .next (s.putX d 1 (s.x a ||| zero)) ∧
    exec (.xori d a i) s = .next (s.putX d 1 (s.x a ^^^ zero)) ∧
    exec (.slli d a n) s = .next (s.putX d 1 (s.x a <<< n.toNat)) ∧
    exec (.srli d a n) s = .next (s.putX d 1 (s.x a >>> n.toNat)) ∧
    exec (.srai d a n) s = .next (s.putX d 1 ((s.x a).sshiftRight n.toNat)) ∧
    exec (.xpfx i) s = .next { s with cur := { s.cur with pfx := some i } }

/-- The scalar integer instructions (R226, R248, R249). -/
def Obligations.IntegerInstructions : Prop :=
  Claim.IntegerFunctions ∧ Claim.CountingFunctions ∧ Claim.ImmediateFunctions

/-- The compares and the predicate logic (R250, R251): pd is 1 when the relation holds and 0 otherwise; their words, and the FUNC values that are reserved. -/
def Claim.ComparesAndPredicates : Prop :=
  ∀ (s : State) (d pa pb : BitVec 3) (a b : BitVec 5) (i : BitVec 16) (signed zero : DWord),
    (match s.cur.pfx with
      | none => signed = i.signExtend 64 ∧ zero = i.setWidth 64
      | some p => signed = (p ++ i).signExtend 64 ∧ zero = (p ++ i).setWidth 64) →
    exec (.ceq d a b) s = .next (s.putP d (decide (s.x a = s.x b))) ∧
    exec (.cne d a b) s = .next (s.putP d (decide (s.x a ≠ s.x b))) ∧
    exec (.clt d a b) s = .next (s.putP d (decide ((s.x a).toInt < (s.x b).toInt))) ∧
    exec (.cge d a b) s = .next (s.putP d (decide ((s.x a).toInt ≥ (s.x b).toInt))) ∧
    exec (.cltn d a b) s = .next (s.putP d (decide (s.x a < s.x b))) ∧
    exec (.cgen d a b) s = .next (s.putP d (decide (s.x a ≥ s.x b))) ∧
    exec (.ceqi d a i) s = .next (s.putP d (decide (s.x a = signed))) ∧
    exec (.clti d a i) s = .next (s.putP d (decide ((s.x a).toInt < signed.toInt))) ∧
    exec (.cltni d a i) s = .next (s.putP d (decide (s.x a < zero))) ∧
    exec (.pand d pa pb) s = .next (s.putP d (s.p pa && s.p pb)) ∧
    exec (.por d pa pb) s = .next (s.putP d (s.p pa || s.p pb)) ∧
    exec (.pxor d pa pb) s = .next (s.putP d (s.p pa ^^ s.p pb)) ∧
    exec (.pandn d pa pb) s = .next (s.putP d (s.p pa && !s.p pb)) ∧
    (encode (.ceq d a b)).toNat = 2 ^ 26 + d.toNat * 2 ^ 21 + a.toNat * 2 ^ 16 + b.toNat * 2 ^ 11 + 0 ∧
    (encode (.cne d a b)).toNat = 2 ^ 26 + d.toNat * 2 ^ 21 + a.toNat * 2 ^ 16 + b.toNat * 2 ^ 11 + 1 ∧
    (encode (.clt d a b)).toNat = 2 ^ 26 + d.toNat * 2 ^ 21 + a.toNat * 2 ^ 16 + b.toNat * 2 ^ 11 + 2 ∧
    (encode (.cge d a b)).toNat = 2 ^ 26 + d.toNat * 2 ^ 21 + a.toNat * 2 ^ 16 + b.toNat * 2 ^ 11 + 3 ∧
    (encode (.cltn d a b)).toNat = 2 ^ 26 + d.toNat * 2 ^ 21 + a.toNat * 2 ^ 16 + b.toNat * 2 ^ 11 + 4 ∧
    (encode (.cgen d a b)).toNat = 2 ^ 26 + d.toNat * 2 ^ 21 + a.toNat * 2 ^ 16 + b.toNat * 2 ^ 11 + 5 ∧
    (encode (.ceqi d a i)).toNat = 9 * 2 ^ 26 + d.toNat * 2 ^ 21 + a.toNat * 2 ^ 16 + i.toNat ∧
    (encode (.clti d a i)).toNat = 10 * 2 ^ 26 + d.toNat * 2 ^ 21 + a.toNat * 2 ^ 16 + i.toNat ∧
    (encode (.cltni d a i)).toNat = 11 * 2 ^ 26 + d.toNat * 2 ^ 21 + a.toNat * 2 ^ 16 + i.toNat ∧
    (encode (.pand d pa pb)).toNat = 2 ^ 26 + d.toNat * 2 ^ 21 + pa.toNat * 2 ^ 16 + pb.toNat * 2 ^ 11 + 8 ∧
    (encode (.por d pa pb)).toNat = 2 ^ 26 + d.toNat * 2 ^ 21 + pa.toNat * 2 ^ 16 + pb.toNat * 2 ^ 11 + 9 ∧
    (encode (.pxor d pa pb)).toNat = 2 ^ 26 + d.toNat * 2 ^ 21 + pa.toNat * 2 ^ 16 + pb.toNat * 2 ^ 11 + 10 ∧
    (encode (.pandn d pa pb)).toNat = 2 ^ 26 + d.toNat * 2 ^ 21 + pa.toNat * 2 ^ 16 + pb.toNat * 2 ^ 11 + 11 ∧
    (∀ (w : Word) (j : Instr), w.toNat / 2 ^ 26 = 1 → w.toNat % 2 ^ 11 ∈ [6, 7] ∨ 12 ≤ w.toNat % 2 ^ 11 → decodeIn .control w ≠ .ok j)

/-- The transfers (R225, R252 to R254): the sense and the offset of a branch, what each links, where it goes when it is taken, and the two faults of `JR` and `LOOP`. -/
def Claim.Transfers : Prop :=
  ∀ (s : State) (p : BitVec 3) (v : BitVec 1) (o : BitVec 22) (d a : BitVec 5) (i : BitVec 16) (off : DWord),
    off = (match s.cur.pfx with | none => i.signExtend 64 | some q => (q ++ i).signExtend 64) →
    (∀ w : Word, decodeIn .control w = .ok (.br p v o) ∨ decodeIn .control w = .ok (.call p v o) → o.toNat % 4 = 0) ∧
    (s.p p = (v == 1) → exec (.br p v o) s = .next s ∧ exec (.call p v o) s = .next s) ∧
    (s.p p ≠ (v == 1) →
      exec (.br p v o) s = .next (s.jump (s.bundle + 4 * o.signExtend 64)) ∧
      exec (.call p v o) s = .next ((s.putX 1 1 (s.bundle + 16)).jump (s.bundle + 4 * o.signExtend 64))) ∧
    ((s.x a).extractLsb' 0 4 = 0 → exec (.jr d a) s = .next ((s.putX d 1 (s.bundle + 16)).jump (s.x a))) ∧
    ((s.x a).extractLsb' 0 4 ≠ 0 → exec (.jr d a) s = raise (progError 2 2) s) ∧
    (d = 0 → exec (.loop d i) s = raise (reservedField 1) s) ∧
    (d ≠ 0 → off.extractLsb' 0 2 = 0 →
      (s.x d - 1 = 0 → exec (.loop d i) s = .next (s.putX d 1 (s.x d - 1))) ∧
      (s.x d - 1 ≠ 0 → exec (.loop d i) s = .next ((s.putX d 1 (s.x d - 1)).jump (s.bundle + 4 * off))))

/-- `DSET` and `DGET` (R257): one field of a descriptor register is written, its other bits unchanged, or read. The firmware context has no
descriptor register of its own (R155): what it reads is a free value, and it writes none (assumption 79). -/
def Obligations.DescriptorFields : Prop :=
  ∀ (s : State) (d : BitVec 3) (x : BitVec 5) (sel : BitVec 10),
    (s.isFw = false → (s.x x).toNat < 2 ^ (selField sel).1 →
      ∃ v : DReg, exec (.dset d x sel) s = .next (s.put { target := .d d.toNat, data := v.setWidth 2048, left := 1 }) ∧
        (isSelector sel = true → ∀ i, i < 768 → v.getLsbD i =
          if (selField sel).2 ≤ i ∧ i < (selField sel).2 + (selField sel).1 then (s.x x).getLsbD (i - (selField sel).2)
          else (s.d d).getLsbD i)) ∧
    (2 ^ (selField sel).1 ≤ (s.x x).toNat → exec (.dset d x sel) s = raise (reservedField 2) s) ∧
    (s.isFw = true → (s.x x).toNat < 2 ^ (selField sel).1 → exec (.dset d x sel) s = .next s) ∧
    (s.isFw = false →
      exec (.dget x d sel) s = .next (s.putX x 3 (BitVec.ofNat 64 ((s.d d).extractLsb' (selField sel).2 (selField sel).1).toNat))) ∧
    (s.isFw = true → ∃ v : DWord, exec (.dget x d sel) s = .next (s.useD.putX x 3 v))

/-- The sequencer instructions (R264, R265), each in the states it requires, and its fault in the others; a started sequencer issues from the next
ac on. The firmware context moves no sequencer of the program (R155, assumption 122). -/
def Claim.SequencerControl : Prop :=
  ∀ (s : State) (a : BitVec 5) (t : BitVec 2) (q : Seq),
    q = s.me.seq (seqTarget t) →
    (s.isFw = false → (q.st = .idle ∨ q.st = .halted) → (s.x a).toNat ≤ 0xFFFF →
      ∃ k : TaskCtx, exec (.sqstart a t) s = .next (s.updMe (fun _ => k)) ∧
        k.seq (seqTarget t) = { q with step := s.x a, st := .run, started := some s.ac } ∧ k.regs = s.me.regs ∧ k.shared = s.me.shared ∧ k.ctl = s.me.ctl) ∧
    ((q.st = .idle ∨ q.st = .halted) → 0xFFFF < (s.x a).toNat → exec (.sqstart a t) s = raise (progError 2 2) s) ∧
    (s.isFw = false → (q.st = .idle ∨ q.st = .halted) → (s.x a).toNat % 4 = 0 →
      exec (.sqbase a t) s = .next (s.updMe (fun k => k.setSeq (seqTarget t) { q with epbase := s.x a }))) ∧
    ((q.st = .idle ∨ q.st = .halted) → (s.x a).toNat % 4 ≠ 0 → exec (.sqbase a t) s = raise (progError 2 2) s) ∧
    (¬ (q.st = .idle ∨ q.st = .halted) →
      exec (.sqstart a t) s = raise (reservedField 12) s ∧ exec (.sqbase a t) s = raise (reservedField 12) s) ∧
    (s.isFw = false → (q.st = .run ∨ q.st = .blocked) → q.stopPending = false →
      exec (.sqstop t) s = .next (s.updMe (fun k => k.setSeq (seqTarget t) { q with stopPending := true }))) ∧
    (¬ ((q.st = .run ∨ q.st = .blocked) ∧ q.stopPending = false) → exec (.sqstop t) s = raise (reservedField 12) s) ∧
    (s.isFw = true →
      ((q.st = .idle ∨ q.st = .halted) → (s.x a).toNat ≤ 0xFFFF → exec (.sqstart a t) s = .next s) ∧
      ((q.st = .idle ∨ q.st = .halted) → (s.x a).toNat % 4 = 0 → exec (.sqbase a t) s = .next s) ∧
      ((q.st = .run ∨ q.st = .blocked) → q.stopPending = false → exec (.sqstop t) s = .next s)) ∧
    exec (.sqstat a t) s = .next (s.putX a 2 (BitVec.ofNat 64
      ((match q.st with | .idle => 0 | .run => 1 | .blocked => 2 | .halted => 3 | .faulted => 4) * 2 ^ 16 + q.step.toNat % 2 ^ 16)))


/-- Compares, predicates, transfers of control and the control of the engine sequencers. -/
def Obligations.ControlFlow : Prop :=
  Claim.ComparesAndPredicates ∧ Claim.Transfers ∧ Claim.SequencerControl

/-! ### Accesses of the control stream -/

/-- `LD`, `LDN` and `ST` to the own near store (R86, R224, R255): the address is xa plus the offset; the bytes at their places, little-endian,
are extended into xd, or are the low bytes of xd. A store performs after its issue (R88), and before a later access of its agent there. -/
def Obligations.NearLoadsAndStores : Prop :=
  ∀ (s : State) (d b : BitVec 5) (k : BitVec 1) (z st : BitVec 2) (o : BitVec 11) (n : Nat) (va : DWord) (ps : List Nat),
    n = 2 ^ z.toNat →
    va = s.x b + (if st = 0 then o.signExtend 64 else (o.extractLsb' 0 6).signExtend 64) * BitVec.ofNat 64 n →
    ps = s.nearBytes va n (k == 1) →
    va.toNat % n = 0 →
    (OwnNear s va n (k == 1) .load → s.poisoned ps = false →
      exec (.ld d b k z st o) s =
        .next (s.putX d 4 ((BitVec.ofNat (8 * n) (ofBytes (readPlaces s.mem ps))).signExtend 64)) ∧
      exec (.ldn d b k z st o) s = .next (s.putX d 4 (BitVec.ofNat 64 (ofBytes (readPlaces s.mem ps))))) ∧
    (OwnNear s va n (k == 1) .store →
      ∃ a : Access, exec (.st d b k z st o) s = .next (s.send a) ∧ a.kind = .store ∧ a.va = va ∧ a.offs = List.range n ∧ a.places = ps ∧
        a.data = toBytes (s.x d).toNat n ∧ a.core = s.cur.core ∧ a.agent = s.cur.agent ∧ a.tier = 1 ∧ a.bad = none ∧ a.walk = false ∧
        a.held = false) ∧
    (∀ a : Access, s.nearStores = [a] → a.tier = 1 → s.anyLive a.after = false → a.held = false → s.unitReady a.unit = true →
      s.leaseOk a.unit a.lease a.lgen a.places [] = true →
      s.flushNear = s.performStore a ∧ (s.performStore a).access a.id = none ∧ (s.performStore a).mem = writePlaces s.mem a.places a.data)

/-- The atomics on the own near store (R328): one read-modify-write of a 4 B or 8 B word; its old value goes to xd, zero-extended. -/
def Obligations.NearAtomics : Prop :=
  ∀ (s : State) (d a b : BitVec 5) (st : BitVec 2) (o : BitVec 5) (z : BitVec 1) (n w : Nat) (va : DWord) (ps : List Nat)
    (old : Nat) (x y c : BitVec w) (done : BitVec w → State),
    n = (if z = 1 then 8 else 4) → w = 8 * n → va = s.x a → ps = s.nearBytes va n false →
    va.toNat % n = 0 → OwnNear s va n false .store → s.poisoned ps = false →
    old = ofBytes (readPlaces s.mem ps) → x = BitVec.ofNat w old → y = (s.x b).setWidth w → c = (s.x d).setWidth w →
    (∀ v, done v = (s.storeAt ps (toBytes v.toNat n)).putX d 4 (BitVec.ofNat 64 old)) →
    exec (.atomAdd d a b st o z) s = .next (done (x + y)) ∧
    exec (.atomSwap d a b st o z) s = .next (done y) ∧
    exec (.atomAnd d a b st o z) s = .next (done (x &&& y)) ∧
    exec (.atomOr d a b st o z) s = .next (done (x ||| y)) ∧
    exec (.atomXor d a b st o z) s = .next (done (x ^^^ y)) ∧
    exec (.atomMin d a b st o z) s = .next (done (if y.toInt < x.toInt then y else x)) ∧
    exec (.atomMax d a b st o z) s = .next (done (if x.toInt < y.toInt then y else x)) ∧
    (x = c → exec (.atomCas d a b st o z) s = .next (done y)) ∧
    (x ≠ c → exec (.atomCas d a b st o z) s = .next (s.putX d 4 (BitVec.ofNat 64 old)))

/-- A load, store or atomic whose segment is not the own near store leaves the core as an access with the operands of its word, and
nothing else changes (R14, R84, R255, R328). -/
def Claim.AccessesLeave : Prop :=
  ∀ (s : State) (d b y : BitVec 5) (k : BitVec 1) (z st : BitVec 2) (o : BitVec 11) (ob : BitVec 5) (w : BitVec 1) (n : Nat) (va : DWord),
    n = 2 ^ z.toNat →
    va = s.x b + (if st = 0 then o.signExtend 64 else (o.extractLsb' 0 6).signExtend 64) * BitVec.ofNat 64 n →
    va.toNat % n = 0 →
    (LeavesCore s va n .load →
      (∃ a : Access, exec (.ld d b k z st o) s = .next (s.send a) ∧ a.kind = .load true ∧ a.va = va ∧ a.offs = List.range n ∧
        a.core = s.cur.core ∧ a.agent = s.cur.agent ∧ a.dest = (if s.isFw then .fwx d.toNat else .x d.toNat)) ∧
      (∃ a : Access, exec (.ldn d b k z st o) s = .next (s.send a) ∧ a.kind = .load false ∧ a.va = va ∧ a.offs = List.range n ∧
        a.core = s.cur.core ∧ a.agent = s.cur.agent ∧ a.dest = (if s.isFw then .fwx d.toNat else .x d.toNat))) ∧
    (LeavesCore s va n .store →
      ∃ a : Access, exec (.st d b k z st o) s = .next (s.send a) ∧ a.kind = .store ∧ a.va = va ∧ a.offs = List.range n ∧
        a.core = s.cur.core ∧ a.agent = s.cur.agent ∧ a.data = toBytes (s.x d).toNat n) ∧
    ((s.x b).toNat % (if w = 1 then 8 else 4) = 0 → LeavesCore s (s.x b) (if w = 1 then 8 else 4) .store → (s.seg (s.x b)).tier ≠ 4 →
      ∀ p ∈ [(Instr.atomAdd d b y st ob w, 0), (.atomSwap d b y st ob w, 1), (.atomCas d b y st ob w, 2), (.atomAnd d b y st ob w, 3),
             (.atomOr d b y st ob w, 4), (.atomXor d b y st ob w, 5), (.atomMin d b y st ob w, 6), (.atomMax d b y st ob w, 7)],
        ∃ a : Access, exec p.1 s = .next (s.send a) ∧ a.kind = .atomic p.2 (s.x d) ∧ a.va = s.x b ∧
          a.offs = List.range (if w = 1 then 8 else 4) ∧ a.core = s.cur.core ∧ a.agent = s.cur.agent ∧
          a.data = toBytes (s.x y).toNat (if w = 1 then 8 else 4) ∧ a.dest = (if s.isFw then .fwx d.toNat else .x d.toNat))

/-- A load, store or atomic of the control stream that is not naturally aligned raises the alignment error, and nothing else happens (R184,
R187, R255, R328). That SEG is the slot of the address is the model's reading (assumption 22). -/
def Claim.MisalignedAccesses : Prop :=
  ∀ (s : State) (d b y : BitVec 5) (k : BitVec 1) (z st : BitVec 2) (o : BitVec 11) (ob : BitVec 5) (w : BitVec 1) (n : Nat) (va : DWord),
    n = 2 ^ z.toNat →
    va = s.x b + (if st = 0 then o.signExtend 64 else (o.extractLsb' 0 6).signExtend 64) * BitVec.ofNat 64 n →
    (va.toNat % n ≠ 0 →
      (∀ i ∈ [Instr.ld d b k z st o, .ldn d b k z st o, .st d b k z st o],
        exec i s = raise { cls := 1, kind := 2, opf := 4, addr := va, slot := vaSlot va } s)) ∧
    ((s.x b).toNat % (if w = 1 then 8 else 4) ≠ 0 →
      (∀ i ∈ [Instr.atomAdd d b y st ob w, .atomSwap d b y st ob w, .atomCas d b y st ob w, .atomAnd d b y st ob w,
              .atomOr d b y st ob w, .atomXor d b y st ob w, .atomMin d b y st ob w, .atomMax d b y st ob w],
        exec i s = raise { cls := 1, kind := 2, opf := 2, addr := s.x b, slot := vaSlot (s.x b) } s))

/-- How an access of the control sequencer issues when it leaves the core, and when it is misaligned. -/
def Obligations.AccessIssue : Prop :=
  Claim.AccessesLeave ∧ Claim.MisalignedAccesses

/-- What storing bytes at places does (R84, R201): the bytes at those places become the bytes given, every other byte of memory stays, poison stays
except in units wholly written, and no core or rent unit changes; nor does a die or the hub, unless a parked wait wakes. -/
def Obligations.StoredBytes : Prop :=
  ∀ (s : State) (ps : List Nat) (bs : List Byte),
    (MemInv s → ∀ p, p ∉ ps → Memory.read (s.storeAt ps bs).mem p = Memory.read s.mem p) ∧
    (MemInv s → ps.Nodup → ps.length = bs.length →
      ∀ i (h : i < ps.length), Memory.read (s.storeAt ps bs).mem (ps[i]) = bs[i]!) ∧
    (MemInv s → MemInv (s.storeAt ps bs)) ∧
    (∀ u ∈ s.poison, (∃ i < 8, 8 * u + i ∉ ps) → u ∈ (s.storeAt ps bs).poison) ∧
    (s.storeAt ps bs).cores = s.cores ∧ (s.storeAt ps bs).units = s.units ∧ (s.storeAt ps bs).transit = s.transit ∧
    (s.storeAt ps bs).cur = s.cur ∧ (s.waiters = [] → (s.storeAt ps bs).dies = s.dies ∧ (s.storeAt ps bs).hub = s.hub)

/-- A result of x or p enters its agent's pipeline and lands when its sequencer cycles have passed (R151, R154): then the register reads
the value, x0 and p0 read as before, and until then no register has changed. A result of p has one cycle. -/
def Obligations.ResultsLand : Prop :=
  ∀ (s : State) (n m : BitVec 5) (b e : BitVec 3) (l : Nat) (v : DWord) (w : Bool),
    s.cur.agent = .control → s.pipe s.cur.core .control = [] → 1 ≤ l →
    (∀ k, k + 1 < l → s.scoreboard = false →
      (Nat.repeat (fun u : State => u.endCycle s.cur.core .control) (k + 1) (s.putX n l v)).x m = s.x m) ∧
    (let t : State := Nat.repeat (fun u : State => u.endCycle s.cur.core .control) l (s.putX n l v)
     t.x n = (if n = 0 then 0 else v) ∧ (m ≠ n → t.x m = s.x m) ∧ t.mem = s.mem ∧
     (∀ p, t.p p = s.p p) ∧ (∀ i, t.d i = s.d i) ∧ t.me.shared = s.me.shared ∧ t.dies = s.dies ∧ t.hub = s.hub ∧
     (∀ c, c ≠ s.cur.core → t.core c = s.core c)) ∧
    (s.putP b w).p e = s.p e ∧
    (let t : State := (s.putP b w).endCycle s.cur.core .control
     t.p b = (if b = 0 then true else w) ∧ (e ≠ b → t.p e = s.p e) ∧ t.mem = s.mem ∧
     (∀ i, t.x i = s.x i) ∧ (∀ i, t.d i = s.d i) ∧ t.me.shared = s.me.shared ∧ t.dies = s.dies ∧ t.hub = s.hub ∧
     (∀ c, c ≠ s.cur.core → t.core c = s.core c))


/-! ### System registers, FIFOs and the go registers -/

/-- What a system register reads as (R260, R261, R291, R307, R370), and that a read changes nothing else; the numbers of the die control cores are
the model's (assumption 92). -/
def Claim.SystemRegisterReads : Prop :=
  ∀ (s : State) (d : BitVec 5) (q : BitVec 3) (e c : BitVec 4) (k : Core) (h : Shared),
    k = s.core s.cur.core → h = s.me.shared →
    (∀ p ∈ [((0 : BitVec 12), h.tags, true), (1, h.fstat.setWidth 64, false), (2, h.decloss.setWidth 64, false), (3, h.specmiss, true),
            (4, k.cecnt.setWidth 64, false), (6, BitVec.ofNat 64 s.rc, true),
            (7, BitVec.ofNat 64 (if s.cur.core < 4096 then s.cur.core
              else 4096 + 512 * ((s.cur.core - 4096) / 8 % 8) + s.cur.core % 8), true)],
      exec (.mfsr d 0 q p.1) s = .next (s.putX d 2 p.2.1) ∧
      exec (.amfsr e 0 p.1) s = .next (s.putWord (s.aTarget e) 2 p.2.1) ∧
      (s.cur.sig = .none → exec (.vmfsr c 0 p.1) s = .next (State.ageHeld
        (if p.2.2 then (s.putWord (.s c.toNat) 2 p.2.1).putWord (.s (c.toNat + 1)) 2 (p.2.1 >>> 32)
         else s.putWord (.s c.toNat) 2 p.2.1)))) ∧
    exec (.mfsr d 0 q 5) s = .next (s.putX d 2 (k.pshare.setWidth 64)) ∧
    (∀ i < 64, exec (.mfsr d 0 q (BitVec.ofNat 12 (0x40 + i))) s = .next (s.putX d 2 (h.tagrec.get i 0)) ∧
      exec (.amfsr e 0 (BitVec.ofNat 12 (0x40 + i))) s = .next (s.putWord (s.aTarget e) 2 (h.tagrec.get i 0))) ∧
    (∀ g : Engine, exec (.mfsr d 0 q (BitVec.ofNat 12 (0x80 + 2 * engineNum g))) s =
        .next (s.putX d 2 (BitVec.ofNat 64 (s.freeSeen g))) ∧
      exec (.mfsr d 0 q (BitVec.ofNat 12 (0x88 + engineNum g))) s = .next (s.putX d 2 ((s.me.engine g).gap.setWidth 64))) ∧
    (∀ i < 32, exec (.mfsr d 0 q (BitVec.ofNat 12 (0x100 + i))) s = .next (s.putX d 2 ((h.nt.get i 0).setWidth 64))) ∧
    (∀ i < 16, exec (.mfsr d 0 q (BitVec.ofNat 12 (0x180 + i))) s = .next (s.putX d 2 (h.fmt.get i 0))) ∧
    exec (.mfsr d 0 q 0x190) s = .next (s.putX d 2 0) ∧ exec (.mfsr d 0 q 0x1A0) s = .next (s.putX d 2 0) ∧
    (s.isFw = false → ∀ r : BitVec 12, 0x800 ≤ r.toNat → exec (.mfsr d 0 q r) s = raise (reservedField 4) s)

/-- What a write of a system register does (R157, R260, R291, R370): a result of one cycle, nothing, or a reserved-field error; a register of the
firmware context, and PSHARE, is written as the bundle ends (assumption 33). The firmware context writes none of the program's FSTAT and shadow
bank (R155, assumption 122). -/
def Claim.SystemRegisterWrites : Prop :=
  ∀ (s : State) (a : BitVec 5) (q : BitVec 3) (c : BitVec 4) (v : DWord) (f : Word),
    v = s.x a →
    (∀ r ∈ [(2 : BitVec 12), 3, 4, 6, 7], exec (.mtsr a 0 q r) s = .next s ∧
      (s.cur.sig = .none → exec (.vmtsr c 0 r) s = .next s.ageHeld)) ∧
    (s.isFw = false → exec (.mtsr a 0 q 1) s = .next (s.putWord (.sys 1) 1 v)) ∧
    (s.isFw = false → s.cur.sig = .none → exec (.vmtsr c 0 1) s = .next (s.putWord (.sys 1) 1 ((s.sreg c).setWidth 64)).ageHeld) ∧
    (s.isFw = false → exec (.fstatWrite f) s = .next (s.putWord (.sys 1) 1 (f.setWidth 64))) ∧
    (s.isFw = false → ∀ i < 32, exec (.mtsr a 0 q (BitVec.ofNat 12 (0x100 + i))) s = .next (s.putWord (.sys (0x100 + i)) 1 v)) ∧
    (s.isFw = true → (∀ r ∈ 1 :: List.range' 0x100 0x90, exec (.mtsr a 0 q (BitVec.ofNat 12 r)) s = .next s) ∧
      exec (.fstatWrite f) s = .next s) ∧
    (s.isFw = false → ∀ i < 16, exec (.mtsr a 0 q (BitVec.ofNat 12 (0x180 + i))) s = .next (s.putWord (.sys (0x180 + i)) 1 v)) ∧
    (∀ g : Engine, ∀ w : DWord,
      (w.toNat < 2 ^ 16 → exec (.paceWrite g w) s = .next (s.putWord (.sys (0x88 + engineNum g)) 1 w)) ∧
      (2 ^ 16 ≤ w.toNat → exec (.paceWrite g w) s = raise (reservedField 2) s) ∧
      (w = v → exec (.mtsr a 0 q (BitVec.ofNat 12 (0x88 + engineNum g))) s = exec (.paceWrite g w) s)) ∧
    (∀ i < 64, exec (.mtsr a 0 q (BitVec.ofNat 12 (0x40 + i))) s = raise (reservedField 4) s) ∧
    exec (.mtsr a 0 q 0) s = raise (reservedField 4) s ∧
    (∀ r ∈ [(0x81 : BitVec 12), 0x83, 0x85, 0x87], exec (.mtsr a 0 q r) s = raise (reservedField 4) s) ∧
    (s.isFw = false → exec (.mtsr a 0 q 5) s = raise (reservedField 4) s ∧
      ∀ r : BitVec 12, 0x800 ≤ r.toNat → exec (.mtsr a 0 q r) s = raise (reservedField 4) s) ∧
    (s.isFw = true →
      (∀ r ∈ [(5 : BitVec 12), 0x840, 0x841], exec (.mtsr a 0 q r) s = .next (s.writeLate r.toNat v)) ∧
      (v.toNat < 16 → exec (.mtsr a 0 q 0x806) s = .next (s.writeLate 0x806 v)) ∧
      (v.toNat % 16 = 0 → exec (.mtsr a 0 q 0x855) s = .next (s.writeLate 0x855 v)) ∧
      (v.toNat % 16 ≠ 0 → exec (.mtsr a 0 q 0x855) s = raise (reservedField 2) s))

/-- What a written system register holds once its write lands (R135, R260, R325, R370), a tag that a command's retirement set in this ac staying
set (R325), and what a write of PSHARE by the physical function or the
firmware context leaves (R157): a write with a reserved bit set is refused. -/
def Claim.SystemWritesLand : Prop :=
  ∀ (s : State) (c : Nat) (v : DWord) (i : Nat),
    (∀ r, (State.land s c { target := .sys r, data := v.setWidth 2048 }).mem = s.mem) ∧
    ((s.land c { target := .sys 0, data := v.setWidth 2048 }).task c).shared.tags =
      ((s.task c).shared.tags &&& ~~~ v) |||
        (if (s.task c).shared.retired.1 = s.ac then (s.task c).shared.tags &&& (s.task c).shared.retired.2 else 0) ∧
    ((s.land c { target := .sys 1, data := v.setWidth 2048 }).task c).shared.fstat = (s.task c).shared.fstat &&& v.setWidth 5 ∧
    (∀ g : Engine, (((s.land c { target := .sys (0x88 + engineNum g), data := v.setWidth 2048 }).task c).engine g).gap = v.setWidth 16) ∧
    (i < 32 → ((s.land c { target := .sys (0x100 + i), data := v.setWidth 2048 }).task c).shared.nt.get i 0 = v.setWidth 32) ∧
    (i < 16 → ((s.land c { target := .sys (0x180 + i), data := v.setWidth 2048 }).task c).shared.fmt.get i 0 = v) ∧
    (c < 4096 → ∃ t : State, exec (.pshareWrite c v) s = .next t ∧
      (t.core c).pshare = (if v.toNat < 2 ^ 16 then v.setWidth 32 else (s.core c).pshare) ∧
      (t.core c).task = s.task c ∧ t.mem = s.mem ∧ t.hub = s.hub ∧ (∀ b, b ≠ c → t.core b = s.core b)) ∧
    (s.applyLate [(5, v)]).core s.cur.core = (s.writePshare s.cur.core v).core s.cur.core

/-- A word appended to an input FIFO by each of its instructions and as an operation of its own gives the state `t`; with NB the move says that it
was made. -/
def Claim.AppendGives (s t : State) (e : Engine) (w : Word) : Prop :=
  ∀ (r : BitVec 12) (a : BitVec 5) (p : BitVec 3) (c d b : BitVec 4), r = BitVec.ofNat 12 (0x80 + 2 * engineNum e) →
    exec (.inputFifoAppend e w) s = .next t ∧
    (w = (s.x a).setWidth 32 → exec (.mtsr a 0 0 r) s = .next t ∧ exec (.mtsr a 1 p r) s = .next (t.putP p true)) ∧
    (w = s.sreg c → exec (.vmtsr c 0 r) s = .next t.ageHeld ∧ exec (.vmtsr c 1 r) s = .next (t.putM7 true).ageHeld) ∧
    (w = (s.a b).setWidth 32 →
      exec (.amtsr d b 0 r) s = .next t ∧ exec (.amtsr d b 1 r) s = .next (t.putWord (s.aTarget d) 2 1))

/-- A word appended to an input FIFO, by `MTSR`, `VMTSR` or `AMTSR` or by itself, completes (R99, R262, R291, R307): it goes to the agent's assembly
buffer; the word that completes a command pushes the command when its queue has room, and waits, or with NB is not taken, while it has none. The
firmware context appends nothing (R155, assumption 122). -/
def Claim.FifoAppends : Prop :=
  ∀ (s : State) (e : Engine) (w : Word) (buf : List Word) (n : Nat),
    (s.isFw = true → exec (.inputFifoAppend e w) s = .next s ∧
      ∀ (a : BitVec 5), exec (.mtsr a 0 0 (BitVec.ofNat 12 (0x80 + 2 * engineNum e))) s = .next s) ∧ (
    buf = (s.me.engine e).asm.get (seqCode s.pusher).toNat [] ++ [w] →
    n = (if 8 < headCount (buf.headD 0) then 1 else headCount (buf.headD 0)) →
    s.cur.agent ≠ .mule → s.isFw = false → s.cur.sig = .none → s.farLoads = false →
    (buf.length < n →
      Claim.AppendGives s (s.updMe (fun k => k.updEngine e (fun q => { q with asm := q.asm.set (seqCode s.pusher).toNat buf }))) e w) ∧
    (n ≤ buf.length → s.badParty (headWait (buf.headD 0)) (headSignal (buf.headD 0)) = none → s.queueFull e = false →
      s.acqIds (engineClass e) = [] →
      Claim.AppendGives s
        ((s.updMe (fun k => k.updEngine e (fun q => { q with asm := q.asm.erase (seqCode s.pusher).toNat }))).pushCmd e
          { words := buf, waitTok := headWait (buf.headD 0), sigTok := headSignal (buf.headD 0), path := .fifo }) e w) ∧
    (n ≤ buf.length → s.badParty (headWait (buf.headD 0)) (headSignal (buf.headD 0)) = none → s.queueFull e = true →
      ∀ (r : BitVec 12) (a : BitVec 5) (p : BitVec 3) (c d b : BitVec 4) (stop : Out),
        r = BitVec.ofNat 12 (0x80 + 2 * engineNum e) → stop = block s (.input (engineNum e)) →
        exec (.inputFifoAppend e w) s = stop ∧
        (w = (s.x a).setWidth 32 → exec (.mtsr a 0 0 r) s = stop ∧ exec (.mtsr a 1 p r) s = .next (s.putP p false)) ∧
        (w = s.sreg c → exec (.vmtsr c 0 r) s = stop ∧ exec (.vmtsr c 1 r) s = .next (s.putM7 false).ageHeld) ∧
        (w = (s.a b).setWidth 32 →
          exec (.amtsr d b 0 r) s = stop ∧ exec (.amtsr d b 1 r) s = .next (s.putWord (s.aTarget d) 2 0))))

/-- A pop of an output FIFO, by `MFSR`, `VMFSR` or `AMFSR` or by itself, completes: it takes the oldest element that the FIFO held as the ac began;
an empty one is waited for, or with NB says so and reads as zero (R100, R262, R291, R307). The firmware context reads it and takes nothing (R155,
assumption 122). -/
def Claim.FifoPops : Prop :=
  ∀ (s : State) (e : Engine) (r : BitVec 12) (d : BitVec 5) (p : BitVec 3) (c : BitVec 4) (n : Nat) (stop : Out),
    r = BitVec.ofNat 12 (0x81 + 2 * engineNum e) → stop = block s (.output (engineNum e)) →
    s.cur.sig = .none → s.farLoads = false →
    (∀ (v : DWord) (l : List DWord), (s.me.engine e).out = v :: l → s.outSeen e = true →
      let t : State := if s.isFw then s else s.updMe (fun k => k.updEngine e (fun q => { q with out := l, popped := q.popped + 1 }))
      exec (.mfsr d 0 0 r) s = .next (t.putX d 2 v) ∧ exec (.mfsr d 1 p r) s = .next ((t.putX d 2 v).putP p true) ∧
      exec (.vmfsr c 0 r) s = .next (State.ageHeld ((t.putWord (.s c.toNat) 2 v).putWord (.s (c.toNat + 1)) 2 (v >>> 32))) ∧
      exec (.vmfsr c 1 r) s = .next (State.ageHeld (((t.putWord (.s c.toNat) 2 v).putWord (.s (c.toNat + 1)) 2 (v >>> 32)).putM7 true)) ∧
      exec (.amfsr c 0 r) s = .next (t.putWord (s.aTarget c) 2 v) ∧ exec (.amfsr c 1 r) s = .next (t.putWord (s.aTarget c) 2 v) ∧
      exec (.outputFifoPop e n) s = .next (match s.cur.agent with
        | .compute => (t.putWord (.s n) 2 v).putWord (.s (n + 1)) 2 (v >>> 32)
        | .load => t.putWord (.aLoad n) 2 v
        | .store => t.putWord (.aStore n) 2 v
        | .firmware => t.putWord (.fwx n) 2 v
        | _ => t.putWord (.x n) 2 v)) ∧
    ((s.me.engine e).out = [] ∨ s.outSeen e = false →
      exec (.mfsr d 0 0 r) s = stop ∧ exec (.mfsr d 1 p r) s = .next ((s.putX d 2 0).putP p false) ∧
      exec (.vmfsr c 0 r) s = stop ∧
      exec (.vmfsr c 1 r) s = .next (State.ageHeld (((s.putWord (.s c.toNat) 2 0).putWord (.s (c.toNat + 1)) 2 0).putM7 false)) ∧
      exec (.amfsr c 0 r) s = stop ∧ exec (.amfsr c 1 r) s = .next (s.putWord (s.aTarget c) 2 0) ∧
      exec (.outputFifoPop e n) s = stop)

/-- The FIFOs of the engines. -/
def Obligations.EngineFifos : Prop :=
  Claim.FifoAppends ∧ Claim.FifoPops

/-- The go registers (R103, R262, R263, R316): a go pushes one `NEST` with the shadow bank as it stands; a start of Mule pushes one `MRUN`; each waits
for a free entry; a head that is no plain `NEST` is refused. The firmware context starts neither (R155, assumption 122). -/
def Claim.GoRegisters : Prop :=
  ∀ (s : State) (v : DWord) (a : BitVec 5) (p : BitVec 3) (h : Word),
    h = v.extractLsb' 0 32 → v = s.x a →
    (s.isFw = true → exec (.mxgo v) s = .next s ∧ exec (.mlgo v) s = .next s ∧ exec (.mtsr a 0 0 0x190) s = .next s ∧
      exec (.mtsr a 0 0 0x1A0) s = .next s) ∧ (s.isFw = false →
    (h.extractLsb' 27 5 = 0 → h.extractLsb' 24 3 = 0 → ¬ (h.getLsbD 12 = true ∧ h.getLsbD 6 = true) →
      s.badParty (headWait h) (headSignal h) = none →
      (s.queueFull .matrix = false → s.acqIds 4 = [] →
        ∃ k : Cmd, k.words = (if h.getLsbD 12 || h.getLsbD 6 then [h, v.extractLsb' 32 32] else [h]) ∧
          k.waitTok = headWait h ∧ k.sigTok = headSignal h ∧
          exec (.mxgo v) s = .next (s.pushCmd .matrix k) ∧ exec (.mtsr a 0 0 0x190) s = .next (s.pushCmd .matrix k) ∧
          exec (.mtsr a 1 p 0x190) s = .next ((s.pushCmd .matrix k).putP p true) ∧
          ∃ k', ((s.pushCmd .matrix k).me.mx).queue = s.me.mx.queue ++ [k'] ∧ k'.nt = s.me.shared.nt ∧ k'.fmt = s.me.shared.fmt) ∧
      (s.queueFull .matrix = true →
        exec (.mxgo v) s = block s (.input 0) ∧ exec (.mtsr a 0 0 0x190) s = block s (.input 0) ∧ exec (.mtsr a 1 p 0x190) s = .next (s.putP p false))) ∧
    (h.extractLsb' 27 5 ≠ 0 ∨ h.extractLsb' 24 3 ≠ 0 ∨ (h.getLsbD 12 = true ∧ h.getLsbD 6 = true) →
      exec (.mxgo v) s = raise (reservedField 2) s) ∧
    (s.queueFull .mule = false → s.acqIds 4 = [] →
      ∃ k : Cmd, k.words = [0x02000000, v.extractLsb' 0 32, v.extractLsb' 32 32] ∧
        exec (.mlgo v) s = .next (s.pushCmd .mule k) ∧ exec (.mtsr a 0 0 0x1A0) s = .next (s.pushCmd .mule k)) ∧
    (s.queueFull .mule = true → exec (.mlgo v) s = block s (.input 3) ∧ exec (.mtsr a 0 0 0x1A0) s = block s (.input 3) ∧
      exec (.mtsr a 1 p 0x1A0) s = .next (s.putP p false)))

/-- The firmware context pre-empts its task or ends it (R189, R194, R341): the writes of PREEMPT and ENDTASK, each refused to a program. Outside a
handler a pre-emption is a request, whose trap is taken; in a handler it ends the trap. -/
def Claim.FirmwareEndsTask : Prop :=
  ∀ (s : State) (v : DWord) (c : Nat) (k : Core),
    c = s.cur.core → k = s.core c →
    (s.isFw = false → exec (.preempt v) s = raise (reservedField 4) s ∧ exec (.endtask v) s = raise (reservedField 4) s) ∧
    (s.isFw = true → k.residency = .resident → s.unitCores c = [c] → k.task.suspended = false → k.task.pending.find 0 = none →
      ∃ t : State, exec (.preempt v) s = .next t ∧ (t.core c).residency = .resident ∧ (t.core c).preempt = some 3 ∧
        (t.core c).task.suspended = true ∧ (∃ r : FaultRec, (t.core c).task.pending.get 0 {} = r ∧ r.cls = 6 ∧ r.kind = 3 ∧ r.step = k.task.ctl.step) ∧
        (t.core c).task.regs = k.task.regs ∧ t.mem = s.mem) ∧
    (∀ r : FaultRec, s.isFw = true → k.residency = .resident → s.unitCores c = [c] → k.task.suspended = true → k.task.heldFaults = [] →
      k.task.pending = [(r.seq.toNat, r)] →
      ∃ t : State, exec (.preempt v) s = .next t ∧ (t.core c).residency = .stopping 3 ∧ (t.core c).preempt = none ∧
        (t.core c).task.suspended = false ∧ (t.core c).task.pending = [] ∧ (t.core c).task.regs = k.task.regs ∧ t.mem = s.mem) ∧
    (s.isFw = true → k.residency ≠ .free →
      ∃ t : State, exec (.endtask v) s = .next t ∧ (t.core c).residency = .retiring true ∧ (t.core c).status = v.toNat % 256 ∧
        (t.core c).faultStatus = some (k.task.pending.get k.fw.tsel.toNat {}) ∧ (t.core c).task.suspended = false ∧
        (t.core c).task.load.st = .idle ∧ (t.core c).task.compute.st = .idle ∧ (t.core c).task.store.st = .idle ∧
        (t.core c).task.mule.st = .halted ∧ (∀ e, ((t.core c).task.engine e).queue = []) ∧
        (t.core c).task.regs = k.task.regs ∧ t.mem = s.mem)


/-- The system registers: what a read gives, what a write does and when it lands. -/
def Obligations.SystemRegisters : Prop :=
  Claim.SystemRegisterReads ∧ Claim.SystemRegisterWrites ∧ Claim.SystemWritesLand ∧ Claim.GoRegisters ∧ Claim.FirmwareEndsTask

/-! ### Tokens, flags, barriers, tags, rings, waits and fences -/

/-- The tokens (R90, R290, R307, R321): a signal of the producer is in flight and follows its earlier accesses, or blocks while the count has no room;
a wait of the consumer subtracts 1 from the count that stood before the ac, or blocks at 0; the other parties meet the error of R90. -/
def Claim.Tokens : Prop :=
  ∀ (s t w : State) (k : BitVec 4) (d : BitVec 3),
    s.cur.sig = .none → s.farLoads = false →
    t = s.put { target := .token k.toNat, data := 0, left := 1, after := s.ownAccesses s.cur.core s.cur.agent } →
    w = s.updShared s.cur.core (fun h =>
      { h with token := h.token.set k.toNat ({ (s.token k.toNat) with count := (s.token k.toNat).count - 1, taken := (s.token k.toNat).taken + 1 } : Token) }) →
    (s.producer k.toNat = true → s.tokenRoom s.cur.core k.toNat = true →
      exec (.tsig k) s = .next t ∧ exec (.vtsig k) s = .next t.ageHeld ∧ exec (.atsig k) s = .next t) ∧
    (s.producer k.toNat = true → s.tokenRoom s.cur.core k.toNat = false →
      ∀ i ∈ [Instr.tsig k, .vtsig k, .atsig k], exec i s = block s (.tokenFull k.toNat)) ∧
    (s.producer k.toNat = false →
      ∀ i ∈ [Instr.tsig k, .vtsig k, .atsig k], exec i s = raise (progError 3 (64 + k.toNat)) s) ∧
    (s.consumer k.toNat = true → s.tokenSeen s.cur.core k.toNat ≠ 0 →
      exec (.twait k) s = .next w ∧ exec (.vtwait k) s = .next w.ageHeld ∧ exec (.atwait k) s = .next w ∧
      exec (.twaitnb d k) s = .next (w.putP d true)) ∧
    (s.consumer k.toNat = true → s.tokenSeen s.cur.core k.toNat = 0 →
      (∀ i ∈ [Instr.twait k, .vtwait k, .atwait k], exec i s = block s (.tokenEmpty k.toNat)) ∧
      exec (.twaitnb d k) s = .next (s.putP d false)) ∧
    (s.consumer k.toNat = false →
      ∀ i ∈ [Instr.twait k, .vtwait k, .atwait k, .twaitnb d k], exec i s = raise (progError 3 (64 + k.toNat)) s) ∧
    ((s.was s.cur.core).shared.token.get k.toNat {} = s.token k.toNat →
      s.tokenSeen s.cur.core k.toNat = (s.token k.toNat).count.toNat ∧
      (s.tokenRoom s.cur.core k.toNat = true ↔ (s.token k.toNat).count.toNat < 255))

/-- A token signal is applied once its producer's earlier accesses have performed (R90, R152): the count grows by 1, never beyond 255, signals of one token
in order, and nothing else changes; none is while its producer is frozen or has lost its slot. -/
def Claim.TokenSignalsApply : Prop :=
  ∀ (s : State) (c i : Nat) (g : Signal) (k : Token),
    (s.task c).shared.signals[i]? = some g → k = (s.task c).shared.token.get g.token {} →
    (s.anyLive g.after = false → s.tokenRoom c g.token = true → (∀ x ∈ (s.task c).shared.signals.take i, x.token ≠ g.token) →
      s.still c (partyAgent k.prod) = false →
      ∃ t : State, exec (.tokenSignalApply c i) s = .next t ∧ ((t.task c).shared.token.get g.token {}).count = k.count + 1 ∧
        (∀ n, n ≠ g.token → (t.task c).shared.token.get n {} = (s.task c).shared.token.get n {}) ∧
        (t.task c).shared.signals = (s.task c).shared.signals.eraseIdx i ∧ (t.task c).shared.flag = (s.task c).shared.flag ∧
        (t.task c).regs = (s.task c).regs ∧ t.mem = s.mem ∧ (∀ b, b ≠ c → t.core b = s.core b)) ∧
    (k.count = 255 ∨ s.anyLive g.after = true ∨ s.still c (partyAgent k.prod) = true → exec (.tokenSignalApply c i) s = .next s)

/-- Tokens: waits, signals and when a signal is applied. -/
def Obligations.TokenOperations : Prop :=
  Claim.Tokens ∧ Claim.TokenSignalsApply

/-- The flags of the own core (R115, R116, R322, R324, R329): a set or an add is a result of one cycle that follows the release's operations; a read; an
await that the flag has reached, now or at an update since it began to wait, answers 0, and otherwise blocks. -/
def Claim.OwnFlags : Prop :=
  ∀ (s : State) (d a f o : BitVec 5) (v : Word),
    v = (s.x a).extractLsb' 0 32 →
    (s.anyLive (s.flagIds o) = false →
      exec (.fset a f o) s = .next (s.putWord (.flagSet f.toNat) 1 (v.setWidth 64)) ∧
      exec (.fadd a f o) s = .next (s.putWord (.flagAdd f.toNat) 1 (v.setWidth 64)) ∧
      (s.me.flagWaiters f.toNat = false → exec (.barinit a f o) s = .next (s.putWord (.flagSet f.toNat) 1 (v.setWidth 64)))) ∧
    (s.me.flagWaiters f.toNat = true → exec (.barinit a f o) s = raise { cls := 4, kind := 2, opf := BitVec.ofNat 8 (96 + f.toNat) } s) ∧
    (s.cur.since = none → s.anyLive (s.flagIds o) = true → 
      exec (.fset a f o) s = block s (.ops (s.flagIds o)) ∧ exec (.fadd a f o) s = block s (.ops (s.flagIds o))) ∧
    exec (.fread d f) s = .next (s.putX d 2 ((s.flag f.toNat).setWidth 64)) ∧
    (s.takeGrant = none →
      ((s.flag f.toNat - v).toNat < 2 ^ 31 → exec (.fawait d a f o) s = .next (s.putX d 1 0)) ∧
      (∀ e ∈ s.me.shared.awaiting, e.woken = true → e.agent = s.cur.agent → e.word = s.cur.word → e.flag = f.toNat → e.value = v →
        exec (.fawait d a f o) s = .next (s.putX d 1 0)) ∧
      (2 ^ 31 ≤ (s.flag f.toNat - v).toNat → s.me.shared.awaiting.any (fun e => e.woken && e.agent == s.cur.agent && e.flag == f.toNat) = false →
        exec (.fawait d a f o) s = block (s.await f.toNat v) (.flag f.toNat v))) ∧
    (∀ g t, s.takeGrant = some (g, t) → exec (.fawait d a f o) s = .next (t.putX d 1 g)) ∧
    (∀ n c, ((s.land c { target := .flagSet n, data := v.setWidth 2048 }).task c).shared.flag.get n 0 = v ∧
      ((s.land c { target := .flagAdd n, data := v.setWidth 2048 }).task c).shared.flag.get n 0 = (s.task c).shared.flag.get n 0 + v)

/-- `BARINITF` sets the flag and wakes every waiter of it as aborted (R324): held awaits answer 1, and queued commands that await it end with
STATUS 0x05. -/
def Claim.BarrierFailure : Prop :=
  ∀ (s : State) (a f o : BitVec 5),
    s.anyLive (s.flagIds o) = false → (s.abortWaiters f.toNat).anyLive ((s.abortWaiters f.toNat).flagIds o) = false →
    ((s.me.shared.awaiting.any (fun e => e.flag == f.toNat && e.agent == .mule)) = false →
      ∃ t : State, exec (.barinitf a f o) s = .next (t.putWord (.flagSet f.toNat) 1 (((s.x a).extractLsb' 0 32).setWidth 64)) ∧
        (∀ e ∈ s.me.shared.awaiting, e.flag = f.toNat →
          { core := s.cur.core, step := s.stepOf s.cur.core e.agent, agent := e.agent, word := e.word, value := 1 : Granted } ∈ t.granted) ∧
        t.me.shared.awaiting = s.me.shared.awaiting.filter (fun e => e.flag != f.toNat) ∧
        (∀ g : Engine, (t.me.engine g).queue = (s.me.engine g).queue.filter (fun k => !k.awaits f.toNat)) ∧
        (∀ g : Engine, ∀ k ∈ (s.me.engine g).queue, k.awaits f.toNat = true →
          ({ cmd := k, st := .ended 5 0 } : Running) ∈ (t.me.engine g).running) ∧
        t.me.shared.flag = s.me.shared.flag ∧ t.me.regs = s.me.regs ∧ t.mem = s.mem)

/-- The remote flag operations (R116, R322, R323): each sends its operations, which follow the release, to the cores or members that its target names; a
target that breaks its layout, or names a core that no task uses, is a reserved-field error. -/
def Claim.RemoteFlagOperations : Prop :=
  ∀ (s : State) (t a f o : BitVec 5) (x : Nat) (v : Word),
    x = (s.x t).toNat → v = (s.x a).extractLsb' 0 32 →
    (s.anyLive (s.flagIds o) = false →
      (x < 2 ^ 12 → x ∉ s.cfg.disabled →
        ∃ r : RemoteFlag, exec (.fradd t a f o) s = .next (s.sendFlag r) ∧ r.target = x ∧ r.peer = none ∧ r.flag = f.toNat ∧
          r.value = v ∧ r.add = true) ∧
      (x / 2 ^ 14 % 2 ^ 34 = 0 → x / 2 ^ 12 % 4 = 2 → s.anyLive (s.flagIds o true) = false →
        ∃ r : RemoteFlag, exec (.fradd t a f o) s = .next (s.sendFlag r) ∧ r.target = x % 2 ^ 12 ∧
          r.peer = some (BitVec.ofNat 16 (x / 2 ^ 48)) ∧ r.flag = f.toNat ∧ r.value = v ∧ r.add = true) ∧
      (x / 2 ^ 3 % 2 ^ 13 = 0 → s.cfg.disabled = [] →
        ∃ n : State, exec (.fmcast t a f o) s = .next n ∧ n.mem = s.mem ∧ n.me.regs = s.me.regs ∧
          n.remote.map (fun r => (r.target, r.flag, r.value, r.add)) = s.remote.map (fun r => (r.target, r.flag, r.value, r.add)) ++
            (((List.range 32).filter (fun i => x.testBit (32 + i))).flatMap (fun cl =>
              ((List.range 16).filter (fun i => x.testBit (16 + i))).map (fun k => x % 8 * 512 + cl * 16 + k))).map
              (fun c => (c, f.toNat, v, false))) ∧
      (x < 2 ^ 9 → s.hasMember (x / 16) (x % 16) = true →
        ∃ r : RemoteFlag, exec (.baradd t a f o) s = .next (s.sendFlag r) ∧ r.byRank = some (s.me.id.unit, x / 16, x % 16) ∧
          r.flag = f.toNat ∧ r.value = v ∧ r.add = true) ∧
      (x < 2 ^ 48 → (s.ofGangs = true → x < 2 ^ 17) →
        ∃ n : State, exec (.barcast t a f o) s = .next n ∧ n.mem = s.mem ∧ n.me.regs = s.me.regs ∧
          n.remote.map (fun r => (r.byRank, r.flag, r.value, r.add)) = s.remote.map (fun r => (r.byRank, r.flag, r.value, r.add)) ++
            ((((List.range 32).filter (fun i => x.testBit (16 + i))).flatMap (fun g =>
              ((List.range 16).filter (fun i => x.testBit i)).map (fun k => (g, k)))).filter (fun p => s.hasMember p.1 p.2)).map
              (fun p => (some (s.me.id.unit, p.1, p.2), f.toNat, v, false)))) ∧
    (x / 2 ^ 14 % 2 ^ 34 ≠ 0 ∨ x / 2 ^ 12 % 2 = 1 → exec (.fradd t a f o) s = raise (reservedField 1) s) ∧
    (x / 2 ^ 3 % 2 ^ 13 ≠ 0 → exec (.fmcast t a f o) s = raise (reservedField 1) s) ∧
    (2 ^ 9 ≤ x → exec (.baradd t a f o) s = raise (reservedField 1) s) ∧
    (2 ^ 48 ≤ x → exec (.barcast t a f o) s = raise (reservedField 1) s)

/-- A remote flag operation for a core of its own die is applied (R116 to R118): once its predecessors have performed, the flag of a resident task of the same
launch is set or added to. A peer's flag add is applied to the launch of its launch id (R121, assumption 87), as a write of component 8. -/
def Claim.RemoteFlagApplies : Prop :=
  ∀ (s : State) (i : Nat),
    (∀ r : RemoteFlag, s.remote[i]? = some r → r.peer = none → r.byRank = none → r.source < 4096 → coreDie r.source = coreDie r.target →
      s.anyLive r.after = false → s.remoteBefore r.source r.agent r.id (some r.target) = false →
      (s.core r.target).residency = .resident → (s.task r.target).id.launch = r.launch →
      ∃ t : State, exec (.remoteFlagOperation (.own i)) s = .next t ∧ t.remote = s.remote.eraseIdx i ∧
        (t.task r.target).shared.flag.get r.flag 0 =
          (if r.add then (s.task r.target).shared.flag.get r.flag 0 + r.value else r.value) ∧
        (∀ n, n ≠ r.flag → (t.task r.target).shared.flag.get n 0 = (s.task r.target).shared.flag.get n 0) ∧
        (t.task r.target).regs = (s.task r.target).regs ∧ t.mem = s.mem ∧ (∀ b, b ≠ r.target → t.core b = s.core b)) ∧
    (∀ (lid v : Word) (c f : Nat) (l : Launch), c < 4096 → f < 32 →
      (s.die (coreDie c)).launches.find? (fun l => l.lrec.lid == lid) = some l → (s.core c).residency = .resident →
      (s.task c).id.launch = l.id → s.causalOk (coreDie c) 8 (s.stampFrom 8).1 = true →
      ∃ t : State, exec (.remoteFlagOperation (.peer lid c f v)) s = .next t ∧
        (t.task c).shared.flag.get f 0 = (s.task c).shared.flag.get f 0 + v ∧ t.remote = s.remote ∧ t.mem = s.mem ∧
        (∀ b, b ≠ c → t.core b = s.core b))

/-- Flags of the task itself and of other cores. -/
def Obligations.FlagOperations : Prop :=
  Claim.OwnFlags ∧ Claim.BarrierFailure ∧ Claim.RemoteFlagOperations ∧ Claim.RemoteFlagApplies

/-- The tag waits (R101, R325): each answers TAGS AND M, or the lowest set tag; a wait blocks while its tags are not set; `TAGCLR` clears as a result of one
cycle. -/
def Claim.TagWaits : Prop :=
  ∀ (s : State) (d b : BitVec 5) (m v : DWord),
    m = s.x b → v = s.me.shared.tags &&& m →
    (m = 0 ∨ v ≠ 0 → exec (.tagwany d b) s = .next (s.putX d 1 v)) ∧ (m ≠ 0 → v = 0 → exec (.tagwany d b) s = block s (.tags m false)) ∧
    (v = m → exec (.tagwall d b) s = .next (s.putX d 1 v)) ∧ (v ≠ m → exec (.tagwall d b) s = block s (.tags m true)) ∧
    (∃ n, exec (.tagffr d b) s = .next (s.putX d 2 (BitVec.ofNat 64 n)) ∧ n ≤ 64 ∧ (∀ i, i < n → v.getLsbD i = false) ∧
      (n < 64 → v.getLsbD n = true)) ∧
    exec (.tagclr b) s = .next (s.putWord (.sys 0) 1 m)

/-- The ring instructions (R308, R326): a publish or a release leaves for the home of the ring with its count; a claim holds its bundle until the home grants
it, and then delivers the count granted. -/
def Claim.Rings : Prop :=
  ∀ (s : State) (d b o : BitVec 5) (e f : BitVec 4) (va : DWord) (cnt : Word),
    SegmentOk s va 64 .store → va.toNat % 64 = 0 → (s.seg va).tier = 1 → (s.seg va).kind = 0 → (s.seg va).sync = true →
    (s.seg va).homeCore / 16 = s.cur.core / 16 → s.liveIds = [] → s.farLoads = false →
    (∀ (i : Instr) (op : Nat) (a : DWord),
      (i, op, a) ∈ [(Instr.rgpub d b o, 1, s.x d), (.rgrel d b o, 3, s.x d)] ∧ va = s.x b ∨
      (i, op, a) ∈ [(Instr.arpub e f, 1, s.a e), (.arrel e f, 3, s.a e)] ∧ va = s.a f →
      cnt = a.extractLsb' 0 32 →
      ∃ x : Access, exec i s = .next (s.send x) ∧ x.kind = .ring op cnt ∧ x.va = va ∧ x.core = s.cur.core ∧ x.agent = s.cur.agent) ∧
    (∀ (i : Instr) (op : Nat) (put : State → DWord → State),
      i = .rgprod d b o ∧ op = 0 ∧ va = s.x b ∧ put = (fun t v => t.putX d 1 v) ∨
      i = .rgcons d b o ∧ op = 2 ∧ va = s.x b ∧ put = (fun t v => t.putX d 1 v) ∨
      i = .arprod e f ∧ op = 0 ∧ va = s.a f ∧ put = (fun t v => t.putWord (t.aTarget e) 1 v) ∨
      i = .arcons e f ∧ op = 2 ∧ va = s.a f ∧ put = (fun t v => t.putWord (t.aTarget e) 1 v) →
      (∀ v t, s.takeGrant = some (v, t) → exec i s = .next (put t v)) ∧
      (s.takeGrant = none → s.outstanding = true → exec i s = block s .grant) ∧
      (s.takeGrant = none → s.outstanding = false →
        ∃ x : Access, exec i s = block (s.send x) .grant ∧ x.kind = .ring op 0 ∧ x.va = va ∧ x.core = s.cur.core))

/-- A parked claim is granted (R50, R326): the ring logic answers a producer the count CLP, and a consumer the count CLC, which moves on by 1; a
producer's is granted first where both could be. -/
def Claim.RingGrants : Prop :=
  ∀ (s : State) (h desc : Nat) (w : Waiter) (r : RingDesc),
    h < 4096 → desc < 0x180000 → r = s.ringAt (nearPlace h desc) → r.bad = false → r.mq = false →
    s.poisonedIn (nearPlace h desc) 64 = false →
    (s.parkedClaim (nearPlace h desc) 0 = some w → sub32 r.clp r.head ≠ r.slots →
      ∃ t : State, exec (.ringClaimGrant h desc) s = .next t ∧
        ({ core := w.access.core, step := w.access.step, agent := w.access.agent, word := w.access.word,
           value := BitVec.ofNat 64 r.clp } : Granted) ∈ t.granted ∧
        (MemInv s → (t.ringAt (nearPlace h desc)).clp = (r.clp + 1) % 2 ^ 32 ∧ (t.ringAt (nearPlace h desc)).clc = r.clc ∧
          (t.ringAt (nearPlace h desc)).head = r.head ∧ (t.ringAt (nearPlace h desc)).tail = r.tail ∧
          ∀ p, (p < nearPlace h desc ∨ nearPlace h desc + 64 ≤ p) → Memory.read t.mem p = Memory.read s.mem p) ∧
        t.cores = s.cores) ∧
    (s.parkedClaim (nearPlace h desc) 0 = none ∨ sub32 r.clp r.head = r.slots →
      s.parkedClaim (nearPlace h desc) 2 = some w → r.clc ≠ r.tail →
      ∃ t : State, exec (.ringClaimGrant h desc) s = .next t ∧
        ({ core := w.access.core, step := w.access.step, agent := w.access.agent, word := w.access.word,
           value := BitVec.ofNat 64 r.clc } : Granted) ∈ t.granted ∧
        (MemInv s → (t.ringAt (nearPlace h desc)).clc = (r.clc + 1) % 2 ^ 32 ∧ (t.ringAt (nearPlace h desc)).clp = r.clp ∧
          (t.ringAt (nearPlace h desc)).head = r.head ∧ (t.ringAt (nearPlace h desc)).tail = r.tail ∧
          ∀ p, (p < nearPlace h desc ∨ nearPlace h desc + 64 ≤ p) → Memory.read t.mem p = Memory.read s.mem p) ∧
        t.cores = s.cores)

/-- Core rings. -/
def Obligations.RingOperations : Prop :=
  Claim.Rings ∧ Claim.RingGrants

/-- A wait on an address (R327): it holds its bundle until the home answers, and then delivers the word; the form that does not wait sends one read; a waiter
that polls reads its word again every 1024 rc. A read that finds another word is granted, or else parks or polls. -/
def Claim.AddressWaits : Prop :=
  ∀ (s : State) (d a b o : BitVec 5) (va : DWord),
    va = s.x b → SegmentOk s va 8 .load → va.toNat % 8 = 0 → (s.seg va).kind = 0 → ((s.seg va).tier ≤ 3 → (s.seg va).sync = true) →
    ((s.seg va).tier = 1 → (s.seg va).homeCore = s.cur.core) → s.liveIds = [] →
    (∀ v t, s.takeGrant = some (v, t) → exec (.waita d a b o) s = .next (t.putX d 1 v)) ∧
    (s.takeGrant = none → s.outstanding = true → exec (.waita d a b o) s = block s .grant) ∧
    (s.takeGrant = none → s.outstanding = false →
      ∃ x : Access, exec (.waita d a b o) s = block (s.send x) .grant ∧ x.kind = .waita (s.x a) true false ∧ x.va = va ∧ x.offs = List.range 8) ∧
    (∃ x : Access, exec (.waitanb d a b o) s = .next (s.send x) ∧ x.kind = .waita (s.x a) false false ∧ x.va = va ∧
      x.offs = List.range 8 ∧ x.acq = o ∧ x.dest = (if s.isFw then .fwx d.toNat else .x d.toNat)) ∧
    (∀ (i n : Nat) (w : Waiter), s.waiters[i]? = some w → w.poll = some n →
      (n ≤ s.rc → exec (.waitaPoll i) s = .next { s with
        waiters := s.waiters.eraseIdx i
        transit := s.transit ++ [{ w.access with stamp := some (s.clock w.access.from), after := [] }] }) ∧
      (s.rc < n → exec (.waitaPoll i) s = .next s)) ∧
    (∀ (x : Access) (cmp : DWord) (park polls : Bool) (v : DWord), v = s.word8 (x.places.headD 0) →
      (park = false → s.performWait x cmp park polls = (s.dropAccess x.id).land x.core { target := x.dest, data := v.setWidth 2048 }) ∧
      (park = true → v ≠ cmp →
        ({ core := x.core, step := x.step, agent := x.agent, word := x.word, value := v } : Granted) ∈ (s.performWait x cmp park polls).granted ∧
        (s.performWait x cmp park polls).waiters = s.waiters) ∧
      (park = true → v = cmp → ∃ w : Waiter, (s.performWait x cmp park polls).waiters = s.waiters ++ [w] ∧
        w.access.id = x.id ∧ w.access.places = x.places ∧ (s.performWait x cmp park polls).granted = s.granted ∧
        (polls = true → w.poll = some (s.rc + 1024))))

/-- The fences (R113, R114, R125, R290, R307, R329): one whose operations have performed has no other effect but that a release or full one with the bit H
orders the agent's later tier-4 stores; one whose operations have not waits. -/
def Claim.Fences : Prop :=
  ∀ (s : State) (o : BitVec 5) (i : Instr) (kind : Nat),
    (i, kind) ∈ [(Instr.fenceRel o, 0), (.fenceAcq o, 1), (.fenceFull o, 2), (.fenceX, 3),
      (.vfenceRel o, 0), (.vfenceAcq o, 1), (.vfenceFull o, 2), (.vfenceX, 3),
      (.afenceRel o, 0), (.afenceAcq o, 1), (.afenceFull o, 2), (.afenceX, 3)] →
    s.cur.sig = .none → s.farLoads = false →
    (s.anyLive (s.fenceIds kind o) = false →
      exec i s = .next (if i ∈ [Instr.vfenceRel o, .vfenceAcq o, .vfenceFull o, .vfenceX] then (s.hostFenced kind o).ageHeld
        else s.hostFenced kind o)) ∧
    ((kind ≠ 0 ∧ kind ≠ 2) ∨ o.getLsbD 4 = false → s.hostFenced kind o = s) ∧
    (s.cur.since = none → s.anyLive (s.fenceIds kind o) = true → exec i s = block s (.ops (s.fenceIds kind o)))


/-- Waits for tags and addresses, and fences. -/
def Obligations.Waits : Prop :=
  Claim.TagWaits ∧ Claim.AddressWaits ∧ Claim.Fences

/-! ### Rent -/

/-- A rent instruction has sent its operation to the rent unit that keeps the lease. -/
def RentSent (s : State) (i : Instr) (op : RentOp) (d : BitVec 5) (slot unit lease lgen : Nat) : Prop :=
  ∃ x : Access, exec i s = .next (s.send x) ∧ x.kind = .rent op ∧ x.slot = slot ∧ x.unit = unit ∧ x.lease = lease ∧
    x.lgen = BitVec.ofNat 8 lgen ∧ x.acct = s.me.id.acct ∧ x.core = s.cur.core ∧ x.agent = s.cur.agent ∧
    x.dest = (if s.isFw then .fwx d.toNat else .x d.toNat)

/-- The rent instructions (R66 to R73, R330): each whose operands pass the checks of the issuing core sends its operation, with those operands, to the unit of
its lease; nothing else changes. That an operand outside its layout answers RANGE before the slot is looked at is the model's order (assumption 85), and the
limits on what a descriptor can hold are assumption 84. -/
def Claim.RentRequests : Prop :=
  ∀ (s : State) (d a b : BitVec 5) (x y z : Nat) (e : Desc) (v : Nat),
    x = (s.x a).toNat → y = (s.x b).toNat → z = (s.x (b + 1)).toNat → v = x % 64 → e = s.slotDesc s.cur.core v →
    s.acqIds 1 = [] →
    (∀ tier n slot g, tier = y / 16 % 8 → n = y / 2 ^ 32 → slot = y / 256 % 64 → g = [0, 64, 256, 4096, 4096].getD tier 0 →
      n ≠ 0 → x ≠ 0 → x < 2 ^ 58 → y / 2 ^ 14 % 2 ^ 18 = 0 → 1 ≤ tier → tier ≤ 4 → y / 8 % 2 = 0 → (tier ≠ 3 → y % 8 = 0) →
      (tier = 4 → y / 128 % 2 = 0) →
      RentSent s (.rent d a b)
        (.rent tier ((x + g - 1) / g) n slot (decide (y / 128 % 2 = 1)) false (y % 8) (s.x (a + 1)).toNat) d slot
        (if tier ≤ 2 then s.cur.core / 16 else if tier = 3 then 256 + y % 8 else 264) 0 0) ∧
    (∀ n slot w, n = y / 2 ^ 32 → slot = y / 256 % 64 → w = (s.x (a + 1)).toNat → a ≠ 31 →
      n ≠ 0 → x ≠ 0 → x < 2 ^ 58 → (x + 65535) / 65536 < 2 ^ 32 → y / 2 ^ 14 % 2 ^ 18 = 0 → y / 16 % 8 = 3 → y / 8 % 2 = 1 → y % 8 = 0 →
      w % 2 ^ 17 = 0 → w < 2 ^ 58 →
      RentSent s (.rent d a b) (.rent 3 ((x + 65535) / 65536) n slot (decide (y / 128 % 2 = 1)) true 0 w) d slot 264 0 0) ∧
    (x < 64 → e.v = true → (s.core s.cur.core).expired.get x false = false → y ≠ 0 → y < 2 ^ 32 →
      RentSent s (.renew d a b) (.renew y) d x (s.slotUnit s.me.id.vf e) e.lease e.lgen) ∧
    (x / 64 % 2 ^ 10 = 0 → x < 2 ^ 32 → e.v = true → (s.core s.cur.core).expired.get v false = false → x / 2 ^ 16 ≠ 0 →
      RentSent s (.prepay d a b) (.prepay (x / 2 ^ 16) y) d v (s.slotUnit s.me.id.vf e) e.lease e.lgen) ∧
    (x / 2 ^ 8 % 2 ^ 8 = 0 → x / 2 ^ 28 % 2 ^ 4 = 0 → e.v = true → (s.core s.cur.core).expired.get v false = false → x / 2 ^ 32 ≠ 0 →
      RentSent s (.sublet d a b)
        (.sublet y z (x / 2 ^ 16 % 2 ^ 12) (x / 2 ^ 32) (decide (x / 64 % 2 = 1)) (decide (x / 128 % 2 = 1))) d v
        (s.slotUnit s.me.id.vf e) e.lease e.lgen) ∧
    (x < 2 ^ 32 → y < 64 → x / 2 ^ 23 < 265 →
      RentSent s (.adopt d a b) (.adopt x y) d y (x / 2 ^ 23) (x / 2 ^ 7 % 2 ^ 16) 0) ∧
    (x < 64 → e.v = true → e.acct = s.me.id.acct →
      RentSent s (.vacate d a) (.vacate x ((s.core s.cur.core).expired.get x false)) d x (s.slotUnit s.me.id.vf e) e.lease e.lgen) ∧
    (x < 64 → e.v = true → RentSent s (.lstat d a) .lstat d x (s.slotUnit s.me.id.vf e) e.lease e.lgen)

/-- The answers that the issuing core gives without a rent unit (R65, R330): RANGE, EXPIRED (an empty slot, or one whose expiry mark is set), NOT_OWNER and BAD_KIND
(`SYNC` in tier 4) reach xd in one cycle; `LSTAT` of an empty slot raises the invalid-segment error. That an operand outside its layout answers RANGE before the slot is
looked at is the model's order (assumption 85), and that a table address or a page count too large for its field does is assumption 84. -/
def Claim.RentRefusals : Prop :=
  ∀ (s : State) (d a b : BitVec 5) (x y : Nat) (e : Desc) (v : Nat),
    x = (s.x a).toNat → y = (s.x b).toNat → v = x % 64 → e = s.slotDesc s.cur.core v →
    (y / 8 % 2 = 0 → x = 0 ∨ y / 2 ^ 32 = 0 ∨ 2 ^ 58 ≤ x → exec (.rent d a b) s = .next (s.putX d 1 8)) ∧
    (y / 8 % 2 = 0 → y / 2 ^ 14 % 2 ^ 18 ≠ 0 ∨ y / 16 % 8 = 0 ∨ 5 ≤ y / 16 % 8 ∨ (y / 16 % 8 ≠ 3 ∧ y % 8 ≠ 0) → exec (.rent d a b) s = .next (s.putX d 1 8)) ∧
    (y / 8 % 2 = 1 → a ≠ 31 → y / 16 % 8 ≠ 3 ∨ y % 8 ≠ 0 ∨ (s.x (a + 1)).toNat % 2 ^ 17 ≠ 0 ∨ 2 ^ 58 ≤ (s.x (a + 1)).toNat ∨
      2 ^ 32 ≤ (x + 65535) / 65536 → exec (.rent d a b) s = .next (s.putX d 1 8)) ∧
    (y / 8 % 2 = 1 → a = 31 → exec (.rent d a b) s = raise (reservedField 2) s) ∧
    (y / 16 % 8 = 4 → y / 128 % 2 = 1 → y / 8 % 2 = 0 → y % 8 = 0 → y / 2 ^ 14 % 2 ^ 18 = 0 → y / 2 ^ 32 ≠ 0 → x ≠ 0 → x < 2 ^ 58 →
      exec (.rent d a b) s = .next (s.putX d 1 10)) ∧
    (x / 2 ^ 6 % 2 ^ 10 ≠ 0 ∨ 2 ^ 32 ≤ x → exec (.prepay d a b) s = .next (s.putX d 1 8)) ∧
    (x / 2 ^ 8 % 2 ^ 8 ≠ 0 ∨ x / 2 ^ 28 % 2 ^ 4 ≠ 0 → exec (.sublet d a b) s = .next (s.putX d 1 8)) ∧
    (e.v = true → (s.core s.cur.core).expired.get v false = false →
      (x < 64 → y = 0 ∨ 2 ^ 32 ≤ y → exec (.renew d a b) s = .next (s.putX d 1 8)) ∧
      (x < 64 → exec (.prepay d a b) s = .next (s.putX d 1 8)) ∧
      (x < 2 ^ 8 → exec (.sublet d a b) s = .next (s.putX d 1 8))) ∧
    (x < 64 → (s.core s.cur.core).expired.get x false = true →
      ∀ i ∈ [Instr.renew d a b, .prepay d a b, .sublet d a b], exec i s = .next (s.putX d 1 2)) ∧
    (64 ≤ x → exec (.renew d a b) s = .next (s.putX d 1 8) ∧ exec (.vacate d a) s = .next (s.putX d 1 8) ∧
      exec (.lstat d a) s = raise (reservedField 2) s) ∧
    (x < 64 → e.v = false →
      (∀ i ∈ [Instr.renew d a b, .prepay d a b, .sublet d a b, .vacate d a], exec i s = .next (s.putX d 1 2)) ∧
      exec (.lstat d a) s = raise { cls := 1, kind := 1, opf := 2, slot := x } s) ∧
    (x < 64 → e.v = true → e.acct ≠ s.me.id.acct → exec (.vacate d a) s = .next (s.putX d 1 6)) ∧
    (2 ^ 32 ≤ x ∨ 64 ≤ y ∨ 265 ≤ x / 2 ^ 23 % 2 ^ 9 → exec (.adopt d a b) s = .next (s.putX d 1 8))

/-- The rent instructions at issue. -/
def Obligations.RentAtIssue : Prop :=
  Claim.RentRequests ∧ Claim.RentRefusals

/-- The hub's debit (R60): it is granted when the account is open and its allowance covers it, which then falls by the amount as SPENT rises; otherwise nothing
of the account changes. -/
def Claim.HubDebits : Prop :=
  ∀ (s : State) (i : Nat) (d : Debit) (a : Access) (h b : Nat),
    s.debits[i]? = some d → d.granted = none → d.purpose = .op a h b →
    ((s.account d.acct).ast = 1 → d.amount ≤ (s.account d.acct).allow →
      ∃ t : State, exec (.hubDebit i) s = .next t ∧ t.debits = s.debits.set i { d with granted := some true } ∧
        (t.account d.acct).allow = (s.account d.acct).allow - d.amount ∧
        (t.account d.acct).spent = min ((s.account d.acct).spent + d.amount) (2 ^ 64 - 1) ∧
        (∀ n, n ≠ d.acct → t.account n = s.account n) ∧ t.mem = s.mem ∧ t.cores = s.cores ∧ t.units = s.units) ∧
    ((s.account d.acct).ast ≠ 1 ∨ (s.account d.acct).allow < d.amount →
      exec (.hubDebit i) s = .next { s with debits := s.debits.set i { d with granted := some false } })

/-- An answered debit `i` of the operation `a` is credited back to its account, and the operation answers the status `st` to register `n`. -/
def Claim.Credited (s : State) (i : Nat) (d : Debit) (a : Access) (n st : Nat) : Prop :=
  ∃ t : State, exec (.rentDebitGrant i) s = .next t ∧ (t.task a.core).regs.x.get n 0 = BitVec.ofNat 64 st ∧
    (t.account d.acct).allow = min ((s.account d.acct).allow + d.amount) (2 ^ 64 - 1) ∧
    (t.account d.acct).spent = (s.account d.acct).spent - d.amount ∧ t.debits = s.debits.eraseIdx i ∧ t.units = s.units ∧ t.mem = s.mem

/-- The home applies an answered debit (R66 to R68): a refusal answers NO_ALLOW; a granted RENEW moves PAID on, a granted PREPAY fills the escrow, while the lease
is still ACTIVE, and each then answers OK, or RANGE with its debit credited where the sum has grown too large since the first step (assumption 83); of a lease that is no longer
ACTIVE each answers EXPIRED with its debit credited; a granted RENT makes its record ACTIVE. Each answers once what its completion releases has performed (R128). -/
def Claim.AnsweredDebits : Prop :=
  ∀ (s : State) (i : Nat) (d : Debit) (a : Access) (h b n : Nat) (g : Bool),
    s.debits[i]? = some d → d.granted = some g → d.purpose = .op a h b → s.unitReady a.unit = true → a.dest = .x n → n ≠ 0 →
    s.anyLive a.frees = false → (∀ w ∈ s.slotWrites, w.op ≠ a.id) →
    (g = false → ∃ t : State, exec (.rentDebitGrant i) s = .next t ∧ t.debits = s.debits.eraseIdx i ∧
      (t.task a.core).regs.x.get n 0 = 1 ∧ t.units = s.units ∧ t.hub = s.hub ∧ t.mem = s.mem) ∧
    (∀ m, g = true → a.kind = .rent (.renew m) → (s.lease a.unit a.lease).st = .active → (s.lease a.unit a.lease).lgen = a.lgen →
      ((s.lease a.unit a.lease).paid + m < 2 ^ 48 →
        ∃ t : State, exec (.rentDebitGrant i) s = .next t ∧ (t.task a.core).regs.x.get n 0 = 0 ∧
          t.lease a.unit a.lease = { s.lease a.unit a.lease with paid := (s.lease a.unit a.lease).paid + m } ∧
          (∀ k, k ≠ a.lease → t.lease a.unit k = s.lease a.unit k) ∧ t.hub = s.hub ∧ t.mem = s.mem) ∧
      (2 ^ 48 ≤ (s.lease a.unit a.lease).paid + m → Claim.Credited s i d a n 8)) ∧
    (∀ op, g = true → a.kind = .rent op → ((∃ m, op = .renew m) ∨ ∃ q u, op = .prepay q u) →
      (s.lease a.unit a.lease).st ≠ .active ∨ (s.lease a.unit a.lease).lgen ≠ a.lgen → Claim.Credited s i d a n 2) ∧
    (∀ q u, g = true → a.kind = .rent (.prepay q u) → (s.lease a.unit a.lease).st = .active → (s.lease a.unit a.lease).lgen = a.lgen →
      ((s.lease a.unit a.lease).esc + u < 2 ^ 64 →
        ∃ t : State, exec (.rentDebitGrant i) s = .next t ∧ (t.task a.core).regs.x.get n 0 = 0 ∧
          t.lease a.unit a.lease = { s.lease a.unit a.lease with esc := (s.lease a.unit a.lease).esc + u, quant := q } ∧
          (∀ k, k ≠ a.lease → t.lease a.unit k = s.lease a.unit k) ∧ t.hub = s.hub ∧ t.mem = s.mem) ∧
      (2 ^ 64 ≤ (s.lease a.unit a.lease).esc + u → Claim.Credited s i d a n 8)) ∧
    (∀ tier ng m slot sync st tb, g = true → a.kind = .rent (.rent tier ng m slot sync false st tb) →
      ∃ t : State, exec (.rentDebitGrant i) s = .next t ∧
        (t.lease a.unit h).st = .active ∧ (t.lease a.unit h).paid = (s.tick + m) % 2 ^ 48 ∧ (t.lease a.unit h).ngran = ng ∧
        (t.lease a.unit h).base = b ∧ (t.lease a.unit h).tier = tier ∧ (t.lease a.unit h).acct = (s.task a.core).id.acct ∧
        (t.lease a.unit h).lgen = (s.lease a.unit h).lgen + 1)

/-- The debits of rent at the hub and their answers. -/
def Obligations.Debits : Prop :=
  Claim.HubDebits ∧ Claim.AnsweredDebits

/-- The boundary of a tick at a rent unit none of whose leases is due (R75, R82): the unit has processed the tick, its leases stay, and a cluster's tasks are
metered. -/
def Claim.TickBoundaries : Prop :=
  ∀ (s : State) (u tick : Nat),
    u < 265 → tick = ((s.unit u).ticked + 1) % 2 ^ 48 → (s.unit u).ticked ≠ s.tick →
    (∀ e ∈ (s.unit u).leases, e.2.st ≠ .deferred ∧ (e.2.st = .active → e.2.paid ≠ tick)) →
    ∃ t : State, exec (.tickBoundary u tick) s = .next t ∧ (t.unit u).ticked = tick ∧ (t.unit u).leases = (s.unit u).leases ∧
      t.mem = s.mem ∧ t.cores = s.cores ∧ t.hub = s.hub ∧ (∀ w, w ≠ u → t.unit w = s.unit w) ∧
      (u < 256 → t.debits = s.debits ++ (s.cores.filter (fun e => e.1 / 16 == u &&
        (match e.2.residency with | .resident | .retiring _ | .stopping _ => true | _ => false))).map (fun e =>
          { acct := e.2.task.id.acct, amount := e.2.task.id.nslot * 16384 * 64, purpose := .meter e.1 e.2.task.id })) ∧
      (256 ≤ u → u < 264 → t.debits = s.debits)

/-- A lease at PAID (R69, R74, R79): its escrow renews it; without one it ends, its escrow is credited, and it is DEFERRED while copies hold it and otherwise
handed on: a contiguous tier-3 record is FREE at once, and another is scrubbed first. -/
def Claim.LeaseEnds : Prop :=
  ∀ (s : State) (u h : Nat) (l : Lease),
    u < 265 → l = s.lease u h → l.st = .active → l.sub = false → l.paid ≤ (s.unit u).ticked →
    (l.quant ≠ 0 → l.bytes * tierRate l.tier * l.quant ≤ l.esc → (s.unit u).ticked < (l.paid + l.quant) % 2 ^ 48 →
      exec (.leaseExpiry u h) s = .next (s.updLease u h (fun l =>
        { l with esc := l.esc - l.bytes * tierRate l.tier * l.quant, paid := (l.paid + l.quant) % 2 ^ 48 }))) ∧
    (l.quant = 0 → s.hasSublets u h = false →
      ∃ t : State, exec (.leaseExpiry u h) s = .next t ∧
        (t.lease u h).st = (if 0 < l.holds then .deferred else if l.tier = 3 ∧ l.pg = false then .free else .scrub) ∧
        (t.lease u h).esc = 0 ∧ (t.lease u h).lgen = l.lgen ∧
        (t.account l.acct).allow = min ((s.account l.acct).allow + l.esc) (2 ^ 64 - 1) ∧
        (t.account l.acct).spent = (s.account l.acct).spent - l.esc ∧ t.mem = s.mem ∧
        (∀ k, k ≠ h → t.lease u k = s.lease u k))

/-- The life of a lease. -/
def Obligations.LeaseLife : Prop :=
  Claim.TickBoundaries ∧ Claim.LeaseEnds

/-- What the hub's refusals and the scrubber do (R78, R81, R82, R194): a deferred-tick refusal cancels the transfers that hold the lease that it was for, a meter
refusal requests the pre-emption of the task that it was for with cause 2, whose trap is taken, and the scrubber zeroes a contiguous lease's bytes, and only those,
and frees its record. -/
def Claim.RentConsequences : Prop :=
  ∀ (s : State) (u h c : Nat) (d : Debit) (l : Lease),
    (s.debits.find? (fun d => d.granted == some false &&
        (match d.purpose with | .deferredTick a b _ => a == u && b == h | _ => false)) = some d → l = s.lease u h →
      (d.purpose = .deferredTick u h l.lgen → l.st = .deferred →
        exec (.deferredDebitRefusal u h) s =
          .next (State.updLease { s with debits := s.debits.erase d } u h (fun l => { l with cancelled := true }))) ∧
      (d.purpose ≠ .deferredTick u h l.lgen ∨ l.st ≠ .deferred →
        exec (.deferredDebitRefusal u h) s = .next { s with debits := s.debits.erase d })) ∧
    (s.debits.find? (fun d => d.granted == some false && (match d.purpose with | .meter b _ => b == c | _ => false)) = some d →
      (d.purpose = .meter c (s.task c).id → s.unitCores c = [c] → (s.core c).residency = .resident → (s.task c).suspended = false →
        (s.task c).pending.find 0 = none →
        ∃ t : State, exec (.meterRefusal c) s = .next t ∧ t.debits = s.debits.erase d ∧ (t.core c).residency = .resident ∧
          (t.core c).preempt = some 2 ∧ (t.task c).suspended = true ∧ ((t.task c).pending.get 0 {}).cls = 6 ∧
          ((t.task c).pending.get 0 {}).kind = 2 ∧ (t.task c).regs = (s.task c).regs ∧ t.mem = s.mem ∧
          (∀ b, b ≠ c → t.core b = s.core b)) ∧
      (d.purpose ≠ .meter c (s.task c).id → exec (.meterRefusal c) s = .next { s with debits := s.debits.erase d })) ∧
    (u < 265 → l = s.lease u h → l.st = .scrub → l.pg = false → MemInv s →
      ∃ t : State, exec (.scrubComplete u h) s = .next t ∧ (t.lease u h).st = .free ∧ (t.lease u h).freedAt = s.tick ∧
        (∀ p, Memory.read t.mem p = if l.base ≤ p ∧ p < l.base + l.bytes then 0 else Memory.read s.mem p) ∧
        (t.account l.acct).nlease = (s.account l.acct).nlease - 1 ∧ t.cores = s.cores)

/-- A core applies a slot write, once what its operation releases has performed (R18, R23, R128): the slot holds the descriptor, its expiry mark goes, and the translation buffer drops its entries. An expiry mark
that still names the slot's lease is set (R31), and one that comes after the slot was rewritten is discarded. -/
def Claim.SlotWritesAndMarks : Prop :=
  ∀ (s : State) (c slot : Nat) (w : SlotWrite) (m : Mark),
    (c < 4096 → s.slotWrites.find? (fun w => w.core == c && w.slot == slot) = some w → s.anyLive w.after = false →
      ∃ t : State, exec (.slotWriteApply c slot) s = .next t ∧ t.slotWrites = s.slotWrites.erase w ∧ t.mem = s.mem ∧
        (t.core c).table.get slot 0 = w.desc ∧ (t.core c).expired.get slot false = false ∧
        (∀ e ∈ (t.core c).tlb, e.slot ≠ slot) ∧ (∀ n, n ≠ slot → (t.core c).table.get n 0 = (s.core c).table.get n 0)) ∧
    (s.marks.find? (fun m => m.core == c && m.slot == slot) = some m →
      (s.names c m.unit m.lease m.lgen slot = true →
        ∃ t : State, exec (.expiryMark c slot) s = .next t ∧ t.marks = s.marks.erase m ∧ (t.core c).expired.get slot false = true ∧
          (t.core c).table = (s.core c).table ∧ t.mem = s.mem) ∧
      (s.names c m.unit m.lease m.lgen slot = false → exec (.expiryMark c slot) s = .next { s with marks := s.marks.erase m }))


/-- What rent does at the cores. -/
def Obligations.RentEffects : Prop :=
  Claim.RentConsequences ∧ Claim.SlotWritesAndMarks

/-! ### Dispatches, the end of a task, firmware calls and returns -/

/-- The dispatches (R227, R259): a command of one to eight words, read from registers xc on, low half first, enters the queue of the engine named, with its two descriptor
registers and the tokens that the word or its head gives; the dispatch blocks while the queue is full, and a breach of its rules is a reserved-field error. The
firmware context pushes none (R155, assumption 122). -/
def Claim.Dispatches : Prop :=
  ∀ (s : State) (w sg : BitVec 1) (k j : BitVec 4) (a b : BitVec 3) (c : BitVec 5) (head : Word) (n : Nat) (wait sig : Option Nat)
    (i : Instr) (e : Engine),
    (i, e) ∈ [(Instr.dispMx w k sg j a b c, Engine.matrix), (.dispCp w k sg j a b c, .copy), (.dispCl w k sg j a b c, .collective),
      (.dispMl w k sg j a b c, .mule)] →
    head = (s.x c).extractLsb' 0 32 →
    n = 1 + (head.extractLsb' 24 3).toNat + (if head.getLsbD 12 then 1 else 0) + (if head.getLsbD 6 then 1 else 0) →
    wait = (if w = 1 then some k.toNat else if head.getLsbD 22 then some (head.extractLsb' 18 4).toNat else none) →
    sig = (if sg = 1 then some j.toNat else if head.getLsbD 17 then some (head.extractLsb' 13 4).toNat else none) →
    (c ≠ 0 → n ≤ 8 → c.toNat + (n - 1) / 2 ≤ 31 → (w = 1 → head.getLsbD 22 = false ∧ head.extractLsb' 18 4 = 0) →
      (sg = 1 → head.getLsbD 17 = false ∧ head.extractLsb' 13 4 = 0) → s.badParty wait sig = none →
      (s.isFw = true → exec i s = .next s) ∧
      (s.isFw = false → s.queueFull e = false → s.acqIds (engineClass e) = [] →
        ∃ x : Cmd, exec i s = .next (s.pushCmd e x) ∧ x.recA = s.d a ∧ x.recB = s.d b ∧ x.waitTok = wait ∧ x.sigTok = sig ∧
          x.words.length = n ∧ ∀ m, m < n → x.words[m]! =
            (s.x (BitVec.ofNat 5 (c.toNat + m / 2))).extractLsb' (32 * (m % 2)) 32) ∧
      (s.isFw = false → s.queueFull e = true → exec i s = block s (.input (engineNum e)))) ∧
    ((s.was s.cur.core).engine e = s.me.engine e → (s.queueFull e = true ↔ engineDepth e ≤ (s.me.engine e).queue.length)) ∧
    (c = 0 ∨ 8 < n ∨ 31 < c.toNat + (n - 1) / 2 ∨ (w = 1 ∧ head.getLsbD 22 = true) ∨ (sg = 1 ∧ head.getLsbD 17 = true) →
      exec i s = raise (reservedField 4) s)

/-- A push (R97): the command enters the end of its queue under a fresh number, and no register, flag, token or byte of memory changes. -/
def Claim.Pushes : Prop :=
  ∀ (s : State) (e : Engine) (k : Cmd),
    ∃ x : Cmd, ((s.pushCmd e k).me.engine e).queue = (s.me.engine e).queue ++ [x] ∧ x.id = s.nextId ∧ x.words = k.words ∧
      (∀ a ∈ s.transit, a.core = s.cur.core → a.agent = s.cur.agent → a.kind = .store → a.id ∈ x.after) ∧
      (s.pushCmd e k).nextId = s.nextId + 1 ∧ (∀ g, g ≠ e → (s.pushCmd e k).me.engine g = s.me.engine g) ∧
      ((s.pushCmd e k).me.engine e).running = (s.me.engine e).running ∧ (s.pushCmd e k).me.regs = s.me.regs ∧
      (s.pushCmd e k).me.shared = s.me.shared ∧ (s.pushCmd e k).mem = s.mem ∧ (s.pushCmd e k).hub = s.hub ∧
      (∀ c, c ≠ s.cur.core → (s.pushCmd e k).core c = s.core c)

/-- How commands enter the queues of the engines. -/
def Obligations.CommandQueues : Prop :=
  Claim.Dispatches ∧ Claim.Pushes

/-- The end of a task (R149, R159, R160, R267): after its bundle has issued, `EXIT` makes it retire once its work is done; `EXIT.ABANDON` also stops its sequencers and
Mule, and discards the commands that no engine has dequeued with STATUS 0x05. Neither changes a register or memory. The firmware context
ends no task so (R155, assumption 122). -/
def Claim.Exits : Prop :=
  ∀ (s t : State) (c : Nat), c = s.cur.core →
    (s.isFw = false → exec .exit s = .next { s with cur := { s.cur with leave := .exit } } ∧
      exec .exitAbandon s = .next { s with cur := { s.cur with leave := .abandon } }) ∧
    (s.isFw = true → exec .exit s = .next s ∧ exec .exitAbandon s = .next s) ∧
    (∀ l u, s.cur.call = none → s.cur.late = [] → u = { s with cur := { s.cur with leave := l } } →
      u.endBundle = (u.endIssue (s.bundle + 16)).applyLeave c l) ∧
    s.applyLeave c .exit = s.updCore c (fun k => { k with residency := .retiring false }) ∧
    (t = s.applyLeave c .abandon → (t.core c).residency = .retiring true ∧
      (t.core c).task.load.st = .idle ∧ (t.core c).task.compute.st = .idle ∧ (t.core c).task.store.st = .idle ∧
      (t.core c).task.mule.st = .halted ∧
      (∀ e : Engine, ((t.core c).task.engine e).queue = [] ∧ ((t.core c).task.engine e).running =
        ((s.core c).task.engine e).running ++ ((s.core c).task.engine e).queue.map (fun k => { cmd := k, st := .ended 5 0 })) ∧
      (t.core c).task.regs = (s.core c).task.regs ∧ (t.core c).task.shared = (s.core c).task.shared ∧ t.mem = s.mem ∧ t.hub = s.hub ∧
      ∀ b, b ≠ c → t.core b = s.core b)

/-- `FCALL` (R338): the trap of class 7 with the number given as its kind is taken as the bundle ends, by the program with its control sequencer suspended at its
bundle; a number above 16 bits is a reserved-field error. -/
def Claim.FirmwareCalls : Prop :=
  ∀ (s t u : State) (a : BitVec 5),
    (2 ^ 16 ≤ (s.x a).toNat → exec (.fcall a) s = raise (reservedField 2) s) ∧
    ((s.x a).toNat < 2 ^ 16 →
      (∃ t : State, exec (.fcall a) s = .next t ∧ t = { s with cur := t.cur } ∧
        ∃ r, t.cur.call = some r ∧ r.cls = 7 ∧ r.kind = (s.x a).extractLsb' 0 8 ∧ r.seq = seqCode s.cur.agent) ∧
      (exec (.fcall a) s = .next t → s.cur.agent = .control → s.cur.late = [] → s.cur.leave = .none → u = t.endBundle → s.me.pending.find 0 = none → s.me.suspended = false →
        u.me.suspended = true ∧ u.me.ctl.step = s.me.ctl.step ∧ u.me.tstep = s.me.ctl.step ∧ (u.me.pending.get 0 {}).cls = 7 ∧
        u.me.ctl.pipe = []))

/-- `ERET` (R149, R193, R339) by the firmware context: after its bundle it ends the trap of the agent it names, whose pending record goes, whose results go back into its pipeline, and
which goes on at xa, or rests in IDLE; a program that issues it, and an agent with no trap, meet a reserved-field error. -/
def Claim.TrapReturns : Prop :=
  ∀ (s t : State) (a b : BitVec 5) (c : Nat) (v : DWord) (idle : Bool),
    c = s.cur.core →
    (s.isFw = false → exec (.eret a b) s = raise (reservedField 12) s) ∧
    (s.isFw = true → (s.x b).toNat = 0 → s.me.suspended = true → (s.x a).toNat % 16 = 0 →
      exec (.eret a b) s = .next { s with cur := { s.cur with leave := .eret .control (s.x a) false } }) ∧
    (s.isFw = true → (s.x b).toNat % 256 = 2 → (s.x b).toNat < 2 ^ 9 → s.me.compute.st = .faulted →
      exec (.eret a b) s = .next { s with cur := { s.cur with leave := .eret .compute (s.x a) (decide (256 ≤ (s.x b).toNat)) } }) ∧
    (s.isFw = true → (s.x b).toNat = 0 → s.me.suspended = false → exec (.eret a b) s = raise (reservedField 3) s) ∧
    (s.me.heldFaults = [] → s.me.ctl.snapRaw = [] → (s.core c).preempt = none → t = s.applyLeave c (.eret .control v false) →
      (t.task c).suspended = false ∧ (t.task c).pending = s.me.pending.erase 0 ∧
      (t.task c).ctl.st = .run ∧ (t.task c).ctl.step = v ∧ (t.task c).ctl.pipe = s.me.ctl.snap ∧ (t.task c).ctl.snap = [] ∧
      (t.task c).regs = s.me.regs ∧ (t.task c).shared = s.me.shared ∧ t.mem = s.mem ∧ (∀ n, n ≠ c → t.core n = s.core n)) ∧
    (s.me.heldFaults = [] → s.me.compute.snapRaw = [] → t = s.applyLeave c (.eret .compute v idle) →
      (t.task c).pending = s.me.pending.erase 2 ∧ (t.task c).compute.step = v ∧
      (t.task c).compute.st = (if idle then .idle else .run) ∧ (t.task c).compute.pipe = s.me.compute.snap ∧
      (t.task c).ctl = s.me.ctl ∧ (t.task c).regs = s.me.regs ∧ t.mem = s.mem)

/-- `PINVAL` and its completion (R24, R340): every core that holds the launch's table drops its buffered entries for the pages of the range; the invalidation completes when the accesses
that used one have performed, and answers 0. -/
def Claim.PageInvalidations : Prop :=
  ∀ (s : State) (d a b : BitVec 5) (x y z : Nat),
    x = (s.x a).toNat → y = (s.x b).toNat → z = (s.x (b + 1)).toNat →
    (s.isFw = false → exec (.pinval d a b) s = raise (reservedField 12) s) ∧
    (s.isFw = true → s.cur.core < 4096 → x / 2 ^ 6 % 2 ^ 26 = 0 → y % 65536 = 0 → z % 65536 = 0 →
      (∃ e ∈ s.cores, e.2.residency ≠ .free ∧ e.2.task.id.vf = s.me.id.vf ∧ e.2.task.id.lid = BitVec.ofNat 32 (x / 2 ^ 32)) →
      ∃ t : State, exec (.pinval d a b) s = .next t ∧ t.mem = s.mem ∧
        (∀ c, (s.core c).holdsTable s.me.id.vf (BitVec.ofNat 32 (x / 2 ^ 32)) = true → (∃ e ∈ s.cores, e.1 = c ∧ e.2 = s.core c) →
          ∀ e ∈ (t.core c).tlb, ¬ (e.slot = x % 64 ∧ y / 65536 ≤ e.page ∧ e.page < y / 65536 + z / 65536)) ∧
        ∃ i, t.invals = s.invals ++ [i] ∧ i.slot = x % 64 ∧ i.first = y / 65536 ∧ i.length = z / 65536 ∧
          i.reply = some (s.cur.core, .fwx d.toNat)) ∧
    (s.isFw = true → s.cur.core < 4096 → x / 2 ^ 6 % 2 ^ 26 = 0 → y % 65536 = 0 → z % 65536 = 0 →
      (∀ e ∈ s.cores, (e.2.residency = .free ∧ e.2.task.waitPage = none) ∨ e.2.task.id.vf ≠ s.me.id.vf ∨ e.2.task.id.lid ≠ BitVec.ofNat 32 (x / 2 ^ 32)) →
      ∃ u : State, exec (.pinval d a b) s = .next (u.putX d 1 1) ∧ u.mem = s.mem ∧ u.cores = s.cores ∧ u.invals = s.invals) ∧
    (∀ n i c k, s.invals[n]? = some i → s.anyLive i.after = false → i.packet = none → i.reply = some (c, .fwx k) → k ≠ 0 →
      ∃ t : State, exec (.invalidationComplete n) s = .next t ∧ t.invals = s.invals.eraseIdx n ∧ (t.core c).fw.x.get k 0 = 0 ∧
        t.mem = s.mem ∧ ∀ x ∈ t.transit, x.migWait = true → i.coversAccess x = true → x.migGo = true)


/-- Exits, calls of firmware and returns from it. -/
def Obligations.TaskCalls : Prop :=
  Claim.Exits ∧ Claim.FirmwareCalls ∧ Claim.TrapReturns ∧ Claim.PageInvalidations

/-! ### Vector micro-orders -/

/-- A typed vector micro-order has taken effect: for its destination, a result whose enabled lanes of width `w` are `f`, to land after `lat` cycles and to set the status
bits that an enabled lane sets (R151, R270). -/
def LaneResult (s : State) (i : Instr) (o : VOp) (w lat : Nat) (f : Nat → BitVec w × BitVec 5) : Prop :=
  ∃ (v : VReg) (st : BitVec 5),
    exec i s = .next (State.ageHeld ((s.vStart o).2.putV (s.vStart o).1 lat v (s.me.regs.mask o.mask.toNat) (w / 8) st)) ∧
    (∀ n, n < 2048 / w → (s.me.regs.mask o.mask.toNat).getLsbD n = true → lane v w n = (f n).1) ∧
    (∀ k, st.getLsbD k = true ↔ ∃ n, n < 2048 / w ∧ (s.me.regs.mask o.mask.toNat).getLsbD n = true ∧ (f n).2.getLsbD k = true)

/-- The vector micro-orders with row and queue operands, each with its operands and the condition on its types and fields under which it is no reserved use. -/
def Claim.VectorForms (s : State) (d a b : BitVec 6) (h j g e u : BitVec 1) (m c f p : BitVec 3) (t r : BitVec 2) (k : BitVec 4) (l : BitVec 7) :
    List (Instr × VOp × Bool) :=
  let o := op2 d a b h j m g
  let q := op1 d a h m g
  let int : Bool := s.laneBytes == (if e = 0 then 4 else 2)
  let typed : Bool := s.laneBytes == (laneType t).bytes
  [(.vmov d a h j m g, q, true), (.vrd d a 0 h j m g, q, true), (.vrd d a 1 h j m g, { q with rowA := true }, true), (.vwr d a 0 h j m g, q, true),
   (.vwr d a 1 h j m g, q, true), (.vsel d a b h j m g, o, true), (.vaddI e d a b h j m g, o, int), (.vaddSat e d a b h j m g, o, int),
   (.vsubI e d a b h j m g, o, int), (.vsubSat e d a b h j m g, o, int), (.vmulI e d a b h j m g, o, int), (.vmulSat e d a b h j m g, o, int),
   (.vminI e d a b h j m g, o, int), (.vmaxI e d a b h j m g, o, int), (.vand e d a b h j m g, o, int), (.vor e d a b h j m g, o, int),
   (.vxor e d a b h j m g, o, int), (.vshl e d a b h j m g, o, int), (.vshr e d a b h j m g, o, int), (.vsra e d a b h j m g, o, int),
   (.vceqI e d a b h j m g, { o with d := none }, int), (.vcltI e d a b h j m g, { o with d := none }, int),
   (.vaddF t r d a b h j m g, o, typed), (.vsubF t r d a b h j m g, o, typed), (.vmulF t r d a b h j m g, o, typed),
   (.vfma t r d a b h j m g, { o with dsrc := true }, typed), (.vminF t d a b h j m g, o, typed), (.vmaxF t d a b h j m g, o, typed),
   (.vceqF t d a b h j m g, { o with d := none }, typed), (.vcltF t d a b h j m g, { o with d := none }, typed),
   (.vcvt c d a r u f h j m g, q, true), (.vpack d a r u f h j m g, { q with dsrc := true }, decide ((fmtOf f.toNat).bytes < s.laneFmt.bytes)),
   (.vunpk d a p f h j m g, q, decide ((fmtOf f.toNat).bytes < s.laneFmt.bytes ∧ s.laneFmt.isInt = (fmtOf f.toNat).isInt ∧
     p.toNat < s.laneFmt.bytes / (fmtOf f.toNat).bytes)),
   (.vexp2 t d a h m g, q, typed), (.vrcp t d a h m g, q, typed), (.vrsq t d a h m g, q, typed), (.vrsum t d a h m g, q, typed),
   (.vrmax t d a h m g, q, typed), (.vrmin t d a h m g, q, typed), (.vsnap d a k m g, op1 d a 0 m g, true),
   (.vbcast d k m g, { d := some d, mask := m, gate := g == 1 }, true), (.vlane k a l g, { a := some a, gate := g == 1 }, decide (l.toNat < s.vl))]

/-- What holds a vector micro-order with row and queue operands back (R231, R232, R271 to R273, R276): one whose gate is off counts for the hold windows and does nothing else; an operand
row outside the held slots is a bound error, and a destination in a slot that a nest owns, or a row there that LU clears, a matrix fault; a blocking queue operand that cannot move its
entry blocks it, and a non-blocking one makes it write m7 all false. -/
def Obligations.VectorIssue : Prop :=
  ∀ (s : State) (d a b : BitVec 6) (h j g e u : BitVec 1) (m c f p : BitVec 3) (t r : BitVec 2) (k : BitVec 4) (l : BitVec 7) (i : Instr) (o : VOp),
    (i, o, true) ∈ Claim.VectorForms s d a b h j g e u m c f p t r k l →
    (g = 1 → s.stageOn = false → exec i s = .next s.ageHeld) ∧
    ((g = 1 → s.stageOn = true) →
      (s.rowBreach o.d = true → exec i s = raise { cls := 1, kind := 2, opf := 1 } s) ∧
      (s.rowBreach o.d = false → s.rowBreach o.a = true → exec i s = raise { cls := 1, kind := 2, opf := 2 } s) ∧
      (s.rowBreach o.d = false → s.rowBreach o.a = false → s.rowBreach o.b = true → exec i s = raise { cls := 1, kind := 2, opf := 3 } s) ∧
      (s.rowBreach o.d = false → s.rowBreach o.a = false → s.rowBreach o.b = false →
        (s.rowOwned o.d = true → exec i s = raise { cls := 5, kind := 1, opf := 1 } s) ∧
        (s.rowOwned o.d = false →
          (o.rowA = true → s.rowOwned o.a = true → exec i s = raise { cls := 5, kind := 1, opf := 2 } s) ∧
          ((o.rowA = true → s.rowOwned o.a = false) →
            (s.queuesReady o false = false → exec i s = block s (s.queueCause o)) ∧
            (s.queuesReady o false = true → s.queuesReady o true = false → exec i s = .next (s.putM7 false).ageHeld)))))

/-- The moves and selects (R276, R286, R287): D takes A, lane by lane under the mask; with LU the moved lanes of the source row or register become zero; a select takes A's lane where the
mask is set and B's elsewhere; a lane and a scalar move both ways. -/
def Claim.VectorMoves : Prop :=
  ∀ (s : State) (d a b : BitVec 6) (h j g : BitVec 1) (m : BitVec 3) (c : BitVec 4) (ln : BitVec 7) (o : VOp) (k : Mask) (x : VReg),
    o = op1 d a h m g → k = s.me.regs.mask m.toNat → x = s.vsrc (some a) →
    (VReady s o → exec (.vmov d a h j m g) s = .next (State.ageHeld ((s.vStart o).2.putV (s.vStart o).1 2 x k s.laneBytes)) ∧
      exec (.vrd d a 0 h j m g) s = .next (State.ageHeld ((s.vStart o).2.putV (s.vStart o).1 2 x k s.laneBytes)) ∧
      exec (.vwr d a 0 h j m g) s = .next (State.ageHeld ((s.vStart o).2.putV (s.vStart o).1 2 x k s.laneBytes)) ∧
      exec (.vwr d a 1 h j m g) s = .next (State.ageHeld (((s.vStart o).2.putV (s.vStart o).1 2 x k s.laneBytes).putV
        (.v (s.me.regs.vphys a.toNat)) 2 0 k s.laneBytes))) ∧
    (VReady s { o with rowA := true } → exec (.vrd d a 1 h j m g) s = .next (State.ageHeld
      (((s.vStart o).2.putV (s.vStart o).1 2 x k s.laneBytes).putV (.row (s.me.regs.windowRow a)) 2 0 k s.laneBytes))) ∧
    (VReady s (op2 d a b h j m g) →
      ∃ v, exec (.vsel d a b h j m g) s = .next (State.ageHeld ((s.vStart (op2 d a b h j m g)).2.putV (s.vStart (op2 d a b h j m g)).1 2 v
          (BitVec.allOnes 128) s.laneBytes)) ∧
        ∀ n, n < s.vl → lane v (8 * s.laneBytes) n =
          if k.getLsbD n then lane x (8 * s.laneBytes) n else lane (s.vsrc (some b)) (8 * s.laneBytes) n) ∧
    (VReady s { d := some d, mask := m, gate := g == 1 } →
      ∃ v, exec (.vbcast d c m g) s = .next (State.ageHeld ((s.vStart { d := some d, mask := m, gate := g == 1 }).2.putV
          (s.vStart { d := some d, mask := m, gate := g == 1 }).1 2 v k s.laneBytes)) ∧
        ∀ n, n < s.vl → lane v (8 * s.laneBytes) n = (s.sreg c).setWidth (8 * s.laneBytes)) ∧
    (VReady s { a := some a, gate := g == 1 } → ln.toNat < s.vl →
      exec (.vlane c a ln g) s = .next (State.ageHeld ((s.vStart { a := some a, gate := g == 1 }).2.putWord (.s c.toNat) 2
        (BitVec.setWidth 64 (lane x (8 * s.laneBytes) ln.toNat))))) ∧
    (VReady s (op1 d a 0 m g) →
      ∃ n, exec (.vsnap d a c m g) s = .next (State.ageHeld (((s.vStart (op1 d a 0 m g)).2.putV (s.vStart (op1 d a 0 m g)).1 4 x k
          s.laneBytes).putWord (.s c.toNat) 4 (BitVec.ofNat 64 n))) ∧
        ((s.was s.cur.core).mx.running = [] → n = 0xFFFFFFFF) ∧
        (∀ x st, (s.was s.cur.core).nestHeld = some (x, st) →
          n = if ntOwns x.nt (s.me.regs.windowRow a / 64) then min st.done 0xFFFFFFFE else 0xFFFFFFFF))

/-- The mask operations (R277): m[D] is the function of m[A] and m[B], bit by bit; a result for m0 is discarded; their words, and the bits that must be zero. -/
def Claim.MaskOperations : Prop :=
  ∀ (s : State) (d a b : BitVec 3) (g : BitVec 1) (x y : Mask) (done : Mask → State),
    x = s.me.regs.mask a.toNat → y = s.me.regs.mask b.toNat → (g = 1 → s.stageOn = true) →
    (∀ v, done v = State.ageHeld (s.put { target := .m d.toNat, data := v.setWidth 2048, left := 2 })) →
    exec (.mand d a b g) s = .next (done (x &&& y)) ∧ exec (.mor d a b g) s = .next (done (x ||| y)) ∧
    exec (.mxor d a b g) s = .next (done (x ^^^ y)) ∧ exec (.mandn d a b g) s = .next (done (x &&& ~~~ y)) ∧
    (encode (.mand d a b g)).toNat = 4 * 2 ^ 24 + d.toNat * 2 ^ 18 + a.toNat * 2 ^ 12 + b.toNat * 2 ^ 6 + g.toNat ∧
    (encode (.mor d a b g)).toNat = 5 * 2 ^ 24 + d.toNat * 2 ^ 18 + a.toNat * 2 ^ 12 + b.toNat * 2 ^ 6 + g.toNat ∧
    (encode (.mxor d a b g)).toNat = 6 * 2 ^ 24 + d.toNat * 2 ^ 18 + a.toNat * 2 ^ 12 + b.toNat * 2 ^ 6 + g.toNat ∧
    (encode (.mandn d a b g)).toNat = 7 * 2 ^ 24 + d.toNat * 2 ^ 18 + a.toNat * 2 ^ 12 + b.toNat * 2 ^ 6 + g.toNat ∧
    (∀ (w : Word) (j : Instr), 4 ≤ w.toNat / 2 ^ 24 → w.toNat / 2 ^ 24 ≤ 7 →
      w.toNat / 2 % 2 ^ 5 ≠ 0 ∨ w.toNat / 2 ^ 9 % 2 ^ 3 ≠ 0 ∨ w.toNat / 2 ^ 15 % 2 ^ 3 ≠ 0 ∨ w.toNat / 2 ^ 21 % 2 ^ 3 ≠ 0 → decodeIn .vector w ≠ .ok j) ∧
    (∀ (c : Nat) (v : Mask), (State.land s c { target := .m d.toNat, data := v.setWidth 2048 }).task c =
      (if d = 0 then s.task c else { s.task c with regs := { (s.task c).regs with m := (s.task c).regs.m.set d.toNat v } }))

/-- Vector moves and mask operations. -/
def Obligations.VectorMovesAndMasks : Prop :=
  Claim.VectorMoves ∧ Claim.MaskOperations

/-- The integer micro-orders (R278): each enabled lane of D is the function of A's and B's lanes, modulo 2^w, and sets no status. -/
def Claim.VectorIntegers : Prop :=
  ∀ (s : State) (t : BitVec 1) (d a b : BitVec 6) (h j g : BitVec 1) (m : BitVec 3) (o : VOp) (w : Nat) (x y : Nat → BitVec w),
    o = op2 d a b h j m g → w = (if t = 0 then 32 else 16) → 8 * s.laneBytes = w → VReady s o →
    x = lane (s.vsrc (some a)) w → y = lane (s.vsrc (some b)) w →
    LaneResult s (.vaddI t d a b h j m g) o w 2 (fun n => (x n + y n, 0)) ∧
    LaneResult s (.vsubI t d a b h j m g) o w 2 (fun n => (x n - y n, 0)) ∧
    LaneResult s (.vmulI t d a b h j m g) o w 2 (fun n => (x n * y n, 0)) ∧
    LaneResult s (.vminI t d a b h j m g) o w 2 (fun n => (if (x n).toInt ≤ (y n).toInt then x n else y n, 0)) ∧
    LaneResult s (.vmaxI t d a b h j m g) o w 2 (fun n => (if (x n).toInt ≤ (y n).toInt then y n else x n, 0)) ∧
    LaneResult s (.vand t d a b h j m g) o w 2 (fun n => (x n &&& y n, 0)) ∧
    LaneResult s (.vor t d a b h j m g) o w 2 (fun n => (x n ||| y n, 0)) ∧
    LaneResult s (.vxor t d a b h j m g) o w 2 (fun n => (x n ^^^ y n, 0)) ∧
    LaneResult s (.vshl t d a b h j m g) o w 2 (fun n => (x n <<< ((y n).toNat % w), 0)) ∧
    LaneResult s (.vshr t d a b h j m g) o w 2 (fun n => (x n >>> ((y n).toNat % w), 0)) ∧
    LaneResult s (.vsra t d a b h j m g) o w 2 (fun n => ((x n).sshiftRight ((y n).toNat % w), 0))

/-- The saturating integer micro-orders (R134, R135, R278): each enabled lane is the exact result held to the range of the lane, and SAT is set when one was. -/
def Claim.VectorSaturation : Prop :=
  ∀ (s : State) (t : BitVec 1) (d a b : BitVec 6) (h j g : BitVec 1) (m : BitVec 3) (o : VOp) (w : Nat) (x y : Nat → Int)
    (sat : Int → BitVec w × BitVec 5),
    o = op2 d a b h j m g → w = (if t = 0 then 32 else 16) → 8 * s.laneBytes = w → VReady s o →
    x = (fun n => (lane (s.vsrc (some a)) w n).toInt) → y = (fun n => (lane (s.vsrc (some b)) w n).toInt) →
    sat = (fun v => if v < -(2 ^ (w - 1)) then (BitVec.ofInt w (-(2 ^ (w - 1))), 16)
      else if 2 ^ (w - 1) ≤ v then (BitVec.ofInt w (2 ^ (w - 1) - 1), 16) else (BitVec.ofInt w v, 0)) →
    LaneResult s (.vaddSat t d a b h j m g) o w 2 (fun n => sat (x n + y n)) ∧
    LaneResult s (.vsubSat t d a b h j m g) o w 2 (fun n => sat (x n - y n)) ∧
    LaneResult s (.vmulSat t d a b h j m g) o w 2 (fun n => sat (x n * y n))

/-- The comparisons (R278, R280): bit i of m[D] says whether the relation holds of lane i; the mask keeps its bits where the operation's mask is off, and its bits from VL on are cleared. -/
def Claim.VectorCompares : Prop :=
  ∀ (s : State) (t : BitVec 1) (u : BitVec 2) (d a b : BitVec 6) (h j g : BitVec 1) (m : BitVec 3) (o : VOp) (w : Nat) (x y : Nat → BitVec w)
    (k : Mask),
    o = { op2 d a b h j m g with d := none } → w = 8 * s.laneBytes → VReady s o →
    x = lane (s.vsrc (some a)) w → y = lane (s.vsrc (some b)) w → k = s.me.regs.mask m.toNat →
    (∀ (i : Instr) (lat : Nat) (r : BitVec w → BitVec w → Bool),
      (w = (if t = 0 then 32 else 16) ∧ lat = 2 ∧ i = .vceqI t d a b h j m g ∧ r = (fun p q => p == q)) ∨
      (w = (if t = 0 then 32 else 16) ∧ lat = 2 ∧ i = .vcltI t d a b h j m g ∧ r = (fun p q => decide (p.toInt < q.toInt))) ∨
      ((laneType u).bytes = s.laneBytes ∧ lat = 4 ∧ i = .vceqF u d a b h j m g ∧
        r = (fun p q => Num.eq (Num.ofBits (laneType u) p.toNat) (Num.ofBits (laneType u) q.toNat))) ∨
      ((laneType u).bytes = s.laneBytes ∧ lat = 4 ∧ i = .vcltF u d a b h j m g ∧
        r = (fun p q => Num.lt (Num.ofBits (laneType u) p.toNat) (Num.ofBits (laneType u) q.toNat))) →
      ∃ (v : VReg) (e : Mask), exec i s = .next (State.ageHeld
          ((s.vStart o).2.put { target := .m d.toNat, data := v, left := lat, mask := e })) ∧
        (∀ n, n < s.vl → e.getLsbD n = k.getLsbD n ∧ v.getLsbD n = r (x n) (y n)) ∧
        (∀ n, s.vl ≤ n → n < 128 → e.getLsbD n = true ∧ v.getLsbD n = false))

/-- Integer vector arithmetic and compares. -/
def Obligations.VectorIntegerArithmetic : Prop :=
  Claim.VectorIntegers ∧ Claim.VectorSaturation ∧ Claim.VectorCompares

/-- The floating-point micro-orders (R134, R135, R279, R280): each enabled lane is the exact result rounded once to the lane's type, with the status that this sets; minimum and maximum set none. -/
def Claim.VectorFloats : Prop :=
  ∀ (s : State) (t r : BitVec 2) (d a b : BitVec 6) (h j g : BitVec 1) (m : BitVec 3) (o : VOp) (ty : NumFmt) (w : Nat) (q : RoundMode)
    (x y : Nat → Nat),
    o = op2 d a b h j m g → ty = laneType t → w = 8 * ty.bytes → ty.bytes = s.laneBytes → q = roundMode r.toNat →
    x = (fun n => (lane (s.vsrc (some a)) w n).toNat) → y = (fun n => (lane (s.vsrc (some b)) w n).toNat) →
    (VReady s o →
      LaneResult s (.vaddF t r d a b h j m g) o w 4 (fun n =>
        (BitVec.ofNat w (roundOp ty ((Num.ofBits ty (x n)).add (Num.ofBits ty (y n)) q) q false).1,
         (roundOp ty ((Num.ofBits ty (x n)).add (Num.ofBits ty (y n)) q) q false).2)) ∧
      LaneResult s (.vsubF t r d a b h j m g) o w 4 (fun n =>
        (BitVec.ofNat w (roundOp ty ((Num.ofBits ty (x n)).add (Num.ofBits ty (y n)).neg q) q false).1,
         (roundOp ty ((Num.ofBits ty (x n)).add (Num.ofBits ty (y n)).neg q) q false).2)) ∧
      LaneResult s (.vmulF t r d a b h j m g) o w 4 (fun n =>
        (BitVec.ofNat w (roundOp ty ((Num.ofBits ty (x n)).mul (Num.ofBits ty (y n))) q false).1,
         (roundOp ty ((Num.ofBits ty (x n)).mul (Num.ofBits ty (y n))) q false).2)) ∧
      LaneResult s (.vminF t d a b h j m g) o w 4 (fun n => (BitVec.ofNat w (fltMin ty (x n) (y n)), 0)) ∧
      LaneResult s (.vmaxF t d a b h j m g) o w 4 (fun n => (BitVec.ofNat w (fltMax ty (x n) (y n)), 0))) ∧
    (VReady s { o with dsrc := true } →
      LaneResult s (.vfma t r d a b h j m g) { o with dsrc := true } w 4 (fun n =>
        (BitVec.ofNat w (fltFma ty q (lane (s.vsrc (some d)) w n).toNat (x n) (y n)).1,
         (fltFma ty q (lane (s.vsrc (some d)) w n).toNat (x n) (y n)).2)))

/-- The conversions (R281 to R283): elements of one width in place; lanes narrowed into the top of D, whose other bytes move down; one part of A widened. -/
def Claim.VectorConversions : Prop :=
  ∀ (s : State) (c f p : BitVec 3) (d a : BitVec 6) (r : BitVec 2) (u h j g : BitVec 1) (m : BitVec 3) (o : VOp) (src dst : NumFmt) (q : RoundMode),
    o = op1 d a h m g → q = roundMode r.toNat →
    (src = fmtOf c.toNat → dst = fmtOf f.toNat → src.bytes = dst.bytes → 2 ≤ src.bytes → VReady s o →
      LaneResult s (.vcvt c d a r u f h j m g) o (8 * src.bytes) 3 (fun n =>
        (BitVec.ofNat _ (convert src dst q (u == 1) (lane (s.vsrc (some a)) (8 * src.bytes) n).toNat).1,
         (convert src dst q (u == 1) (lane (s.vsrc (some a)) (8 * src.bytes) n).toNat).2))) ∧
    (src = fmtOf c.toNat → dst = fmtOf f.toNat → src.bytes = 1 → dst.bytes = 1 → VReady s o →
      ∃ (v : VReg) (st : BitVec 5),
        exec (.vcvt c d a r u f h j m g) s = .next (State.ageHeld ((s.vStart o).2.putV (s.vStart o).1 3 v (s.me.regs.mask m.toNat) 2 st)) ∧
        ∀ n, n < 256 → (s.me.regs.mask m.toNat).getLsbD (n / 2) = true → lane v 8 n =
          BitVec.ofNat 8 (convert src dst q (u == 1) (lane (s.vsrc (some a)) 8 n).toNat).1) ∧
    (src = s.laneFmt → dst = fmtOf f.toNat → dst.bytes < src.bytes → VReady s { o with dsrc := true } →
      ∃ (v : VReg) (st : BitVec 5),
        exec (.vpack d a r u f h j m g) s = .next (State.ageHeld ((s.vStart { o with dsrc := true }).2.putV (s.vStart { o with dsrc := true }).1 3 v
          (BitVec.allOnes 128) 0 st)) ∧
        (∀ n, n < 256 - s.vl * dst.bytes → lane v 8 n = lane (s.vsrc (some d)) 8 (n + s.vl * dst.bytes)) ∧
        (∀ n, n < s.vl → (s.me.regs.mask m.toNat).getLsbD n = true →
          v.extractLsb' (8 * (256 - s.vl * dst.bytes) + 8 * dst.bytes * n) (8 * dst.bytes) =
            BitVec.ofNat _ (convert src dst q (u == 1) (lane (s.vsrc (some a)) (8 * src.bytes) n).toNat).1)) ∧
    (src = s.laneFmt → dst = fmtOf f.toNat → src.bytes ≤ dst.bytes → exec (.vpack d a r u f h j m g) s = raise (reservedField 3) s) ∧
    (dst = s.laneFmt → src = fmtOf f.toNat → src.bytes < dst.bytes → src.isInt = dst.isInt → p.toNat < dst.bytes / src.bytes → VReady s o →
      LaneResult s (.vunpk d a p f h j m g) o (8 * dst.bytes) 3 (fun n =>
        (BitVec.ofNat _ (widen src dst ((s.vsrc (some a)).extractLsb' (8 * (p.toNat * s.vl * src.bytes) + 8 * src.bytes * n) (8 * src.bytes)).toNat), 0)))

/-- The exponent unit and the reductions (R274, R284, R285): a lane function rounded once to the lane's type, whose 16-bit form takes a second cycle; a reduction of the
lanes that the mask lets take part, in lane 0 of D with the other lanes zero. The value of the power of two is taken to 192 bits and a tail before it is rounded (assumption 10). -/
def Claim.VectorSpecials : Prop :=
  ∀ (s : State) (t : BitVec 2) (d a : BitVec 6) (h g : BitVec 1) (m : BitVec 3) (o : VOp) (ty : NumFmt) (w : Nat) (x : Nat → Nat) (k : Mask)
    (l : List Nat),
    o = op1 d a h m g → ty = laneType t → w = 8 * ty.bytes → ty.bytes = s.laneBytes → VReady s o → k = s.me.regs.mask m.toNat →
    x = (fun n => (lane (s.vsrc (some a)) w n).toNat) → l = ((List.range (2048 / w)).filter (fun n => k.getLsbD n)).map x →
    (∀ (i : Instr) (f : Nat → Nat × BitVec 5),
      (i, f) ∈ [(Instr.vexp2 t d a h m g, fun v => roundOp ty (numExp2 (Num.ofBits ty v), false) .nearestEven false),
        (.vrcp t d a h m g, fun v => roundOp ty (numRcp (Num.ofBits ty v), false) .nearestEven false),
        (.vrsq t d a h m g, fun v => roundOp ty (numRsq (Num.ofBits ty v)) .nearestEven false)] →
      (ty.bytes = 4 → LaneResult s i o w 8 (fun n => (BitVec.ofNat w (f (x n)).1, (f (x n)).2))) ∧
      (ty.bytes = 2 → ∃ (v : VReg) (st : BitVec 5), exec i s = .next (State.ageHeld (State.endCycle
          ((s.vStart o).2.putV (s.vStart o).1 9 v k 2 st) s.cur.core s.cur.agent)) ∧
        ∀ n, n < 128 → k.getLsbD n = true → lane v w n = BitVec.ofNat w (f (x n)).1)) ∧
    (∀ (i : Instr) (f : Nat × BitVec 5),
      (i, f) ∈ [(Instr.vrsum t d a h m g, reduceSum ty l), (.vrmax t d a h m g, (reduceMax ty l, 0)), (.vrmin t d a h m g, (reduceMin ty l, 0))] →
      ∃ v : VReg, exec i s = .next (State.ageHeld ((s.vStart o).2.putV (s.vStart o).1 6 v (BitVec.allOnes 128) 0 f.2)) ∧
        lane v w 0 = BitVec.ofNat w f.1 ∧ ∀ n, 0 < n → n < 2048 / w → lane v w n = 0)

/-- Floating-point vector arithmetic, conversions and the exponent unit. -/
def Obligations.VectorFloatArithmetic : Prop :=
  Claim.VectorFloats ∧ Claim.VectorConversions ∧ Claim.VectorSpecials

/-- The scalar and control micro-orders of the compute sequencer (R147, R148, R287 to R289): results of one cycle for s registers, the window base and the mode, the rotation, the halt,
and the branches by steps. -/
def Obligations.VectorControl : Prop :=
  ∀ (s : State) (d c b : BitVec 4) (i : BitVec 16) (k : BitVec 2) (v : Nat) (next : DWord),
    v = (s.sreg c + i.signExtend 32).toNat → next = s.bundle + i.signExtend 64 →
    exec (.saddi d c i) s = .next (s.putWord (.s d.toNat) 1 ((s.sreg c + i.signExtend 32).setWidth 64)).ageHeld ∧
    exec (.sadd d c b) s = .next (s.putWord (.s d.toNat) 1 ((s.sreg c + s.sreg b).setWidth 64)).ageHeld ∧
    exec (.smovi d i) s = .next (s.putWord (.s d.toNat) 1 ((i.signExtend 32).setWidth 64)).ageHeld ∧
    exec (.smoviHi d i) s = .next (State.ageHeld (s.put
      { target := .s d.toNat, data := (i ++ (0 : BitVec 16)).setWidth 2048, mask := 0xFFFF0000, left := 1 })) ∧
    (v % 16 = 0 → v ≤ 9200 → v / 64 < s.me.id.nslot → (v + 15) / 64 < s.me.id.nslot →
      exec (.vsetwb c i) s = .next (s.updRegs s.cur.core (fun r => { r with vwb := v })).ageHeld) ∧
    (v % 16 ≠ 0 ∨ 9200 < v → exec (.vsetwb c i) s = raise (reservedField 4) s) ∧
    exec (.vsetacc k) s = .next (s.updRegs s.cur.core (fun r => { r with mode := k })).ageHeld ∧
    exec .vhalt s = .next (s.updMe (fun t => { t with compute := { t.compute with st := .halted } })).ageHeld ∧
    exec (.vstg b) s = .next (State.ageHeld (s.put { target := .s 15, data := (b ++ (0 : BitVec 16)).setWidth 2048, mask := 0xF0000, left := 1 })) ∧
    (∀ x y : State, x = s.updRegs s.cur.core (fun r => { r with vrb := r.vrb + 15 }) →
      y = x.put { target := .s 15, data := (s.sreg 15 <<< 1 ||| (if s.sreg c = 0 then 0 else 1)).setWidth 2048, mask := 0xFFFF, left := 1 } →
      exec (.vrot c) s = .next (if s.sreg c = 0 then y else y.putWord (.s c.toNat) 1 ((s.sreg c - 1).setWidth 64)).ageHeld) ∧
    (∀ n : BitVec 6, 16 ≤ n.toNat → n.toNat ≤ 30 → ∀ t : State, t.me.regs = { s.me.regs with vrb := s.me.regs.vrb + 15 } →
      t.vsrc (some (n + 1)) = s.vsrc (some n)) ∧
    (encode (.vrot c)).toNat = 0xC4 * 2 ^ 24 + c.toNat * 2 ^ 16 ∧ (encode (.vstg b)).toNat = 0xC5 * 2 ^ 24 + b.toNat ∧
    (∀ w : Word, decodeIn .vector w ≠ .ok (.vrot 15)) ∧
    (∀ (w : Word) (j : Instr), w.toNat / 2 ^ 24 = 0xC4 → w.toNat % 2 ^ 16 ≠ 0 ∨ w.toNat / 2 ^ 20 % 2 ^ 4 ≠ 0 → decodeIn .vector w ≠ .ok j) ∧
    (∀ (w : Word) (j : Instr), w.toNat / 2 ^ 24 = 0xC5 → w.toNat / 2 ^ 4 % 2 ^ 20 ≠ 0 → decodeIn .vector w ≠ .ok j) ∧
    exec (.vjmp i) s = .next (s.jump next).ageHeld ∧
    exec (.vbnz c i) s = .next (if s.sreg c = 0 then s else s.jump next).ageHeld ∧
    (s.sreg d = 1 → exec (.vloop d i) s = .next (s.putWord (.s d.toNat) 1 0).ageHeld) ∧
    (s.sreg d ≠ 1 → exec (.vloop d i) s = .next (State.ageHeld ((s.putWord (.s d.toNat) 1 ((s.sreg d - 1).setWidth 64)).jump next)))


/-! ### Access micro-orders -/

/-- The address arithmetic and branches of an access sequencer (R305 to R307): a result of one cycle for an a register, its word, and the bits that must be zero; the branches by steps; the halt, which waits, as does every
micro-order that writes more than a registers, the step counter or queues, for the load sequencer's far loads (R199). -/
def Claim.AccessArithmetic : Prop :=
  ∀ (s : State) (d b i : BitVec 4) (m : BitVec 18) (n : BitVec 6) (o : BitVec 16) (next : DWord),
    next = s.bundle + o.signExtend 64 →
    exec .anop s = .next s ∧
    exec (.aaddi d b m) s = .next (s.putWord (s.aTarget d) 1 (s.a b + m.signExtend 64)) ∧
    exec (.aadd d b i) s = .next (s.putWord (s.aTarget d) 1 (s.a b + s.a i)) ∧
    exec (.asub d b i) s = .next (s.putWord (s.aTarget d) 1 (s.a b - s.a i)) ∧
    exec (.aslli d b n) s = .next (s.putWord (s.aTarget d) 1 (s.a b <<< n.toNat)) ∧
    exec (.aseth d m) s = .next (s.putWord (s.aTarget d) 1 (m ++ (s.a d).extractLsb' 0 46)) ∧
    exec (.aandi d b m) s = .next (s.putWord (s.aTarget d) 1 (s.a b &&& m.signExtend 64)) ∧
    (encode (.aaddi d b m)).toNat = 8 * 2 ^ 26 + d.toNat * 2 ^ 22 + b.toNat * 2 ^ 18 + m.toNat ∧
    (encode (.aadd d b i)).toNat = 9 * 2 ^ 26 + d.toNat * 2 ^ 22 + b.toNat * 2 ^ 18 + i.toNat * 2 ^ 14 ∧
    (encode (.asub d b i)).toNat = 10 * 2 ^ 26 + d.toNat * 2 ^ 22 + b.toNat * 2 ^ 18 + i.toNat * 2 ^ 14 ∧
    (encode (.aslli d b n)).toNat = 11 * 2 ^ 26 + d.toNat * 2 ^ 22 + b.toNat * 2 ^ 18 + n.toNat ∧
    (encode (.aseth d m)).toNat = 12 * 2 ^ 26 + d.toNat * 2 ^ 22 + m.toNat ∧
    (encode (.aandi d b m)).toNat = 13 * 2 ^ 26 + d.toNat * 2 ^ 22 + b.toNat * 2 ^ 18 + m.toNat ∧
    (∀ (w : Word) (j : Instr), (w.toNat / 2 ^ 26 = 9 ∨ w.toNat / 2 ^ 26 = 10) ∧ w.toNat % 2 ^ 14 ≠ 0 ∨ w.toNat / 2 ^ 26 = 11 ∧ w.toNat / 2 ^ 6 % 2 ^ 12 ≠ 0 ∨
        w.toNat / 2 ^ 26 = 12 ∧ w.toNat / 2 ^ 18 % 2 ^ 4 ≠ 0 → decodeIn .access w ≠ .ok j) ∧
    exec (.ajmp o) s = .next (s.jump next) ∧
    exec (.abnz b o) s = .next (if s.a b = 0 then s else s.jump next) ∧
    (s.a b = 1 → exec (.aloop b o) s = .next (s.putWord (s.aTarget b) 1 0)) ∧
    (s.a b ≠ 1 → exec (.aloop b o) s = .next ((s.putWord (s.aTarget b) 1 (s.a b - 1)).jump next)) ∧
    (s.cur.agent = .load → s.farLoads = false → exec .ahalt s = .next (s.updMe (fun t => { t with load := { t.load with st := .halted } }))) ∧
    (s.farLoads = true → ∀ j ∈ [Instr.ahalt, .afenceX, .atsig 3, .atwait 5, .amfsr d 1 0x81, .amtsr d b 0 0x80], exec j s = block s .farLoads) ∧
    (s.cur.agent = .store → exec .ahalt s = .next (s.updMe (fun t => { t with store := { t.store with st := .halted } })))

/-- The loads of the load sequencer (R92, R199, R303, R304): `LDQ` reserves an entry of its queue, which 256 B of the own near store or of the tier-0 window fill after five cycles, and which a load that leaves
the core fills when it performs; `ALD` gives 8 B to an a register; each moves its base on by a register when P is set; `LDQ` waits for room, which it sees as it stood when the ac began; one that is not aligned to 8 B,
window bytes outside the held slots and bytes that hold an error fault. That OPF is 3 and SEG the slot of the address, and 0 for a window address, is the model's reading (assumptions 22, 38); the window reads as the
banks' ports give it (R36). -/
def Claim.QueueLoads : Prop :=
  ∀ (s : State) (q b i d : BitVec 4) (p k : BitVec 1) (o : BitVec 12) (va : DWord) (f c : Nat) (ps : List Nat) (inc : State → State) (entry : QEntry),
    s.cur.agent = .load → va = s.a b + o.signExtend 64 * 8 → f = va.toNat % 2 ^ 22 → c = s.cur.core → ps = s.nearBytes va 256 (k == 1) →
    (∀ t, inc t = if p = 1 then t.putWord (.aLoad b.toNat) 1 (t.a b + t.a i) else t) →
    entry = { id := 0, mask := BitVec.allOnes 128, va := some va, step := s.bundle } →
    (va.toNat < 0xFFFFFFFFFFC00000 →
      (va.toNat % 8 = 0 → OwnNear s va 256 (k == 1) .load → s.poisoned ps = false → (s.seg va).cd = false → s.canPush q.toNat = true →
        exec (.ldq q b i p k o) s = .next (inc ((s.reserve q.toNat { entry with skew := k == 1 }).put
          { target := .qent q.toNat s.nextId, left := 5, data := BitVec.ofNat 2048 (ofBytes (readPlaces s.mem ps)) }))) ∧
      (va.toNat % 8 = 0 → OwnNear s va 256 (k == 1) .load → s.poisoned ps = true → s.canPush q.toNat = true →
        exec (.ldq q b i p k o) s = raise { cls := 9, kind := if s.poison.any (inUnits ps) then 6 else 1, opf := 3, addr := va, slot := vaSlot va } s) ∧
      (va.toNat % 8 = 0 → LeavesCore s va 256 .load → s.canPush q.toNat = true →
        ∃ a : Access, exec (.ldq q b i p k o) s = .next (inc ((s.reserve q.toNat { entry with skew := k == 1 }).send a)) ∧ a.kind = .load false ∧
          a.va = va ∧ a.offs = List.range 256 ∧ a.core = c ∧ a.agent = .load ∧ a.dest = .qent q.toNat s.nextId ∧
          ∃ n : Ckpt, a.ckpt = some n ∧ n.regs = s.me.regs.aLoad ∧ n.step = s.bundle) ∧
      (va.toNat % 8 = 0 → SegmentOk s va 256 .load → s.canPush q.toNat = false → exec (.ldq q b i p k o) s = block s (.push q.toNat)) ∧
      (va.toNat % 8 ≠ 0 → exec (.ldq q b i p k o) s = raise { cls := 1, kind := 2, opf := 3, addr := va, slot := vaSlot va } s) ∧
      (va.toNat % 8 = 0 → OwnNear s va 8 (k == 1) .load → s.poisoned (s.nearBytes va 8 (k == 1)) = false →
        exec (.ald d b i p k o) s = .next ((inc s).putWord (.aLoad d.toNat) 4
          (BitVec.ofNat 64 (ofBytes (readPlaces s.mem (s.nearBytes va 8 (k == 1))))))) ∧
      (SegmentOk s va 256 .load → (s.seg va).tier ≠ 1 → s.farLoads = false →
        ∃ a : Access, exec (.pref b i p k o) s = .next (inc (s.send a)) ∧ a.kind = .prefetch ∧ a.va = va ∧ a.offs = List.range 256 ∧
          a.core = s.cur.core ∧ a.agent = .load) ∧
      ((s.seg va).v = false → s.farLoads = false → exec (.pref b i p k o) s = .next (inc (s.updShared s.cur.core (fun h => { h with specmiss := h.specmiss + 1 }))))) ∧
    (0xFFFFFFFFFFC00000 ≤ va.toNat →
      (va.toNat % 8 ≠ 0 → exec (.ldq q b i p k o) s = raise { cls := 1, kind := 2, opf := 3, addr := va } s ∧
        exec (.ald d b i p k o) s = raise { cls := 1, kind := 2, opf := 3, addr := va } s) ∧
      (va.toNat % 8 = 0 → s.me.id.nslot ≤ (f + 255) / 256 / 64 → exec (.ldq q b i p k o) s = raise { cls := 1, kind := 2, opf := 3, addr := va } s) ∧
      (va.toNat % 8 = 0 → (f + 255) / 256 / 64 < s.me.id.nslot → s.canPush q.toNat = true → s.poisonedIn (filePlace c f) 256 = false →
        (s.was c).nestHeld = none →
        exec (.ldq q b i p k o) s = .next (inc ((s.reserve q.toNat entry).put
          { target := .qent q.toNat s.nextId, left := 5, data := BitVec.ofNat 2048 (Memory.readNat s.portMem (filePlace c f) 256) }))) ∧
      (va.toNat % 8 = 0 → (f + 255) / 256 / 64 < s.me.id.nslot → s.canPush q.toNat = false → exec (.ldq q b i p k o) s = block s (.push q.toNat)) ∧
      (va.toNat % 8 = 0 → (f + 255) / 256 / 64 < s.me.id.nslot → s.canPush q.toNat = true → s.poisonedIn (filePlace c f) 256 = true →
        exec (.ldq q b i p k o) s = raise { cls := 9, kind := if s.poison.any (inRange (filePlace c f) 256) then 6 else 1, opf := 3, addr := va } s) ∧
      (va.toNat % 8 = 0 → (f + 7) / 256 / 64 < s.me.id.nslot → s.poisonedIn (filePlace c f) 8 = false → (s.was c).nestHeld = none → s.liveIds = [] →
        exec (.ald d b i p k o) s = .next ((inc s).putWord (.aLoad d.toNat) 4 (BitVec.ofNat 64 (Memory.readNat s.portMem (filePlace c f) 8)))) ∧
      (s.farLoads = false → exec (.pref b i p k o) s = .next (inc s))) ∧
    (s.was s.cur.core = s.me → (s.canPush q.toNat = true ↔ (s.queue q.toNat).length < (if q.toNat < 8 then 16 else 8)))

/-- The stores of the store sequencer (R92, R154, R199, R303, R304): `STQ` pops the oldest entry of its queue, if it was filled when the ac began and what its push releases has performed, and stores the bytes
that its mask enables, from byte `va` on, to the own near store, to the tier-0 window, or to a segment elsewhere, as an access that performs in its third cycle or later; then it moves its base on when P is set; it blocks while no
entry can be popped; one that is not aligned to 8 B, window bytes outside the held slots and those in a slot that a nest owns fault (assumptions 22, 38); one that the sequencer passes again after a fault, whose
store is pending or has performed, only moves its base on (assumption 20). -/
def Claim.QueueStores : Prop :=
  ∀ (s : State) (q b i : BitVec 4) (p k : BitVec 1) (o : BitVec 12) (va : DWord) (f c : Nat) (e : QEntry) (r : List QEntry) (offs : List Nat)
    (inc : State → State) (a0 : Access → Prop),
    s.cur.agent = .store → va = s.a b + o.signExtend 64 * 8 → f = va.toNat % 2 ^ 22 → c = s.cur.core →
    (∀ t, inc t = if p = 1 then t.putWord (.aStore b.toNat) 1 (t.a b + t.a i) else t) →
    offs = (List.range 256).filter (fun x => e.mask.getLsbD (x / s.laneBytes)) →
    (∀ a, a0 a ↔ exec (.stq q b i p k o) s = .next (inc ((s.send a).popQueue q.toNat).countStq) ∧ a.kind = .store ∧ a.va = va ∧ a.offs = offs ∧ a.lag = 3 ∧
      a.exec = true ∧ a.core = c ∧ a.agent = .store ∧ a.data = offs.map (fun x => BitVec.ofNat 8 (e.data.toNat / 2 ^ (8 * x)))) →
    (s.me.stqs < s.me.stqsDone → exec (.stq q b i p k o) s = .next (inc s.countStq)) ∧
    (s.me.stqs = s.me.stqsDone → va.toNat < 0xFFFFFFFFFFC00000 →
      (va.toNat % 8 = 0 → s.queue q.toNat = e :: r → s.canPop q.toNat = true → offs ≠ [] → OwnNear s va 256 (k == 1) .store →
        ∃ a : Access, a0 a ∧ a.places = offs.map (fun x => (s.nearBytes va 256 (k == 1)).getD x 0)) ∧
      (va.toNat % 8 = 0 → s.queue q.toNat = e :: r → s.canPop q.toNat = true → offs ≠ [] → LeavesCore s va 256 .store →
        ∃ a : Access, a0 a ∧ ∃ n : Ckpt, a.ckpt = some n ∧ n.regs = s.me.regs.aStore ∧ n.step = s.bundle) ∧
      (va.toNat % 8 = 0 → s.queue q.toNat = e :: r → s.canPop q.toNat = true → offs = [] → SegmentOk s va 256 .store → (s.seg va).tier = 1 →
        exec (.stq q b i p k o) s = .next (inc (s.popQueue q.toNat).countStq)) ∧
      (va.toNat % 8 = 0 → SegmentOk s va 256 .store → s.canPop q.toNat = false → exec (.stq q b i p k o) s = block s (.pop q.toNat)) ∧
      (va.toNat % 8 ≠ 0 → exec (.stq q b i p k o) s = raise { cls := 1, kind := 2, opf := 3, addr := va, slot := vaSlot va } s)) ∧
    (s.me.stqs = s.me.stqsDone → 0xFFFFFFFFFFC00000 ≤ va.toNat →
      (va.toNat % 8 ≠ 0 → exec (.stq q b i p k o) s = raise { cls := 1, kind := 2, opf := 3, addr := va } s) ∧
      (va.toNat % 8 = 0 → s.queue q.toNat = e :: r →
        (s.me.id.nslot ≤ (f + 255) / 256 / 64 → exec (.stq q b i p k o) s = raise { cls := 1, kind := 2, opf := 3, addr := va } s) ∧
        ((f + 255) / 256 / 64 < s.me.id.nslot →
          ((∃ x ∈ offs, s.me.owned ((f + x) / 16384) = true) → exec (.stq q b i p k o) s = raise { cls := 5, kind := 1, opf := 3, addr := va } s) ∧
          ((∀ x ∈ offs, s.me.owned ((f + x) / 16384) = false) →
            (s.canPop q.toNat = false → exec (.stq q b i p k o) s = block s (.pop q.toNat)) ∧
            (s.canPop q.toNat = true → offs = [] → exec (.stq q b i p k o) s = .next (inc (s.popQueue q.toNat).countStq)) ∧
            (s.canPop q.toNat = true → offs ≠ [] →
              ∃ a : Access, a0 a ∧ a.tier = 0 ∧ a.slot = 64 ∧ a.places = offs.map (fun x => filePlace c (f + x))))))) ∧
    (s.me.stqs = s.me.stqsDone → va.toNat % 8 = 0 → s.queue q.toNat = [] → exec (.stq q b i p k o) s = block s (.pop q.toNat)) ∧
    (va.toNat % 8 = 0 → va.toNat < 0xFFFFFFFFFFC00000 → OwnNear s va 8 (k == 1) .load → s.poisoned (s.nearBytes va 8 (k == 1)) = false →
      ∀ d : BitVec 4, exec (.ald d b i p k o) s = .next ((inc s).putWord (.aStore d.toNat) 4
        (BitVec.ofNat 64 (ofBytes (readPlaces s.mem (s.nearBytes va 8 (k == 1))))))) ∧
    ((s.popQueue q.toNat).queue q.toNat = (s.queue q.toNat).drop 1 ∧ (s.popQueue q.toNat).mem = s.mem) ∧
    (s.was s.cur.core = s.me → s.queue q.toNat = e :: r → (s.canPop q.toNat = true ↔ e.ready = true ∧ s.anyLive e.after = false))

/-- The micro-orders of the load and store sequencers. -/
def Obligations.AccessSequencers : Prop :=
  Claim.AccessArithmetic ∧ Claim.QueueLoads ∧ Claim.QueueStores

/-- DECLOSS (R96): a task starts with 0 in it; each loss of decoupling adds 1, modulo 2 ^ 32; every sequencer reads all its 32 bits; and a write of it does nothing. -/
def Obligations.DeclossCounts : Prop :=
  ∀ (s : State) (c b : Nat) (x : BitVec 5) (a : BitVec 4) (q : BitVec 3) (l : Launch),
    ((s.core c).residency = .placing → s.launchOf c (s.core c).task = some l →
      ∃ t : State, exec (.taskStart c) s = .next t ∧ (t.task c).shared.decloss = 0) ∧
    ((s.task c).watches b = true → ((s.loseDecoupling c b).task c).shared.decloss = (s.task c).shared.decloss + 1) ∧
    ((s.task c).watches b = false → s.loseDecoupling c b = s) ∧
    exec (.mfsr x 0 q 2) s = .next (s.putX x 2 (s.me.shared.decloss.setWidth 64)) ∧
    exec (.amfsr a 0 2) s = .next (s.putWord (s.aTarget a) 2 (s.me.shared.decloss.setWidth 64)) ∧
    exec (.mtsr x 0 q 2) s = .next s ∧
    (s.cur.sig = .none → exec (.vmfsr a 0 2) s = .next (s.putWord (.s a.toNat) 2 (s.me.shared.decloss.setWidth 64)).ageHeld ∧
      exec (.vmtsr a 0 2) s = .next s.ageHeld)


/-! ### Mule -/

/-- The arithmetic and control words of Mule (R316 to R318): g results of one cycle, the jumps to a word of the control store, the halt, which waits for the commands that Mule
dispatched, and the post. -/
def Claim.MuleControl : Prop :=
  ∀ (s : State) (a b d : BitVec 3) (i : BitVec 18) (t n : BitVec 10) (e : BitVec 2),
    exec .muleNop s = .next s ∧
    exec (.muleSeti d i) s = .next (s.putWord (.g d.toNat) 1 ((i.signExtend 32).setWidth 64)) ∧
    exec (.muleAddi d a i) s = .next (s.putWord (.g d.toNat) 1 ((s.g a + i.signExtend 32).setWidth 64)) ∧
    exec (.muleAdd d a b) s = .next (s.putWord (.g d.toNat) 1 ((s.g a + s.g b).setWidth 64)) ∧
    exec (.muleJmp t) s = .next (s.jump (t.setWidth 64)) ∧
    exec (.muleBnz a t) s = .next (if s.g a = 0 then s else s.jump (t.setWidth 64)) ∧
    (s.g d = 1 → exec (.muleLoop d t) s = .next (s.putWord (.g d.toNat) 1 0)) ∧
    (d ≠ 0 → s.g d ≠ 1 → exec (.muleLoop d t) s = .next ((s.putWord (.g d.toNat) 1 ((s.g d - 1).setWidth 64)).jump (t.setWidth 64))) ∧
    (s.me.muleCmds = [] → exec .muleHalt s = .next (s.updMe (fun k => { k with mule := { k.mule with st := .halted } }))) ∧
    (s.me.muleCmds ≠ [] → exec .muleHalt s = block s .commands) ∧
    (s.outFull s.cur.core .mule = false → s.me.muleCmds = [] → s.liveIds = [] →
      exec (.mulePost a n) s = .next (s.updMe (fun k => { k with ml := { k.ml with
        out := k.ml.out ++ [BitVec.ofNat 64 (4 * 2 ^ 56 + 2 ^ 48 + n.toNat * 2 ^ 32 + (s.g a).toNat)] } }))) ∧
    (s.outFull s.cur.core .mule = true → exec (.mulePost a n) s = block s (.output 3)) ∧
    (16 ≤ s.me.ml.out.length → s.outFull s.cur.core .mule = true) ∧
    (s.was s.cur.core = s.me → s.me.ml.out.length < 16 → s.outFull s.cur.core .mule = false) ∧
    (s.g a ≠ 0 → exec (.muleAgdim a b 0 e) s = .next (s.updMe (fun k => { k with mule := { k.mule with gen := { k.mule.gen with
        count := k.mule.gen.count.set e.toNat (s.g a).toNat, stride := k.mule.gen.stride.set e.toNat (s.g b), counter := [], exhausted := false } } }))) ∧
    (s.g a = 0 → exec (.muleAgdim a b 0 e) s = raise (reservedField 2) s) ∧
    exec (.muleAgdim a b 1 e) s = .next (s.updMe (fun k => { k with mule := { k.mule with gen := { k.mule.gen with
        base := s.g b ++ s.g a, counter := [], exhausted := false } } })) ∧
    ((s.g a).toNat % 4 = 0 → exec (.muleAgind a 0 e) s = .next (s.updMe (fun k => { k with mule := { k.mule with gen := { k.mule.gen with
        ind := some e.toNat, table := s.g a, counter := [], exhausted := false } } }))) ∧
    exec (.muleAgind a 1 e) s = .next (s.updMe (fun k => { k with mule := { k.mule with gen := { k.mule.gen with
        ind := none, counter := [], exhausted := false } } }))

/-- The address generator (R319): AGA takes the base plus each stride times its counter, the indirect dimension's counter replaced by the table entry it selects; gd is 1, the counters move on, and
a generator that has ended answers 0. -/
def Claim.AddressGenerator : Prop :=
  ∀ (s : State) (d : BitVec 3) (g : AddrGen) (x : Nat → Nat) (aga : DWord),
    g = s.me.mule.gen →
    aga = g.base + (g.stride.get 0 0).signExtend 64 * BitVec.ofNat 64 (x 0) + (g.stride.get 1 0).signExtend 64 * BitVec.ofNat 64 (x 1) +
      (g.stride.get 2 0).signExtend 64 * BitVec.ofNat 64 (x 2) + (g.stride.get 3 0).signExtend 64 * BitVec.ofNat 64 (x 3) →
    (g.exhausted = true → exec (.muleAgrun d) s = .next (s.putWord (.g d.toNat) 1 0)) ∧
    (g.exhausted = false → g.ind = none → (∀ n, n < 4 → x n = g.counter.get n 0) →
      ∃ t : State, exec (.muleAgrun d) s = .next ((t.putWord .aga 1 aga).putWord (.g d.toNat) 1 1) ∧
        t = s.updMe (fun k => { k with mule := { k.mule with gen := t.me.mule.gen } }) ∧
        (g.counter.get 0 0 + 1 < g.count.get 0 1 → t.me.mule.gen.counter.get 0 0 = g.counter.get 0 0 + 1 ∧
          t.me.mule.gen.exhausted = false ∧ ∀ n, n ≠ 0 → t.me.mule.gen.counter.get n 0 = g.counter.get n 0) ∧
        ((∀ n, n < 4 → g.count.get n 1 ≤ g.counter.get n 0 + 1) → t.me.mule.gen.exhausted = true)) ∧
    (∀ (k : Nat) (va : DWord), g.exhausted = false → g.ind = some k → k < 4 →
      va = BitVec.ofNat 64 (s.me.mule.mslot * 2 ^ 58 + (g.table + BitVec.ofNat 32 (4 * g.counter.get k 0)).toNat) →
      OwnNear s va 4 false .load → s.poisoned (s.nearBytes va 4 false) = false →
      (∀ n, n < 4 → x n = if n = k then ofBytes (readPlaces s.mem (s.nearBytes va 4 false)) else g.counter.get n 0) →
      ∃ t : State, exec (.muleAgrun d) s = .next ((t.putWord .aga 12 aga).putWord (.g d.toNat) 1 1) ∧
        t = s.updMe (fun k => { k with mule := { k.mule with gen := t.me.mule.gen } }))

/-- Mule: its control and its address generator. -/
def Obligations.MulePrograms : Prop :=
  Claim.MuleControl ∧ Claim.AddressGenerator

/-- The commands and waits of Mule (R292, R318): a nest with the shadow bank as the ac began and with ABASE or BBASE from AGA, a copy with its records from Mule's segment, and their waits; each push waits for a free entry. -/
def Claim.MuleCommands : Prop :=
  ∀ (s : State) (a b : BitVec 3) (o : BitVec 2) (p q : BitVec 1) (g : BitVec 6) (h : Word) (m : DWord),
    h = s.g a → m = s.g b ++ s.g a →
    (h.extractLsb' 27 5 = 0 → h.extractLsb' 24 3 = 0 → h.getLsbD 22 = false → h.getLsbD 17 = false →
      ¬ (h.getLsbD 12 = true ∧ h.getLsbD 6 = true) →
      (s.queueFull .matrix = false → s.acqIds 4 = [] → (∀ c ∈ s.me.mx.queue, c.id ≠ s.nextId) →
        ∃ (t : State) (x : Cmd), exec (.muleMx a b o) s = .next t ∧ t.me.mx.queue = s.me.mx.queue ++ [x] ∧
          x.words = (if h.getLsbD 12 || h.getLsbD 6 then [h, s.g b] else [h]) ∧ x.fmt = (s.was s.cur.core).shared.fmt ∧
          (o = 0 → x.nt = (s.was s.cur.core).shared.nt) ∧
          (o = 1 → x.nt.get 2 0 = s.me.mule.aga.extractLsb' 0 32 ∧ x.nt.get 3 0 = s.me.mule.aga.extractLsb' 32 32) ∧
          (o = 2 → x.nt.get 4 0 = s.me.mule.aga.extractLsb' 0 32 ∧ x.nt.get 5 0 = s.me.mule.aga.extractLsb' 32 32) ∧
          t.me.regs = s.me.regs ∧ t.mem = s.mem) ∧
      (s.queueFull .matrix = true → exec (.muleMx a b o) s = block s (.input 0))) ∧
    (s.me.mx.queue = [] → s.me.mx.running = [] → exec .muleMxw s = .next s) ∧
    (∀ c ∈ s.me.mx.queue, c.pusher = .mule → headCmd c.head = 0 → exec .muleMxw s = block s .nests) ∧
    (∀ va wa : DWord, va = BitVec.ofNat 64 (s.me.mule.mslot * 2 ^ 58 + (s.g b).toNat) →
      wa = BitVec.ofNat 64 (s.me.mule.mslot * 2 ^ 58 + (s.g b + 96).toNat) →
      h.extractLsb' 27 5 = 0 → h.getLsbD 22 = false → h.getLsbD 17 = false → h.getLsbD 12 = false → h.getLsbD 6 = false →
      (s.g b).toNat % 32 = 0 → s.queueFull .copy = false → s.acqIds 2 = [] →
      OwnNear s va 96 false .load → OwnNear s wa 96 false .load → s.poisoned (s.nearBytes va 96 false) = false →
      s.poisoned (s.nearBytes wa 96 false) = false →
      ∃ x : Cmd, exec (.muleCp a b p q g) s = .next (s.pushCmd .copy x) ∧ x.words = [h, g.setWidth 32] ∧
        x.recA = (let v : DReg := BitVec.ofNat 768 (ofBytes (readPlaces s.mem (s.nearBytes va 96 false)))
          if q = 1 then s.me.mule.aga ++ v.extractLsb' 0 704 else v) ∧
        x.recB = (let v : DReg := BitVec.ofNat 768 (ofBytes (readPlaces s.mem (s.nearBytes wa 96 false)))
          if p = 1 then s.me.mule.aga ++ v.extractLsb' 0 704 else v)) ∧
    (s.me.shared.tags &&& m = m → exec (.muleTagw a b) s = .next s) ∧
    (s.me.shared.tags &&& m ≠ m → exec (.muleTagw a b) s = block s (.tags m true))

/-- Mule's memory, exponent, flag, fence and register words (R116, R284, R316, R318): the segment's offset of a load or store is ga plus the immediate, aligned to 4 B, and SEG the slot of
that address (assumption 22); a store performs as it issues (assumption 71); the exponent unit reads its row as the bank's port gives it (R36), and takes the power of two to 192 bits and a tail before it rounds (assumption 10). -/
def Claim.MuleMemory : Prop :=
  ∀ (s : State) (a b d : BitVec 3) (i : BitVec 18) (o f : BitVec 5) (k t u : BitVec 2) (off : Word) (va : DWord) (ty : NumFmt),
    off = s.g a + i.signExtend 32 → va = BitVec.ofNat 64 (s.me.mule.mslot * 2 ^ 58 + off.toNat) → ty = laneType t →
    (off.toNat % 4 = 0 → OwnNear s va 4 false .load → s.poisoned (s.nearBytes va 4 false) = false →
      exec (.muleLd d a i) s = .next (s.putWord (.g d.toNat) 4
        ((BitVec.ofNat 32 (ofBytes (readPlaces s.mem (s.nearBytes va 4 false)))).setWidth 64))) ∧
    (off.toNat % 4 = 0 → OwnNear s va 4 false .store →
      exec (.muleSt a b i) s = .next (s.storeAt (s.nearBytes va 4 false) (toBytes (s.g b).toNat 4))) ∧
    (off.toNat % 4 ≠ 0 → exec (.muleLd d a i) s = raise { cls := 1, kind := 2, opf := 2, addr := va, slot := vaSlot va } s) ∧
    ((s.flag f.toNat - s.g a).toNat < 2 ^ 31 → exec (.muleFwait a o f) s = .next s) ∧
    (s.awaitMet f.toNat (s.g a) = true → exec (.muleFwait a o f) s = .next s) ∧
    (s.awaitMet f.toNat (s.g a) = false → exec (.muleFwait a o f) s = block (s.await f.toNat (s.g a)) (.flag f.toNat (s.g a))) ∧
    (2 ^ 31 ≤ (s.flag f.toNat - s.g a).toNat → (∀ e ∈ s.me.shared.awaiting, e.woken = false) → s.awaitMet f.toNat (s.g a) = false) ∧
    (s.anyLive (s.flagIds o) = false → exec (.muleFset a o f) s = .next (s.putWord (.flagSet f.toNat) 1 ((s.g a).setWidth 64))) ∧
    (s.anyLive (s.fenceIds k.toNat o) = false → exec (.muleFence o k) s = .next (s.hostFenced k.toNat o)) ∧
    (∀ p ∈ [((1 : BitVec 12), s.me.shared.fstat.setWidth 32), (6, BitVec.ofNat 32 s.rc), (0x80, BitVec.ofNat 32 (s.freeSeen .matrix)),
            (0x82, BitVec.ofNat 32 (s.freeSeen .copy))],
      exec (.muleMfsr d p.1) s = .next (s.putWord (.g d.toNat) 2 (p.2.setWidth 64))) ∧
    (∀ (e : Engine) (n : BitVec 12) (buf : List Word), s.cur.agent = .mule → (e, n) ∈ [(Engine.matrix, (0x80 : BitVec 12)), (.copy, 0x82)] →
      buf = (s.me.engine e).asm.get 4 [] ++ [s.g a] → buf.length < headCount (buf.headD 0) → headCount (buf.headD 0) ≤ 8 →
      exec (.muleMtsr a n) s = .next (s.updMe (fun k => k.updEngine e (fun q => { q with asm := q.asm.set 4 buf })))) ∧
    ((s.was s.cur.core).nestHeld = none → ∀ n, s.viewRow s.cur.core n = BitVec.ofNat 2048 (Memory.readNat s.portMem (rowPlace s.cur.core n) 256)) ∧
    (s.me.id.nslot ≤ (s.g a).toNat / 64 → exec (.muleEx a b t u) s = raise { cls := 1, kind := 2, opf := 2 } s) ∧
    ((s.g a).toNat / 64 < s.me.id.nslot → s.me.id.nslot ≤ (s.g b).toNat / 64 → exec (.muleEx a b t u) s = raise { cls := 1, kind := 2, opf := 3 } s) ∧
    ((s.g a).toNat / 64 < s.me.id.nslot → (s.g b).toNat / 64 < s.me.id.nslot → s.me.owned ((s.g b).toNat / 64) = true →
      exec (.muleEx a b t u) s = raise { cls := 5, kind := 1, opf := 3 } s) ∧
    ((s.g a).toNat / 64 < s.me.id.nslot → (s.g b).toNat / 64 < s.me.id.nslot → s.me.owned ((s.g b).toNat / 64) = false →
      s.poisonedIn (rowPlace s.cur.core (s.g a).toNat) 256 = false →
      ∃ (v : VReg) (st : BitVec 5), exec (.muleEx a b t u) s = .next (s.put
          { target := .row (s.g b).toNat, data := v, left := if ty.bytes = 4 then 8 else 9, fst := st }) ∧
        ∀ n, n < 2048 / (8 * ty.bytes) → lane v (8 * ty.bytes) n = BitVec.ofNat _ (roundOp ty
          (match u.toNat with
            | 0 => (numExp2 (Num.ofBits ty (lane (s.viewRow s.cur.core (s.g a).toNat) (8 * ty.bytes) n).toNat), false)
            | 1 => (numRcp (Num.ofBits ty (lane (s.viewRow s.cur.core (s.g a).toNat) (8 * ty.bytes) n).toNat), false)
            | _ => numRsq (Num.ofBits ty (lane (s.viewRow s.cur.core (s.g a).toNat) (8 * ty.bytes) n).toNat)) .nearestEven false).1)


/-- Mule: the commands it gives and its memory. -/
def Obligations.MuleOrders : Prop :=
  Claim.MuleCommands ∧ Claim.MuleMemory

/-! ### Engine commands -/

/-- An engine that can dequeue does so (R91, R97, R239): the head of its queue becomes its last running command and starts as its kind says, the token that it waits for is subtracted from, and
its gap starts; a head whose token or flag is not there, or that entered the queue in this ac, stays; one whose queue entry shows an uncorrectable error ends with a machine check (R201). -/
def Claim.CommandStarts : Prop :=
  ∀ (s : State) (c : Nat) (e : Engine) (k : Cmd) (rest : List Cmd) (u : State),
    ((s.task c).engine e).queue = k :: rest → s.enginesRun c = true → ((s.task c).engine e).busyTill ≤ s.ac →
    s.anyLive k.after = false → EngineSt.paced { (s.task c).engine e with gap := ((s.was c).engine e).gap } s.hub.paceFloor s.ac = true →
    s.engineBusy c e k = false → u = s.takeHead c e k →
    ((∀ o ∈ ((s.was c).engine e).queue, o.id ≠ k.id) → exec (.commandDequeue c e) s = .next s) ∧
    ((∃ o ∈ ((s.was c).engine e).queue, o.id = k.id) → s.mayStart c k = true →
      (s.cur.struck.isSome = true → e = .matrix → exec (.commandDequeue c e) s = .next (u.cmdFault c .matrixEngine k.id { cls := 9, kind := 1 })) ∧
      (s.cur.struck = none → exec (.commandDequeue c e) s = .next (u.begins c e k)) ∧
      (s.cur.struck = none → ∀ p ∈ [(Engine.matrix, 0, Instr.nest c), (.matrix, 1, .fmtld c), (.matrix, 2, .cstld c), (.copy, 0, .copy c), (.copy, 1, .copyr c),
              (.copy, 2, .tmove c), (.collective, 0, .coll c), (.collective, 1, .join c), (.collective, 2, .rstore c),
              (.collective, 3, .spred c), (.collective, 4, .dispx c), (.collective, 5, .abort c), (.collective, 6, .accreg c),
              (.collective, 7, .accfree c), (.collective, 8, .xbreg c), (.mule, 0, .mrun c), (.mule, 1, .mload c)],
        p.1 = e → headCmd k.head = p.2.1 → exec p.2.2 s = .next (u.begins c e k)) ∧
      ((u.task c).engine e).queue = rest ∧
      ((u.task c).engine e).running =
        ((s.task c).engine e).running ++ [{ cmd := k, num := ((s.task c).engine e).count, st := .io }] ∧
      ((u.task c).engine e).count = ((s.task c).engine e).count + 1 ∧ ((u.task c).engine e).lastDequeue = some s.ac ∧
      (∀ w, k.waitTok = some w → ((u.task c).shared.token.get w {}).count = ((s.task c).shared.token.get w {}).count - 1) ∧
      (u.task c).regs = (s.task c).regs ∧ u.mem = s.mem ∧ (∀ b, b ≠ c → u.core b = s.core b)) ∧
    (s.mayStart c k = false → exec (.commandDequeue c e) s = .next s)

/-- What a started command sets up (R53, R222, R296, R314, R316): a nest has done no k-step and keeps the sign matrices as they stand (assumption 53); a transfer clears its tag and TAGREC; an `MRUN` runs Mule at its
step with its segment slot and g1; a kind that the engine does not have is a command error, logged, with status 4. -/
def Claim.CommandsSetUp : Prop :=
  ∀ (s : State) (c : Nat) (k : Cmd) (w : Nat),
    w = (k.word 1).toNat →
    (headCmd k.head = 0 → headLen k.head = 0 → ntBad k.nt (headXb k.head) = false →
      ∀ r ∈ ((s.begins c .matrix k).task c).mx.running, r.cmd.id = k.id →
        r.cmd = k ∧ r.st = .nest { matrix := (s.task c).shared.matrix }) ∧
    (∀ (x : Cmd) (cs : CopySt), headCmd k.head ≤ 2 → s.startCopy c k = .ok (x, cs) →
      (∀ r ∈ (s.task c).cp.running, r.cmd.id ≠ k.id → r.inFlight = true → r.cmd.tag ≠ k.tag) →
      ((s.begins c .copy k).task c).shared.tags = (s.task c).shared.tags &&& ~~~ BitVec.ofNat 64 (2 ^ k.tag) ∧
      ((s.begins c .copy k).task c).shared.tagrec.get k.tag 0 = 0 ∧
      (∀ r ∈ ((s.begins c .copy k).task c).cp.running, r.cmd.id = k.id → r.cmd = x ∧ r.st = .copy cs) ∧ cs.beat = 0 ∧ cs.point = 0) ∧
    (headCmd k.head = 0 → headLen k.head = 2 → headXb k.head = false → w < 2 ^ 16 →
      ((s.begins c .mule k).task c).mule.st = .run ∧ ((s.begins c .mule k).task c).mule.step = w % 2 ^ 10 ∧
      ((s.begins c .mule k).task c).mule.mslot = w / 2 ^ 10 ∧ ((s.begins c .mule k).task c).mule.g.get 1 0 = k.word 2) ∧
    (3 ≤ headCmd k.head → (s.die (coreDie c)).log.length < 4096 →
      (∀ p ∈ [(Engine.matrix, Agent.matrixEngine), (.copy, .copyEngine)],
        ((s.begins c p.1 k).die (coreDie c)).log = (s.die (coreDie c)).log ++ [s.engineRec c p.2 k.id commandError] ∧
        (∀ r ∈ (((s.begins c p.1 k).task c).engine p.1).running, r.cmd.id = k.id → ∃ st v, r.st = .ended st v)))

/-- A command completes (R53, R91, R98, R100): a transfer's TAGREC and tag first, then its token and its flag, then its element, and it leaves the engine; while its token stands at 255 it goes no further
than its tag (assumption 28); while the output FIFO is full it stays. -/
def Claim.CommandsComplete : Prop :=
  ∀ (s : State) (c : Nat) (e : Engine) (i : Nat) (r : Running) (st : BitVec 8) (v : BitVec 42),
    ((s.task c).engine e).running[i]? = some r → (s.core c).enginesComplete = true → s.hub.relocking = false →
    r.tagged = false → r.acted = false → s.outcome c r = some (st, v) →
    (∀ x ∈ ((s.task c).engine e).running, x.cmd.id ≠ r.cmd.id → x.tagged = false ∧ x.acted = false) →
    ∃ t : State, exec (.commandCompletion c e i) s = .next t ∧ t.mem = s.mem ∧ (t.task c).regs = (s.task c).regs ∧
      (isTransfer e r.cmd = true → r.actions = true →
        (t.task c).shared.tags.getLsbD r.cmd.tag = true ∧
        (t.task c).shared.tagrec.get r.cmd.tag 0 = BitVec.ofNat 64 (v.toNat * 2 ^ 16 + st.toNat)) ∧
      (isTransfer e r.cmd = false → (t.task c).shared.tags = (s.task c).shared.tags) ∧
      (s.tokenHeld c r.cmd = true → (t.task c).shared.token = (s.task c).shared.token ∧
        (t.task c).shared.flag = (s.task c).shared.flag ∧ ((t.task c).engine e).out = ((s.task c).engine e).out) ∧
      (s.tokenHeld c r.cmd = false →
        (∀ j, r.cmd.sigTok = some j → ((t.task c).shared.token.get j {}).count = ((s.task c).shared.token.get j {}).count + 1) ∧
        (∀ f x, r.cmd.sets = some (f, x) → (t.task c).shared.flag.get f 0 = x) ∧
        (r.cmd.sets = none → (t.task c).shared.flag = (s.task c).shared.flag) ∧
        (headNtf r.cmd.head = false → ((t.task c).engine e).out = ((s.task c).engine e).out) ∧
        (headNtf r.cmd.head = false ∨ s.outFull c e = false →
          ((t.task c).engine e).running = ((s.task c).engine e).running.filter (fun x => x.cmd.id != r.cmd.id)) ∧
        (headNtf r.cmd.head = true → s.outFull c e = false →
          ∃ o, ((t.task c).engine e).out = ((s.task c).engine e).out ++ [o] ∧
            (∀ kind, (e = .matrix ∧ headCmd r.cmd.head = 0 ∧ kind = 1) ∨ (e = .copy ∧ kind = 2) ∨ (e = .collective ∧ kind = 3) →
              o.extractLsb' 56 8 = kind ∧ o.extractLsb' 48 8 = st ∧ o.extractLsb' 0 42 = v ∧
              (e = .copy → headCmd r.cmd.head ≤ 2 → (o.extractLsb' 42 6).toNat = r.cmd.tag))) ∧
        (headNtf r.cmd.head = true → s.outFull c e = true →
          ((t.task c).engine e).out = ((s.task c).engine e).out ∧ ((t.task c).engine e).running.length = ((s.task c).engine e).running.length))

/-- A command from the head of its queue to its completion. -/
def Obligations.CommandLife : Prop :=
  Claim.CommandStarts ∧ Claim.CommandsSetUp ∧ Claim.CommandsComplete

/-- A k-step (R138, R296, R297): with its checks passed, every element of the slot becomes the accumulation of its old value (+0 for an untouched slot under ZERO) with its A and B elements, all other
memory stays, and the nest has one more k-step done; the fetches see no store of the same ac (R40); a failed check, or an uncorrectable error in an accumulator that is read (R201), ends the command with its fault. -/
def Claim.KSteps : Prop :=
  ∀ (s : State) (c : Nat) (k : Cmd) (n : NestSt) (cs : List Nat),
    s.nest c = some (k, n) → s.enginesRun c = true → n.done < ntK k.nt → (s.task c).mx.lastDequeue ≠ some s.ac → cs = ntCounters k.nt n.done →
    (∀ (a b : Fetch) (x y slot i j old : Nat) (e : FmtEntry), s.checkStep c k cs = .ok a b x y → e = FmtEntry.ofBits (k.fmt.get (ntIndex k.nt cs) 0) →
      (ntSlot k.nt cs).toNat = slot → i < 64 → j < 64 → MemInv s →
      (ntBit k.nt 0 = true ∧ slot ∉ n.touched ∨ s.accBad c slot (accFmt e.acc) = false) →
      old = (if ntBit k.nt 0 = true ∧ slot ∉ n.touched then 0 else (s.accRow c slot i (accFmt e.acc)).getD j 0) →
      ∃ t : State, exec (.matrixKstep c) s = .next t ∧
        (t.accRow c slot i (accFmt e.acc)).getD j 0 =
          (accumulate (accFmt e.acc) (roundMode e.rnd) old ((plainNums (actFmt e.afmt) (s.fetchBytes c x a)).getD i .nan)
            ((e.weights (s.fetchBytes c y b)).getD j .nan)).1 % 2 ^ (8 * (accFmt e.acc).bytes) ∧
        (∀ p, p < rowPlace c (64 * slot) ∨ rowPlace c (64 * slot + accRows (accFmt e.acc)) ≤ p → Memory.read t.mem p = Memory.read s.mem p) ∧
        (t.task c).regs = (s.task c).regs ∧ (∀ o, o ≠ c → t.core o = s.core o) ∧
        (n.done + 1 < ntK k.nt ∨ ntBit k.nt 2 = true → ∃ m, t.nest c = some (k, m) ∧ m.done = n.done + 1 ∧ slot ∈ m.touched)) ∧
    (∀ (a b : Fetch) (x y slot : Nat) (acc : NumFmt), s.checkStep c k cs = .ok a b x y → slot = (ntSlot k.nt cs).toNat →
      acc = accFmt (FmtEntry.ofBits (k.fmt.get (ntIndex k.nt cs) 0)).acc → (ntBit k.nt 0 = false ∨ slot ∈ n.touched) → s.accBad c slot acc = true →
      exec (.matrixKstep c) s = .next (s.cmdFault c .matrixEngine k.id (s.accFault c slot acc))) ∧
    (∀ f, s.checkStep c k cs = .fault f → exec (.matrixKstep c) s = .next (s.cmdFault c .matrixEngine k.id f))

/-- The Hadamard pre-pass and the drain (R141, R142, R298), and a ballast k-step (R369): the pre-pass keeps the row sums of the slot and changes no memory; a drain row goes to its main-file row, with all
other memory kept, or leaves for its home as one store, with each element the scaled accumulator converted; a ballast k-step, ordered as the matrix-rail current would fall by more than SLEW, holds an idle engine for one ac. -/
def Claim.DrainsAndBallast : Prop :=
  ∀ (s : State) (c : Nat) (k : Cmd) (n : NestSt) (e : FmtEntry) (acc : NumFmt) (slot row w : Nat) (data : VReg),
    (c < 4096 → s.enginesRun c = true → (s.task c).mx.running = [] → (s.task c).mx.busyTill ≤ s.ac →
      (∀ fall, s.hub.slew < fall → exec (.ballastKstep ⟨c, fall⟩) s = .next (s.updTask c (fun t => { t with mx := { t.mx with busyTill := s.ac + 1 } }))) ∧ ∀ fall, fall ≤ s.hub.slew → exec (.ballastKstep ⟨c, fall⟩) s = .next s) ∧
    (s.nest c = some (k, n) → s.enginesRun c = true → n.done = ntK k.nt → ntBit k.nt 2 = true → s.cmdBusy k.id = false → e = (lastEntry k).2 →
      acc = accFmt e.acc → slot = n.touched.getD n.drainSlot 0 →
      (ntBit k.nt 3 = true → n.rotated = false → e.acc ≠ 3 → s.accBad c slot acc = false →
        ∃ (t : State) (m : NestSt), exec (.hadamardPrepass c) s = .next t ∧ t.mem = s.mem ∧ t.nest c = some (k, m) ∧ m.rotated = true ∧
          ∀ i j, i < 64 → j < 64 → (m.rows.get i 0).extractLsb' (8 * acc.bytes * j) (8 * acc.bytes) = BitVec.ofNat _
            (rotated acc (roundMode e.rnd) (n.matrix.get e.hsel hadamard) (s.accRow c slot i acc) j).1) ∧
      (ntBit k.nt 3 = true → n.rotated = false → e.acc = 3 →
        exec (.hadamardPrepass c) s = .next (s.cmdFault c .matrixEngine k.id (progError 3 (opfFormat (lastEntry k).1)))) ∧
      ((ntBit k.nt 3 = true → n.rotated = true) → (ntBit k.nt 3 = false → s.accBad c slot acc = false) → w = (outFmt e.ofmt).bytes →
        (∀ j, j < 64 → data.extractLsb' (8 * w * j) (8 * w) = BitVec.ofNat _ ((s.drainRow c k n).getD j (0, 0)).1) →
        (ntBit k.nt 4 = true → row = ntWord k.nt 6 % 2 ^ 14 + 64 * n.drainSlot + n.drainRow → (s.task c).holdsRow row = true →
          ntOwns k.nt (row / 64) = false → MemInv s →
          ∃ t : State, exec (.drainRowWrite c) s = .next t ∧
            (∀ i, i < 64 * w → Memory.read t.mem (rowPlace c row + i) = data.extractLsb' (8 * i) 8) ∧
            (∀ p, p < rowPlace c row ∨ rowPlace c row + 64 * w ≤ p → Memory.read t.mem p = Memory.read s.mem p)) ∧
        (∀ a : Access, ntBit k.nt 4 = false → (s.imaged c k = true → s.lambRows (coreDie c) < 512) →
          s.engineAccess c { kind := .store, va := drainVa k n, offs := List.range (64 * w), mode := .store,
                             data := toBytes data.toNat (64 * w), opf := opfMatrix 2, cmd := k.id, agent := .matrixEngine } = .ok a →
          a.kind = .store →
          ∃ t : State, exec (.drainRowWrite c) s = .next t ∧ (∃ x ∈ t.transit, x.va = drainVa k n ∧ x.cmd = k.id ∧ x.data = toBytes data.toNat (64 * w) ∧
            x.image = s.imaged c k) ∧ t.mem = s.mem)))


/-- The steps of a matrix nest, and its drain. -/
def Obligations.NestSteps : Prop :=
  Claim.KSteps ∧ Claim.DrainsAndBallast

/-- A transfer's beats (R77, R78, R286, R312 to R315): one whose lease was cancelled ends with status 2; with no point left it ends with status 1 and VALUE the beats; otherwise a beat's points are found and its
sources read, a resumed beat is passed over, and a beat that has its sources goes to its destination as one write. A unit's transfers form their beats in turn, and it writes one in an ac (R315). When a beat's edge faults are judged is the model's reading (assumption 54). -/
def Claim.TransferBeats : Prop :=
  ∀ (s : State) (c i : Nat) (r : Running) (cs : CopySt) (k : Cmd) (src dst : Layout) (m : SMap Byte),
    (s.task c).cp.running[i]? = some r → r.st = .copy cs → s.enginesRun c = true → s.cmdBusy k.id = false → k = r.cmd →
    src = k.layout false → dst = k.layout true →
    (cs.forming = false → s.cancelledHold r.holds = true →
      ∃ t : State, exec (.copyBeat c i) s = .next t ∧ (t.task c).cp.running[i]? = some { r with st := .ended 2 (BitVec.ofNat 42 cs.beat) } ∧
        t.mem = s.mem) ∧
    (cs.forming = false → s.cancelledHold r.holds = false → s.nextTransfer c k.unit ≠ some r.num → exec (.copyBeat c i) s = .next s) ∧
    (cs.forming = false → s.cancelledHold r.holds = false → s.nextTransfer c k.unit = some r.num → dst.points ≤ cs.point →
      ∃ t : State, exec (.copyBeat c i) s = .next t ∧ (t.task c).cp.running[i]? = some { r with st := .ended 1 (BitVec.ofNat 42 cs.beat) } ∧
        t.mem = s.mem) ∧
    (∀ (b : Forming) (u : State) (hs : List (Nat × Nat)), cs.forming = false → s.cancelledHold r.holds = false →
      s.nextTransfer c k.unit = some r.num →
      State.formBeat c src dst k.perm true (opfTag k.tag) (dst.points - cs.point) (s.takeTurn c r) { next := cs.point } r.holds = .ok (b, u, hs) → b.elems ≠ [] →
      (cs.beat < cs.skip →
        exec (.copyBeat c i) s =
          .next ((u.setHolds c .copy k.id hs).setCopy c k.id { cs with point := b.next, beat := cs.beat + 1 })) ∧
      (∀ (v : State) (es : List (Nat × Nat)), cs.skip ≤ cs.beat →
        (u.setHolds c .copy k.id hs).sendSources c k.id k.mover src (opfTag k.tag) (sourceRuns (elemBytes src.fmt) 0 b.elems)
          (b.elems.map (fun e => ((e.1 - lowest b.elems).toNat, match e.2 with | .bits v => v | .at _ => 0))) = .ok (v, es) →
        exec (.copyBeat c i) s = .next (v.setCopy c k.id
          { cs with forming := true, next := b.next, va := lowest b.elems, width := elemBytes src.fmt, elems := es }))) ∧
    (cs.forming = true → (s.task c).cp.beatAc.find k.unit = some s.ac → exec (.copyBeat c i) s = .next s) ∧
    (cs.forming = true → (s.task c).cp.beatAc.find k.unit ≠ some s.ac → m = beatBytes (elemBytes dst.fmt) (cs.elems.map (fun e => (e.1, k.convert src dst e.2))) →
      (∀ a : Access, dst.bim ≠ 2 → a.kind = .store →
        (s.takeBeat c r).engineAccess c { kind := .store, va := cs.va, offs := m.map (·.1), mode := .store, data := m.map (·.2), skew := dst.bim == 1, opf := opfTag k.tag, cmd := k.id, agent := k.mover } = .ok a →
        exec (.copyBeat c i) s = .next ((s.takeBeat c r).send a)) ∧
      (dst.bim = 2 → cs.va.toNat < 2 ^ 22 → MemInv s → (s.task c).holdsBytes cs.va.toNat ((m.map (·.1)).foldl max 0 + 1) = true →
        (s.task c).ownsBytes (m.map (fun e => cs.va.toNat + e.1)) = false →
        ∃ t : State, exec (.copyBeat c i) s = .next t ∧ (t.task c).cp.running[i]? = some { r with st := .copy cs.nextBeat } ∧
          (∀ e ∈ m, Memory.read t.mem (filePlace c (cs.va.toNat + e.1)) = e.2) ∧
          (∀ p, (∀ e ∈ m, p ≠ filePlace c (cs.va.toNat + e.1)) → Memory.read t.mem p = Memory.read s.mem p)))

/-- What the collective engine sends (R127, R208, R219, R333, R334, R337): a reduction store's beat leaves for its window once the module's own join has OK and the slot is open, through a contiguous or a pageable
segment, and notes that it waits until then; one whose window has been aborted sends nothing more; a command with no beat left ends once its window has taken them, with VALUE the beats; an exchange makes its peer steps,
and ends when they are done, each of its accumulate entries is ready and every word has arrived. The step of an exchange and the identity that fills a line are the model's readings (assumption 56). -/
def Claim.CollectiveSends : Prop :=
  ∀ (s : State) (c i : Nat) (r : Running) (cs : CollSt) (k : Cmd),
    (s.task c).cl.running[i]? = some r → r.st = .coll cs → s.enginesRun c = true → s.cmdBusy k.id = false → k = r.cmd →
    (headCmd k.head = 2 ∨ headCmd k.head = 3 → cs.forming = false → k.target.points ≤ cs.point →
      (s.unaccepted k.id = true → exec (.collectiveSend c i) s = .next s) ∧
      (s.unaccepted k.id = false → ∃ t : State, exec (.collectiveSend c i) s = .next t ∧
        (t.task c).cl.running[i]? = some { r with st := .ended 1 (BitVec.ofNat 42 cs.sent) } ∧ t.mem = s.mem)) ∧
    (∀ (g h : Nat) (w : Registrant) (slot : WinSlot) (f : WinRec) (d : Desc), headCmd k.head = 2 → cs.forming = true → f = WinRec.ofBits w.wrec →
      s.guestAddr c cs.va = some g →
      s.guestAddr c (cs.va + BitVec.ofNat 64 (cs.elems.foldl (fun m e => max m e.1) 0 + elemBytes (k.layout true).fmt - 1)) = some h →
      s.windowAt (s.task c).id.vf g = some w → s.windowAt (s.task c).id.vf h = some w → f.sparse = false →
      windowFmt f.op = (k.layout true).fmt → (k.layout true).bim ≠ 2 →
      s.lookup c cs.va (cs.elems.foldl (fun m e => max m e.1) 0 + elemBytes (k.layout true).fmt - 1 + 1) .store 3 = .ok d →
      s.slot? w.wid w.tag = some slot → s.cut cs = false →
      ((s.slotDesc c (vaSlot cs.va)).kind = 0 → w.status = some 0 ∧ slot.st = .opened → ∃ t : State, exec (.collectiveSend c i) s = .next t ∧
        t.flits = s.flits ++ [.dense w.wid w.tag (coreDie c) ((g - f.dbase) / 256) (s.collKey c k) 1
          (windowLine f.op (elemBytes (k.layout true).fmt) ((g - f.dbase) % 256) cs.elems) k.id] ∧ t.mem = s.mem ∧
        (t.task c).cl.running[i]? =
          some { r with st := .coll ({ cs with point := cs.next, sent := cs.sent + 1, forming := false, elems := [], waiting := none, into := some (w.wid, w.tag) } : CollSt) }) ∧
      ((s.slotDesc c (vaSlot cs.va)).kind = 0 → w.status ≠ some 0 ∨ slot.st ≠ .opened → ∃ t : State, exec (.collectiveSend c i) s = .next t ∧ t.flits = s.flits ∧
        (t.task c).cl.running[i]? = some { r with st := .coll { cs with waiting := some w.num, into := some (w.wid, w.tag) } }) ∧
      (∀ (p : Nat) (u : State), (s.slotDesc c (vaSlot cs.va)).kind ≠ 0 →
        s.windowPage c cs.va (cs.elems.foldl (fun m e => max m e.1) 0 + elemBytes (k.layout true).fmt - 1 + 1) = .at p u → u.openTo w = true → u.guestAddr c cs.va = some g →
        exec (.collectiveSend c i) s = .next ((u.flit (.dense w.wid w.tag (coreDie c) ((g - f.dbase) / 256) (u.collKey c k) 1
          (windowLine f.op (elemBytes (k.layout true).fmt) ((g - f.dbase) % 256) cs.elems) k.id)).setColl c k.id
            { cs with point := cs.next, sent := cs.sent + 1, forming := false, elems := [], waiting := none, into := some (w.wid, w.tag) }))) ∧
    (headCmd k.head = 2 ∨ headCmd k.head = 3 → cs.forming = true → s.cut cs = true → exec (.collectiveSend c i) s = .next s) ∧
    (∀ l : List AccEntry, headCmd k.head = 0 → k.shards.1.size ≤ cs.sent → l = s.accEntries.filter (fun e => e.cmd == k.id && !e.flagged) →
      (l.length ≠ cs.entries ∨ (∃ e ∈ l, e.ready = false) → exec (.collectiveSend c i) s = .next s) ∧
      (l.length = cs.entries → (∀ e ∈ l, e.ready = true) → exchangeExpected k.shards.1 k.shards.2 ≤ cs.arrived → ∃ t : State, exec (.collectiveSend c i) s = .next t ∧
        (t.task c).cl.running[i]? = some { r with st := .ended 1 (BitVec.ofNat 42 cs.sent) } ∧ t.mem = s.mem) ∧
      (cs.arrived < exchangeExpected k.shards.1 k.shards.2 → exec (.collectiveSend c i) s = .next s)) ∧
    (∀ (base own mine : Nat) (fid own' : BitVec 16) (link : Option Nat) (u : State), headCmd k.head = 0 → cs.sent < k.shards.1.size →
      s.peer (s.task c).id.vf k.shards.1 cs.sent = some (fid, base) →
      s.peer (s.task c).id.vf k.shards.1 k.shards.1.myrank = some (own', own) →
      s.secondStage (s.task c).id.vf own (k.shards.1.bytes k.shards.1.myrank) = some mine →
      link = (if fid = s.cfg.fabricId then none else s.linkTo fid) → (fid ≠ s.cfg.fabricId → link ≠ none) →
      s.exchangeStep c k cs.sent fid link base mine
        ((s.task c).id.lid ++ BitVec.ofNat 32 (k.shards.1.myrank * 256 + (k.word 2).toNat % 256)) = .ok u →
      exec (.collectiveSend c i) s = .next (u.setColl c k.id { cs with sent := cs.sent + 1 }))

/-- An expert buffer takes a row (R220, R336): from a `DISPX` of this module or through a link, the row goes to its next entry and NEXT rises by 1; a full buffer, or a row larger than an entry, counts a drop; each writes
NEXT and DROPS to the header. A buffer that is not registered counts a drop and takes nothing. NEXT and DROPS
are the hub's between a registration and the next, and a row for a buffer that is not registered counts there, as the model reads it (assumptions 73 and 101). -/
def Claim.ExpertBuffers : Prop :=
  ∀ (s : State) (n c i : Nat) (row : List Byte) (b : XBuf) (r : Running) (cs : CollSt),
    n < 256 → row.length ≤ 16384 →
    ((s.hub.xbufs.find n = some b ∧ b.live = false) ∨ (s.hub.xbufs.find n = none ∧ b.drops = 0) →
      ∃ (t : State) (x : XBuf), exec (.dispatchRowArrival n row) s = .next t ∧ t.mem = s.mem ∧ t.transit = s.transit ∧
        t.hub.xbufs.find n = some x ∧ x.live = false ∧ x.drops = b.drops + 1) ∧
    (s.hub.xbufs.find n = some b → b.live = true → ∀ (j : Instr) (cmd : Nat),
      j = .dispatchRowArrival n row ∧ cmd = 0 ∨
      j = .collectiveSend c i ∧ cmd = r.cmd.id ∧ (s.task c).cl.running[i]? = some r ∧ r.st = .coll cs ∧ s.enginesRun c = true ∧
        s.cmdBusy r.cmd.id = false ∧ headCmd r.cmd.head = 4 ∧ r.cmd.target.points ≤ cs.point ∧ r.cmd.dests = [(s.cfg.fabricId, n)] ∧
        row = (beatBytes cs.width cs.elems).map (·.2) →
      ∃ t : State, exec j s = .next t ∧ t.mem = s.mem ∧
        (b.next < b.count → row.length ≤ b.esz * 256 →
          t.hub.xbufs.find n = some { b with next := b.next + 1 } ∧
          ∃ x y, t.transit = s.transit ++ [x, y] ∧ x.kind = .store ∧ x.data = row ∧ x.cmd = cmd ∧
            x.places = (List.range row.length).map (fun o => b.addr + 256 + b.next * b.esz * 256 + o) ∧
            y.kind = .store ∧ y.places = (List.range 8).map (fun o => b.addr + o) ∧
            y.data = toBytes ((b.next + 1) % 2 ^ 32 + 2 ^ 32 * (b.drops % 2 ^ 32)) 8) ∧
        (b.count ≤ b.next ∨ b.esz * 256 < row.length →
          t.hub.xbufs.find n = some { b with drops := b.drops + 1 } ∧
          ∃ y, t.transit = s.transit ++ [y] ∧ y.kind = .store ∧ y.places = (List.range 8).map (fun o => b.addr + o) ∧
            y.data = toBytes (b.next % 2 ^ 32 + 2 ^ 32 * ((b.drops + 1) % 2 ^ 32)) 8))


/-- Beats of copies, steps of collectives and expert buffers. -/
def Obligations.TransferSteps : Prop :=
  Claim.TransferBeats ∧ Claim.CollectiveSends ∧ Claim.ExpertBuffers

/-! ### Accesses at their homes -/

/-- An access of an agent whose home is on its own die performs there (R84, R106, R201, R304, R327, R328): a load gives its bytes, extended, to its destination; a store stores its bytes and no others; an atomic stores its
new value and returns the old one. A load from another die also brings its home's clock (R122). -/
def Claim.AccessesPerform : Prop :=
  ∀ (s : State) (a : Access) (i n : Nat),
    i = a.id → AtHome s a → s.foreign a = [] → a.agent = .control ∨ a.agent = .store →
    (a.from = a.home →
      (a.kind = .store → a.exec = false → exec (.dataAccessPerform i) s =
        .next (((s.dropAccess i).storeAt a.places a.data).sealed a (s.keyFor a))) ∧
      (∀ op cmp old, a.kind = .atomic op cmp → old = ofBytes (readPlaces s.mem a.places) → a.dest = .x n → n ≠ 0 →
        ∃ t : State, exec (.dataAccessPerform i) s = .next t ∧ (t.task a.core).regs.x.get n 0 = BitVec.ofNat 64 old ∧
          t.transit = (s.dropAccess i).transit ∧
          (op ≠ 2 ∨ old = cmp.toNat % 2 ^ (8 * a.places.length) → t.mem = ((s.dropAccess i).storeAt a.places (toBytes
            (match op with
              | 0 => old + ofBytes a.data
              | 1 => ofBytes a.data
              | 2 => ofBytes a.data
              | 3 => old &&& ofBytes a.data % 2 ^ (8 * a.places.length)
              | 4 => old ||| ofBytes a.data % 2 ^ (8 * a.places.length)
              | 5 => old ^^^ ofBytes a.data % 2 ^ (8 * a.places.length)
              | 6 => if sext (ofBytes a.data) (8 * a.places.length) < sext old (8 * a.places.length) then ofBytes a.data else old
              | _ => if sext old (8 * a.places.length) < sext (ofBytes a.data) (8 * a.places.length) then ofBytes a.data else old)
            a.places.length)).mem) ∧
          (op = 2 → old ≠ cmp.toNat % 2 ^ (8 * a.places.length) → t.mem = s.mem))) ∧
    (∀ sg, a.kind = .load sg → a.home ≠ 8 → a.dest = .x n → n ≠ 0 → a.places.length ≤ 8 →
      (a.from = a.home ∨ s.causalLoadOk a.home a.from (a.stamp.getD []) = true) →
      ∃ t : State, exec (.dataAccessPerform i) s = .next t ∧ t.mem = s.mem ∧ t.transit = (s.dropAccess i).transit ∧
        (sg = false → (t.task a.core).regs.x.get n 0 = BitVec.ofNat 64 (ofBytes (readPlaces s.mem a.places))) ∧
        (sg = true → a.places ≠ [] → (t.task a.core).regs.x.get n 0 =
          BitVec.ofInt 64 (sext (ofBytes (readPlaces s.mem a.places)) (8 * a.places.length))) ∧
        (a.from ≠ a.home → t.clock a.from = clkMax (s.clock a.from) (s.clock a.home)))

/-- A failed check at the home (R15, R46, R76, R199, R201): a load, store or atomic that meets one has no effect there, and returns its fault to its agent, whose record, with the class and kind of the check and the access's virtual
address, step and word, is deferred. -/
def Claim.FailedChecks : Prop :=
  ∀ (s : State) (a : Access) (i cls kind op : Nat) (cmp : DWord) (sg : Bool),
    i = a.id → s.access i = some a → s.mayArrive a = true → a.isFence = false → a.bad = none → a.ofTransfer = false → s.unitReady a.unit = true →
    s.meets a [] = some (cls, kind) → a.from = a.home → a.kind = .load sg ∧ a.home ≠ 8 ∨ a.kind = .store ∨ a.kind = .atomic op cmp →
    exec (.dataAccessPerform i) s = .next (s.accessFaultVa a cls kind) ∧
    (a.agent = .control → ∃ (t : State) (r : FaultRec), exec (.dataAccessPerform i) s = .next t ∧
      t.deferred = s.deferred ++ [{ core := a.core, agent := .control, info := r }] ∧ r.cls = BitVec.ofNat 4 cls ∧ r.kind = BitVec.ofNat 8 kind ∧
      r.addr = a.va ∧ r.opf = a.opf ∧ r.step = a.step ∧ r.word = a.word ∧ r.defer = true ∧ t.mem = s.mem ∧ t.transit = (s.dropAccess i).transit ∧
      t.cores = s.cores)

/-- The keys of HBM (R45, R59, R71): an access under a lease to a 256 B data unit that was last written under another key than that of its head's
account reads a free value there and leaves memory as it was; a store that covers less than the unit stores its bytes and, being a read-modify-write of the whole unit, leaves free values in the
rest of it, and the unit is under the key of its own account. That a free value stands for what another key shows is the model's form (assumption 76). -/
def Claim.KeysOfAccounts : Prop :=
  ∀ (s : State) (a : Access) (i n u k : Nat) (v : VReg),
    i = a.id → AtHome s a → MemInv s → a.agent = .control → a.from = a.home → a.slot ≠ 64 → a.places ≠ [] → a.places.Nodup →
    (∀ p ∈ a.places, placeTier p = 3 ∧ p / 256 = u) → s.keyed.find u = some k →
    k ≠ (s.account (s.lease a.unit (s.lease a.unit a.lease).headl).acct).keyid → v = Config.deciphered u s.freeCnt →
    (a.kind = .load false → a.dest = .x n → n ≠ 0 → a.places.length ≤ 8 → ∃ t : State, exec (.dataAccessPerform i) s = .next t ∧
      (∀ p, Memory.read t.mem p = Memory.read s.mem p) ∧ t.keyed = s.keyed ∧
      (t.task a.core).regs.x.get n 0 = BitVec.ofNat 64 (ofBytes (a.places.map (fun p => v.extractLsb' (8 * (p % 256)) 8)))) ∧
    (a.kind = .store → a.exec = false → a.data.length = a.places.length → ∃ t : State, exec (.dataAccessPerform i) s = .next t ∧
      t.keyed.find u = some (s.account (s.lease a.unit (s.lease a.unit a.lease).headl).acct).keyid ∧
      (∀ j (h : j < a.places.length), Memory.read t.mem a.places[j] = a.data[j]!) ∧
      (∀ p, p / 256 = u → p ∉ a.places → Memory.read t.mem p = v.extractLsb' (8 * (p % 256)) 8) ∧
      (∀ p, p / 256 ≠ u → Memory.read t.mem p = Memory.read s.mem p))

/-- A cross-die write (R121, R122): it first leaves with its die's clock, its own component raised by 1; it is applied at its home once the home has applied its cause, and then the home's clock is the larger one, and the hub's
APPLIED, the number up to which every write of that die has been applied, goes to every die when it changes; until then it waits. A die takes the hub's next APPLIED. That the write takes its stamp at its first apply event is the model's reading (assumption 37). -/
def Claim.CrossDieWrites : Prop :=
  ∀ (s : State) (a : Access) (i d : Nat) (v : List Nat),
    i = a.id →
    (AtHome s a → s.foreign a = [] → a.kind = .store → a.exec = false → a.agent = .control → a.from ≠ a.home → a.from < 8 →
      (a.stamp = none → ∃ t : State, exec (.crossDieWriteApply i none) s = .next t ∧
        t.clock a.from = (s.clock a.from).set a.from (clk (s.clock a.from) a.from + 1) ∧ t.mem = s.mem ∧
        ∀ x ∈ t.transit, x.id = i → x.stamp = some ((s.clock a.from).set a.from (clk (s.clock a.from) a.from + 1))) ∧
      (a.stamp = some v → s.causalOk a.home a.from v = false → exec (.crossDieWriteApply i none) s = .next s) ∧
      (a.stamp = some v → s.causalOk a.home a.from v = true → a.home < 8 → s.waiters = [] → s.hub.done = [] →
        ∃ t : State, exec (.crossDieWriteApply i none) s = .next t ∧ t.mem = ((s.dropAccess i).storeAt a.places a.data).mem ∧
          t.transit = (s.dropAccess i).transit ∧ t.clock a.home = clkMax (s.clock a.home) v ∧
          (clk v a.from = clk s.hub.applied a.from + 1 → a.from < s.hub.applied.length →
            t.hub.applied = s.hub.applied.set a.from (clk v a.from) ∧ t.hub.done = [] ∧
            ∀ k, k < 8 → (t.die k).appliedMail = (s.die k).appliedMail ++ [t.hub.applied]) ∧
          (clk v a.from ≠ clk s.hub.applied a.from + 1 →
            t.hub.applied = s.hub.applied ∧ t.hub.done = [(a.from, clk v a.from)] ∧ ∀ k, k < 8 → (t.die k).appliedMail = (s.die k).appliedMail))) ∧
    (∀ r, d < 8 → (s.die d).appliedMail = v :: r → ∃ t : State, exec (.appliedVectorUpdate d) s = .next t ∧
      (t.die d).applied = v ∧ (t.die d).appliedMail = r ∧ t.mem = s.mem ∧ t.cores = s.cores ∧ (∀ k, k ≠ d → t.die k = s.die k))

/-- An accumulate write performs at its port (R54, R55, R211): the entry whose tile holds its bytes sums its words, counts them, records its key, and adds 1 to its flag when it has what it expects; a word that no entry covers is
a class-5 fault, and one of another operation than the entry's is a breach. -/
def Claim.AccumulateWrites : Prop :=
  ∀ (s : State) (a : Access) (i f : Nat) (key : DWord),
    i = a.id → AtHome s a → s.foreign a = [] → a.kind = .accumulate f key → a.from = a.home → a.agent = .collectiveEngine →
    (s.accEntries.find? (fun e => a.places.all e.covers && e.port == portOf (a.places.headD 0)) = none →
      exec (.accumulateWrite i none) s = .next ((s.dropAccess i).accessFaultVa a 5 3)) ∧
    ∀ e : AccEntry, s.accEntries.find? (fun e => a.places.all e.covers && e.port == portOf (a.places.headD 0)) = some e →
    (e.op ≠ f → exec (.accumulateWrite i none) s = .next ((s.dropAccess i).accessFaultVa a 5 6)) ∧
    (e.op = f → (∀ k ∈ e.keys, k.1 ≠ key) → e.keys.length < 64 → s.poisoned a.places = false →
    ∃ (t : State) (e' : AccEntry), exec (.accumulateWrite i none) s = .next t ∧ t.mem = accWords s.mem f a.places a.data ∧ e' ∈ t.accEntries ∧
      e'.count = min (e.count + a.places.length / 4) 0xFFFFFFFF ∧ e'.tbase = e.tbase ∧ e'.expect = e.expect ∧
      (e'.ready = true ↔ e.ready = true ∨ e.expect ≤ e'.count) ∧ (key ≠ 0 → e'.keys = e.keys ++ [(key, 2 * a.cmd)]) ∧
      (e.ready = false → e.expect ≤ e'.count → e.flagged = true →
        t.remote = s.remote ++ [{ id := s.nextId, source := 8192 + e.port, agent := .accPort, launch := e.launch, target := e.fcore, flag := e.flag,
                                  value := 1, add := true }]) ∧
      (e.ready = true ∨ e'.count < e.expect ∨ e.flagged = false → t.remote = s.remote))

/-- Accesses at their homes, and the keys of HBM. -/
def Obligations.HomeAccesses : Prop :=
  Claim.AccessesPerform ∧ Claim.FailedChecks ∧ Claim.KeysOfAccounts ∧ Claim.CrossDieWrites ∧ Claim.AccumulateWrites

/-- A message queue (R47, R48): a message is appended to a queue with room at slot CLP, CLP and TAIL move on, and its writer is told the free entries; a full queue refuses it. That bytes of an entry
which a message does not write are zero, and bytes of a message beyond its entry are lost, is the model's choice (assumption 77). -/
def Claim.MessagesAppend : Prop :=
  ∀ (s : State) (a : Access) (i p : Nat) (r : RingDesc),
    i = a.id → AtHome s a → s.foreign a = [] → a.kind = .message → a.from = a.home → a.agent = .control → s.remoteBefore a.core a.agent i (some a.queueCore) = false →
    s.behindKept a = false → p = a.places.headD 0 → r = s.ringAt p → r.mq = true → r.bad = false →
    (r.freeEntries ≠ 0 → ∃ (t : State) (n : MqNotice), exec (.messageQueueAppend i) s = .next t ∧ t.mqNotices = s.mqNotices ++ [n] ∧
      n.core = a.core ∧ n.slot = a.slot ∧ n.refused = none ∧ n.free = r.freeEntries - 1 ∧ t.transit = (s.dropAccess i).transit ∧
      (MemInv s → p % 8 = 0 → p + 64 ≤ r.slotPlace p r.clp ∨ r.slotPlace p r.clp + r.entry ≤ p →
        (t.ringAt p).clp = (r.clp + 1) % 2 ^ 32 ∧ (t.ringAt p).tail = (r.tail + 1) % 2 ^ 32 ∧ (t.ringAt p).head = r.head ∧
        (∀ o, o < r.entry → Memory.read t.mem (r.slotPlace p r.clp + o) =
          (match (a.offs.map (fun x => vaOff a.va + x)).idxOf? o with | some k => a.data.getD k 0 | none => 0)) ∧
        (∀ q, (q < p ∨ p + 64 ≤ q) → (q < r.slotPlace p r.clp ∨ r.slotPlace p r.clp + r.entry ≤ q) → Memory.read t.mem q = Memory.read s.mem q))) ∧
    (r.freeEntries = 0 → ∃ (t : State) (n : MqNotice), exec (.messageQueueAppend i) s = .next t ∧ t.mqNotices = s.mqNotices ++ [n] ∧
      n.refused = some a ∧ n.core = a.core ∧ n.slot = a.slot ∧ n.free = 0 ∧ t.mem = s.mem)

/-- What a writer of a message queue is told (R48): an acknowledgement lowers its unacknowledged count and, with no entry free, sets its stop bit; a refusal keeps its message and sets the stop bit; a resume notice, or for a
writer marked for polling 1024 rc, clears the stop bit and sends the kept messages again. Who the writer of a queue is, and that the polling resend clears
the stop bit, are the model's readings (assumption 62). -/
def Claim.MessageNotices : Prop :=
  ∀ (s : State) (i c slot : Nat) (n : MqNotice) (w : MqWriter),
    w = (s.task c).writer slot →
    (s.mqNotices[i]? = some n → n.slot = slot →
      s.coreOfMember (coreDie n.core) n.who.launch n.who.unit n.who.crewRank n.who.gangRank = some c →
      (n.refused = none → n.poll = false → ∃ t : State, exec (.mqAcknowledgement i) s = .next t ∧ t.mqNotices = s.mqNotices.eraseIdx i ∧
        (t.task c).writer slot = { w with unacked := w.unacked - 1, stop := w.stop || n.free == 0 } ∧ (t.task c).regs = (s.task c).regs ∧
        t.mem = s.mem ∧ t.transit = s.transit) ∧
      (∀ a, n.refused = some a → ∃ t : State, exec (.mqAcknowledgement i) s = .next t ∧ t.mqNotices = s.mqNotices.eraseIdx i ∧
        ((t.task c).writer slot).stop = true ∧ ((t.task c).writer slot).kept = w.kept ++ [{ a with stamp := none }] ∧
        ((t.task c).writer slot).unacked = w.unacked ∧ (n.poll = true → ((t.task c).writer slot).pollAt = some (s.rc + 1024))) ∧
      (n.refused = none → n.poll = true → (s.core c).residency = .resident → ∃ t : State, exec (.resumeNotice i) s = .next t ∧
        ((t.task c).writer slot).stop = false ∧ ((t.task c).writer slot).kept = [] ∧
        t.transit = s.transit ++ w.kept.map (fun a => { a with core := c }) ∧ t.mem = s.mem)) ∧
    (∀ x, w.pollAt = some x → x ≤ s.rc → (s.core c).residency = .resident → ∃ t : State, exec (.mqPollResend c slot) s = .next t ∧
      ((t.task c).writer slot).stop = false ∧ ((t.task c).writer slot).kept = [] ∧ ((t.task c).writer slot).pollAt = none ∧
      t.transit = s.transit ++ w.kept.map (fun a => { a with core := c }) ∧ t.mem = s.mem)

/-- Message queues. -/
def Obligations.MessageQueues : Prop :=
  Claim.MessagesAppend ∧ Claim.MessageNotices

/-- Page walks (R21 to R26): a walk gives an access the places of its bytes, or lets it wait for a migration, or returns its fault; a waiting store walks again once an invalidation has covered its page.
When a walk is tried again is the model's reading (assumption 29). -/
def Claim.PageWalks : Prop :=
  ∀ (s : State) (a : Access) (i : Nat) (j : Instr) (r : Except (Option WalkFault) (List Nat × State)),
    i = a.id → s.access i = some a → a.walk = true → a.held = false →
    (j = .pageWalk i ∧ a.migWait = false ∨ j = .migrationStoreRetry i ∧ a.migWait = true ∧ a.migGo = true) →
    r = s.pagePlaces a.core a.stage a.slot a.lgen a.table a.va.toNat (!a.kind.reads) (a.kind == .prefetch)
      (match a.kind with | .atomic _ _ => true | _ => false) (a.offs.map (fun o => vaOff a.va + o)) →
    (∀ ps u, r = .ok (ps, u) → exec j s = .next (u.setAccess { a with places := ps, walk := false, migWait := false, migGo := false })) ∧
    (a.kind ≠ .prefetch → r = .error none → exec j s = .next (s.setAccess { a with migWait := true, migGo := false })) ∧
    (∀ f, a.kind ≠ .prefetch → a.kind ≠ .message → r = .error (some f) → exec j s = .next (s.accessFault a f.1 f.2.1 (BitVec.ofNat 64 f.2.2)))

/-- Host reads (R29, R57, R201): a PCIe completion performs a tier-4 load at the point at which it may perform; one with an error status, or none in time, returns a class-9 fault, of kind 3 or 4, and a lease that has
ended comes before either. -/
def Claim.HostReads : Prop :=
  ∀ (s : State) (a : Access) (i n : Nat),
    i = a.id → AtHome s a → s.foreign a = [] → a.kind = .load false → a.home = 8 → a.agent = .control → a.from < 8 → s.causalLoadOk 8 a.from (a.stamp.getD []) = true →
    (a.dest = .x n → n ≠ 0 → ∃ t : State, exec (.pcieCompletion i true) s = .next t ∧ t.mem = s.mem ∧ t.transit = (s.dropAccess i).transit ∧
      (t.task a.core).regs.x.get n 0 = BitVec.ofNat 64 (ofBytes (readPlaces s.mem a.places)) ∧
      t.clock a.from = clkMax (s.clock a.from) (s.clock 8)) ∧
    exec (.pcieCompletion i false) s = .next ((s.accessFaultVa a 9 3).loadReturns a.from 8) ∧
    exec (.pcieCompletionTimeout i) s = .next (s.accessFaultVa a 9 4)

/-- A host read whose lease has ended meets the expiry fault before the error of its completion (R57). -/
def Claim.HostReadsExpire : Prop :=
  ∀ (s : State) (a : Access) (i : Nat),
    i = a.id → s.hostReadOf i = some a → a.ofTransfer = false → s.unitReady a.unit = true → s.meets a [] = some (2, 2) → a.kind = .load false →
    exec (.pcieCompletionTimeout i) s = .next (s.accessFaultVa a 2 2) ∧
    (s.causalLoadOk 8 a.from (a.stamp.getD []) = true → s.waiters.length = (s.accessFaultVa a 2 2).waiters.length →
      exec (.pcieCompletion i false) s = .next ((s.accessFaultVa a 2 2).loadReturns a.from 8))

/-- Page walks, and reads of host memory. -/
def Obligations.WalksAndHostReads : Prop :=
  Claim.PageWalks ∧ Claim.HostReads ∧ Claim.HostReadsExpire

/-- What lets a sequencer go on (R94, R148, R150): a BLOCKED one returns to RUN once its cause and those of the other words of its bundle have cleared, and not before; one that passes to code of the other LM value goes on when its results have landed and the engines are drained; and the oldest load that a loss of
decoupling has marked is made again. -/
def Obligations.SequencersGoOn : Prop :=
  ∀ (s : State) (c : Nat) (a : Agent) (q : Seq),
    q = (s.task c).seq a → a = .control ∨ a = .load ∨ a = .compute ∨ a = .store →
    (q.st = .blocked → State.stands { s with cur := { core := c, agent := a } } q.cause = false →
      (∀ w ∈ q.more, State.stands { s with cur := { core := c, agent := a } } w = false) →
      exec (.sequencerUnblock c a) s = .next (s.updTask c (fun t => t.setSeq a { q with st := .run, cause := .none, more := [] }))) ∧
    (State.stands { s with cur := { core := c, agent := a } } q.cause = true ∨ (∃ w ∈ q.more, State.stands { s with cur := { core := c, agent := a } } w = true) → exec (.sequencerUnblock c a) s = .next s) ∧
    ((s.task c).mule.st = .blocked → State.stands { s with cur := { core := c, agent := .mule } } (s.task c).mule.cause = false →
      exec (.sequencerUnblock c .mule) s = .next (s.updTask c (fun t => { t with mule := { t.mule with st := .run, cause := .none } }))) ∧
    ((s.core c).residency = .resident → (q.lm = none ∨ q.lm = some (s.nextLm c a)) →
      exec (.codeRegionCrossing c a) s = .next (s.updTask c (fun t => t.setSeq a { q with lm := some (s.nextLm c a) }))) ∧
    ((s.core c).residency = .resident → q.lm = some (!s.nextLm c a) → q.pipe = [] → (s.task c).drained = true →
      exec (.codeRegionCrossing c a) s = .next ((s.setPipe c a []).updTask c (fun t => t.setSeq a { q with lm := some (s.nextLm c a) }))) ∧
    (∀ b n e va d, (s.task c).load.st ≠ .faulted → (∀ x ∈ s.deferred, x.core = c → x.agent ≠ .load) →
      (s.task c).nextDue = some (n, e) → (∀ x ∈ s.transit, x.core = c → x.agent = .load → (s.task c).toDue x.dest = false) →
      e.va = some va → inWindow va = false → s.lookup c va 256 .load 3 = .ok d →
      (d.tier = 1 → d.kind = 0 → d.homeCore = c) →
      ∃ x : Access, exec (.lossOfDecoupling c b) s = .next (s.send x) ∧ x.kind = .load false ∧ x.va = va ∧ x.dest = .qent n e.id ∧ x.step = e.step)


/-! ### The host interface -/

/-- The registers of BAR0 (R28, R157, R202, R342, R343, R345, R365, R371): a write within its register's range is taken, and one outside it is refused and counted; a second-stage entry is written whole by its upper word and enables its function; a
ring that is on takes only a write that clears EN alone, and setting EN reads HEAD. That the firmware context writes none of the program's shadow bank is the model's reading (assumption 122). -/
def Claim.HostRegisters : Prop :=
  ∀ (s : State) (fn n : Nat) (v : DWord) (e : BitVec 128),
    exec (.registerWrite (.bar0 0 0x8000) v) s =
      .next (if 1000 ≤ v.toNat ∧ v.toNat ≤ 4800 then { s with hub := { s.hub with pcap := v.toNat } } else s.configError) ∧
    exec (.registerWrite (.bar0 0 0x8008) v) s =
      .next (if 100 ≤ v.toNat ∧ v.toNat ≤ 3000 then { s with hub := { s.hub with ilim := v.toNat } } else s.configError) ∧
    exec (.registerWrite (.bar0 0 0x8010) v) s =
      .next (if 10 ≤ v.toNat ∧ v.toNat ≤ 1000 then { s with hub := { s.hub with slew := v.toNat } } else s.configError) ∧
    (∀ d, d < 8 → exec (.registerWrite (.bar0 0 (0x8100 + 8 * d)) v) s = .next (if 1 ≤ v.toNat ∧ v.toNat < 2 ^ 32
      then s.updDie d (fun k => { k with wdlim := v.toNat }) else s.configError)) ∧
    (s.fnEnabled fn = true → fn < 256 → v.toNat < 8 → s.boundaryDue = false →
      exec (.registerWrite (.bar0 fn 0x2800) v) s = .next (s.updFn fn (fun f => { f with psreq := v.setWidth 3 }))) ∧
    (s.fnEnabled fn = false → fn < 256 → exec (.registerWrite (.bar0 fn 0x2800) v) s = .next s) ∧
    (∀ i < 32, exec (.registerWrite (.sys (0x100 + i)) v) s = .next (if s.isFw then s else s.putWord (.sys (0x100 + i)) 1 v)) ∧
    (n < 256 → e = v ++ (s.fn n).staged →
      (stageBad e.toNat = false → ∃ t : State, exec (.secondStageEntryWrite n v) s = .next t ∧ (t.fn n).sstage = e ∧ (t.fn n).enabled = true ∧
        (t.fn n).rings = (s.fn n).rings ∧ (∀ m, m ≠ n → t.fn m = s.fn m) ∧ t.mem = s.mem ∧ t.cores = s.cores) ∧
      (stageBad e.toNat = true → exec (.secondStageEntryWrite n v) s = .next s.configError)) ∧
    (fn < 256 → n < 16 → s.fnEnabled fn = true → v.extractLsb' 1 3 = 0 →
      ((s.ring fn n).on = true → exec (.ringRegisterWrite fn n v) s =
        .next (if v + 1 = (s.ring fn n).reg then s.updRing fn n (fun r => { r with reg := v }) else s)) ∧
      ((s.ring fn n).on = false → v.getLsbD 0 = false → exec (.ringRegisterWrite fn n v) s = .next (s.updRing fn n (fun r => { r with reg := v }))) ∧
      ((s.ring fn n).on = false → v.getLsbD 0 = true → v.getLsbD 11 = false →
        ∃ t : State, exec (.ringRegisterWrite fn n v) s = .next t ∧ (t.ring fn n).reg = v ∧
          (t.ring fn n).head = Memory.readNat s.mem (hostPlace (v.toNat / 4096 * 4096 + 8)) 8 ∧ (t.ring fn n).packets = (s.ring fn n).packets ∧
          t.mem = s.mem))

/-- The host's reads and writes (R27, R125, R342): of its own memory and of BAR0 at once; of tier 3 within its function's carve-out only, a write as a cross-die write of component 8 and a read once the home has applied what it follows. A write of half a word of BAR0 below the physical function's window keeps the other half, and in that window it is dropped;
a read of HBM without a lease gives the bytes as they stand, poisoned or written under an account's key. How the event names an address, the writes of a part of a word and such reads are the model's (assumptions 17, 66, 76 and 123). -/
def Claim.HostAccesses : Prop :=
  ∀ (s : State) (fn a n : Nat) (bs : List Byte),
    s.fnEnabled fn = true →
    (a < 2 ^ 64 →
      exec (.hostWrite fn (2 ^ 64 + a) bs) s = .next (s.storeAt ((List.range bs.length).map (fun i => hostPlace a + i)) bs) ∧
      exec (.hostRead fn (2 ^ 64 + a) n) s = .next { s with hub := { s.hub with hostRead := Memory.readBytes s.mem (hostPlace a) n } }) ∧
    (a < 0xC000 → a % 8 = 0 → exec (.hostRead fn (2 ^ 65 + a) 8) s = .next { s with hub := { s.hub with hostRead := toBytes (s.readBar0 fn a) 8 } } ∧
      exec (.hostRead fn (2 ^ 65 + a + 4) 4) s = .next { s with hub := { s.hub with hostRead := (toBytes (s.readBar0 fn a) 8).drop 4 } } ∧
      (bs.length = 8 → exec (.hostWrite fn (2 ^ 65 + a) bs) s = .next (s.writeBar0 fn a (BitVec.ofNat 64 (ofBytes bs)))) ∧
      (bs.length = 4 → a < 0x8000 →
        exec (.hostWrite fn (2 ^ 65 + a) bs) s = .next (s.writeBar0 fn a (BitVec.ofNat 64 (ofBytes (bs ++ (toBytes (s.readBar0 fn a) 8).drop 4)))) ∧
        exec (.hostWrite fn (2 ^ 65 + a + 4) bs) s = .next (s.writeBar0 fn a (BitVec.ofNat 64 (ofBytes ((toBytes (s.readBar0 fn a) 8).take 4 ++ bs))))) ∧
      (bs.length = 4 → 0x8000 ≤ a → exec (.hostWrite fn (2 ^ 65 + a) bs) s = .next s)) ∧
    (0xC000 ≤ a → a < 0x10000 → a % 4 = 0 → bs.length = 4 →
      exec (.hostRead fn (2 ^ 65 + a) 4) s = .next { s with hub := { s.hub with hostRead := toBytes (s.readBar0 fn a) 4 } } ∧
      exec (.hostWrite fn (2 ^ 65 + a) bs) s = .next (s.writeBar0 fn a (BitVec.ofNat 64 (ofBytes bs)))) ∧
    (∀ p, a < 2 ^ 64 → s.secondStage fn a bs.length = some p → p + bs.length ≤ 2 ^ 39 → bs ≠ [] → s.waiters = [] →
      s.absent ((List.range bs.length).map (fun i => p + i)) = false →
      (s.causalOk (p / 2 ^ 36) 8 ((s.hub.clock).set 8 (clk s.hub.clock 8 + 1)) = true →
        ∃ t : State, exec (.hostWrite fn a bs) s = .next t ∧ t.mem = (s.storeAt ((List.range bs.length).map (fun i => p + i)) bs).mem ∧
          t.cores = s.cores ∧ t.hub.clock = s.hub.clock.set 8 (clk s.hub.clock 8 + 1)) ∧
      (s.causalOk (p / 2 ^ 36) 8 ((s.hub.clock).set 8 (clk s.hub.clock 8 + 1)) = false → exec (.hostWrite fn a bs) s = .next s)) ∧
    (∀ p, a < 2 ^ 64 → s.secondStage fn a n = some p → p + n ≤ 2 ^ 39 → s.causalOk (p / 2 ^ 36) 8 s.hub.clock = true → p < 2 ^ 39 → s.absentIn p n = false →
      ∃ t : State, exec (.hostRead fn a n) s = .next t ∧ t.hub.hostRead = Memory.readBytes s.mem p n ∧ t.mem = s.mem ∧
        t.hub.clock = clkMax s.hub.clock (s.die (p / 2 ^ 36)).clock) ∧
    (a < 2 ^ 64 → s.secondStage fn a bs.length = none → exec (.hostWrite fn a bs) s = .next s)

/-- The registers of BAR0, and the reads and writes of the host. -/
def Obligations.HostInterface : Prop :=
  Claim.HostRegisters ∧ Claim.HostAccesses

/-- Packets (R346, R347, R351, R353, R358): the packet at HEAD is consumed, its VALID byte cleared and HEAD moved on; a no-op and an attestation complete; a page invalidation waits for the accesses that used an entry it drops; a bad packet, an operator record with a reserved field or value set among them, completes with code 4 and is not run. A completed packet writes 64 B with
its cookie, code and detail when it has a signal address. -/
def Obligations.PacketsRun : Prop :=
  ∀ (s : State) (fn n c : Nat) (p : Packet),
    (∀ b v h u, fn < 256 → n < 16 → s.fnEnabled fn = true → (∀ q ∈ (s.ring fn n).packets, q.bad fn = false) → s.nextPacket fn n = some b →
      s.mustWait b = false →
      s.ringPlace fn n ((s.ring fn n).base + 256 * (1 + (s.ring fn n).head % (s.ring fn n).size) + 255) 1 = some v →
      s.ringPlace fn n ((s.ring fn n).base + 8) 8 = some h →
      s.hubWrite (v :: fromTo h 8) (0 :: toBytes (((s.ring fn n).head + 1) % 2 ^ 64) 8) = some u →
      ∃ t : State, exec (.packetConsume fn n) s = .next t ∧ t.mem = u.mem ∧ (t.ring fn n).head = ((s.ring fn n).head + 1) % 2 ^ 64 ∧
        (t.ring fn n).packets =
          (s.ring fn n).packets ++ [{ count := (s.ring fn n).head, body := b, session := (s.fn fn).session }]) ∧
    (fn < 256 → n < 16 → s.fnEnabled fn = true → (s.ring fn n).packets.find? (fun q => q.bad fn) = some p →
      exec (.operatorChain fn n p.count) s = .next s ∧
      (∀ u, s.completePacket fn n p 4 0 0 0 = some u → exec (.packetConsume fn n) s = .next u) ∧
      (p.field 2003 2 = 0 → ∃ t : State, exec (.packetConsume fn n) s = .next t ∧ t.mem = s.mem ∧ t.dies = s.dies ∧
        (t.ring fn n).packets = (s.ring fn n).packets.filter (fun q => q.count != p.count))) ∧
    (∀ q : Packet, (q.type = 0 ∨ 8 ≤ q.type ∨ (q.type = 2 ∧ fn ≠ 0) ∨ (q.type = 1 ∧ recBad q.body = true) ∨ q.field 2022 2 = 3 ∨ q.field 2029 11 ≠ 0 ∨
      (q.type ≠ 1 ∧ (q.field 2000 3 ≠ 0 ∨ q.field 1984 16 ≠ 0))) ↔ q.bad fn = true) ∧
    ((s.ring fn n).packet c = some p → p.bad fn = false → p.result = none → (s.ring fn n).mayStart p = true →
      (p.type = 5 → exec (.noOpPacket fn n c) s =
        .next ((s.startPacket fn n c).finishPacket fn n p (if p.body.extractLsb' 0 1856 = 0 then 0 else 4) 0 0)) ∧
      (∀ d, p.type = 7 → p.body.extractLsb' 448 1408 = 0 → (p.field 384 64) % 64 = 0 →
        (s.startPacket fn n c).ringPlace fn n (p.field 384 64) (384 + (Config.vendorCert.take 2048).length) = some d → 2 ^ 64 ≤ d →
        ∃ t : State, exec (.attestationRequest fn n c) s = .next (t.finishPacket fn n p 0 0 0) ∧
          t = (s.startPacket fn n c).storeAt (fromTo d (384 + (Config.vendorCert.take 2048).length))
            (attestation p.session (p.field 0 384) (s.tagOf fn) fn ++ Config.vendorCert.take 2048)) ∧
      (p.type = 6 → p.field 192 1664 = 0 → p.field 38 26 = 0 → p.field 128 64 ≠ 0 → p.field 128 64 % 65536 = 0 → p.field 64 64 % 65536 = 0 →
        ∀ (i : Inval) (u : State),
          i = { fn := fn, lid := BitVec.ofNat 32 (p.field 0 32), slot := p.field 32 6, first := p.field 64 64 / 65536,
                length := p.field 128 64 / 65536, packet := some (fn, n, c) } →
          (s.startPacket fn n c).startInval i = some u → exec (.pageInvalidation fn n c) s = .next u)) ∧
    (∀ code detail extra, p.count = c → (s.ring fn n).packet c = some p →
      (p.field 2003 2 = 0 → ∃ t : State, s.finishPacket fn n p code detail extra = t ∧ t.mem = s.mem ∧ t.cores = s.cores ∧
        (t.ring fn n).packets = (s.ring fn n).packets.filter (fun q => q.count != c)) ∧
      (p.field 2003 2 = 1 → p.field 1856 64 ≠ 0 → (s.ring fn n).reg.getLsbD 11 = false → MemInv s → code < 2 ^ 8 → detail < 2 ^ 24 →
        ∃ t : State, s.finishPacket fn n p code detail extra = t ∧ (t.ring fn n).packets = (s.ring fn n).packets.filter (fun q => q.count != c) ∧
          Memory.readNat t.mem (hostPlace (p.field 1856 64)) 8 = p.field 1920 64 ∧
          Memory.readNat t.mem (hostPlace (p.field 1856 64) + 8) 8 = code + detail * 2 ^ 8 ∧
          Memory.readNat t.mem (hostPlace (p.field 1856 64) + 16) 32 = extra % 2 ^ 256 ∧
          ∀ q, (q < hostPlace (p.field 1856 64) ∨ hostPlace (p.field 1856 64) + 64 ≤ q) → Memory.read t.mem q = Memory.read s.mem q))

/-- The account commands (R59 to R61, R352, R360), each from a packet of the physical function that may start: what each makes of its account, when it is refused, and that no other account changes. -/
def Obligations.AccountCommands : Prop :=
  ∀ (s : State) (n c k : Nat) (p : Packet) (a : Account) (m v : Nat),
    (s.ring 0 n).packet c = some p → p.bad 0 = false → p.result = none → (s.ring 0 n).mayStart p = true → p.type = 2 → p.accountBad = false →
    k = p.field 0 8 → m = p.field 8 12 → a = s.account m → v = p.field 64 64 →
    ∀ (i : Instr) (ok : Prop) (b : Account),
      ((i = .accountOpen 0 n c ∧ k = 0 ∧ (ok ↔ a.ast = 0) ∧ b = { ast := 1, vf := p.field 128 8, keyid := p.field 136 12 }) ∨
       (i = .accountCredit 0 n c ∧ k = 1 ∧ (ok ↔ a.ast ≠ 0) ∧ b = { a with allow := min (a.allow + v) (2 ^ 64 - 1) }) ∨
       (i = .accountWithdraw 0 n c ∧ k = 2 ∧ (ok ↔ a.ast ≠ 0 ∧ v ≤ a.allow) ∧ b = { a with allow := a.allow - v }) ∨
       (i = .accountFreeze 0 n c ∧ k = 3 ∧ (ok ↔ a.ast = 1) ∧ b = { a with ast := 2 }) ∨
       (i = .accountThaw 0 n c ∧ k = 4 ∧ (ok ↔ a.ast = 2) ∧ b = { a with ast := 1 }) ∨
       (i = .accountSetlow 0 n c ∧ k = 5 ∧ (ok ↔ a.ast ≠ 0 ∧ v < 2 ^ 24) ∧ b = { a with lowm := v }) ∨
       (i = .accountClose 0 n c ∧ k = 6 ∧ (ok ↔ a.ast ≠ 0 ∧ a.nlease = 0 ∧ a.ntask = 0) ∧ b = { a with ast := 0, allow := 0 }) ∨
       (i = .accountRead 0 n c ∧ k = 7 ∧ (ok ↔ True) ∧ b = a)) →
      ∃ t : State, exec i s = .next t ∧ (ok → t.account m = b) ∧ (¬ ok → t.account m = a) ∧ (∀ o, o ≠ m → t.account o = s.account o) ∧
        t.cores = s.cores ∧ t.units = s.units ∧ (i = .accountClose 0 n c → ok → t.hub.reported = s.hub.reported ++ [(m, a.allow)])

/-- Saved prefixes (R354, R355): an export writes its record and the block behind it; an import writes the block only when every check passes, and otherwise completes with code 5 and changes no memory. The spaces of the addresses are the model's reading (assumption 63). -/
def Obligations.SavedPrefixes : Prop :=
  ∀ (s : State) (fn n c x y len : Nat) (p : Packet) (block hdr : List Byte),
    (s.ring fn n).packet c = some p → p.bad fn = false → p.result = none → (s.ring fn n).mayStart p = true → p.prefixBad = false →
    len = p.field 64 32 →
    (p.type = 3 → s.secondStage fn (p.field 0 64) (256 * len) = some x → (s.ring fn n).reg.getLsbD 11 = false → y = hostPlace (p.field 96 64) →
      block = Memory.readBytes s.mem x (256 * len) →
      exec (.prefixExport fn n c) s = .next (((s.startPacket fn n c).storeAt (fromTo y (256 + 256 * len))
        (prefixRecord p.session (s.tagOf fn) len block ++ block)).finishPacket fn n p 0 0 0)) ∧
    (p.type = 4 → (s.ring fn n).reg.getLsbD 11 = false → x = hostPlace (p.field 0 64) → s.secondStage fn (p.field 96 64) (256 * len) = some y →
      hdr = Memory.readBytes s.mem x 256 → block = Memory.readBytes s.mem (x + 256) (256 * len) →
      (importOk p.session (s.tagOf fn) len hdr block = false →
        exec (.prefixImport fn n c) s = .next ((s.startPacket fn n c).finishPacket fn n p 5 0 0)) ∧
      (∀ u, importOk p.session (s.tagOf fn) len hdr block = true → (s.startPacket fn n c).hubWrite (fromTo y (256 * len)) block = some u →
        exec (.prefixImport fn n c) s = .next (u.finishPacket fn n p 0 0 0)))

/-- Operator records (R166, R348 to R350): a packet that is a launch record, or the next record of its chain once the running launch has completed, enters the tail of its die's queue; one read while a launch runs waits in the shadow bank; a record that
fails its checks ends the chain. -/
def Obligations.OperatorRecords : Prop :=
  ∀ (s : State) (fn n c : Nat) (p : Packet) (r : LaunchRec) (g : List SymElem × List Bool),
    ((s.ring fn n).packet c = some p → (s.ring fn n).mayStart p = true → p.type = 1 → p.bad fn = false → (s.ring fn n).chain c = none → p.count = c →
      r = LaunchRec.ofBits p.body.toNat →
      (recBad p.body = false → recKind p.body = 0 → s.enrol fn r = some g → r.group = some g → s.dieFull r.die = false →
        ∃ (t : State) (k : Chain), exec (.operatorChain fn n c) s = .next t ∧
          (t.die r.die).launches = (s.die r.die).launches ++ [{ id := s.nextId, fn := fn, lrec := r, elems := g.1, chi := g.2, cls := r.prio,
                                                                chain := (fn, n, c) }] ∧
          (t.ring fn n).chain c = some k ∧ (k.active.map (fun x => x.2)) = some (p.body, s.nextId) ∧ k.ops = 0 ∧ t.mem = s.mem) ∧
      (s.dieFull r.die = true → recBad p.body = false → recKind p.body = 0 → s.enrol fn r = some g → exec (.operatorChain fn n c) s = .next s) ∧
      (recKind p.body = 0 → s.enrol fn r = none → p.field 2003 2 = 0 → ∃ t : State, exec (.operatorChain fn n c) s = .next t ∧ t.dies = s.dies ∧ t.mem = s.mem ∧
        (t.ring fn n).packets = (s.ring fn n).packets.filter (fun q => q.count != c) ∧ (t.ring fn n).chain c = none)) ∧
    (∀ (k : Chain) (a : Nat) (b : BitVec 2048), (s.ring fn n).chain c = some k → s.readRecord fn a = some b → r = LaunchRec.ofBits b.toNat →
      recBad b = false → recKind b = 0 → s.enrol fn r = some g → r.group = some g → s.dieFull r.die = false → k.shadow = none → k.ending = none →
      (∀ x y z, k.pendingNext = none → k.active = some (x, y, z) → recNext y = a → a ≠ 0 →
        ∃ t : State, exec (.recordExpansion fn n c) s = .next t ∧ (t.ring fn n).chain c = some { k with shadow := some (a, b, true) } ∧
          t.dies = s.dies ∧ t.mem = s.mem) ∧
      (k.pendingNext = some a →
        ∃ (t : State) (k' : Chain), exec (.recordExpansion fn n c) s = .next t ∧ (t.ring fn n).chain c = some k' ∧
          k'.active = some (a, b, s.nextId) ∧ k'.shadow = none ∧ k'.pendingNext = none ∧
          (t.die r.die).launches = (s.die r.die).launches ++ [{ id := s.nextId, fn := fn, lrec := r, elems := g.1, chi := g.2, cls := r.prio,
                                                                chain := (fn, n, c) }]))

/-- Function-level reset and power-on (R344, R357, R371): the reset turns the function's rings off, ends its tasks, resident and saved, with status 6 (a saved one with work left, such as rows to store, once it is on a core again), and refuses its launches that have placed none; no other function, account or lease
changes. Power-on leaves the state after bring-up with the host's memory as it was, in recovery when the
verification failed, and with the stacks that failed their training marked. The record of a reset, the saved tasks with work left and what HBM holds after power-on are the model's readings (assumptions 64 and 65). -/
def Obligations.ResetAndPowerOn : Prop :=
  ∀ (s : State) (fn : Nat) (how : PowerUp),
    (0 < fn → fn < 256 → ∃ t : State, exec (.functionLevelReset fn) s = .next t ∧
      (∀ n, (t.ring fn n).reg = (s.ring fn n).reg &&& ~~~ 1) ∧ (∀ g, g ≠ fn → t.fn g = s.fn g) ∧ t.mem = s.mem ∧ t.hub.accounts = s.hub.accounts ∧
      t.units = s.units ∧
      (∀ d n l, s.launch d n = some l → ∃ y, t.launch d n = some y ∧ (l.fn ≠ fn → y = l) ∧
        (l.fn = fn → y.saved = (l.saved.filter (fun x => x.ctx.unfinished)).map (fun x =>
            { x with ctx := { x.ctx with ends := some (resetRecord x.core l.lrec.lid s.tick) } }) ∧
          y.live = l.live - (l.saved.filter (fun x => !x.ctx.unfinished)).length ∧ (l.live = 0 → l.nextUnit = 0 → y.refused = true ∧ y.code = 1))) ∧
      (∀ e ∈ s.cores, e.2.residency ≠ .free → e.2.task.id.vf = fn →
        (t.core e.1).residency = .retiring true ∧ (t.core e.1).status = 6 ∧ (t.core e.1).faultStatus ≠ none ∧ (t.task e.1).load.st = .idle ∧
        (t.task e.1).compute.st = .idle ∧ (t.task e.1).store.st = .idle ∧ (t.task e.1).mule.st = .halted ∧ ∀ g : Engine, ((t.task e.1).engine g).queue = []) ∧
      (∀ c, (∀ e ∈ s.cores, e.1 = c → e.2.residency = .free ∨ e.2.task.id.vf ≠ fn) → t.core c = s.core c)) ∧
    (∃ t : State, exec (.powerOn how) s = .next t ∧ t.cores = [] ∧ t.dies = [] ∧ t.units = [] ∧ t.transit = [] ∧ t.rc = 0 ∧ t.ac = 0 ∧
      t.cfg = s.cfg ∧ t.hub.recovery = !how.verified ∧ (how.verified = true → t.hub.untrained = how.failed) ∧ t.hub.accounts = [] ∧ t.hub.functions = [] ∧ t.hub.pcap = 4800 ∧ t.hub.ilim = 3000 ∧ t.hub.slew = 200 ∧
      t.hub.psmap = 0x77777777 ∧
      (MemInv s → ∀ a, Memory.read t.mem a = if 2 ^ 64 ≤ a then Memory.read s.mem a else 0))


/-! ### Windows, links and power -/

/-- Joins, READY, aborts and dense lines at the hub of a window's root (R206, R208 to R211): one that passes takes its slot or
adds its weight, and one that fails ends with its status; a join that finds no free slot takes over the last one from a join of the same cycle to a module of
a higher fabric id; READY opens the slot once every join is counted and answers the joins that have come, and a status other than OK from a switch on the way to the root ends one join; an abort discards the sums and goes along every joined route, and once it has reached every joined port the slot is free and its
registrants end, as by a root's abort where the slot is free already; a line is summed lane by lane and leaves for the registrants when it holds every contribution, and a stale one is counted as dropped. How a switch on the way refuses a join, the port of weight 0, the
acknowledgements that an aborted slot waits for and the tie of one cycle are the model's readings (assumptions 72, 86, 102, 124). -/
def Claim.DenseWindows : Prop :=
  ∀ (s : State) (sw wid tag port num line count : Nat) (o : BitVec 16) (out : Bool) (r : BitVec 256) (w : WinSlot) (g : Registrant) (key : DWord) (data : VReg)
    (fl : List Flit),
    sw = s.cfg.fabricId.toNat →
    (port < 8 → wid = (WinRec.ofBits r).wid → s.isRoot (WinRec.ofBits r) = true →
      s.flits.find? (fun f => match f with | .join p x t _ _ => p == port && x == r && t == tag | _ => false) = some (.join port r tag num out) →
      (s.joinStatus port r tag out = 0 → ∃ t : State, exec (.joinArrival sw ⟨port, o⟩ r tag) s = .next t ∧
        t.flits = s.flits.erase (.join port r tag num out) ∧ t.mem = s.mem ∧ t.cores = s.cores ∧
        (s.slot? wid tag = none → t.winSlots = s.winSlots ++ [{ wid := wid, tag := tag, wrec := r, ports := [{ port := port, weight := 1 }] }]) ∧
        (s.slot? wid tag = some w → t.slot? wid tag = some { w with ports := addWeight port w.ports })) ∧
      (∀ gr : SlotGrant, s.joinStatus port r tag out = 1 → s.hub.granted = some gr → gr.cycle = s.rc → s.cfg.fabricId.toNat < gr.origin.toNat → gr.tag ≠ tag →
        s.slot? gr.wid gr.tag = some w → w.st = .joining → w.weight = 1 → s.isRoot w.fields = true →
        (State.deny { s with flits := s.flits.erase (.join port r tag num out) } gr).joinStatus port r tag out = 0 →
        exec (.joinArrival sw ⟨port, o⟩ r tag) s = .next ((State.deny { s with flits := s.flits.erase (.join port r tag num out) } gr).grantSlot
          ⟨port, s.cfg.fabricId⟩ r tag num)) ∧
      (s.joinStatus port r tag out ≠ 0 → s.joinStatus port r tag out ≠ 1 ∨ s.hub.granted = none → s.registrants.find? (fun x => x.num == num) = some g →
        ∃ t : State, exec (.joinArrival sw ⟨port, o⟩ r tag) s = .next t ∧ t.winSlots = s.winSlots ∧ t.mem = s.mem ∧
          t.registrants = s.registrants.filter (fun x => x.num != g.num))) ∧
    (s.slot? wid tag = some w → w.st = .joining →
      ((s.isRoot w.fields = true → w.fields.npart ≤ w.weight) → ∃ t : State, exec (.ready sw wid (.opens tag)) s = .next t ∧
        t.slot? wid tag = some { w with st := .opened } ∧ t.flits = s.flits ++ w.links.map (fun l => .outReady l wid tag) ∧ t.mem = s.mem ∧
        (∀ x ∈ t.registrants, x.wid = wid → x.tag = tag → x.link = none → x.fin = none → s.joining x = false → x.status = some 0) ∧
        (∀ x ∈ s.registrants, s.joining x = true → x ∈ t.registrants)) ∧
      (s.isRoot w.fields = true → w.weight < w.fields.npart → exec (.ready sw wid (.opens tag)) s = .next s) ∧
      (∀ st, s.isRoot w.fields = false → 1 ≤ st → st ≤ 5 → (∃ p ∈ w.ports, p.port = port) →
        (8 ≤ port → ∃ t : State, exec (.ready sw wid (.refused tag port num st)) s = .next t ∧ t.mem = s.mem ∧ t.cores = s.cores ∧
          t.flits = s.flits ++ [.outStatus (port - 8) wid tag st]) ∧
        (port < 8 → (s.registrantsOf wid tag).find? (fun x => x.num == num && x.status.isNone && coreDie x.core == port) = some g →
          exec (.ready sw wid (.refused tag port num st)) s = .next ((s.leaveSlot wid tag port).fixStatus g st)))) ∧
    (s.slot? wid tag = some w → w.st ≠ .aborted → s.flits.contains (.abort wid tag) = true →
      ∃ t : State, exec (.windowAbort sw wid tag) s = .next t ∧ t.mem = s.mem ∧ t.registrants = s.registrants ∧
        t.slot? wid tag = some { w with st := .aborted, lines := [], finished := [], blocks := [] } ∧ t.flits.contains (.abort wid tag) = false ∧
        (∀ l ∈ w.links, ∃ i, .outAbort i l wid tag ∈ t.flits)) ∧
    (s.slot? wid tag = some w → w.st = .aborted → (∀ i l, .outAbort i l wid tag ∉ s.flits) →
      ∃ t : State, exec (.windowAbort sw wid tag) s = .next t ∧ t.slot? wid tag = none ∧ t.mem = s.mem ∧
        ∀ x ∈ t.registrantsOf wid tag, s.joining x = true) ∧
    (s.slot? wid tag = none → s.outliving wid tag ≠ [] → ∃ t : State, exec (.windowAbort sw wid tag) s = .next t ∧ t.mem = s.mem ∧ t.outliving wid tag = [] ∧
      ∀ x ∈ t.registrants, ∀ y ∈ s.outliving wid tag, x.num = y.num → x.fin = some (5, x.dropped)) ∧
    (s.slot? wid tag = none → s.outliving wid tag = [] → exec (.windowAbort sw wid tag) s = .next s) ∧
    (s.slot? wid tag = some w → w.st = .opened → w.fields.sparse = false → line < w.fields.dlen → (8 ≤ port → ∃ p ∈ w.ports, p.port = port) → port < 24 →
      (8 ≤ port ∧ fl = s.flits ∨ port < 8 ∧ ∃ f, fl = s.flits.erase f ∧
        s.flits.find? (fun f => match f with
          | .dense a b p l k n d _ => a == wid && b == tag && p == port && l == line && k == key && n == count && d == data
          | _ => false) = some f) →
      (port < 8 → key.toNat % 256 ≠ w.fields.epoch ∨ (key, line) ∈ w.keys → ∃ t : State,
        exec (.denseContribution sw wid tag port line key count data) s = .next t ∧ t.slot? wid tag = some { w with drops := w.drops + 1 } ∧ t.flits = fl) ∧
      (∀ lanes n, (port < 8 → key.toNat % 256 = w.fields.epoch ∧ (key, line) ∉ w.keys) →
        (match w.lines.find line with
          | none => lanes = denseLanes w.fields.op data ∧ n = count
          | some (old, k) => lanes = List.zipWith (denseCombine w.fields.op) old (denseLanes w.fields.op data) ∧ n = k + count) →
        (n < w.weight → ∃ t : State, exec (.denseContribution sw wid tag port line key count data) s = .next t ∧ t.flits = fl ∧ t.mem = s.mem ∧
          t.slot? wid tag = some { w with lines := w.lines.set line (lanes, n), keys := if port < 8 ∧ key ≠ 0 then w.keys ++ [(key, line)] else w.keys }) ∧
        (w.weight ≤ n → s.isRoot w.fields = true → ∃ t : State,
          exec (.denseContribution sw wid tag port line key count data) s = .next t ∧ t.mem = s.mem ∧
          t.flits = fl ++ ((s.joinedOf wid tag).filter (fun x => (WinRec.ofBits x.wrec).dv)).map (fun x =>
            .result wid tag x.num (256 * line) (toBytes (denseEgress w.fields.op lanes).toNat 256)) ++
            ((s.farRegistrants wid tag).filter (fun x => (WinRec.ofBits x.wrec).dv)).filterMap (fun x => x.link.map (fun l =>
              .outResult l wid tag (WinRec.ofBits x.wrec).dbase (256 * line) (toBytes (denseEgress w.fields.op lanes).toNat 256))))))

/-- Sparse windows and what a window leaves at its registrants (R213 to R217, R332, R376): a word that Gander takes leaves its queue, a body word puts its port's value at its index, and a header too far ahead waits; the lowest done block is emitted with its number, or passed over when none of its entries was taken; a result write is
checked and stored, or reported. -/
def Claim.SparseWindows : Prop :=
  ∀ (s : State) (sw wid tag port : Nat) (w w' : WinSlot) (v key : DWord) (f : Flit) (cmd : Nat),
    sw = s.cfg.fabricId.toNat → s.slot? wid tag = some w → w.st = .opened → w.fields.sparse = true →
    (port < 8 → f = .word wid tag port v key cmd →
      s.flits.find? (fun f => match f with | .word a b p _ _ _ => a == wid && b == tag && p == port | _ => false) = some f →
      (w.takeWord port key v = some w' →
        exec (.ganderInputWord sw wid tag port v) s = .next { s.updSlot wid tag (fun _ => w') with flits := s.flits.erase f }) ∧
      (w.takeWord port key v = none → exec (.ganderInputWord sw wid tag port v) s =
          .next (s.updSlot wid tag (fun w => (w.withPort port).updPort port (fun p => { p with waiting := some (v.toNat / 2 ^ 13 % 2 ^ 20) }))))) ∧
    (∀ (p : WinPort) (b : MergeBlock), p.dropping = false → p.dense = false → w.block? p.block = some b → b.dense = false →
      (v.extractLsb' 0 32).toNat / 4096 = p.block → (∀ l, p.lastIdx = some l → l < (v.extractLsb' 0 32).toNat) →
      (w.fields.vt = 1 → v.extractLsb' 48 16 = 0) → w.units w.fields.vt < 65536 →
      ∃ b', (w.body w.fields.vt p v).block? p.block = some b' ∧
        (b'.values.get (v.extractLsb' 0 32).toNat []).get p.port 0 = v.extractLsb' 32 32 ∧
        (∀ i, i ≠ (v.extractLsb' 0 32).toNat → b'.values.get i [] = b.values.get i [])) ∧
    (∀ b, b ∈ w.blocks → (∀ x ∈ w.blocks, x = b ∨ b.num < x.num) → (∀ n, w.frontier = some n → b.num < n) → w.trailerOut = false →
      (b.values = [] → b.dense = false → exec (.ganderBlockEmit sw wid tag) s =
        .next (s.updSlot wid tag (fun w => { w with blocks := w.blocks.filter (fun x => x.num != b.num) }))) ∧ (b.values ≠ [] ∨ b.dense = true →
      w' = { w with blocks := w.blocks.filter (fun x => x.num != b.num), ovf := w.ovf || (b.emit w.fields.vt w.fields.thr).2,
                    outBlocks := w.outBlocks + 1 } →
      exec (.ganderBlockEmit sw wid tag) s =
        .next ((s.updSlot wid tag (fun _ => w')).emitWords w' (b.emit w.fields.vt w.fields.thr).1 false) ∧
      (b.num < 2 ^ 20 → w.fields.vt < 3 → (((b.emit w.fields.vt w.fields.thr).1.headD 0).extractLsb' 13 20).toNat = b.num ∧
        ((((b.emit w.fields.vt w.fields.thr).1.headD 0).extractLsb' 62 1 = 1) ↔ (b.dense = true ∨ 16 * w.fields.thr < b.values.length))))) ∧
    (∀ (g : Registrant) (off : Nat) (bs : List Byte), (s.registrantsOf wid tag).find? (fun x => x.num == g.num) = some g →
      s.isRoot (WinRec.ofBits g.wrec) = true → s.flits.contains (.result wid tag g.num off bs) = true → bs ≠ [] →
      (∀ p, s.secondStage g.vf ((WinRec.ofBits g.wrec).dbase + off) bs.length = some p → p + bs.length ≤ 2 ^ 39 → s.absent (fromTo p bs.length) = false →
        s.causalOk (p / 2 ^ 36) 8 (s.hub.clock.set 8 (clk s.hub.clock 8 + 1)) = true →
        ∃ t : State, exec (.windowResultWrite wid tag g.num off bs) s = .next t ∧ t.flits = s.flits.erase (.result wid tag g.num off bs) ∧
          t.mem = (s.storeAt (fromTo p bs.length) bs).mem) ∧
      (s.secondStage g.vf ((WinRec.ofBits g.wrec).dbase + off) bs.length = none → ∃ t : State,
        exec (.windowResultWrite wid tag g.num off bs) s = .next t ∧ t.mem = s.mem ∧
        ∀ x ∈ t.registrants, x.num = g.num → g.failed = false → x.failed = true))

/-- The end of a window (R121, R127, R217, R332): at its root, once everything it merged has been written, the hub sends each registrant's flag add, and the slot is free; of a window whose root is elsewhere, once its result has
come whole; and each registrant's window-end element is placed once its flag add has been applied, its task is on its core with the element of the `JOIN` itself
placed, and its output FIFO has room. That the lines and streams dropped at a slot which is free again are counted in the DROPS of its registrants is the model's reading (assumption 125). -/
def Claim.WindowEnds : Prop :=
  ∀ (s : State) (sw wid tag : Nat) (n : WinEnd) (w : WinSlot) (g : Registrant) (add : RemoteFlag),
    sw = s.cfg.fabricId.toNat →
    add = { id := s.nextId, source := 8704, agent := .hub, launch := g.launch, target := (WinRec.ofBits g.wrec).core,
            flag := (WinRec.ofBits g.wrec).flag, value := 1, add := true } →
    ((∀ x ∈ s.registrants, x.wid = wid → x.tag = tag → x.fin = none) → s.registrantsOf wid tag = [g] → g.status = some 0 →
      (s.slot? wid tag = some w → w.st = .opened → s.isRoot w.fields = true → w.merged = true → w.links = [] →
        (∀ x ∈ s.flits, ∀ a b d, x ≠ .result wid tag a b d) →
        ∃ t : State, exec (.windowCompletion sw wid tag n) s = .next t ∧ t.slot? wid tag = none ∧ t.registrantsOf wid tag = [] ∧ t.mem = s.mem ∧
          t.cores = s.cores ∧ t.remote = s.remote ++ [add] ∧
          ∀ x ∈ t.registrants, x.num = g.num → x.fin = some (if x.failed then 4 else 1, w.drops + x.dropped) ∧ x.flagOp = s.nextId) ∧
      (s.slot? wid tag = none → s.isRoot (WinRec.ofBits g.wrec) = false → ((WinRec.ofBits g.wrec).dv = true → g.ended = true) →
        ∃ t : State, exec (.windowCompletion sw wid tag n) s = .next t ∧ t.registrantsOf wid tag = [] ∧ t.mem = s.mem ∧ t.cores = s.cores ∧
          t.remote = s.remote ++ [add] ∧ ∀ x ∈ t.registrants, x.num = g.num → x.fin = some (if x.failed then 4 else 1, n.drops + x.dropped)) ∧
      (s.slot? wid tag = none → (WinRec.ofBits g.wrec).dv = true → g.ended = false → exec (.windowCompletion sw wid tag n) s = .next s)) ∧
    (∀ (c d : Nat) (st : BitVec 8), s.slot? wid tag = none → s.registrantsOf wid tag = [] →
      s.registrants.filter (fun x => x.wid == wid && x.tag == tag && x.fin.isSome) = [g] → g.fin = some (st, d) →
      g.ntf = true → s.coreOfMember (coreDie g.core) g.launch g.unit g.crew g.gang = some c →
      ((∀ f ∈ s.remote, f.id ≠ g.flagOp) → (∀ x ∈ (s.task c).cl.running, x.cmd.id ≠ g.cmd) → (s.task c).cl.out.length < 16 →
        ∃ t : State, exec (.windowCompletion sw wid tag n) s = .next t ∧ t.mem = s.mem ∧ (∀ x ∈ t.registrants, x.num ≠ g.num) ∧
          (t.task c).cl.out = (s.task c).cl.out ++ [windowEnd st g.length d]) ∧
      ((∃ f ∈ s.remote, f.id = g.flagOp) ∨ (∃ x ∈ (s.task c).cl.running, x.cmd.id = g.cmd) ∨ 16 ≤ (s.task c).cl.out.length → exec (.windowCompletion sw wid tag n) s = .next s))

/-- Windows of the fabric switch. -/
def Obligations.FabricWindows : Prop :=
  Claim.DenseWindows ∧ Claim.SparseWindows ∧ Claim.WindowEnds

/-- Links, intervals and the relock (R203, R204, R362 to R368): a trained link is up with its peer; a link that fails takes its commands with it; an interval boundary sets the point that the requests, the measured current and power and the dies' limits give, and starts a relock when it changes; the relock ends. When requests are taken is the model's reading (assumption 36). -/
def Obligations.LinksAndPower : Prop :=
  ∀ (s : State) (l peer port lanes req point cur : Nat) (r : Reading) (high hot : Bool),
    (∀ k : Link, k = { state := 2, peer := peer % 65536, port := port % 256, lanes := min lanes 8 } → l < 16 →
      exec (.linkTrained l peer port lanes) s = .next { s with hub := { s.hub with links := s.hub.links.set l k } }) ∧
    (l < 16 → (s.hub.links.get l {}).state = 2 → ∃ t : State, exec (.linkFailure l) s = .next t ∧
      (t.hub.links.get l {}).state = 3 ∧ (∀ n, n ≠ l → t.hub.links.get n {} = s.hub.links.get n {}) ∧ t.mem = s.mem ∧
      (∀ f ∈ t.flits, f ∈ s.flits) ∧ (∀ i c d r, .outRow i c l d r ∉ t.flits) ∧
      (∀ c, ∀ r ∈ (s.task c).cl.running, s.crosses l (s.task c) r = true → (∀ y ∈ (s.task c).cl.running, y.cmd.id = r.cmd.id → y = r) →
        ∀ y ∈ (t.task c).cl.running, y.cmd.id = r.cmd.id → y.st = .ended 4 (BitVec.ofNat 42 r.st.progress)) ∧
      ((∀ x ∈ s.tasks, s.crossing l x = []) →
        t = { s with flits := t.flits, hub := { s.hub with links := s.hub.links.set l { s.hub.links.get l {} with state := 3, lanes := 0 } } })) ∧
    (l < 16 → (s.hub.links.get l {}).state ≠ 2 → exec (.linkFailure l) s = .next s) ∧
    (s.boundaryDue = true → req = s.requestedPoint → (high = true ↔ s.hub.ilim < cur) →
      (hot = true ↔ s.hub.pcap < r.power + s.hub.owed ∨ ∃ d < 8, ∃ k, s.cfg.thermal.find d = some k ∧ k < r.heat.getD d 0) →
      point = (if high then max 7 (min 15 (req + 2)) else if hot then max 7 (min 15 (req + 1)) else req) →
      ∃ t : State, exec (.controlIntervalBoundary cur r) s = .next t ∧ t.hub.point = point ∧ t.hub.interval = s.hub.interval + 1 ∧
        t.hub.paceFloor = (if high then 16 else 0) ∧ t.hub.relocking = (s.hub.relocking || point != s.hub.point) ∧
        t.hub.owed = min r.ballast (r.power - s.hub.pcap) ∧
        (∀ f, s.hub.functions.find f ≠ none ∨ f = 0 → (t.fn f).vcur = s.vreqAt f ∧
          ((t.fn f).throt = true ↔ psPoint s.psmapAt (s.vreqAt f) < point)) ∧
        t.mem = s.mem ∧ t.cores = s.cores) ∧
    (s.boundaryDue = false → exec (.controlIntervalBoundary cur r) s = .next s) ∧
    (∀ map : Nat → Nat, (∀ f, map f = s.psmapAt.toNat / 2 ^ (4 * (s.vreqAt f).toNat) % 16) →
      (∀ e ∈ s.cores, e.2.residency ≠ .free → s.requestedPoint ≤ map e.2.task.id.vf) ∧
      ((∃ e ∈ s.cores, e.2.residency ≠ .free) → ∃ e ∈ s.cores, e.2.residency ≠ .free ∧ s.requestedPoint = map e.2.task.id.vf) ∧
      ((∀ e ∈ s.cores, e.2.residency = .free) → s.requestedPoint = 15)) ∧
    (s.hub.relocking = true → ∃ t : State, exec .clockRelock s = .next t ∧ t.hub.relocking = false ∧ t.mem = s.mem ∧
      (∀ c, (t.core c).task = (s.core c).task) ∧ t.ac = s.ac) ∧
    (s.hub.relocking = false → exec .clockRelock s = .next s)


/-! ### Launches and tasks -/

/-- Ox (R167, R168, R172): it takes the launches of its die in turn, one vector in an ac: of those that it has work for, the next by number after the last, or the first. It examines the vector at that launch's position: one that is not canonical, or a code outside the extents, only moves the position on; a canonical one joins the unit that forms, which is formed when it has its members; at the end of the index
space what has formed is the last unit. The order over launches is the model's reading of R167 (assumption 57), and so is that a code outside the extents takes one examination (assumption 58). -/
def Claim.UnitsForm : Prop :=
  ∀ (s : State) (d n : Nat) (l : Launch),
    d < 8 →
    ((s.die d).oxAc = some s.ac ∨ (s.die d).oxNext ≠ some n → exec (.oxVectorExamine d n) s = .next s) ∧
    ((s.die d).oxNext = some n → ∃ x ∈ (s.die d).launches, x.id = n ∧ x.oxWork = true ∧ ∀ y ∈ (s.die d).launches, y.oxWork = true →
      (∀ p, (s.die d).oxLast = some p → p < y.id → p < n ∧ n ≤ y.id) ∧
      ((s.die d).oxLast = none → n ≤ y.id) ∧
      (∀ p, (s.die d).oxLast = some p → (∀ z ∈ (s.die d).launches, z.oxWork = true → z.id ≤ p) → n ≤ y.id)) ∧
    ((s.die d).oxAc ≠ some s.ac → (s.die d).oxNext = some n → s.launch d n = some l → l.oxWork = true →
      ∃ (t : State) (y : Launch), exec (.oxVectorExamine d n) s = .next t ∧ t.launch d n = some y ∧ t.mem = s.mem ∧
      t.cores = s.cores ∧ t.hub = s.hub ∧ (t.die d).oxLast = some n ∧ (t.die d).oxAc = some s.ac ∧
      (l.lrec.visit l.pos = .passed → y = { l with pos := l.pos + 1 }) ∧
      (∀ v, l.lrec.visit l.pos = .vector v → y.pos = l.pos + 1 ∧ y.exhausted = false ∧
        (l.canonical v = false → y = { l with pos := l.pos + 1 }) ∧
        (l.canonical v = true → l.forming.length + 1 = l.lrec.unitSize →
          y.formed = some { num := l.nextUnit, members := l.forming ++ [(v, l.stabiliser v)] } ∧ y.forming = []) ∧
        (l.canonical v = true → l.forming.length + 1 ≠ l.lrec.unitSize →
          y.formed = none ∧ y.forming = l.forming ++ [(v, l.stabiliser v)])) ∧
      (l.lrec.visit l.pos = .done → y.exhausted = true ∧ y.pos = l.pos ∧ y.forming = [] ∧
        y.formed = (if l.forming = [] then none else some { num := l.nextUnit, members := l.forming })))

/-- Selection (R82, R146, R161, R168, R181, R343): on a die with a free core, the one ready launch of the function whose turn it is gets the core for its unit of one: the core is placing, with the task of that unit, its meter's first tick debited and NTASK one more, and
the selection is counted. With no free core nothing is placed. That a selection needs a free core, and which function is served first, are the model's reading (assumption 57), and the save area is the lowest free one (assumption 60). -/
def Claim.UnitsArePlaced : Prop :=
  ∀ (s s' u : State) (d c ar : Nat) (l : Launch) (v : List Nat) (st : BitVec 16) (f : LaunchUnit),
    (d < 8 → s.anyFree d = false → exec (.launchSelection d) s = .next s) ∧
    (d < 8 → s.anyFree d = true → (s.die d).launches = [l] → (s.die d).requests = [] → (s.die d).reservation = none →
      s' = s.grantReservation d → l.fn < 256 → l.cls < 4 → ((s.die d).lastServed + 1) % 256 = l.fn → (s'.die d).left l.fn ≠ 0 →
      s'.launchReady d l = true → l.saved = [] → bits (s'.fn l.fn).spsize.toNat 0 24 ≠ 0 → l.formed = some f → f.members = [(v, st)] → s'.fitUnit d l none [[.fresh v st]] = some [[c]] →
      s'.takeAreas l.fn (areaBytes l.lrec.nslot) 1 [] = some [ar] → s'.debit l.lrec.acct (meterUnits l.lrec.nslot) = some u →
      ∃ (t : State) (y : Launch), exec (.launchSelection d) s = .next t ∧ (t.core c).residency = .placing ∧
        (t.core c).task = { freshTask l l.nextUnit 0 0 1 1 v st ar with share := { window := s.ac } } ∧ (∀ k, k ≠ c → t.core k = s.core k) ∧
        (t.account l.lrec.acct).ntask = (s.account l.lrec.acct).ntask + 1 ∧
        (t.account l.lrec.acct).allow = (s.account l.lrec.acct).allow - meterUnits l.lrec.nslot ∧
        t.launch d l.id = some y ∧ y.formed = none ∧ y.nextUnit = l.nextUnit + 1 ∧ (t.die d).lastServed = l.fn ∧ t.mem = s.mem)

/-- How the units of a launch form and are placed. -/
def Obligations.LaunchUnits : Prop :=
  Claim.UnitsForm ∧ Claim.UnitsArePlaced

/-- The start of a task (R13, R90, R146, R161, R169, R246): a placing task becomes resident with its segment table and tokens loaded from its images, its rows zero, its control sequencer in RUN at the launch's entry, x24 to x29 the vector, x31 the launch id, x30 the
task word, and every other register zero. A fault in what is read belongs to the launch's first task and traps. -/
def Claim.TasksStart : Prop :=
  ∀ (s : State) (c : Nat) (l : Launch) (i : TaskId),
    (s.core c).residency = .placing → i = (s.core c).task.id → s.launchOf c (s.core c).task = some l →
    (s.startFault i = none → (s.core c).preempt = none →
      ∃ t : State, exec (.taskStart c) s = .next t ∧ (t.core c).residency = .resident ∧ (t.core c).table = s.loadTable i.vf i.stimg ∧
        (t.task c).id = i ∧ (t.task c).ctl.st = .run ∧ (t.task c).ctl.step = i.entry) ∧
    (s.startFault i = none → (s.core c).preempt = none → MemInv s →
      ∃ t : State, exec (.taskStart c) s = .next t ∧
        (∀ k < 6, (t.task c).regs.x.get (24 + k) 0 = BitVec.ofNat 64 (i.vector.getD k 0)) ∧
        (t.task c).regs.x.get 31 0 = i.lid.setWidth 64 ∧ (∀ k < 24, (t.task c).regs.x.get k 0 = 0) ∧
        (i.gangRank < 16 → 1 ≤ i.gangCount → i.gangCount ≤ 16 → i.crewRank < 32 → 1 ≤ i.crewCount → i.crewCount ≤ 32 → l.elems.length ≤ 16 →
          ∃ w, (t.task c).regs.x.get 30 0 = w ∧ w.extractLsb' 0 4 = BitVec.ofNat 4 i.gangRank ∧
            w.extractLsb' 4 4 = BitVec.ofNat 4 (i.gangCount - 1) ∧ w.extractLsb' 8 5 = BitVec.ofNat 5 i.crewRank ∧
            w.extractLsb' 13 5 = BitVec.ofNat 5 (i.crewCount - 1) ∧ w.getLsbD 18 = (i.stab.extractLsb' 1 15 != 0) ∧
            w.extractLsb' 19 5 = BitVec.ofNat 5 (max l.elems.length 1) ∧ w.extractLsb' 32 16 = i.stab ∧ w.extractLsb' 48 16 = 0) ∧
        (∀ k, ((t.task c).regs.d.get k 0 = 0 ∧ (t.task c).regs.v.get k 0 = 0 ∧ (t.task c).regs.aLoad.get k 0 = 0 ∧
          (t.task c).regs.aStore.get k 0 = 0 ∧ (t.task c).regs.sreg.get k 0 = 0 ∧ (t.task c).regs.p.get k false = false ∧
          (t.task c).regs.m.get k 0 = 0 ∧ (t.task c).shared.flag.get k 0 = 0 ∧ (t.task c).shared.queue.get k [] = [])) ∧
        (t.task c).shared.tags = 0 ∧ (t.task c).shared.fstat = 0 ∧
        (∀ k, k < 16384 * i.nslot → Memory.read t.mem (filePlace c k) = 0) ∧
        (∀ p, (p < filePlace c 0 ∨ filePlace c 0 + 16384 * i.nslot ≤ p) → Memory.read t.mem p = Memory.read s.mem p)) ∧
    (∀ f, s.startFault i = some f →
      ∃ (t : State) (r : FaultRec), exec (.taskStart c) s = .next t ∧ ((t.task c).pending.find 0) ≠ none ∧ (t.task c).ctl.st = .faulted ∧
        r.cls = f.cls ∧ r.kind = f.kind ∧ r.seq = 0 ∧ ((s.task c).pending = [] → (t.task c).pending = [(0, r)] ∧ (t.task c).suspended = true))

/-- The synchronisation table (R90, R246): the entry of token n gives its count, its parties and whether it has any; an entry that breaks a rule of the table faults the launch's first task. -/
def Claim.TokenTables : Prop :=
  ∀ (e : Nat) (s : State) (t : TaskId) (p q : Nat),
    (tokenOf e).count = BitVec.ofNat 8 (e / 2 ^ 8) ∧ (tokenOf e).prod = BitVec.ofNat 2 (e / 4) ∧ (tokenOf e).cons = BitVec.ofNat 2 e ∧
    ((tokenOf e).used = true ↔ e / 2 ^ 7 % 2 = 1) ∧
    (tokenBad e = true ↔ (e / 2 ^ 16 % 2 ^ 16 ≠ 0 ∨ e / 2 ^ 4 % 8 ≠ 0 ∨ (e / 2 ^ 7 % 2 = 1 ∧ e / 4 % 4 = e % 4) ∨
      (e / 2 ^ 7 % 2 = 0 ∧ (e / 2 ^ 8 % 2 ^ 8 ≠ 0 ∨ e % 16 ≠ 0)))) ∧
    (t.unit = 0 → t.gangRank = 0 → t.crewRank = 0 → t.synct ≠ 0 → s.secondStage t.vf (t.stimg * 2048) 2048 = some p →
      s.absent (fromTo p 2048) = false → s.poisoned (fromTo p 2048) = false → s.secondStage t.vf (t.synct * 64) 64 = some q →
      s.absent (fromTo q 64) = false → s.poisoned (fromTo q 64) = false →
      (∀ k < 16, tokenBad (Memory.readNat s.mem (q + 4 * k) 4) = false) → s.startFault t = none) ∧
    (t.unit = 0 → t.gangRank = 0 → t.crewRank = 0 → s.secondStage t.vf (t.stimg * 2048) 2048 = none →
      s.startFault t = some (progError 2 0 (BitVec.ofNat 64 (t.stimg * 2048)))) ∧
    (t.unit = 0 → t.gangRank = 0 → t.crewRank = 0 → s.secondStage t.vf (t.stimg * 2048) 2048 = some p → s.absent (fromTo p 2048) = true →
      s.startFault t = some { cls := 9, kind := 5, addr := BitVec.ofNat 64 (t.stimg * 2048) }) ∧
    (t.unit ≠ 0 ∨ t.gangRank ≠ 0 ∨ t.crewRank ≠ 0 → s.startFault t = none)

/-- The start of a task. -/
def Obligations.TaskStarts : Prop :=
  Claim.TasksStart ∧ Claim.TokenTables

/-- Images (R174 to R177): Lamb writes the next image of a task's oldest row; a value of character −1 is negated, with the most negative integer becoming the most positive; an offset outside the segment's space, a negated n8 and a failed lookup fault, and a write through a message queue's slot is a message. That one write of a task is in flight at a time is the model's reading (assumption 61). -/
def Obligations.ImagesAreStored : Prop :=
  (∀ (s u : State) (d n : Nat) (r : ImageRow) (l : Launch) (e : SymElem) (off : Int) (bs : List Byte) (va : DWord),
    d < 8 → (s.hub.relocking = true → exec (.imageStore d) s = .next s) ∧
    (s.hub.relocking = false → (s.die d).lamb.find? (s.rowReady d) = some r → s.launchOf r.core (s.task r.core) = some l →
    (r.next l = none → ∃ t : State, exec (.imageStore d) s = .next t ∧ t.mem = s.mem ∧ t.cores = s.cores ∧
      (t.die d).lamb = replaceFirst r.core (fun _ => none) (s.die d).lamb) ∧
    (r.next l = some n → e = l.elems.getD n SymElem.one → ({ r with elem := n } : ImageRow).writeOf l e (l.chi.getD n false) = (off, bs) →
      va = BitVec.ofNat 64 (l.lrec.oslot * 2 ^ 58 + (off % 2 ^ 58).toNat) →
      u = s.updDie d (fun k => { k with lamb := firstRow r.core (fun x => { x with elem := n }) k.lamb }) →
      (l.chi.getD n false = true → r.fmt = 6 →
        exec (.imageStore d) s = .next (u.imageFault r.core (u.imageRec { r with elem := n } n
          { cls := 5, kind := 5, addr := va, slot := l.lrec.oslot }))) ∧
      ((l.chi.getD n false = false ∨ r.fmt ≠ 6) → (off < 0 ∨ 2 ^ 58 ≤ off) →
        exec (.imageStore d) s = .next (u.imageFault r.core (u.imageRec { r with elem := n } n (progError 2 0 va l.lrec.oslot)))) ∧
      (∀ q, q = u.engineAccess r.core { kind := .store, va := va, offs := List.range bs.length, mode := .store, data := bs, opf := opfTag n,
                                        agent := .image } →
        (l.chi.getD n false = false ∨ r.fmt ≠ 6) → 0 ≤ off → off < 2 ^ 58 →
        (∀ f, q = .error f → exec (.imageStore d) s = .next (u.imageFault r.core (u.imageRec { r with elem := n } n f))) ∧
        (∀ a, q = .ok a → a.kind ≠ .message → exec (.imageStore d) s = .next (u.send { a with step := BitVec.ofNat 64 r.num })) ∧
        (∀ a, q = .ok a → a.kind = .message →
          exec (.imageStore d) s = .next ((u.sendMessage { a with step := BitVec.ofNat 64 r.num }).getD u)))))) ∧
  (∀ (f : NumFmt) (v : Nat), f.isInt = true → v < 2 ^ (8 * f.bytes) →
    (sext v (8 * f.bytes) = f.minInt → (negated f v : Int) = f.maxInt) ∧
    (sext v (8 * f.bytes) ≠ f.minInt → (negated f v : Int) = -sext v (8 * f.bytes) % 2 ^ (8 * f.bytes)))

/-- Retirement (R81, R159, R160, R178): a retiring task whose work is done leaves its core free, with its table gone, its rows zero, NTASK one less and its launch one live task fewer; until then the event leaves everything as it is. What becomes of held stores is the model's reading (assumption 61). -/
def Claim.TasksRetire : Prop :=
  ∀ (s : State) (c : Nat) (i : TaskId) (l : Launch),
    i = (s.core c).task.id →
    (s.mayRetire c = false → exec (.taskRetirement c) s = .next s) ∧
    (s.mayRetire c = true → ∃ t : State, exec (.taskRetirement c) s = .next t ∧ (t.core c).residency = .free ∧ (t.core c).table = [] ∧
      (t.task c) = {}) ∧
    (s.mayRetire c = true → s.slotWrites.any (fun w => w.core == c) = false → MemInv s → s.launch (coreDie c) i.launch = some l →
      ∃ (t : State) (y : Launch), exec (.taskRetirement c) s = .next t ∧ (∀ k, k ≠ c → t.core k = s.core k) ∧
        (t.account i.acct).ntask = (s.account i.acct).ntask - 1 ∧ (∀ k, k ≠ i.acct → t.account k = s.account k) ∧
        t.launch (coreDie c) i.launch = some y ∧ y.live = l.live - 1 ∧
        ((s.core c).faultStatus = none → (s.core c).residency = .retiring false → y = { l with live := l.live - 1 }) ∧
        (∀ k, k < 16384 * i.nslot → Memory.read t.mem (filePlace c k) = 0) ∧
        (∀ p, (p < filePlace c 0 ∨ filePlace c 0 + 16384 * i.nslot ≤ p) → Memory.read t.mem p = Memory.read s.mem p))

/-- The completion of a launch (R183, R351): a launch that has issued every vector, or was refused, and whose tasks have all retired leaves its die's queue; its code is refused, faulted, aborted or done in that order. A launch with work left stays. -/
def Claim.LaunchesComplete : Prop :=
  ∀ (s : State) (d n : Nat) (l : Launch),
    (l.refused = true → l.code = 1) ∧ (l.refused = false → l.faulted ≠ none → l.code = 2) ∧
    (l.refused = false → l.faulted = none → l.aborted = true → l.code = 3) ∧ (l.refused = false → l.faulted = none → l.aborted = false → l.code = 0) ∧
    (d < 8 → s.launch d n = some l →
      (l.live ≠ 0 ∨ l.saved ≠ [] → exec (.launchCompletion d n) s = .next s) ∧
      (l.refused = false → (l.exhausted = false ∨ l.formed ≠ none ∨ l.forming ≠ []) → exec (.launchCompletion d n) s = .next s) ∧
      (l.live = 0 → l.saved = [] → (l.refused = true ∨ (l.exhausted = true ∧ l.formed = none ∧ l.forming = [])) →
        (s.ring l.chain.1 l.chain.2.1).chain l.chain.2.2 = none →
        ∃ t : State, exec (.launchCompletion d n) s = .next t ∧ t.launch d n = none ∧ t.mem = s.mem ∧ t.cores = s.cores ∧
          (∀ m, m ≠ n → t.launch d m = s.launch d m)))

/-- The end of a task and of its launch. -/
def Obligations.TaskEnds : Prop :=
  Claim.TasksRetire ∧ Claim.LaunchesComplete

/-- Pre-emption requests (R161, R189, R194): the request is latched at every member of the gang or crew; at one that is resident and not in a handler it is a trap of class 6 with the request's cause, its record pending and its control sequencer suspended where it stands; one in a handler or on its way to its core keeps the request until then; a task that stops or retires ignores it. -/
def Claim.TasksStop : Prop :=
  ∀ (s : State) (c cause : Nat),
    c < 4096 → 1 ≤ cause → cause ≤ 3 → (s.core c).residency ≠ .free →
    ∃ t : State, exec (.preemptionRequest c cause) s = .next t ∧ t.mem = s.mem ∧
      (∀ m, m ∉ s.unitCores c → t.core m = s.core m) ∧
      ∀ m ∈ s.unitCores c,
        ((s.core m).residency = .resident → (s.core m).task.suspended = false → (s.core m).task.pending.find 0 = none →
          (t.core m).residency = .resident ∧ (t.core m).preempt = some cause ∧ (t.task m).suspended = true ∧
          (t.task m).regs = (s.task m).regs ∧ ((t.task m).ctl.st = .faulted) ∧
          ∃ r : FaultRec, (t.task m).pending = (s.task m).pending.set 0 r ∧ r.cls = 6 ∧ r.kind = BitVec.ofNat 8 cause ∧ r.seq = 0 ∧
            r.step = (s.task m).ctl.step) ∧
        ((s.core m).residency = .resident → (s.core m).task.suspended = true → t.core m = { s.core m with preempt := some cause }) ∧
        ((s.core m).residency = .placing ∨ (s.core m).residency = .restoring → t.core m = { s.core m with preempt := some cause }) ∧
        (∀ b, (s.core m).residency = .retiring b → t.core m = s.core m) ∧
        (∀ k, (s.core m).residency = .stopping k → t.core m = s.core m)

/-- Saving (R81, R118, R161, R195 to R197): a stopping task with nothing left on its way enters SAVED: its registers, step and flags are kept with its launch, its rows go to its save area and leave zeros, NTASK falls by one and its core is free; a save area in absent addresses ends it. What is kept beside the save area's slots is the model's form (assumptions 51 and 60), and so is the
end at absent addresses (assumption 110). -/
def Claim.TasksAreSaved : Prop :=
  ∀ (s u : State) (c cause p : Nat) (i : TaskId) (l : Launch),
    (s.core c).residency = .stopping cause → i = (s.core c).task.id → s.secondStage i.vf (s.task c).area (areaBytes i.nslot) = some p →
    (s.maySave c = false → exec (.taskSaveComplete c) s = .next s) ∧
    (s.maySave c = true → s.absentIn p (areaBytes i.nslot) = true → exec (.taskSaveComplete c) s =
      .next (s.endTask c 9 (s.mkRec c .control { cls := 9, kind := 5, addr := BitVec.ofNat 64 (s.task c).area }))) ∧
    (s.maySave c = true → s.absentIn p (areaBytes i.nslot) = false → u = s.landAll c .mule (s.pipe c .mule) →
      (∃ t : State, exec (.taskSaveComplete c) s = .next t ∧ (t.core c).residency = .free ∧ (t.core c).table = [] ∧ t.task c = {}) ∧
      (s.launch (coreDie c) i.launch = some l → MemInv u → p + areaBytes i.nslot ≤ 2 ^ 39 → (s.task c).cp.running = [] → (s.task c).cl.running = [] →
        ∃ (t : State) (y : SavedTask), exec (.taskSaveComplete c) s = .next t ∧
          t.launch (coreDie c) i.launch = some { l with saved := l.saved ++ [y] } ∧ y.core = c ∧ y.ctx.id = i ∧ y.ctx.regs = (u.task c).regs ∧
          y.ctx.shared.flag = (u.task c).shared.flag ∧ y.ctx.shared.tags = (u.task c).shared.tags ∧ y.ctx.ctl.step = (s.task c).ctl.step ∧
          (t.account i.acct).ntask = (s.account i.acct).ntask - 1 ∧
          (∀ k, k < 16384 * i.nslot → Memory.read t.mem (p + k) = Memory.read u.mem (filePlace c k) ∧ Memory.read t.mem (filePlace c k) = 0) ∧
          (∀ q, (q < filePlace c 0 ∨ filePlace c 0 + 16384 * i.nslot ≤ q) → (q < p ∨ p + 16384 * i.nslot ≤ q) →
            Memory.read t.mem q = Memory.read u.mem q)))

/-- Restoring (R13, R161, R193, R198): a restoring task becomes resident with its registers, flags and step as they were saved, its table loaded again and its rows back from its save area. It waits
until Lamb has room for the rows that it brings, and one whose function was reset while it was saved ends with status 6 (assumption 64). -/
def Claim.TasksAreRestored : Prop :=
  ∀ (s : State) (c p : Nat) (i : TaskId),
    (s.core c).residency = .restoring → i = (s.core c).task.id → s.secondStage i.vf (s.task c).area (areaBytes i.nslot) = some p →
    (512 < s.lambRows (coreDie c) + (s.task c).images.length → exec (.taskRestore c) s = .next s) ∧
    (∀ r, s.lambRows (coreDie c) + (s.task c).images.length ≤ 512 → (s.task c).ends = some r → ∃ t : State, exec (.taskRestore c) s = .next t ∧
      (t.core c).residency = .retiring true ∧ (t.core c).status = 6 ∧ (t.core c).faultStatus = some r ∧ (t.task c).ends = none) ∧
    (s.lambRows (coreDie c) + (s.task c).images.length ≤ 512 → (s.task c).ends = none → (s.core c).preempt = none → MemInv s →
    s.absentIn p (areaBytes i.nslot) = false → s.poisonedIn p (areaBytes i.nslot) = false →
    ∃ t : State, exec (.taskRestore c) s = .next t ∧ (t.core c).residency = .resident ∧ (t.core c).table = t.loadTable i.vf i.stimg ∧
      (t.task c).id = i ∧ (t.task c).regs = (s.task c).regs ∧ (t.task c).shared.flag = (s.task c).shared.flag ∧
      (t.task c).ctl.step = (s.task c).ctl.step ∧ (∀ k, k ≠ c → t.core k = s.core k) ∧
      (∀ k, k < 16384 * i.nslot → Memory.read t.mem (filePlace c k) = Memory.read s.mem (p + k)) ∧
      (∀ q, (q < filePlace c 0 ∨ filePlace c 0 + 16384 * i.nslot ≤ q) → Memory.read t.mem q = Memory.read s.mem q))

/-- Pre-emption, the saving of a task and its resumption. -/
def Obligations.TasksSavedAndRestored : Prop :=
  Claim.TasksStop ∧ Claim.TasksAreSaved ∧ Claim.TasksAreRestored

/-! ### Faults, traps and the watchdog -/

/-- Taking a fault at issue (R185 to R189, R191): the word has no other effect: the agent enters FAULTED, its record names its class, kind, field, address, step and place and becomes its pending record, the program's control sequencer is suspended with its results
captured, and registers and memory stay as they are. A second fault of an agent sets MULTI in the record that is pending, and one met while a handler runs is held. -/
def Obligations.FaultsTrap : Prop :=
  ∀ (s : State) (f : FaultInfo) (c : Nat) (r : FaultRec),
    c = s.cur.core → c < 4096 → r = s.mkRec c s.cur.agent f →
    (s.cur.agent = .control ∨ s.cur.agent = .load ∨ s.cur.agent = .compute ∨ s.cur.agent = .store ∨ s.cur.agent = .mule) →
    r.cls = f.cls ∧ r.kind = f.kind ∧ r.opf = f.opf ∧ r.addr = f.addr ∧ r.step = s.stepOf c s.cur.agent ∧ r.seq = seqCode s.cur.agent ∧
    r.lid = (s.task c).id.lid ∧ r.defer = false ∧ r.multi = false ∧
    ∃ t : State, raise f s = .next t ∧ t.mem = s.mem ∧ (t.task c).regs = (s.task c).regs ∧ (∀ k, k ≠ c → t.core k = s.core k) ∧
      (t.core c).residency = (s.core c).residency ∧ t.cur.sig = .fault r ∧
      (s.cur.agent = .mule → (t.task c).mule = { (s.task c).mule with st := .faulted }) ∧
      (s.cur.agent ≠ .mule → ((t.task c).seq s.cur.agent).st = .faulted ∧ ((t.task c).seq s.cur.agent).step = ((s.task c).seq s.cur.agent).step) ∧
      ((s.task c).pending.find r.seq.toNat = none →
        (t.task c).pending = (s.task c).pending.set r.seq.toNat r ∧ (t.task c).suspended = true ∧
        ((s.task c).suspended = true → (t.task c).heldFaults = (s.task c).heldFaults ++ [r]) ∧
        ((s.task c).suspended = false → (t.task c).heldFaults = (s.task c).heldFaults ∧ (t.task c).tstep = (s.task c).ctl.step ∧
          (t.task c).ctl.pipe = [] ∧
          (t.task c).ctl.snap = (s.task c).ctl.snap ++ ((s.task c).ctl.pipe ++ (s.task c).signalsOf .control))) ∧
      (∀ old, (s.task c).pending.find r.seq.toNat = some old →
        (t.task c).pending = (s.task c).pending.set r.seq.toNat { old with multi := true } ∧ (t.task c).suspended = (s.task c).suspended)

/-- The handling of a trap (R189, R196, R338, R375): a page that is not present logs its record and pre-empts the task with cause 3 until the page is mapped; a pre-emption event pre-empts with its cause; a call for a service that Rinty does not provide returns all ones in
x10 to the next bundle; any other class ends the task with a fault status, as under abandonment. A trap that is met while the task stops is not handled, and is saved as pending. That one event does the handling is the model's form (assumption 45). -/
def Obligations.TrapsAreHandled : Prop :=
  ∀ (s : State) (c : Nat) (r : FaultRec),
    (s.core c).fw.halted = false → (s.task c).suspended = true → (s.task c).current = some r →
    (∀ k, (s.core c).residency = .stopping k → exec (.trapEntry c) s = .next s) ∧
    ((s.core c).residency = .resident ∨ (∃ b, (s.core c).residency = .retiring b) →
    ∃ t : State, exec (.trapEntry c) s = .next t ∧ t.mem = s.mem ∧
      (r.cls = 3 → (s.task c).heldFaults = [] → (s.core c).residency = .resident →
        (t.core c).residency = .stopping 3 ∧ (t.task c).waitPage = some (vaSlot r.addr, vaOff r.addr / 65536) ∧
        (t.die (coreDie c)).log = (if (s.die (coreDie c)).log.length < 4096 then (s.die (coreDie c)).log ++ [r] else (s.die (coreDie c)).log)) ∧
      (r.cls = 6 → (s.core c).residency = .resident → (t.core c).residency = .stopping r.kind.toNat ∧ (t.core c).preempt = none) ∧
      (r.cls = 7 → (s.task c).ctl.snapRaw = [] → (s.task c).heldFaults = [] → (s.core c).preempt = none →
        (t.task c).regs.x.get 10 0 = BitVec.allOnes 64 ∧ (t.task c).ctl.step = r.step + 16 ∧ (t.task c).ctl.st = .run ∧
        (t.task c).suspended = false) ∧
      (r.cls ≠ 3 → r.cls ≠ 6 → r.cls ≠ 7 →
        (t.core c).residency = .retiring true ∧ (t.core c).faultStatus = some r ∧ (t.core c).status = r.cls.toNat ∧ (t.task c).pending = [] ∧
        (t.task c).suspended = false ∧ (t.task c).load.st = .idle ∧ (t.task c).mule.st = .halted))

/-- Deferred faults (R188, R199): a fault that came back from a home traps at its sequencer's next boundary, with its own record; the load sequencer discards its later loads and goes back to its registers and step before the load, and the store sequencer likewise
before the store, and the faults that later accesses of it have met go with them. What a repeated store does is the model's reading (assumption 20). -/
def Claim.DeferredFaultsTrap : Prop :=
  ∀ (s : State) (c : Nat) (a : Agent) (d : Deferred),
    (s.core c).residency ≠ .free → s.deferredOf c a = some d → (a = .control ∨ a = .load ∨ a = .store) → d.info.seq = seqCode a →
    (s.task c).pending.find (seqCode a).toNat = none →
    ∃ t : State, exec (.deferredFault c a) s = .next t ∧ t.deferred = (s.deferred.erase d).filter (fun x => !(x.core == c && x.agent == a && (a == .load || a == .store) && d.ckpt.isSome)) ∧ ((t.task c).seq a).st = .faulted ∧
      (t.task c).pending = (s.task c).pending.set (seqCode a).toNat d.info ∧ (t.task c).suspended = true ∧ t.mem = s.mem ∧
      (∀ k, d.ckpt = some k → a = .load → (t.task c).regs.aLoad = k.regs ∧ (t.task c).load.step = k.step ∧
        (∀ q, q < 8 → ∀ e ∈ (t.task c).shared.queue.get q [], e.id < d.entry) ∧ ∀ b ∈ t.transit, b.of c .load = true → b.id ≤ d.access) ∧
      (∀ k, d.ckpt = some k → a = .store → (t.task c).regs.aStore = k.regs ∧ (t.task c).store.step = k.step ∧ t.transit = s.transit) ∧
      (a = .control → (t.task c).regs = (s.task c).regs)

/-- Faults of the firmware context (R190): the first goes to its vector with its record and the address to return to, and leaves the task as it was; a second, or one with no vector, halts it and ends the core's task with a fault status. -/
def Claim.FirmwareFaults : Prop :=
  ∀ (s : State) (c kind opf : Nat) (k : Core) (r : FaultRec),
    c < 4096 → 1 ≤ kind → kind ≤ 5 → k = s.core c → k.fw.halted = false → r = s.mkRec c .firmware (progError kind opf) →
    ∃ t : State, exec (.firmwareContextFault c kind opf) s = .next t ∧ t.mem = s.mem ∧
      (k.fw.fwv = false → k.fw.fwvec ≠ 0 → t.core c = { k with fw := { k.fw with fwrec := r, fwv := true, fwret := k.fw.pc, pc := k.fw.fwvec } }) ∧
      ((k.fw.fwv = true ∨ k.fw.fwvec = 0) → (t.core c).fw.halted = true ∧
        (k.residency ≠ .free → (t.core c).residency = .retiring true ∧ (t.core c).faultStatus = some { r with multi := k.fw.fwv } ∧
          (t.task c).pending = [] ∧ (t.task c).suspended = false))

/-- The watchdog (R202): when nothing has issued or completed on a core for WDLIM rc, its control sequencer takes the watchdog fault with its current bundle as the step; before that, while firmware holds the core in a trap and while the clock relocks, it does not. -/
def Claim.TheWatchdog : Prop :=
  ∀ (s : State) (c : Nat),
    (s.core c).residency = .resident →
    (s.hub.relocking = true ∨ (s.task c).suspended = true ∨ s.rc < (s.core c).idleSince + (s.die (coreDie c)).wdlim → exec (.watchdog c) s = .next s) ∧
    (s.hub.relocking = false → (s.task c).suspended = false → (s.core c).idleSince + (s.die (coreDie c)).wdlim ≤ s.rc → (s.task c).pending.find 0 = none →
      ∃ (t : State) (r : FaultRec), exec (.watchdog c) s = .next t ∧ (t.task c).pending = (s.task c).pending.set 0 r ∧ r.cls = 8 ∧ r.kind = 1 ∧
        r.seq = 0 ∧ r.step = (s.task c).ctl.step ∧ (t.task c).ctl.st = .faulted ∧ (t.task c).suspended = true ∧
        (t.task c).regs = (s.task c).regs ∧ t.mem = s.mem)


/-- Deferred faults, faults of the firmware context and the watchdog. -/
def Obligations.LaterFaults : Prop :=
  Claim.DeferredFaultsTrap ∧ Claim.FirmwareFaults ∧ Claim.TheWatchdog

/-! ### The step, the decoder and the invariants -/

/-- A step runs the decoded instruction (R148, R149, R151, R154, R187, R222, R316, R363, assumption 1). The power controller acts on an interval boundary that has come, the turn's clocks pass, its errors show and what it acknowledges is acknowledged (R124, R201, assumption 75); an event's turn is exec of the event; an access or compute sequencer's turn is exec of the micro-order that its fetched word decodes to, after which its cycles pass and its
step moves to a transfer's target or on by one; Mule's is the same for the word of its control store; and the control sequencer's is exec of the four words of its bundle in order, each with its own word number, after which writes that wait for the bundle's end land, the step
moves to a transfer's target or on by 16, and an exit or a return acts. A word that faults or waits ends its turn with the state that it answers. -/
def Obligations.StepRunsDecoded : Prop :=
  (∀ (s u : State) (t : Turn) (r : List Turn), s.turns = t :: r →
    u = ((((((({ s with turns := r } : State).meet t).pass t.dac t.drc).meet t).strike t.errors t.corrected).acknowledge t.acks).speculate t.specs) →
    (t.event = none → t.insert = none → t.regError = none → core.step s = u.issue t.core t.agent t.hostErr) ∧
    (∀ i, t.event = some i → isEvent i = true → core.step s = rested (exec i { u with cur := { struck := t.regError } }))) ∧
  (∀ (s u x : State) (c : Nat) (a : Agent) (h : Option Bool) (bs : List Byte) (i : Instr),
    u = s.point c a h → u.mayIssue = true → u.deferredOf c a = none → (u.core c).refill.get (slotCode a) 0 = 0 →
    (a = .load ∨ a = .compute ∨ a = .store → (u.me.seq a).stopPending = false → (a = .load → u.me.reloading = false) → (a = .load ∨ a = .store → u.oldestFault c a = none) → (u.me.seq a).step.toNat ≤ 0xFFFF →
      u.fetch c ((u.me.seq a).epbase + 4 * (u.me.seq a).step) 4 = .bytes bs → u.cross c a = (x, true) →
      decodeIn (orderSpace a) ((wordsOf bs).headD 0) = .ok i → x.interlocked i = false → x.signalStall = false → x.regErrors [(0, i)] = none →
      s.issue c a h = rested (match exec i x with
        | .next t => .next (if t.cur.sig = .none then (t.endIssue (x.bundle + 1)).endRun else t).ageBlocked
        | o => o)) ∧
    (a = .mule → decodeIn .mule (u.me.mule.store.get u.me.mule.step 0) = .ok i → u.regErrors [(0, i)] = none →
      s.issue c a h = rested (match exec i u with
        | .next t => .next (if t.cur.sig = .none then (t.endIssue (u.bundle + 1)).endRun else t).ageBlocked
        | o => o)) ∧
    (∀ (i0 i1 i2 i3 : Instr) (t0 t1 t2 t3 : State) (go : State → Instr → Nat → State → Prop),
      a = .control → u.bundle.toNat % 16 = 0 → u.fetch c u.bundle 16 = .bytes bs → u.cross c a = (x, true) →
      decodeWords .control 0 (wordsOf bs) = .ok [(0, i0), (1, i1), (2, i2), (3, i3)] →
      bundleBreach [(0, i0), (1, i1), (2, i2), (3, i3)] = none → x.signalStall = false →
      x.interlocked i0 = false → x.interlocked i1 = false → x.interlocked i2 = false → x.interlocked i3 = false →
      x.regErrors [(0, i0), (1, i1), (2, i2), (3, i3)] = none →
      (∀ (y : State) (j : Instr) (n : Nat) (z : State), go y j n z ↔
        ∃ w : State, exec j { y with cur := { y.cur with word := BitVec.ofNat 2 n, sig := .none } } = .next w ∧ w.cur.sig = .none ∧
          z = (if isPfx j then w else { w with cur := { w.cur with pfx := none } })) →
      go x i0 0 t0 → go t0 i1 1 t1 → go t1 i2 2 t2 → go t2 i3 3 t3 →
      s.issue c a h = rested (.next t3.endBundle.countSlot.ageBlocked)))

/-- Nothing stops the model (R187, R222): every instruction and every event answers a next state in every state, none faults the model or is refused, and so every step answers a next state. -/
def Obligations.CodeNeverStops : Prop :=
  (∀ (i : Instr) (s : State), ∃ t : State, exec i s = .next t) ∧
  (∀ (i : Instr) (s : State) (r : Refusal), exec i s ≠ .refused r) ∧
  (∀ s : State, ∃ u : State, core.step s = .next u)

/-- Words of the manual's encodings and the instructions that they stand for (R223, R224, R229 to R238, R299 to R305, R316 to R319). -/
def Obligations.DecodedWords : Prop :=
  decodeIn .control 0x00A63800 = .ok (.add 5 6 7) ∧
  decodeIn .control 0x31094004 = .ok (.ld 8 9 0 2 0 4) ∧
  decodeIn .control 0x3CA63C18 = .ok (.atomAdd 5 6 7 2 1 1) ∧
  decodeIn .control 0x54050088 = .ok (.mtsr 5 0 0 0x88) ∧
  decodeIn .control 0x5C040004 = .ok (.sqstart 4 1) ∧
  decodeIn .control 0x60042844 = .ok (.fset 4 5 1) ∧
  decodeIn .control 0x64642800 = .ok (.rent 3 4 5) ∧
  decodeIn .control 0x68053003 = .ok (.eret 5 6) ∧
  decodeIn .control 0x68050002 = .ok (.fcall 5) ∧
  decodeIn .control 0x819D4860 = .ok (.dispCp 1 3 1 5 1 0 12) ∧
  decodeIn .vector 0x40C70DA0 = .ok (.vaddF 0 0 0x31 0x30 0x36 1 0 0 0) ∧
  decodeIn .vector 0x5FD05E56 = .ok (.vfma 1 3 0x34 5 0x39 0 1 3 0) ∧
  decodeIn .access 0x048D2008 = .ok (.ldq 2 3 4 1 0 8) ∧
  decodeIn .mule 0x32000060 = .ok (.muleSeti 2 0x60) ∧
  decodeIn .mule 0x60800002 = .ok (.muleMx 4 0 2) ∧
  decodeIn .mule 0x08000000 = .ok .muleHalt

/-- The state after reset (R27, R157, R202, R344, R357, R371): memory lists nothing and keeps its form, every core is free, no account is open, no lease is held, WDLIM is 2 ^ 30 on every die, PSHARE gives the firmware context its share, and no function is enabled. Values with no reset in the manual are the model's (assumptions 3, 4, 5 and 68). -/
def Obligations.ResetState : Prop :=
  core.reset.mem = [] ∧ MemInv core.reset ∧ core.reset.rc = 0 ∧
  (∀ c, (core.reset.core c).residency = .free ∧ (core.reset.core c).pshare = 0x0410 ∧ (core.reset.core c).fw.fwvec = 0 ∧
    (core.reset.core c).fw.fwv = false) ∧
  (∀ a, (core.reset.account a).ast = 0 ∧ (core.reset.account a).allow = 0) ∧ (∀ u h, (core.reset.lease u h).st = .free) ∧
  (∀ d, (core.reset.die d).wdlim = 2 ^ 30 ∧ (core.reset.die d).launches = [] ∧ (core.reset.die d).log = []) ∧
  core.reset.hub.psmap = 0x77777777 ∧ core.reset.hub.point = 15 ∧
  (∀ n, (core.reset.fn n).psreq = 0 ∧ ∀ r, (core.reset.ring n r).reg = 0) ∧ core.reset.fnEnabled 0 = true ∧
  ∀ n, 0 < n → core.reset.fnEnabled n = false

/-- Encodings (R221, R223 to R246): decoding the word of a well-formed instruction, in its own space, gives the instruction back with every operand. -/
def Obligations.EncodingsRoundTrip : Prop :=
  ∀ (i : Instr) (sp : Space), i.space = some sp → i.wf = true → decodeIn sp (encode i) = .ok i

/-- Decoding (R221, R222): a word that a space assigns to an instruction is that instruction's word, bit for bit, and the instruction is well formed: no bit is dropped and no reserved word falls through to a neighbour. -/
def Obligations.WordsReadOneWay : Prop :=
  ∀ (w : Word) (sp : Space) (i : Instr), decodeIn sp w = .ok i → encode i = w ∧ i.wf = true ∧ i.space = some sp

/-- Every step keeps the form of memory: addresses rising, no listed byte zero (the model's form of the memory of R32, R39, R42 and R44). That an unlisted byte reads as zero is the model's choice (assumption 4). -/
def Obligations.StepKeepsMemoryForm : Prop :=
  ∀ (s t : State), MemInv s → core.step s = .next t → MemInv t

/-- A rent instruction completes at its issue: it sends one operation to a rent unit, and no register, no memory, no lease and no account changes. -/
def Claim.SendsRent (s : State) (i : Instr) : Prop :=
  ∃ (t : State) (r : Access), exec i s = .next t ∧ t.transit = s.transit ++ [r] ∧ r.core = s.cur.core ∧ r.agent = s.cur.agent ∧
    t.mem = s.mem ∧ t.cores = s.cores ∧ t.units = s.units ∧ t.hub = s.hub ∧ t.dies = s.dies ∧ t.debits = s.debits ∧ t.cur = s.cur

/-- Each rent instruction completes (R66 to R73, R330): with operands in their layouts, a slot that holds a segment whose expiry mark is not set, and no acquire that holds it
back, it sends one operation to a rent unit, and no register, no memory, no lease and no account changes. -/
def Obligations.RentInstructionsComplete : Prop :=
  ∀ (s : State) (d a b : BitVec 5) (x y : Nat) (e : Desc),
    x = (s.x a).toNat → y = (s.x b).toNat → e = s.slotDesc s.cur.core (x % 64) → s.acqIds 1 = [] →
    (x ≠ 0 → x < 2 ^ 58 → y / 2 ^ 32 ≠ 0 → y / 2 ^ 14 % 2 ^ 18 = 0 → 1 ≤ y / 16 % 8 → y / 16 % 8 ≤ 4 → y % 16 = 0 → (y / 16 % 8 = 4 → y / 128 % 2 = 0) →
      Claim.SendsRent s (.rent d a b)) ∧
    (x < 64 → e.v = true → (s.core s.cur.core).expired.get x false = false → y ≠ 0 → y < 2 ^ 32 → Claim.SendsRent s (.renew d a b)) ∧
    (x < 2 ^ 32 → x / 2 ^ 6 % 2 ^ 10 = 0 → x / 2 ^ 16 ≠ 0 → e.v = true → (s.core s.cur.core).expired.get (x % 64) false = false → Claim.SendsRent s (.prepay d a b)) ∧
    (x / 2 ^ 8 % 2 ^ 8 = 0 → x / 2 ^ 28 % 2 ^ 4 = 0 → x / 2 ^ 32 ≠ 0 → e.v = true → (s.core s.cur.core).expired.get (x % 64) false = false →
      Claim.SendsRent s (.sublet d a b)) ∧
    (x / 2 ^ 23 < 265 → y < 64 → Claim.SendsRent s (.adopt d a b)) ∧
    (x < 64 → e.v = true → e.acct = s.me.id.acct → Claim.SendsRent s (.vacate d a)) ∧
    (x < 64 → e.v = true → Claim.SendsRent s (.lstat d a))
end

