-- ==== Sys2Proof/Laws/Memory.lean ====
section
/-! SUPPORT. Laws of maps and of memory: what a read gives after each operation, and that every operation keeps the canonical form. -/

namespace Sys2Proof

/-! ### Maps -/

@[simp] theorem SMap.get_set_same {α : Type} (m : SMap α) (k : Nat) (v d : α) : (SMap.set m k v).get k d = v := by
  induction m with
  | nil => simp [SMap.set, SMap.get]
  | cons e r ih =>
    obtain ⟨k', v'⟩ := e
    simp only [SMap.set]
    split
    · simp [SMap.get]
    · split
      · simp [SMap.get]
      · simp [SMap.get, *]

theorem SMap.get_set_ne {α : Type} (m : SMap α) (k j : Nat) (v d : α) (h : j ≠ k) : (SMap.set m k v).get j d = m.get j d := by
  induction m with
  | nil => simp [SMap.set, SMap.get]; omega
  | cons e r ih =>
    obtain ⟨k', v'⟩ := e
    simp only [SMap.set]
    split
    · simp only [SMap.get]; rw [if_neg (by omega : ¬ k = j)]
    · split
      · subst_vars; simp only [SMap.get]; rw [if_neg (by omega : ¬ k' = j), if_neg (by omega : ¬ k' = j)]
      · simp only [SMap.get, ih]

@[simp] theorem SMap.find_set_same {α : Type} (m : SMap α) (k : Nat) (v : α) : (SMap.set m k v).find k = some v := by
  induction m with
  | nil => simp [SMap.set, SMap.find]
  | cons e r ih =>
    obtain ⟨k', v'⟩ := e
    simp only [SMap.set]
    split
    · simp [SMap.find]
    · split
      · simp [SMap.find]
      · simp [SMap.find, *]

theorem SMap.find_set_ne {α : Type} (m : SMap α) (k j : Nat) (v : α) (h : j ≠ k) : (SMap.set m k v).find j = m.find j := by
  induction m with
  | nil => simp [SMap.set, SMap.find]; omega
  | cons e r ih =>
    obtain ⟨k', v'⟩ := e
    simp only [SMap.set]
    split
    · simp only [SMap.find]; rw [if_neg (by omega : ¬ k = j)]
    · split
      · subst_vars; simp only [SMap.find]; rw [if_neg (by omega : ¬ k' = j), if_neg (by omega : ¬ k' = j)]
      · simp only [SMap.find, ih]

theorem SMap.find_erase_same {α : Type} (m : SMap α) (k : Nat) : (SMap.erase m k).find k = none := by
  induction m with
  | nil => rfl
  | cons e r ih =>
    obtain ⟨k', v'⟩ := e
    simp only [SMap.erase, List.filter]
    by_cases hk : k' = k
    · subst hk; simp only [bne_self_eq_false]; exact ih
    · have : (k' != k) = true := by simpa using hk
      simp only [this, SMap.find, if_neg hk]; exact ih

theorem SMap.find_erase_ne {α : Type} (m : SMap α) (k j : Nat) (h : j ≠ k) : (SMap.erase m k).find j = m.find j := by
  induction m with
  | nil => rfl
  | cons e r ih =>
    obtain ⟨k', v'⟩ := e
    simp only [SMap.erase, List.filter]
    by_cases hk : k' = k
    · subst hk
      have : (k' != k') = false := by simp
      simp only [this, SMap.find]; rw [if_neg (by omega : ¬ k' = j)]; exact ih
    · have : (k' != k) = true := by simpa using hk
      simp only [this, SMap.find]
      split
      · rfl
      · exact ih

end Sys2Proof

namespace Sys2Proof.Machine

open Sys2Proof

/-! ### The canonical form -/

/-- A list keeps the form when its first byte is not zero and lies below every other, and its rest keeps it. -/
theorem Memory.wf_cons (a : Nat) (b : Byte) (r : List Host.Cell) :
    Memory.wf ((a, b) :: r) = true ↔ b ≠ 0 ∧ (∀ c ∈ r, a < c.1) ∧ Memory.wf r = true := by
  induction r generalizing a b with
  | nil => simp [Memory.wf]
  | cons c r ih =>
    obtain ⟨a', b'⟩ := c
    simp only [Memory.wf, Bool.and_eq_true, bne_iff_ne, ne_eq, decide_eq_true_eq, List.mem_cons, forall_eq_or_imp]
    constructor
    · rintro ⟨⟨h1, h2⟩, h3⟩
      refine ⟨h1, ⟨h2, ?_⟩, h3⟩
      intro c hc
      have := ((ih a' b').1 h3).2.1 c hc
      omega
    · rintro ⟨h1, ⟨h2, _⟩, h3⟩
      exact ⟨⟨h1, h2⟩, h3⟩

@[simp] theorem Memory.wf_nil : Memory.wf [] = true := rfl

theorem Memory.mem_write (m : List Host.Cell) (a : Nat) (b : Byte) (c : Host.Cell) (h : c ∈ Memory.write m a b) : c = (a, b) ∨ c ∈ m := by
  induction m with
  | nil =>
    simp only [Memory.write] at h
    split at h <;> simp_all
  | cons e r ih =>
    obtain ⟨a', b'⟩ := e
    simp only [Memory.write] at h
    repeat' split at h
    all_goals simp_all
    all_goals grind

/-- Writing a byte keeps the form. -/
@[simp] theorem Memory.wf_write (m : List Host.Cell) (a : Nat) (b : Byte) (h : Memory.wf m = true) : Memory.wf (Memory.write m a b) = true := by
  induction m with
  | nil =>
    simp only [Memory.write]
    split <;> simp_all [Memory.wf]
  | cons e r ih =>
    obtain ⟨a', b'⟩ := e
    have h' := (Memory.wf_cons a' b' r).1 h
    simp only [Memory.write]
    split
    · split
      · exact h
      · refine (Memory.wf_cons _ _ _).2 ⟨by assumption, ?_, h⟩
        intro c hc
        rcases List.mem_cons.1 hc with rfl | hc
        · assumption
        · have := h'.2.1 c hc; omega
    · split
      · subst_vars
        split
        · exact h'.2.2
        · exact (Memory.wf_cons _ _ _).2 ⟨by assumption, h'.2.1, h'.2.2⟩
      · refine (Memory.wf_cons _ _ _).2 ⟨h'.1, ?_, ih h'.2.2⟩
        intro c hc
        rcases Memory.mem_write r a b c hc with rfl | hc
        · show a' < a; omega
        · exact h'.2.1 c hc

theorem Memory.read_above (m : List Host.Cell) (a : Nat) (h : ∀ c ∈ m, a < c.1) : Memory.read m a = 0 := by
  cases m with
  | nil => rfl
  | cons e r =>
    obtain ⟨a', b'⟩ := e
    have := h (a', b') (by simp)
    simp only [Memory.read] 
    rw [if_neg (by omega), if_pos (by omega)]

/-- A read after a write to the same byte. -/
theorem Memory.read_write_same (m : List Host.Cell) (a : Nat) (b : Byte) (h : Memory.wf m = true) :
    Memory.read (Memory.write m a b) a = b := by
  induction m with
  | nil => simp only [Memory.write]; split <;> simp_all [Memory.read]
  | cons e r ih =>
    obtain ⟨a', b'⟩ := e
    have h' := (Memory.wf_cons a' b' r).1 h
    simp only [Memory.write]
    split
    · split
      · subst_vars; simp only [Memory.read]; rw [if_neg (by omega), if_pos (by omega)]
      · simp [Memory.read]
    · split
      · subst_vars
        split
        · subst_vars; exact Memory.read_above r a' h'.2.1
        · simp [Memory.read]
      · simp only [Memory.read]
        rw [if_neg (by omega), if_neg (by omega)]
        exact ih h'.2.2

/-- A read of another byte after a write. -/
theorem Memory.read_write_ne (m : List Host.Cell) (a c : Nat) (b : Byte) (h : Memory.wf m = true) (hc : c ≠ a) :
    Memory.read (Memory.write m a b) c = Memory.read m c := by
  induction m with
  | nil =>
    simp only [Memory.write]
    split
    · rfl
    · simp only [Memory.read]; rw [if_neg (by omega)]; split <;> rfl
  | cons e r ih =>
    obtain ⟨a', b'⟩ := e
    have h' := (Memory.wf_cons a' b' r).1 h
    simp only [Memory.write]
    split
    · split
      · rfl
      · rw [Memory.read, if_neg (by omega : ¬ a = c)]
        split
        · simp only [Memory.read]; rw [if_neg (by omega), if_pos (by omega)]
        · rfl
    · split
      · subst_vars
        split
        · simp only [Memory.read]; rw [if_neg (by omega : ¬ a' = c)]
          split
          · exact Memory.read_above r c (fun d hd => by have := h'.2.1 d hd; omega)
          · rfl
        · simp only [Memory.read]; rw [if_neg (by omega), if_neg (by omega : ¬ a' = c)]
      · simp only [Memory.read, ih h'.2.2]

/-! ### Runs of bytes -/

@[simp] theorem Memory.wf_writeBytes (l : List Byte) (m : List Host.Cell) (a : Nat) (h : Memory.wf m = true) : Memory.wf (Memory.writeBytes m a l) = true := by
  induction l generalizing m a with
  | nil => exact h
  | cons b r ih => exact ih _ _ (Memory.wf_write m a b h)

@[simp] theorem Memory.wf_writeNat (m : List Host.Cell) (a n v : Nat) (h : Memory.wf m = true) : Memory.wf (Memory.writeNat m a n v) = true :=
  Memory.wf_writeBytes _ m a h

@[simp] theorem Memory.wf_writeMasked (n : Nat) (m : List Host.Cell) (a v en : Nat) (h : Memory.wf m = true) :
    Memory.wf (Memory.writeMasked m a v en n) = true := by
  induction n generalizing m a v en with
  | zero => exact h
  | succ n ih =>
    simp only [Memory.writeMasked]
    apply ih
    split
    · exact Memory.wf_write m a _ h
    · exact h

/-- Bytes outside a written run read as before. -/
theorem Memory.read_writeBytes_outside (l : List Byte) (m : List Host.Cell) (a c : Nat) (h : Memory.wf m = true)
    (hc : c < a ∨ a + l.length ≤ c) : Memory.read (Memory.writeBytes m a l) c = Memory.read m c := by
  induction l generalizing m a with
  | nil => rfl
  | cons b r ih =>
    simp only [List.length_cons] at hc
    simp only [Memory.writeBytes]
    rw [ih _ _ (Memory.wf_write m a b h) (by omega), Memory.read_write_ne m a c b h (by omega)]

/-- Byte `i` of a written run. -/
theorem Memory.read_writeBytes (l : List Byte) (m : List Host.Cell) (a i : Nat) (h : Memory.wf m = true) (hi : i < l.length) :
    Memory.read (Memory.writeBytes m a l) (a + i) = l[i] := by
  induction l generalizing m a i with
  | nil => simp at hi
  | cons b r ih =>
    simp only [Memory.writeBytes]
    cases i with
    | zero =>
      rw [Memory.read_writeBytes_outside r _ _ _ (Memory.wf_write m a b h) (by omega)]
      exact Memory.read_write_same m a b h
    | succ i =>
      have hi' : i < r.length := by simpa using hi
      have := ih (Memory.write m a b) (a + 1) i (Memory.wf_write m a b h) hi'
      rw [show a + (i + 1) = a + 1 + i by omega, this]; rfl

@[simp] theorem Memory.length_readBytes (n : Nat) (m : List Host.Cell) (a : Nat) : (Memory.readBytes m a n).length = n := by
  induction n generalizing a with
  | zero => rfl
  | succ n ih => simp [Memory.readBytes, ih]

@[simp] theorem length_toBytes (n v : Nat) : (toBytes v n).length = n := by
  induction n generalizing v with
  | zero => rfl
  | succ n ih => simp [toBytes, ih]

/-- The bytes read from a run are those written to it. -/
theorem Memory.readBytes_writeBytes (l : List Byte) (m : List Host.Cell) (a : Nat) (h : Memory.wf m = true) :
    Memory.readBytes (Memory.writeBytes m a l) a l.length = l := by
  induction l generalizing m a with
  | nil => rfl
  | cons b r ih =>
    simp only [Memory.writeBytes, List.length_cons, Memory.readBytes]
    rw [Memory.read_writeBytes_outside r _ _ _ (Memory.wf_write m a b h) (by omega), Memory.read_write_same m a b h,
      ih _ _ (Memory.wf_write m a b h)]

theorem ofBytes_toBytes (n v : Nat) : ofBytes (toBytes v n) = v % 256 ^ n := by
  induction n generalizing v with
  | zero => simp [toBytes, ofBytes, Nat.mod_one]
  | succ n ih =>
    simp only [toBytes, ofBytes, ih, BitVec.toNat_ofNat]
    rw [show 256 ^ (n + 1) = 256 * 256 ^ n from Nat.pow_succ', @Nat.mod_mul 256 (256 ^ n) v]

/-- A number stored and read back (R9). -/
theorem Memory.readNat_writeNat (m : List Host.Cell) (a n v : Nat) (h : Memory.wf m = true) :
    Memory.readNat (Memory.writeNat m a n v) a n = v % 256 ^ n := by
  have := Memory.readBytes_writeBytes (toBytes v n) m a h
  rw [length_toBytes] at this
  rw [Memory.readNat, Memory.writeNat, this, ofBytes_toBytes]

/-! ### Ranges zeroed, copied and moved (R81, R195, R198) -/

@[simp] theorem Memory.wf_filter (p : Host.Cell → Bool) (m : List Host.Cell) (h : Memory.wf m = true) : Memory.wf (m.filter p) = true := by
  induction m with
  | nil => rfl
  | cons e r ih =>
    obtain ⟨a, b⟩ := e
    have h' := (Memory.wf_cons a b r).1 h
    simp only [List.filter]
    split
    · exact (Memory.wf_cons a b _).2 ⟨h'.1, fun c hc => h'.2.1 c (List.mem_filter.1 hc).1, ih h'.2.2⟩
    · exact ih h'.2.2

/-- A byte of a filtered memory: kept, or zero. -/
theorem Memory.read_filter (p : Nat → Bool) (m : List Host.Cell) (a : Nat) (h : Memory.wf m = true) :
    Memory.read (m.filter (fun c => p c.1)) a = if p a then Memory.read m a else 0 := by
  induction m with
  | nil => simp [Memory.read]
  | cons e r ih =>
    obtain ⟨a', b'⟩ := e
    have h' := (Memory.wf_cons a' b' r).1 h
    have ih := ih h'.2.2
    simp only [List.filter]
    by_cases hp : p a'
    · simp only [hp, Memory.read, ih]
      by_cases h1 : a' = a
      · subst h1; simp [hp]
      · simp only [if_neg h1]
        by_cases h2 : a < a'
        · simp [h2]
        · simp [h2]
    · simp only [hp, ih, Memory.read]
      by_cases h1 : a' = a
      · subst h1; simp [hp]
      · simp only [if_neg h1]
        by_cases h2 : a < a'
        · simp only [h2, if_true]
          rw [Memory.read_above r a (fun c hc => by have := h'.2.1 c hc; omega)]; 
        · simp [h2]

@[simp] theorem Memory.wf_zero (m : List Host.Cell) (lo len : Nat) (h : Memory.wf m = true) : Memory.wf (Memory.zero m lo len) = true :=
  Memory.wf_filter _ m h

theorem Memory.read_zero (m : List Host.Cell) (lo len a : Nat) (h : Memory.wf m = true) :
    Memory.read (Memory.zero m lo len) a = if a < lo ∨ lo + len ≤ a then Memory.read m a else 0 := by
  rw [Memory.zero, Memory.read_filter (fun c => decide (c < lo ∨ lo + len ≤ c)) m a h]
  simp

/-- Listed cells written in turn at a shift keep the form. -/
theorem Memory.wf_foldl_write (l : List Host.Cell) (f : Host.Cell → Nat) (g : Host.Cell → Byte) (m : List Host.Cell) (h : Memory.wf m = true) :
    Memory.wf (l.foldl (fun acc c => Memory.write acc (f c) (g c)) m) = true := by
  induction l generalizing m with
  | nil => exact h
  | cons c r ih => exact ih _ (Memory.wf_write m _ _ h)

@[simp] theorem Memory.wf_copy (m : List Host.Cell) (src dst len : Nat) (h : Memory.wf m = true) : Memory.wf (Memory.copy m src dst len) = true :=
  Memory.wf_foldl_write _ (fun c => c.1 - src + dst) (fun c => c.2) _ (Memory.wf_zero m dst len h)

@[simp] theorem Memory.wf_move (m : List Host.Cell) (src dst len : Nat) (h : Memory.wf m = true) : Memory.wf (Memory.move m src dst len) = true :=
  Memory.wf_zero _ src len (Memory.wf_copy m src dst len h)

/-- Cells of a run written at a shift, in a memory where the target run reads as zero: what a byte reads as after. -/
theorem Memory.read_foldl_shift (src dst : Nat) (l : List Host.Cell) (m : List Host.Cell) (a : Nat) (hm : Memory.wf m = true)
    (hl : Memory.wf l = true) (hs : ∀ c ∈ l, src ≤ c.1) :
    Memory.read (l.foldl (fun acc c => Memory.write acc (c.1 - src + dst) c.2) m) a =
      if dst ≤ a ∧ Memory.read l (a - dst + src) ≠ 0 then Memory.read l (a - dst + src) else Memory.read m a := by
  induction l generalizing m with
  | nil => simp [Memory.read]
  | cons e r ih =>
    obtain ⟨x, b⟩ := e
    have h' := (Memory.wf_cons x b r).1 hl
    have hx : src ≤ x := hs (x, b) (by simp)
    simp only [List.foldl_cons]
    rw [ih _ (Memory.wf_write m _ _ hm) h'.2.2 (fun c hc => hs c (by simp [hc]))]
    by_cases ha : a = x - src + dst
    · have e1 : a - dst + src = x := by omega
      have e2 : Memory.read r x = 0 := Memory.read_above r x h'.2.1
      rw [e1, e2, ha, Memory.read_write_same m _ b hm]
      have hb : Memory.read ((x, b) :: r) x = b := by simp [Memory.read]
      rw [hb, if_neg (by simp), if_pos ⟨by omega, h'.1⟩]
    · rw [Memory.read_write_ne m _ a b hm ha]
      by_cases hd : dst ≤ a
      · have e1 : x ≠ a - dst + src := by omega
        simp only [Memory.read, if_neg e1]
        by_cases h2 : a - dst + src < x
        · rw [Memory.read_above r _ (fun c hc => by have := h'.2.1 c hc; omega)]; simp [h2]
        · simp [h2]
      · simp [hd]

/-- A copied range (R198): the target holds what the source held, and every other byte stays. -/
theorem Memory.read_copy (m : List Host.Cell) (src dst len a : Nat) (h : Memory.wf m = true) :
    Memory.read (Memory.copy m src dst len) a = if dst ≤ a ∧ a < dst + len then Memory.read m (a - dst + src) else Memory.read m a := by
  rw [Memory.copy, Memory.read_foldl_shift src dst _ _ a (Memory.wf_zero m dst len h) (Memory.wf_filter _ m h)
    (fun c hc => by have := (List.mem_filter.1 hc).2; simp at this; exact this.1),
    Memory.read_filter (fun c => decide (src ≤ c ∧ c < src + len)) m _ h, Memory.read_zero m dst len a h]
  by_cases h1 : dst ≤ a ∧ a < dst + len
  · have h2 : src ≤ a - dst + src ∧ a - dst + src < src + len := by omega
    have h3 : ¬ (a < dst ∨ dst + len ≤ a) := by omega
    simp only [h1, h2, h3, and_self, decide_true, if_true, if_false, true_and]
    split
    · rfl
    · rename_i h4; exact (Classical.not_not.1 h4).symm
  · have h3 : a < dst ∨ dst + len ≤ a := by omega
    rw [if_neg h1, if_pos h3]
    by_cases hd : dst ≤ a
    · have h2 : ¬ (src ≤ a - dst + src ∧ a - dst + src < src + len) := by omega
      simp only [decide_eq_true_eq]
      rw [if_neg h2]
      simp
    · simp [hd]

end Sys2Proof.Machine
end

