-- ==== Sys2Proof/Laws/State.lean ====
section
/-! SUPPORT. What the named updates of State leave as it was: one lemma per field and update, so that no proof unfolds an update. -/

namespace Sys2Proof.Machine

open Sys2Proof

/-! ### `State.setCore` -/

@[simp] theorem State.setCore_turns (s : State) (c : Nat) (k : Core) : (s.setCore c k).turns = s.turns := rfl
@[simp] theorem State.setCore_cur (s : State) (c : Nat) (k : Core) : (s.setCore c k).cur = s.cur := rfl
@[simp] theorem State.setCore_freeCnt (s : State) (c : Nat) (k : Core) : (s.setCore c k).freeCnt = s.freeCnt := rfl
@[simp] theorem State.setCore_nextId (s : State) (c : Nat) (k : Core) : (s.setCore c k).nextId = s.nextId := rfl
@[simp] theorem State.setCore_rc (s : State) (c : Nat) (k : Core) : (s.setCore c k).rc = s.rc := rfl
@[simp] theorem State.setCore_ac (s : State) (c : Nat) (k : Core) : (s.setCore c k).ac = s.ac := rfl
@[simp] theorem State.setCore_phase (s : State) (c : Nat) (k : Core) : (s.setCore c k).phase = s.phase := rfl
@[simp] theorem State.setCore_acCores (s : State) (c : Nat) (k : Core) : (s.setCore c k).acCores = s.acCores := rfl
@[simp] theorem State.setCore_acMem (s : State) (c : Nat) (k : Core) : (s.setCore c k).acMem = s.acMem := rfl
@[simp] theorem State.setCore_mem (s : State) (c : Nat) (k : Core) : (s.setCore c k).mem = s.mem := rfl
@[simp] theorem State.setCore_poison (s : State) (c : Nat) (k : Core) : (s.setCore c k).poison = s.poison := rfl
@[simp] theorem State.setCore_struck (s : State) (c : Nat) (k : Core) : (s.setCore c k).struck = s.struck := rfl
@[simp] theorem State.setCore_keyed (s : State) (c : Nat) (k : Core) : (s.setCore c k).keyed = s.keyed := rfl
@[simp] theorem State.setCore_dies (s : State) (c : Nat) (k : Core) : (s.setCore c k).dies = s.dies := rfl
@[simp] theorem State.setCore_units (s : State) (c : Nat) (k : Core) : (s.setCore c k).units = s.units := rfl
@[simp] theorem State.setCore_hub (s : State) (c : Nat) (k : Core) : (s.setCore c k).hub = s.hub := rfl
@[simp] theorem State.setCore_cfg (s : State) (c : Nat) (k : Core) : (s.setCore c k).cfg = s.cfg := rfl
@[simp] theorem State.setCore_transit (s : State) (c : Nat) (k : Core) : (s.setCore c k).transit = s.transit := rfl
@[simp] theorem State.setCore_deferred (s : State) (c : Nat) (k : Core) : (s.setCore c k).deferred = s.deferred := rfl
@[simp] theorem State.setCore_waiters (s : State) (c : Nat) (k : Core) : (s.setCore c k).waiters = s.waiters := rfl
@[simp] theorem State.setCore_granted (s : State) (c : Nat) (k : Core) : (s.setCore c k).granted = s.granted := rfl
@[simp] theorem State.setCore_debits (s : State) (c : Nat) (k : Core) : (s.setCore c k).debits = s.debits := rfl
@[simp] theorem State.setCore_remote (s : State) (c : Nat) (k : Core) : (s.setCore c k).remote = s.remote := rfl
@[simp] theorem State.setCore_slotWrites (s : State) (c : Nat) (k : Core) : (s.setCore c k).slotWrites = s.slotWrites := rfl
@[simp] theorem State.setCore_slotOps (s : State) (c : Nat) (k : Core) : (s.setCore c k).slotOps = s.slotOps := rfl
@[simp] theorem State.setCore_marks (s : State) (c : Nat) (k : Core) : (s.setCore c k).marks = s.marks := rfl
@[simp] theorem State.setCore_mqNotices (s : State) (c : Nat) (k : Core) : (s.setCore c k).mqNotices = s.mqNotices := rfl
@[simp] theorem State.setCore_mqListed (s : State) (c : Nat) (k : Core) : (s.setCore c k).mqListed = s.mqListed := rfl
@[simp] theorem State.setCore_accEntries (s : State) (c : Nat) (k : Core) : (s.setCore c k).accEntries = s.accEntries := rfl
@[simp] theorem State.setCore_invals (s : State) (c : Nat) (k : Core) : (s.setCore c k).invals = s.invals := rfl
@[simp] theorem State.setCore_winSlots (s : State) (c : Nat) (k : Core) : (s.setCore c k).winSlots = s.winSlots := rfl
@[simp] theorem State.setCore_registrants (s : State) (c : Nat) (k : Core) : (s.setCore c k).registrants = s.registrants := rfl
@[simp] theorem State.setCore_early (s : State) (c : Nat) (k : Core) : (s.setCore c k).early = s.early := rfl
@[simp] theorem State.setCore_flits (s : State) (c : Nat) (k : Core) : (s.setCore c k).flits = s.flits := rfl

/-! ### `State.updCore` -/

@[simp] theorem State.updCore_turns (s : State) (c : Nat) (f : Core → Core) : (s.updCore c f).turns = s.turns := rfl
@[simp] theorem State.updCore_cur (s : State) (c : Nat) (f : Core → Core) : (s.updCore c f).cur = s.cur := rfl
@[simp] theorem State.updCore_freeCnt (s : State) (c : Nat) (f : Core → Core) : (s.updCore c f).freeCnt = s.freeCnt := rfl
@[simp] theorem State.updCore_nextId (s : State) (c : Nat) (f : Core → Core) : (s.updCore c f).nextId = s.nextId := rfl
@[simp] theorem State.updCore_rc (s : State) (c : Nat) (f : Core → Core) : (s.updCore c f).rc = s.rc := rfl
@[simp] theorem State.updCore_ac (s : State) (c : Nat) (f : Core → Core) : (s.updCore c f).ac = s.ac := rfl
@[simp] theorem State.updCore_phase (s : State) (c : Nat) (f : Core → Core) : (s.updCore c f).phase = s.phase := rfl
@[simp] theorem State.updCore_acCores (s : State) (c : Nat) (f : Core → Core) : (s.updCore c f).acCores = s.acCores := rfl
@[simp] theorem State.updCore_acMem (s : State) (c : Nat) (f : Core → Core) : (s.updCore c f).acMem = s.acMem := rfl
@[simp] theorem State.updCore_mem (s : State) (c : Nat) (f : Core → Core) : (s.updCore c f).mem = s.mem := rfl
@[simp] theorem State.updCore_poison (s : State) (c : Nat) (f : Core → Core) : (s.updCore c f).poison = s.poison := rfl
@[simp] theorem State.updCore_struck (s : State) (c : Nat) (f : Core → Core) : (s.updCore c f).struck = s.struck := rfl
@[simp] theorem State.updCore_keyed (s : State) (c : Nat) (f : Core → Core) : (s.updCore c f).keyed = s.keyed := rfl
@[simp] theorem State.updCore_dies (s : State) (c : Nat) (f : Core → Core) : (s.updCore c f).dies = s.dies := rfl
@[simp] theorem State.updCore_units (s : State) (c : Nat) (f : Core → Core) : (s.updCore c f).units = s.units := rfl
@[simp] theorem State.updCore_hub (s : State) (c : Nat) (f : Core → Core) : (s.updCore c f).hub = s.hub := rfl
@[simp] theorem State.updCore_cfg (s : State) (c : Nat) (f : Core → Core) : (s.updCore c f).cfg = s.cfg := rfl
@[simp] theorem State.updCore_transit (s : State) (c : Nat) (f : Core → Core) : (s.updCore c f).transit = s.transit := rfl
@[simp] theorem State.updCore_deferred (s : State) (c : Nat) (f : Core → Core) : (s.updCore c f).deferred = s.deferred := rfl
@[simp] theorem State.updCore_waiters (s : State) (c : Nat) (f : Core → Core) : (s.updCore c f).waiters = s.waiters := rfl
@[simp] theorem State.updCore_granted (s : State) (c : Nat) (f : Core → Core) : (s.updCore c f).granted = s.granted := rfl
@[simp] theorem State.updCore_debits (s : State) (c : Nat) (f : Core → Core) : (s.updCore c f).debits = s.debits := rfl
@[simp] theorem State.updCore_remote (s : State) (c : Nat) (f : Core → Core) : (s.updCore c f).remote = s.remote := rfl
@[simp] theorem State.updCore_slotWrites (s : State) (c : Nat) (f : Core → Core) : (s.updCore c f).slotWrites = s.slotWrites := rfl
@[simp] theorem State.updCore_slotOps (s : State) (c : Nat) (f : Core → Core) : (s.updCore c f).slotOps = s.slotOps := rfl
@[simp] theorem State.updCore_marks (s : State) (c : Nat) (f : Core → Core) : (s.updCore c f).marks = s.marks := rfl
@[simp] theorem State.updCore_mqNotices (s : State) (c : Nat) (f : Core → Core) : (s.updCore c f).mqNotices = s.mqNotices := rfl
@[simp] theorem State.updCore_mqListed (s : State) (c : Nat) (f : Core → Core) : (s.updCore c f).mqListed = s.mqListed := rfl
@[simp] theorem State.updCore_accEntries (s : State) (c : Nat) (f : Core → Core) : (s.updCore c f).accEntries = s.accEntries := rfl
@[simp] theorem State.updCore_invals (s : State) (c : Nat) (f : Core → Core) : (s.updCore c f).invals = s.invals := rfl
@[simp] theorem State.updCore_winSlots (s : State) (c : Nat) (f : Core → Core) : (s.updCore c f).winSlots = s.winSlots := rfl
@[simp] theorem State.updCore_registrants (s : State) (c : Nat) (f : Core → Core) : (s.updCore c f).registrants = s.registrants := rfl
@[simp] theorem State.updCore_early (s : State) (c : Nat) (f : Core → Core) : (s.updCore c f).early = s.early := rfl
@[simp] theorem State.updCore_flits (s : State) (c : Nat) (f : Core → Core) : (s.updCore c f).flits = s.flits := rfl

/-! ### `State.updTask` -/

@[simp] theorem State.updTask_turns (s : State) (c : Nat) (f : TaskCtx → TaskCtx) : (s.updTask c f).turns = s.turns := rfl
@[simp] theorem State.updTask_cur (s : State) (c : Nat) (f : TaskCtx → TaskCtx) : (s.updTask c f).cur = s.cur := rfl
@[simp] theorem State.updTask_freeCnt (s : State) (c : Nat) (f : TaskCtx → TaskCtx) : (s.updTask c f).freeCnt = s.freeCnt := rfl
@[simp] theorem State.updTask_nextId (s : State) (c : Nat) (f : TaskCtx → TaskCtx) : (s.updTask c f).nextId = s.nextId := rfl
@[simp] theorem State.updTask_rc (s : State) (c : Nat) (f : TaskCtx → TaskCtx) : (s.updTask c f).rc = s.rc := rfl
@[simp] theorem State.updTask_ac (s : State) (c : Nat) (f : TaskCtx → TaskCtx) : (s.updTask c f).ac = s.ac := rfl
@[simp] theorem State.updTask_phase (s : State) (c : Nat) (f : TaskCtx → TaskCtx) : (s.updTask c f).phase = s.phase := rfl
@[simp] theorem State.updTask_acCores (s : State) (c : Nat) (f : TaskCtx → TaskCtx) : (s.updTask c f).acCores = s.acCores := rfl
@[simp] theorem State.updTask_acMem (s : State) (c : Nat) (f : TaskCtx → TaskCtx) : (s.updTask c f).acMem = s.acMem := rfl
@[simp] theorem State.updTask_mem (s : State) (c : Nat) (f : TaskCtx → TaskCtx) : (s.updTask c f).mem = s.mem := rfl
@[simp] theorem State.updTask_poison (s : State) (c : Nat) (f : TaskCtx → TaskCtx) : (s.updTask c f).poison = s.poison := rfl
@[simp] theorem State.updTask_struck (s : State) (c : Nat) (f : TaskCtx → TaskCtx) : (s.updTask c f).struck = s.struck := rfl
@[simp] theorem State.updTask_keyed (s : State) (c : Nat) (f : TaskCtx → TaskCtx) : (s.updTask c f).keyed = s.keyed := rfl
@[simp] theorem State.updTask_dies (s : State) (c : Nat) (f : TaskCtx → TaskCtx) : (s.updTask c f).dies = s.dies := rfl
@[simp] theorem State.updTask_units (s : State) (c : Nat) (f : TaskCtx → TaskCtx) : (s.updTask c f).units = s.units := rfl
@[simp] theorem State.updTask_hub (s : State) (c : Nat) (f : TaskCtx → TaskCtx) : (s.updTask c f).hub = s.hub := rfl
@[simp] theorem State.updTask_cfg (s : State) (c : Nat) (f : TaskCtx → TaskCtx) : (s.updTask c f).cfg = s.cfg := rfl
@[simp] theorem State.updTask_transit (s : State) (c : Nat) (f : TaskCtx → TaskCtx) : (s.updTask c f).transit = s.transit := rfl
@[simp] theorem State.updTask_deferred (s : State) (c : Nat) (f : TaskCtx → TaskCtx) : (s.updTask c f).deferred = s.deferred := rfl
@[simp] theorem State.updTask_waiters (s : State) (c : Nat) (f : TaskCtx → TaskCtx) : (s.updTask c f).waiters = s.waiters := rfl
@[simp] theorem State.updTask_granted (s : State) (c : Nat) (f : TaskCtx → TaskCtx) : (s.updTask c f).granted = s.granted := rfl
@[simp] theorem State.updTask_debits (s : State) (c : Nat) (f : TaskCtx → TaskCtx) : (s.updTask c f).debits = s.debits := rfl
@[simp] theorem State.updTask_remote (s : State) (c : Nat) (f : TaskCtx → TaskCtx) : (s.updTask c f).remote = s.remote := rfl
@[simp] theorem State.updTask_slotWrites (s : State) (c : Nat) (f : TaskCtx → TaskCtx) : (s.updTask c f).slotWrites = s.slotWrites := rfl
@[simp] theorem State.updTask_slotOps (s : State) (c : Nat) (f : TaskCtx → TaskCtx) : (s.updTask c f).slotOps = s.slotOps := rfl
@[simp] theorem State.updTask_marks (s : State) (c : Nat) (f : TaskCtx → TaskCtx) : (s.updTask c f).marks = s.marks := rfl
@[simp] theorem State.updTask_mqNotices (s : State) (c : Nat) (f : TaskCtx → TaskCtx) : (s.updTask c f).mqNotices = s.mqNotices := rfl
@[simp] theorem State.updTask_mqListed (s : State) (c : Nat) (f : TaskCtx → TaskCtx) : (s.updTask c f).mqListed = s.mqListed := rfl
@[simp] theorem State.updTask_accEntries (s : State) (c : Nat) (f : TaskCtx → TaskCtx) : (s.updTask c f).accEntries = s.accEntries := rfl
@[simp] theorem State.updTask_invals (s : State) (c : Nat) (f : TaskCtx → TaskCtx) : (s.updTask c f).invals = s.invals := rfl
@[simp] theorem State.updTask_winSlots (s : State) (c : Nat) (f : TaskCtx → TaskCtx) : (s.updTask c f).winSlots = s.winSlots := rfl
@[simp] theorem State.updTask_registrants (s : State) (c : Nat) (f : TaskCtx → TaskCtx) : (s.updTask c f).registrants = s.registrants := rfl
@[simp] theorem State.updTask_early (s : State) (c : Nat) (f : TaskCtx → TaskCtx) : (s.updTask c f).early = s.early := rfl
@[simp] theorem State.updTask_flits (s : State) (c : Nat) (f : TaskCtx → TaskCtx) : (s.updTask c f).flits = s.flits := rfl

/-! ### `State.updMe` -/

@[simp] theorem State.updMe_turns (s : State) (f : TaskCtx → TaskCtx) : (s.updMe f).turns = s.turns := rfl
@[simp] theorem State.updMe_cur (s : State) (f : TaskCtx → TaskCtx) : (s.updMe f).cur = s.cur := rfl
@[simp] theorem State.updMe_freeCnt (s : State) (f : TaskCtx → TaskCtx) : (s.updMe f).freeCnt = s.freeCnt := rfl
@[simp] theorem State.updMe_nextId (s : State) (f : TaskCtx → TaskCtx) : (s.updMe f).nextId = s.nextId := rfl
@[simp] theorem State.updMe_rc (s : State) (f : TaskCtx → TaskCtx) : (s.updMe f).rc = s.rc := rfl
@[simp] theorem State.updMe_ac (s : State) (f : TaskCtx → TaskCtx) : (s.updMe f).ac = s.ac := rfl
@[simp] theorem State.updMe_phase (s : State) (f : TaskCtx → TaskCtx) : (s.updMe f).phase = s.phase := rfl
@[simp] theorem State.updMe_acCores (s : State) (f : TaskCtx → TaskCtx) : (s.updMe f).acCores = s.acCores := rfl
@[simp] theorem State.updMe_acMem (s : State) (f : TaskCtx → TaskCtx) : (s.updMe f).acMem = s.acMem := rfl
@[simp] theorem State.updMe_mem (s : State) (f : TaskCtx → TaskCtx) : (s.updMe f).mem = s.mem := rfl
@[simp] theorem State.updMe_poison (s : State) (f : TaskCtx → TaskCtx) : (s.updMe f).poison = s.poison := rfl
@[simp] theorem State.updMe_struck (s : State) (f : TaskCtx → TaskCtx) : (s.updMe f).struck = s.struck := rfl
@[simp] theorem State.updMe_keyed (s : State) (f : TaskCtx → TaskCtx) : (s.updMe f).keyed = s.keyed := rfl
@[simp] theorem State.updMe_dies (s : State) (f : TaskCtx → TaskCtx) : (s.updMe f).dies = s.dies := rfl
@[simp] theorem State.updMe_units (s : State) (f : TaskCtx → TaskCtx) : (s.updMe f).units = s.units := rfl
@[simp] theorem State.updMe_hub (s : State) (f : TaskCtx → TaskCtx) : (s.updMe f).hub = s.hub := rfl
@[simp] theorem State.updMe_cfg (s : State) (f : TaskCtx → TaskCtx) : (s.updMe f).cfg = s.cfg := rfl
@[simp] theorem State.updMe_transit (s : State) (f : TaskCtx → TaskCtx) : (s.updMe f).transit = s.transit := rfl
@[simp] theorem State.updMe_deferred (s : State) (f : TaskCtx → TaskCtx) : (s.updMe f).deferred = s.deferred := rfl
@[simp] theorem State.updMe_waiters (s : State) (f : TaskCtx → TaskCtx) : (s.updMe f).waiters = s.waiters := rfl
@[simp] theorem State.updMe_granted (s : State) (f : TaskCtx → TaskCtx) : (s.updMe f).granted = s.granted := rfl
@[simp] theorem State.updMe_debits (s : State) (f : TaskCtx → TaskCtx) : (s.updMe f).debits = s.debits := rfl
@[simp] theorem State.updMe_remote (s : State) (f : TaskCtx → TaskCtx) : (s.updMe f).remote = s.remote := rfl
@[simp] theorem State.updMe_slotWrites (s : State) (f : TaskCtx → TaskCtx) : (s.updMe f).slotWrites = s.slotWrites := rfl
@[simp] theorem State.updMe_slotOps (s : State) (f : TaskCtx → TaskCtx) : (s.updMe f).slotOps = s.slotOps := rfl
@[simp] theorem State.updMe_marks (s : State) (f : TaskCtx → TaskCtx) : (s.updMe f).marks = s.marks := rfl
@[simp] theorem State.updMe_mqNotices (s : State) (f : TaskCtx → TaskCtx) : (s.updMe f).mqNotices = s.mqNotices := rfl
@[simp] theorem State.updMe_mqListed (s : State) (f : TaskCtx → TaskCtx) : (s.updMe f).mqListed = s.mqListed := rfl
@[simp] theorem State.updMe_accEntries (s : State) (f : TaskCtx → TaskCtx) : (s.updMe f).accEntries = s.accEntries := rfl
@[simp] theorem State.updMe_invals (s : State) (f : TaskCtx → TaskCtx) : (s.updMe f).invals = s.invals := rfl
@[simp] theorem State.updMe_winSlots (s : State) (f : TaskCtx → TaskCtx) : (s.updMe f).winSlots = s.winSlots := rfl
@[simp] theorem State.updMe_registrants (s : State) (f : TaskCtx → TaskCtx) : (s.updMe f).registrants = s.registrants := rfl
@[simp] theorem State.updMe_early (s : State) (f : TaskCtx → TaskCtx) : (s.updMe f).early = s.early := rfl
@[simp] theorem State.updMe_flits (s : State) (f : TaskCtx → TaskCtx) : (s.updMe f).flits = s.flits := rfl

/-! ### `State.updRegs` -/

@[simp] theorem State.updRegs_turns (s : State) (c : Nat) (f : Regs → Regs) : (s.updRegs c f).turns = s.turns := rfl
@[simp] theorem State.updRegs_cur (s : State) (c : Nat) (f : Regs → Regs) : (s.updRegs c f).cur = s.cur := rfl
@[simp] theorem State.updRegs_freeCnt (s : State) (c : Nat) (f : Regs → Regs) : (s.updRegs c f).freeCnt = s.freeCnt := rfl
@[simp] theorem State.updRegs_nextId (s : State) (c : Nat) (f : Regs → Regs) : (s.updRegs c f).nextId = s.nextId := rfl
@[simp] theorem State.updRegs_rc (s : State) (c : Nat) (f : Regs → Regs) : (s.updRegs c f).rc = s.rc := rfl
@[simp] theorem State.updRegs_ac (s : State) (c : Nat) (f : Regs → Regs) : (s.updRegs c f).ac = s.ac := rfl
@[simp] theorem State.updRegs_phase (s : State) (c : Nat) (f : Regs → Regs) : (s.updRegs c f).phase = s.phase := rfl
@[simp] theorem State.updRegs_acCores (s : State) (c : Nat) (f : Regs → Regs) : (s.updRegs c f).acCores = s.acCores := rfl
@[simp] theorem State.updRegs_acMem (s : State) (c : Nat) (f : Regs → Regs) : (s.updRegs c f).acMem = s.acMem := rfl
@[simp] theorem State.updRegs_mem (s : State) (c : Nat) (f : Regs → Regs) : (s.updRegs c f).mem = s.mem := rfl
@[simp] theorem State.updRegs_poison (s : State) (c : Nat) (f : Regs → Regs) : (s.updRegs c f).poison = s.poison := rfl
@[simp] theorem State.updRegs_struck (s : State) (c : Nat) (f : Regs → Regs) : (s.updRegs c f).struck = s.struck := rfl
@[simp] theorem State.updRegs_keyed (s : State) (c : Nat) (f : Regs → Regs) : (s.updRegs c f).keyed = s.keyed := rfl
@[simp] theorem State.updRegs_dies (s : State) (c : Nat) (f : Regs → Regs) : (s.updRegs c f).dies = s.dies := rfl
@[simp] theorem State.updRegs_units (s : State) (c : Nat) (f : Regs → Regs) : (s.updRegs c f).units = s.units := rfl
@[simp] theorem State.updRegs_hub (s : State) (c : Nat) (f : Regs → Regs) : (s.updRegs c f).hub = s.hub := rfl
@[simp] theorem State.updRegs_cfg (s : State) (c : Nat) (f : Regs → Regs) : (s.updRegs c f).cfg = s.cfg := rfl
@[simp] theorem State.updRegs_transit (s : State) (c : Nat) (f : Regs → Regs) : (s.updRegs c f).transit = s.transit := rfl
@[simp] theorem State.updRegs_deferred (s : State) (c : Nat) (f : Regs → Regs) : (s.updRegs c f).deferred = s.deferred := rfl
@[simp] theorem State.updRegs_waiters (s : State) (c : Nat) (f : Regs → Regs) : (s.updRegs c f).waiters = s.waiters := rfl
@[simp] theorem State.updRegs_granted (s : State) (c : Nat) (f : Regs → Regs) : (s.updRegs c f).granted = s.granted := rfl
@[simp] theorem State.updRegs_debits (s : State) (c : Nat) (f : Regs → Regs) : (s.updRegs c f).debits = s.debits := rfl
@[simp] theorem State.updRegs_remote (s : State) (c : Nat) (f : Regs → Regs) : (s.updRegs c f).remote = s.remote := rfl
@[simp] theorem State.updRegs_slotWrites (s : State) (c : Nat) (f : Regs → Regs) : (s.updRegs c f).slotWrites = s.slotWrites := rfl
@[simp] theorem State.updRegs_slotOps (s : State) (c : Nat) (f : Regs → Regs) : (s.updRegs c f).slotOps = s.slotOps := rfl
@[simp] theorem State.updRegs_marks (s : State) (c : Nat) (f : Regs → Regs) : (s.updRegs c f).marks = s.marks := rfl
@[simp] theorem State.updRegs_mqNotices (s : State) (c : Nat) (f : Regs → Regs) : (s.updRegs c f).mqNotices = s.mqNotices := rfl
@[simp] theorem State.updRegs_mqListed (s : State) (c : Nat) (f : Regs → Regs) : (s.updRegs c f).mqListed = s.mqListed := rfl
@[simp] theorem State.updRegs_accEntries (s : State) (c : Nat) (f : Regs → Regs) : (s.updRegs c f).accEntries = s.accEntries := rfl
@[simp] theorem State.updRegs_invals (s : State) (c : Nat) (f : Regs → Regs) : (s.updRegs c f).invals = s.invals := rfl
@[simp] theorem State.updRegs_winSlots (s : State) (c : Nat) (f : Regs → Regs) : (s.updRegs c f).winSlots = s.winSlots := rfl
@[simp] theorem State.updRegs_registrants (s : State) (c : Nat) (f : Regs → Regs) : (s.updRegs c f).registrants = s.registrants := rfl
@[simp] theorem State.updRegs_early (s : State) (c : Nat) (f : Regs → Regs) : (s.updRegs c f).early = s.early := rfl
@[simp] theorem State.updRegs_flits (s : State) (c : Nat) (f : Regs → Regs) : (s.updRegs c f).flits = s.flits := rfl

/-! ### `State.updShared` -/

@[simp] theorem State.updShared_turns (s : State) (c : Nat) (f : Shared → Shared) : (s.updShared c f).turns = s.turns := rfl
@[simp] theorem State.updShared_cur (s : State) (c : Nat) (f : Shared → Shared) : (s.updShared c f).cur = s.cur := rfl
@[simp] theorem State.updShared_freeCnt (s : State) (c : Nat) (f : Shared → Shared) : (s.updShared c f).freeCnt = s.freeCnt := rfl
@[simp] theorem State.updShared_nextId (s : State) (c : Nat) (f : Shared → Shared) : (s.updShared c f).nextId = s.nextId := rfl
@[simp] theorem State.updShared_rc (s : State) (c : Nat) (f : Shared → Shared) : (s.updShared c f).rc = s.rc := rfl
@[simp] theorem State.updShared_ac (s : State) (c : Nat) (f : Shared → Shared) : (s.updShared c f).ac = s.ac := rfl
@[simp] theorem State.updShared_phase (s : State) (c : Nat) (f : Shared → Shared) : (s.updShared c f).phase = s.phase := rfl
@[simp] theorem State.updShared_acCores (s : State) (c : Nat) (f : Shared → Shared) : (s.updShared c f).acCores = s.acCores := rfl
@[simp] theorem State.updShared_acMem (s : State) (c : Nat) (f : Shared → Shared) : (s.updShared c f).acMem = s.acMem := rfl
@[simp] theorem State.updShared_mem (s : State) (c : Nat) (f : Shared → Shared) : (s.updShared c f).mem = s.mem := rfl
@[simp] theorem State.updShared_poison (s : State) (c : Nat) (f : Shared → Shared) : (s.updShared c f).poison = s.poison := rfl
@[simp] theorem State.updShared_struck (s : State) (c : Nat) (f : Shared → Shared) : (s.updShared c f).struck = s.struck := rfl
@[simp] theorem State.updShared_keyed (s : State) (c : Nat) (f : Shared → Shared) : (s.updShared c f).keyed = s.keyed := rfl
@[simp] theorem State.updShared_dies (s : State) (c : Nat) (f : Shared → Shared) : (s.updShared c f).dies = s.dies := rfl
@[simp] theorem State.updShared_units (s : State) (c : Nat) (f : Shared → Shared) : (s.updShared c f).units = s.units := rfl
@[simp] theorem State.updShared_hub (s : State) (c : Nat) (f : Shared → Shared) : (s.updShared c f).hub = s.hub := rfl
@[simp] theorem State.updShared_cfg (s : State) (c : Nat) (f : Shared → Shared) : (s.updShared c f).cfg = s.cfg := rfl
@[simp] theorem State.updShared_transit (s : State) (c : Nat) (f : Shared → Shared) : (s.updShared c f).transit = s.transit := rfl
@[simp] theorem State.updShared_deferred (s : State) (c : Nat) (f : Shared → Shared) : (s.updShared c f).deferred = s.deferred := rfl
@[simp] theorem State.updShared_waiters (s : State) (c : Nat) (f : Shared → Shared) : (s.updShared c f).waiters = s.waiters := rfl
@[simp] theorem State.updShared_granted (s : State) (c : Nat) (f : Shared → Shared) : (s.updShared c f).granted = s.granted := rfl
@[simp] theorem State.updShared_debits (s : State) (c : Nat) (f : Shared → Shared) : (s.updShared c f).debits = s.debits := rfl
@[simp] theorem State.updShared_remote (s : State) (c : Nat) (f : Shared → Shared) : (s.updShared c f).remote = s.remote := rfl
@[simp] theorem State.updShared_slotWrites (s : State) (c : Nat) (f : Shared → Shared) : (s.updShared c f).slotWrites = s.slotWrites := rfl
@[simp] theorem State.updShared_slotOps (s : State) (c : Nat) (f : Shared → Shared) : (s.updShared c f).slotOps = s.slotOps := rfl
@[simp] theorem State.updShared_marks (s : State) (c : Nat) (f : Shared → Shared) : (s.updShared c f).marks = s.marks := rfl
@[simp] theorem State.updShared_mqNotices (s : State) (c : Nat) (f : Shared → Shared) : (s.updShared c f).mqNotices = s.mqNotices := rfl
@[simp] theorem State.updShared_mqListed (s : State) (c : Nat) (f : Shared → Shared) : (s.updShared c f).mqListed = s.mqListed := rfl
@[simp] theorem State.updShared_accEntries (s : State) (c : Nat) (f : Shared → Shared) : (s.updShared c f).accEntries = s.accEntries := rfl
@[simp] theorem State.updShared_invals (s : State) (c : Nat) (f : Shared → Shared) : (s.updShared c f).invals = s.invals := rfl
@[simp] theorem State.updShared_winSlots (s : State) (c : Nat) (f : Shared → Shared) : (s.updShared c f).winSlots = s.winSlots := rfl
@[simp] theorem State.updShared_registrants (s : State) (c : Nat) (f : Shared → Shared) : (s.updShared c f).registrants = s.registrants := rfl
@[simp] theorem State.updShared_early (s : State) (c : Nat) (f : Shared → Shared) : (s.updShared c f).early = s.early := rfl
@[simp] theorem State.updShared_flits (s : State) (c : Nat) (f : Shared → Shared) : (s.updShared c f).flits = s.flits := rfl

/-! ### `State.updFw` -/

@[simp] theorem State.updFw_turns (s : State) (f : Firmware → Firmware) : (s.updFw f).turns = s.turns := rfl
@[simp] theorem State.updFw_cur (s : State) (f : Firmware → Firmware) : (s.updFw f).cur = s.cur := rfl
@[simp] theorem State.updFw_freeCnt (s : State) (f : Firmware → Firmware) : (s.updFw f).freeCnt = s.freeCnt := rfl
@[simp] theorem State.updFw_nextId (s : State) (f : Firmware → Firmware) : (s.updFw f).nextId = s.nextId := rfl
@[simp] theorem State.updFw_rc (s : State) (f : Firmware → Firmware) : (s.updFw f).rc = s.rc := rfl
@[simp] theorem State.updFw_ac (s : State) (f : Firmware → Firmware) : (s.updFw f).ac = s.ac := rfl
@[simp] theorem State.updFw_phase (s : State) (f : Firmware → Firmware) : (s.updFw f).phase = s.phase := rfl
@[simp] theorem State.updFw_acCores (s : State) (f : Firmware → Firmware) : (s.updFw f).acCores = s.acCores := rfl
@[simp] theorem State.updFw_acMem (s : State) (f : Firmware → Firmware) : (s.updFw f).acMem = s.acMem := rfl
@[simp] theorem State.updFw_mem (s : State) (f : Firmware → Firmware) : (s.updFw f).mem = s.mem := rfl
@[simp] theorem State.updFw_poison (s : State) (f : Firmware → Firmware) : (s.updFw f).poison = s.poison := rfl
@[simp] theorem State.updFw_struck (s : State) (f : Firmware → Firmware) : (s.updFw f).struck = s.struck := rfl
@[simp] theorem State.updFw_keyed (s : State) (f : Firmware → Firmware) : (s.updFw f).keyed = s.keyed := rfl
@[simp] theorem State.updFw_dies (s : State) (f : Firmware → Firmware) : (s.updFw f).dies = s.dies := rfl
@[simp] theorem State.updFw_units (s : State) (f : Firmware → Firmware) : (s.updFw f).units = s.units := rfl
@[simp] theorem State.updFw_hub (s : State) (f : Firmware → Firmware) : (s.updFw f).hub = s.hub := rfl
@[simp] theorem State.updFw_cfg (s : State) (f : Firmware → Firmware) : (s.updFw f).cfg = s.cfg := rfl
@[simp] theorem State.updFw_transit (s : State) (f : Firmware → Firmware) : (s.updFw f).transit = s.transit := rfl
@[simp] theorem State.updFw_deferred (s : State) (f : Firmware → Firmware) : (s.updFw f).deferred = s.deferred := rfl
@[simp] theorem State.updFw_waiters (s : State) (f : Firmware → Firmware) : (s.updFw f).waiters = s.waiters := rfl
@[simp] theorem State.updFw_granted (s : State) (f : Firmware → Firmware) : (s.updFw f).granted = s.granted := rfl
@[simp] theorem State.updFw_debits (s : State) (f : Firmware → Firmware) : (s.updFw f).debits = s.debits := rfl
@[simp] theorem State.updFw_remote (s : State) (f : Firmware → Firmware) : (s.updFw f).remote = s.remote := rfl
@[simp] theorem State.updFw_slotWrites (s : State) (f : Firmware → Firmware) : (s.updFw f).slotWrites = s.slotWrites := rfl
@[simp] theorem State.updFw_slotOps (s : State) (f : Firmware → Firmware) : (s.updFw f).slotOps = s.slotOps := rfl
@[simp] theorem State.updFw_marks (s : State) (f : Firmware → Firmware) : (s.updFw f).marks = s.marks := rfl
@[simp] theorem State.updFw_mqNotices (s : State) (f : Firmware → Firmware) : (s.updFw f).mqNotices = s.mqNotices := rfl
@[simp] theorem State.updFw_mqListed (s : State) (f : Firmware → Firmware) : (s.updFw f).mqListed = s.mqListed := rfl
@[simp] theorem State.updFw_accEntries (s : State) (f : Firmware → Firmware) : (s.updFw f).accEntries = s.accEntries := rfl
@[simp] theorem State.updFw_invals (s : State) (f : Firmware → Firmware) : (s.updFw f).invals = s.invals := rfl
@[simp] theorem State.updFw_winSlots (s : State) (f : Firmware → Firmware) : (s.updFw f).winSlots = s.winSlots := rfl
@[simp] theorem State.updFw_registrants (s : State) (f : Firmware → Firmware) : (s.updFw f).registrants = s.registrants := rfl
@[simp] theorem State.updFw_early (s : State) (f : Firmware → Firmware) : (s.updFw f).early = s.early := rfl
@[simp] theorem State.updFw_flits (s : State) (f : Firmware → Firmware) : (s.updFw f).flits = s.flits := rfl

/-! ### `State.updDie` -/

@[simp] theorem State.updDie_turns (s : State) (d : Nat) (f : Die → Die) : (s.updDie d f).turns = s.turns := rfl
@[simp] theorem State.updDie_cur (s : State) (d : Nat) (f : Die → Die) : (s.updDie d f).cur = s.cur := rfl
@[simp] theorem State.updDie_freeCnt (s : State) (d : Nat) (f : Die → Die) : (s.updDie d f).freeCnt = s.freeCnt := rfl
@[simp] theorem State.updDie_nextId (s : State) (d : Nat) (f : Die → Die) : (s.updDie d f).nextId = s.nextId := rfl
@[simp] theorem State.updDie_rc (s : State) (d : Nat) (f : Die → Die) : (s.updDie d f).rc = s.rc := rfl
@[simp] theorem State.updDie_ac (s : State) (d : Nat) (f : Die → Die) : (s.updDie d f).ac = s.ac := rfl
@[simp] theorem State.updDie_phase (s : State) (d : Nat) (f : Die → Die) : (s.updDie d f).phase = s.phase := rfl
@[simp] theorem State.updDie_acCores (s : State) (d : Nat) (f : Die → Die) : (s.updDie d f).acCores = s.acCores := rfl
@[simp] theorem State.updDie_acMem (s : State) (d : Nat) (f : Die → Die) : (s.updDie d f).acMem = s.acMem := rfl
@[simp] theorem State.updDie_mem (s : State) (d : Nat) (f : Die → Die) : (s.updDie d f).mem = s.mem := rfl
@[simp] theorem State.updDie_poison (s : State) (d : Nat) (f : Die → Die) : (s.updDie d f).poison = s.poison := rfl
@[simp] theorem State.updDie_struck (s : State) (d : Nat) (f : Die → Die) : (s.updDie d f).struck = s.struck := rfl
@[simp] theorem State.updDie_keyed (s : State) (d : Nat) (f : Die → Die) : (s.updDie d f).keyed = s.keyed := rfl
@[simp] theorem State.updDie_cores (s : State) (d : Nat) (f : Die → Die) : (s.updDie d f).cores = s.cores := rfl
@[simp] theorem State.updDie_units (s : State) (d : Nat) (f : Die → Die) : (s.updDie d f).units = s.units := rfl
@[simp] theorem State.updDie_hub (s : State) (d : Nat) (f : Die → Die) : (s.updDie d f).hub = s.hub := rfl
@[simp] theorem State.updDie_cfg (s : State) (d : Nat) (f : Die → Die) : (s.updDie d f).cfg = s.cfg := rfl
@[simp] theorem State.updDie_transit (s : State) (d : Nat) (f : Die → Die) : (s.updDie d f).transit = s.transit := rfl
@[simp] theorem State.updDie_deferred (s : State) (d : Nat) (f : Die → Die) : (s.updDie d f).deferred = s.deferred := rfl
@[simp] theorem State.updDie_waiters (s : State) (d : Nat) (f : Die → Die) : (s.updDie d f).waiters = s.waiters := rfl
@[simp] theorem State.updDie_granted (s : State) (d : Nat) (f : Die → Die) : (s.updDie d f).granted = s.granted := rfl
@[simp] theorem State.updDie_debits (s : State) (d : Nat) (f : Die → Die) : (s.updDie d f).debits = s.debits := rfl
@[simp] theorem State.updDie_remote (s : State) (d : Nat) (f : Die → Die) : (s.updDie d f).remote = s.remote := rfl
@[simp] theorem State.updDie_slotWrites (s : State) (d : Nat) (f : Die → Die) : (s.updDie d f).slotWrites = s.slotWrites := rfl
@[simp] theorem State.updDie_slotOps (s : State) (d : Nat) (f : Die → Die) : (s.updDie d f).slotOps = s.slotOps := rfl
@[simp] theorem State.updDie_marks (s : State) (d : Nat) (f : Die → Die) : (s.updDie d f).marks = s.marks := rfl
@[simp] theorem State.updDie_mqNotices (s : State) (d : Nat) (f : Die → Die) : (s.updDie d f).mqNotices = s.mqNotices := rfl
@[simp] theorem State.updDie_mqListed (s : State) (d : Nat) (f : Die → Die) : (s.updDie d f).mqListed = s.mqListed := rfl
@[simp] theorem State.updDie_accEntries (s : State) (d : Nat) (f : Die → Die) : (s.updDie d f).accEntries = s.accEntries := rfl
@[simp] theorem State.updDie_invals (s : State) (d : Nat) (f : Die → Die) : (s.updDie d f).invals = s.invals := rfl
@[simp] theorem State.updDie_winSlots (s : State) (d : Nat) (f : Die → Die) : (s.updDie d f).winSlots = s.winSlots := rfl
@[simp] theorem State.updDie_registrants (s : State) (d : Nat) (f : Die → Die) : (s.updDie d f).registrants = s.registrants := rfl
@[simp] theorem State.updDie_early (s : State) (d : Nat) (f : Die → Die) : (s.updDie d f).early = s.early := rfl
@[simp] theorem State.updDie_flits (s : State) (d : Nat) (f : Die → Die) : (s.updDie d f).flits = s.flits := rfl

/-! ### `State.updLaunch` -/

@[simp] theorem State.updLaunch_turns (s : State) (d l : Nat) (f : Launch → Launch) : (s.updLaunch d l f).turns = s.turns := rfl
@[simp] theorem State.updLaunch_cur (s : State) (d l : Nat) (f : Launch → Launch) : (s.updLaunch d l f).cur = s.cur := rfl
@[simp] theorem State.updLaunch_freeCnt (s : State) (d l : Nat) (f : Launch → Launch) : (s.updLaunch d l f).freeCnt = s.freeCnt := rfl
@[simp] theorem State.updLaunch_nextId (s : State) (d l : Nat) (f : Launch → Launch) : (s.updLaunch d l f).nextId = s.nextId := rfl
@[simp] theorem State.updLaunch_rc (s : State) (d l : Nat) (f : Launch → Launch) : (s.updLaunch d l f).rc = s.rc := rfl
@[simp] theorem State.updLaunch_ac (s : State) (d l : Nat) (f : Launch → Launch) : (s.updLaunch d l f).ac = s.ac := rfl
@[simp] theorem State.updLaunch_phase (s : State) (d l : Nat) (f : Launch → Launch) : (s.updLaunch d l f).phase = s.phase := rfl
@[simp] theorem State.updLaunch_acCores (s : State) (d l : Nat) (f : Launch → Launch) : (s.updLaunch d l f).acCores = s.acCores := rfl
@[simp] theorem State.updLaunch_acMem (s : State) (d l : Nat) (f : Launch → Launch) : (s.updLaunch d l f).acMem = s.acMem := rfl
@[simp] theorem State.updLaunch_mem (s : State) (d l : Nat) (f : Launch → Launch) : (s.updLaunch d l f).mem = s.mem := rfl
@[simp] theorem State.updLaunch_poison (s : State) (d l : Nat) (f : Launch → Launch) : (s.updLaunch d l f).poison = s.poison := rfl
@[simp] theorem State.updLaunch_struck (s : State) (d l : Nat) (f : Launch → Launch) : (s.updLaunch d l f).struck = s.struck := rfl
@[simp] theorem State.updLaunch_keyed (s : State) (d l : Nat) (f : Launch → Launch) : (s.updLaunch d l f).keyed = s.keyed := rfl
@[simp] theorem State.updLaunch_cores (s : State) (d l : Nat) (f : Launch → Launch) : (s.updLaunch d l f).cores = s.cores := rfl
@[simp] theorem State.updLaunch_units (s : State) (d l : Nat) (f : Launch → Launch) : (s.updLaunch d l f).units = s.units := rfl
@[simp] theorem State.updLaunch_hub (s : State) (d l : Nat) (f : Launch → Launch) : (s.updLaunch d l f).hub = s.hub := rfl
@[simp] theorem State.updLaunch_cfg (s : State) (d l : Nat) (f : Launch → Launch) : (s.updLaunch d l f).cfg = s.cfg := rfl
@[simp] theorem State.updLaunch_transit (s : State) (d l : Nat) (f : Launch → Launch) : (s.updLaunch d l f).transit = s.transit := rfl
@[simp] theorem State.updLaunch_deferred (s : State) (d l : Nat) (f : Launch → Launch) : (s.updLaunch d l f).deferred = s.deferred := rfl
@[simp] theorem State.updLaunch_waiters (s : State) (d l : Nat) (f : Launch → Launch) : (s.updLaunch d l f).waiters = s.waiters := rfl
@[simp] theorem State.updLaunch_granted (s : State) (d l : Nat) (f : Launch → Launch) : (s.updLaunch d l f).granted = s.granted := rfl
@[simp] theorem State.updLaunch_debits (s : State) (d l : Nat) (f : Launch → Launch) : (s.updLaunch d l f).debits = s.debits := rfl
@[simp] theorem State.updLaunch_remote (s : State) (d l : Nat) (f : Launch → Launch) : (s.updLaunch d l f).remote = s.remote := rfl
@[simp] theorem State.updLaunch_slotWrites (s : State) (d l : Nat) (f : Launch → Launch) : (s.updLaunch d l f).slotWrites = s.slotWrites := rfl
@[simp] theorem State.updLaunch_slotOps (s : State) (d l : Nat) (f : Launch → Launch) : (s.updLaunch d l f).slotOps = s.slotOps := rfl
@[simp] theorem State.updLaunch_marks (s : State) (d l : Nat) (f : Launch → Launch) : (s.updLaunch d l f).marks = s.marks := rfl
@[simp] theorem State.updLaunch_mqNotices (s : State) (d l : Nat) (f : Launch → Launch) : (s.updLaunch d l f).mqNotices = s.mqNotices := rfl
@[simp] theorem State.updLaunch_mqListed (s : State) (d l : Nat) (f : Launch → Launch) : (s.updLaunch d l f).mqListed = s.mqListed := rfl
@[simp] theorem State.updLaunch_accEntries (s : State) (d l : Nat) (f : Launch → Launch) : (s.updLaunch d l f).accEntries = s.accEntries := rfl
@[simp] theorem State.updLaunch_invals (s : State) (d l : Nat) (f : Launch → Launch) : (s.updLaunch d l f).invals = s.invals := rfl
@[simp] theorem State.updLaunch_winSlots (s : State) (d l : Nat) (f : Launch → Launch) : (s.updLaunch d l f).winSlots = s.winSlots := rfl
@[simp] theorem State.updLaunch_registrants (s : State) (d l : Nat) (f : Launch → Launch) : (s.updLaunch d l f).registrants = s.registrants := rfl
@[simp] theorem State.updLaunch_early (s : State) (d l : Nat) (f : Launch → Launch) : (s.updLaunch d l f).early = s.early := rfl
@[simp] theorem State.updLaunch_flits (s : State) (d l : Nat) (f : Launch → Launch) : (s.updLaunch d l f).flits = s.flits := rfl

/-! ### `State.logFault` -/

@[simp] theorem State.logFault_turns (s : State) (d : Nat) (r : FaultRec) : (s.logFault d r).turns = s.turns := rfl
@[simp] theorem State.logFault_cur (s : State) (d : Nat) (r : FaultRec) : (s.logFault d r).cur = s.cur := rfl
@[simp] theorem State.logFault_freeCnt (s : State) (d : Nat) (r : FaultRec) : (s.logFault d r).freeCnt = s.freeCnt := rfl
@[simp] theorem State.logFault_nextId (s : State) (d : Nat) (r : FaultRec) : (s.logFault d r).nextId = s.nextId := rfl
@[simp] theorem State.logFault_rc (s : State) (d : Nat) (r : FaultRec) : (s.logFault d r).rc = s.rc := rfl
@[simp] theorem State.logFault_ac (s : State) (d : Nat) (r : FaultRec) : (s.logFault d r).ac = s.ac := rfl
@[simp] theorem State.logFault_phase (s : State) (d : Nat) (r : FaultRec) : (s.logFault d r).phase = s.phase := rfl
@[simp] theorem State.logFault_acCores (s : State) (d : Nat) (r : FaultRec) : (s.logFault d r).acCores = s.acCores := rfl
@[simp] theorem State.logFault_acMem (s : State) (d : Nat) (r : FaultRec) : (s.logFault d r).acMem = s.acMem := rfl
@[simp] theorem State.logFault_mem (s : State) (d : Nat) (r : FaultRec) : (s.logFault d r).mem = s.mem := rfl
@[simp] theorem State.logFault_poison (s : State) (d : Nat) (r : FaultRec) : (s.logFault d r).poison = s.poison := rfl
@[simp] theorem State.logFault_struck (s : State) (d : Nat) (r : FaultRec) : (s.logFault d r).struck = s.struck := rfl
@[simp] theorem State.logFault_keyed (s : State) (d : Nat) (r : FaultRec) : (s.logFault d r).keyed = s.keyed := rfl
@[simp] theorem State.logFault_cores (s : State) (d : Nat) (r : FaultRec) : (s.logFault d r).cores = s.cores := rfl
@[simp] theorem State.logFault_units (s : State) (d : Nat) (r : FaultRec) : (s.logFault d r).units = s.units := rfl
@[simp] theorem State.logFault_hub (s : State) (d : Nat) (r : FaultRec) : (s.logFault d r).hub = s.hub := rfl
@[simp] theorem State.logFault_cfg (s : State) (d : Nat) (r : FaultRec) : (s.logFault d r).cfg = s.cfg := rfl
@[simp] theorem State.logFault_transit (s : State) (d : Nat) (r : FaultRec) : (s.logFault d r).transit = s.transit := rfl
@[simp] theorem State.logFault_deferred (s : State) (d : Nat) (r : FaultRec) : (s.logFault d r).deferred = s.deferred := rfl
@[simp] theorem State.logFault_waiters (s : State) (d : Nat) (r : FaultRec) : (s.logFault d r).waiters = s.waiters := rfl
@[simp] theorem State.logFault_granted (s : State) (d : Nat) (r : FaultRec) : (s.logFault d r).granted = s.granted := rfl
@[simp] theorem State.logFault_debits (s : State) (d : Nat) (r : FaultRec) : (s.logFault d r).debits = s.debits := rfl
@[simp] theorem State.logFault_remote (s : State) (d : Nat) (r : FaultRec) : (s.logFault d r).remote = s.remote := rfl
@[simp] theorem State.logFault_slotWrites (s : State) (d : Nat) (r : FaultRec) : (s.logFault d r).slotWrites = s.slotWrites := rfl
@[simp] theorem State.logFault_slotOps (s : State) (d : Nat) (r : FaultRec) : (s.logFault d r).slotOps = s.slotOps := rfl
@[simp] theorem State.logFault_marks (s : State) (d : Nat) (r : FaultRec) : (s.logFault d r).marks = s.marks := rfl
@[simp] theorem State.logFault_mqNotices (s : State) (d : Nat) (r : FaultRec) : (s.logFault d r).mqNotices = s.mqNotices := rfl
@[simp] theorem State.logFault_mqListed (s : State) (d : Nat) (r : FaultRec) : (s.logFault d r).mqListed = s.mqListed := rfl
@[simp] theorem State.logFault_accEntries (s : State) (d : Nat) (r : FaultRec) : (s.logFault d r).accEntries = s.accEntries := rfl
@[simp] theorem State.logFault_invals (s : State) (d : Nat) (r : FaultRec) : (s.logFault d r).invals = s.invals := rfl
@[simp] theorem State.logFault_winSlots (s : State) (d : Nat) (r : FaultRec) : (s.logFault d r).winSlots = s.winSlots := rfl
@[simp] theorem State.logFault_registrants (s : State) (d : Nat) (r : FaultRec) : (s.logFault d r).registrants = s.registrants := rfl
@[simp] theorem State.logFault_early (s : State) (d : Nat) (r : FaultRec) : (s.logFault d r).early = s.early := rfl
@[simp] theorem State.logFault_flits (s : State) (d : Nat) (r : FaultRec) : (s.logFault d r).flits = s.flits := rfl

/-! ### `State.updUnit` -/

@[simp] theorem State.updUnit_turns (s : State) (u : Nat) (f : RentUnit → RentUnit) : (s.updUnit u f).turns = s.turns := rfl
@[simp] theorem State.updUnit_cur (s : State) (u : Nat) (f : RentUnit → RentUnit) : (s.updUnit u f).cur = s.cur := rfl
@[simp] theorem State.updUnit_freeCnt (s : State) (u : Nat) (f : RentUnit → RentUnit) : (s.updUnit u f).freeCnt = s.freeCnt := rfl
@[simp] theorem State.updUnit_nextId (s : State) (u : Nat) (f : RentUnit → RentUnit) : (s.updUnit u f).nextId = s.nextId := rfl
@[simp] theorem State.updUnit_rc (s : State) (u : Nat) (f : RentUnit → RentUnit) : (s.updUnit u f).rc = s.rc := rfl
@[simp] theorem State.updUnit_ac (s : State) (u : Nat) (f : RentUnit → RentUnit) : (s.updUnit u f).ac = s.ac := rfl
@[simp] theorem State.updUnit_phase (s : State) (u : Nat) (f : RentUnit → RentUnit) : (s.updUnit u f).phase = s.phase := rfl
@[simp] theorem State.updUnit_acCores (s : State) (u : Nat) (f : RentUnit → RentUnit) : (s.updUnit u f).acCores = s.acCores := rfl
@[simp] theorem State.updUnit_acMem (s : State) (u : Nat) (f : RentUnit → RentUnit) : (s.updUnit u f).acMem = s.acMem := rfl
@[simp] theorem State.updUnit_mem (s : State) (u : Nat) (f : RentUnit → RentUnit) : (s.updUnit u f).mem = s.mem := rfl
@[simp] theorem State.updUnit_poison (s : State) (u : Nat) (f : RentUnit → RentUnit) : (s.updUnit u f).poison = s.poison := rfl
@[simp] theorem State.updUnit_struck (s : State) (u : Nat) (f : RentUnit → RentUnit) : (s.updUnit u f).struck = s.struck := rfl
@[simp] theorem State.updUnit_keyed (s : State) (u : Nat) (f : RentUnit → RentUnit) : (s.updUnit u f).keyed = s.keyed := rfl
@[simp] theorem State.updUnit_cores (s : State) (u : Nat) (f : RentUnit → RentUnit) : (s.updUnit u f).cores = s.cores := rfl
@[simp] theorem State.updUnit_dies (s : State) (u : Nat) (f : RentUnit → RentUnit) : (s.updUnit u f).dies = s.dies := rfl
@[simp] theorem State.updUnit_hub (s : State) (u : Nat) (f : RentUnit → RentUnit) : (s.updUnit u f).hub = s.hub := rfl
@[simp] theorem State.updUnit_cfg (s : State) (u : Nat) (f : RentUnit → RentUnit) : (s.updUnit u f).cfg = s.cfg := rfl
@[simp] theorem State.updUnit_transit (s : State) (u : Nat) (f : RentUnit → RentUnit) : (s.updUnit u f).transit = s.transit := rfl
@[simp] theorem State.updUnit_deferred (s : State) (u : Nat) (f : RentUnit → RentUnit) : (s.updUnit u f).deferred = s.deferred := rfl
@[simp] theorem State.updUnit_waiters (s : State) (u : Nat) (f : RentUnit → RentUnit) : (s.updUnit u f).waiters = s.waiters := rfl
@[simp] theorem State.updUnit_granted (s : State) (u : Nat) (f : RentUnit → RentUnit) : (s.updUnit u f).granted = s.granted := rfl
@[simp] theorem State.updUnit_debits (s : State) (u : Nat) (f : RentUnit → RentUnit) : (s.updUnit u f).debits = s.debits := rfl
@[simp] theorem State.updUnit_remote (s : State) (u : Nat) (f : RentUnit → RentUnit) : (s.updUnit u f).remote = s.remote := rfl
@[simp] theorem State.updUnit_slotWrites (s : State) (u : Nat) (f : RentUnit → RentUnit) : (s.updUnit u f).slotWrites = s.slotWrites := rfl
@[simp] theorem State.updUnit_slotOps (s : State) (u : Nat) (f : RentUnit → RentUnit) : (s.updUnit u f).slotOps = s.slotOps := rfl
@[simp] theorem State.updUnit_marks (s : State) (u : Nat) (f : RentUnit → RentUnit) : (s.updUnit u f).marks = s.marks := rfl
@[simp] theorem State.updUnit_mqNotices (s : State) (u : Nat) (f : RentUnit → RentUnit) : (s.updUnit u f).mqNotices = s.mqNotices := rfl
@[simp] theorem State.updUnit_mqListed (s : State) (u : Nat) (f : RentUnit → RentUnit) : (s.updUnit u f).mqListed = s.mqListed := rfl
@[simp] theorem State.updUnit_accEntries (s : State) (u : Nat) (f : RentUnit → RentUnit) : (s.updUnit u f).accEntries = s.accEntries := rfl
@[simp] theorem State.updUnit_invals (s : State) (u : Nat) (f : RentUnit → RentUnit) : (s.updUnit u f).invals = s.invals := rfl
@[simp] theorem State.updUnit_winSlots (s : State) (u : Nat) (f : RentUnit → RentUnit) : (s.updUnit u f).winSlots = s.winSlots := rfl
@[simp] theorem State.updUnit_registrants (s : State) (u : Nat) (f : RentUnit → RentUnit) : (s.updUnit u f).registrants = s.registrants := rfl
@[simp] theorem State.updUnit_early (s : State) (u : Nat) (f : RentUnit → RentUnit) : (s.updUnit u f).early = s.early := rfl
@[simp] theorem State.updUnit_flits (s : State) (u : Nat) (f : RentUnit → RentUnit) : (s.updUnit u f).flits = s.flits := rfl

/-! ### `State.updLease` -/

@[simp] theorem State.updLease_turns (s : State) (u h : Nat) (f : Lease → Lease) : (s.updLease u h f).turns = s.turns := rfl
@[simp] theorem State.updLease_cur (s : State) (u h : Nat) (f : Lease → Lease) : (s.updLease u h f).cur = s.cur := rfl
@[simp] theorem State.updLease_freeCnt (s : State) (u h : Nat) (f : Lease → Lease) : (s.updLease u h f).freeCnt = s.freeCnt := rfl
@[simp] theorem State.updLease_nextId (s : State) (u h : Nat) (f : Lease → Lease) : (s.updLease u h f).nextId = s.nextId := rfl
@[simp] theorem State.updLease_rc (s : State) (u h : Nat) (f : Lease → Lease) : (s.updLease u h f).rc = s.rc := rfl
@[simp] theorem State.updLease_ac (s : State) (u h : Nat) (f : Lease → Lease) : (s.updLease u h f).ac = s.ac := rfl
@[simp] theorem State.updLease_phase (s : State) (u h : Nat) (f : Lease → Lease) : (s.updLease u h f).phase = s.phase := rfl
@[simp] theorem State.updLease_acCores (s : State) (u h : Nat) (f : Lease → Lease) : (s.updLease u h f).acCores = s.acCores := rfl
@[simp] theorem State.updLease_acMem (s : State) (u h : Nat) (f : Lease → Lease) : (s.updLease u h f).acMem = s.acMem := rfl
@[simp] theorem State.updLease_mem (s : State) (u h : Nat) (f : Lease → Lease) : (s.updLease u h f).mem = s.mem := rfl
@[simp] theorem State.updLease_poison (s : State) (u h : Nat) (f : Lease → Lease) : (s.updLease u h f).poison = s.poison := rfl
@[simp] theorem State.updLease_struck (s : State) (u h : Nat) (f : Lease → Lease) : (s.updLease u h f).struck = s.struck := rfl
@[simp] theorem State.updLease_keyed (s : State) (u h : Nat) (f : Lease → Lease) : (s.updLease u h f).keyed = s.keyed := rfl
@[simp] theorem State.updLease_cores (s : State) (u h : Nat) (f : Lease → Lease) : (s.updLease u h f).cores = s.cores := rfl
@[simp] theorem State.updLease_dies (s : State) (u h : Nat) (f : Lease → Lease) : (s.updLease u h f).dies = s.dies := rfl
@[simp] theorem State.updLease_hub (s : State) (u h : Nat) (f : Lease → Lease) : (s.updLease u h f).hub = s.hub := rfl
@[simp] theorem State.updLease_cfg (s : State) (u h : Nat) (f : Lease → Lease) : (s.updLease u h f).cfg = s.cfg := rfl
@[simp] theorem State.updLease_transit (s : State) (u h : Nat) (f : Lease → Lease) : (s.updLease u h f).transit = s.transit := rfl
@[simp] theorem State.updLease_deferred (s : State) (u h : Nat) (f : Lease → Lease) : (s.updLease u h f).deferred = s.deferred := rfl
@[simp] theorem State.updLease_waiters (s : State) (u h : Nat) (f : Lease → Lease) : (s.updLease u h f).waiters = s.waiters := rfl
@[simp] theorem State.updLease_granted (s : State) (u h : Nat) (f : Lease → Lease) : (s.updLease u h f).granted = s.granted := rfl
@[simp] theorem State.updLease_debits (s : State) (u h : Nat) (f : Lease → Lease) : (s.updLease u h f).debits = s.debits := rfl
@[simp] theorem State.updLease_remote (s : State) (u h : Nat) (f : Lease → Lease) : (s.updLease u h f).remote = s.remote := rfl
@[simp] theorem State.updLease_slotWrites (s : State) (u h : Nat) (f : Lease → Lease) : (s.updLease u h f).slotWrites = s.slotWrites := rfl
@[simp] theorem State.updLease_slotOps (s : State) (u h : Nat) (f : Lease → Lease) : (s.updLease u h f).slotOps = s.slotOps := rfl
@[simp] theorem State.updLease_marks (s : State) (u h : Nat) (f : Lease → Lease) : (s.updLease u h f).marks = s.marks := rfl
@[simp] theorem State.updLease_mqNotices (s : State) (u h : Nat) (f : Lease → Lease) : (s.updLease u h f).mqNotices = s.mqNotices := rfl
@[simp] theorem State.updLease_mqListed (s : State) (u h : Nat) (f : Lease → Lease) : (s.updLease u h f).mqListed = s.mqListed := rfl
@[simp] theorem State.updLease_accEntries (s : State) (u h : Nat) (f : Lease → Lease) : (s.updLease u h f).accEntries = s.accEntries := rfl
@[simp] theorem State.updLease_invals (s : State) (u h : Nat) (f : Lease → Lease) : (s.updLease u h f).invals = s.invals := rfl
@[simp] theorem State.updLease_winSlots (s : State) (u h : Nat) (f : Lease → Lease) : (s.updLease u h f).winSlots = s.winSlots := rfl
@[simp] theorem State.updLease_registrants (s : State) (u h : Nat) (f : Lease → Lease) : (s.updLease u h f).registrants = s.registrants := rfl
@[simp] theorem State.updLease_early (s : State) (u h : Nat) (f : Lease → Lease) : (s.updLease u h f).early = s.early := rfl
@[simp] theorem State.updLease_flits (s : State) (u h : Nat) (f : Lease → Lease) : (s.updLease u h f).flits = s.flits := rfl

/-! ### `State.updAccount` -/

@[simp] theorem State.updAccount_turns (s : State) (a : Nat) (f : Account → Account) : (s.updAccount a f).turns = s.turns := rfl
@[simp] theorem State.updAccount_cur (s : State) (a : Nat) (f : Account → Account) : (s.updAccount a f).cur = s.cur := rfl
@[simp] theorem State.updAccount_freeCnt (s : State) (a : Nat) (f : Account → Account) : (s.updAccount a f).freeCnt = s.freeCnt := rfl
@[simp] theorem State.updAccount_nextId (s : State) (a : Nat) (f : Account → Account) : (s.updAccount a f).nextId = s.nextId := rfl
@[simp] theorem State.updAccount_rc (s : State) (a : Nat) (f : Account → Account) : (s.updAccount a f).rc = s.rc := rfl
@[simp] theorem State.updAccount_ac (s : State) (a : Nat) (f : Account → Account) : (s.updAccount a f).ac = s.ac := rfl
@[simp] theorem State.updAccount_phase (s : State) (a : Nat) (f : Account → Account) : (s.updAccount a f).phase = s.phase := rfl
@[simp] theorem State.updAccount_acCores (s : State) (a : Nat) (f : Account → Account) : (s.updAccount a f).acCores = s.acCores := rfl
@[simp] theorem State.updAccount_acMem (s : State) (a : Nat) (f : Account → Account) : (s.updAccount a f).acMem = s.acMem := rfl
@[simp] theorem State.updAccount_mem (s : State) (a : Nat) (f : Account → Account) : (s.updAccount a f).mem = s.mem := rfl
@[simp] theorem State.updAccount_poison (s : State) (a : Nat) (f : Account → Account) : (s.updAccount a f).poison = s.poison := rfl
@[simp] theorem State.updAccount_struck (s : State) (a : Nat) (f : Account → Account) : (s.updAccount a f).struck = s.struck := rfl
@[simp] theorem State.updAccount_keyed (s : State) (a : Nat) (f : Account → Account) : (s.updAccount a f).keyed = s.keyed := rfl
@[simp] theorem State.updAccount_cores (s : State) (a : Nat) (f : Account → Account) : (s.updAccount a f).cores = s.cores := rfl
@[simp] theorem State.updAccount_dies (s : State) (a : Nat) (f : Account → Account) : (s.updAccount a f).dies = s.dies := rfl
@[simp] theorem State.updAccount_units (s : State) (a : Nat) (f : Account → Account) : (s.updAccount a f).units = s.units := rfl
@[simp] theorem State.updAccount_cfg (s : State) (a : Nat) (f : Account → Account) : (s.updAccount a f).cfg = s.cfg := rfl
@[simp] theorem State.updAccount_transit (s : State) (a : Nat) (f : Account → Account) : (s.updAccount a f).transit = s.transit := rfl
@[simp] theorem State.updAccount_deferred (s : State) (a : Nat) (f : Account → Account) : (s.updAccount a f).deferred = s.deferred := rfl
@[simp] theorem State.updAccount_waiters (s : State) (a : Nat) (f : Account → Account) : (s.updAccount a f).waiters = s.waiters := rfl
@[simp] theorem State.updAccount_granted (s : State) (a : Nat) (f : Account → Account) : (s.updAccount a f).granted = s.granted := rfl
@[simp] theorem State.updAccount_debits (s : State) (a : Nat) (f : Account → Account) : (s.updAccount a f).debits = s.debits := rfl
@[simp] theorem State.updAccount_remote (s : State) (a : Nat) (f : Account → Account) : (s.updAccount a f).remote = s.remote := rfl
@[simp] theorem State.updAccount_slotWrites (s : State) (a : Nat) (f : Account → Account) : (s.updAccount a f).slotWrites = s.slotWrites := rfl
@[simp] theorem State.updAccount_slotOps (s : State) (a : Nat) (f : Account → Account) : (s.updAccount a f).slotOps = s.slotOps := rfl
@[simp] theorem State.updAccount_marks (s : State) (a : Nat) (f : Account → Account) : (s.updAccount a f).marks = s.marks := rfl
@[simp] theorem State.updAccount_mqNotices (s : State) (a : Nat) (f : Account → Account) : (s.updAccount a f).mqNotices = s.mqNotices := rfl
@[simp] theorem State.updAccount_mqListed (s : State) (a : Nat) (f : Account → Account) : (s.updAccount a f).mqListed = s.mqListed := rfl
@[simp] theorem State.updAccount_accEntries (s : State) (a : Nat) (f : Account → Account) : (s.updAccount a f).accEntries = s.accEntries := rfl
@[simp] theorem State.updAccount_invals (s : State) (a : Nat) (f : Account → Account) : (s.updAccount a f).invals = s.invals := rfl
@[simp] theorem State.updAccount_winSlots (s : State) (a : Nat) (f : Account → Account) : (s.updAccount a f).winSlots = s.winSlots := rfl
@[simp] theorem State.updAccount_registrants (s : State) (a : Nat) (f : Account → Account) : (s.updAccount a f).registrants = s.registrants := rfl
@[simp] theorem State.updAccount_early (s : State) (a : Nat) (f : Account → Account) : (s.updAccount a f).early = s.early := rfl
@[simp] theorem State.updAccount_flits (s : State) (a : Nat) (f : Account → Account) : (s.updAccount a f).flits = s.flits := rfl

/-! ### `State.updFn` -/

@[simp] theorem State.updFn_turns (s : State) (n : Nat) (f : Function → Function) : (s.updFn n f).turns = s.turns := rfl
@[simp] theorem State.updFn_cur (s : State) (n : Nat) (f : Function → Function) : (s.updFn n f).cur = s.cur := rfl
@[simp] theorem State.updFn_freeCnt (s : State) (n : Nat) (f : Function → Function) : (s.updFn n f).freeCnt = s.freeCnt := rfl
@[simp] theorem State.updFn_nextId (s : State) (n : Nat) (f : Function → Function) : (s.updFn n f).nextId = s.nextId := rfl
@[simp] theorem State.updFn_rc (s : State) (n : Nat) (f : Function → Function) : (s.updFn n f).rc = s.rc := rfl
@[simp] theorem State.updFn_ac (s : State) (n : Nat) (f : Function → Function) : (s.updFn n f).ac = s.ac := rfl
@[simp] theorem State.updFn_phase (s : State) (n : Nat) (f : Function → Function) : (s.updFn n f).phase = s.phase := rfl
@[simp] theorem State.updFn_acCores (s : State) (n : Nat) (f : Function → Function) : (s.updFn n f).acCores = s.acCores := rfl
@[simp] theorem State.updFn_acMem (s : State) (n : Nat) (f : Function → Function) : (s.updFn n f).acMem = s.acMem := rfl
@[simp] theorem State.updFn_mem (s : State) (n : Nat) (f : Function → Function) : (s.updFn n f).mem = s.mem := rfl
@[simp] theorem State.updFn_poison (s : State) (n : Nat) (f : Function → Function) : (s.updFn n f).poison = s.poison := rfl
@[simp] theorem State.updFn_struck (s : State) (n : Nat) (f : Function → Function) : (s.updFn n f).struck = s.struck := rfl
@[simp] theorem State.updFn_keyed (s : State) (n : Nat) (f : Function → Function) : (s.updFn n f).keyed = s.keyed := rfl
@[simp] theorem State.updFn_cores (s : State) (n : Nat) (f : Function → Function) : (s.updFn n f).cores = s.cores := rfl
@[simp] theorem State.updFn_dies (s : State) (n : Nat) (f : Function → Function) : (s.updFn n f).dies = s.dies := rfl
@[simp] theorem State.updFn_units (s : State) (n : Nat) (f : Function → Function) : (s.updFn n f).units = s.units := rfl
@[simp] theorem State.updFn_cfg (s : State) (n : Nat) (f : Function → Function) : (s.updFn n f).cfg = s.cfg := rfl
@[simp] theorem State.updFn_transit (s : State) (n : Nat) (f : Function → Function) : (s.updFn n f).transit = s.transit := rfl
@[simp] theorem State.updFn_deferred (s : State) (n : Nat) (f : Function → Function) : (s.updFn n f).deferred = s.deferred := rfl
@[simp] theorem State.updFn_waiters (s : State) (n : Nat) (f : Function → Function) : (s.updFn n f).waiters = s.waiters := rfl
@[simp] theorem State.updFn_granted (s : State) (n : Nat) (f : Function → Function) : (s.updFn n f).granted = s.granted := rfl
@[simp] theorem State.updFn_debits (s : State) (n : Nat) (f : Function → Function) : (s.updFn n f).debits = s.debits := rfl
@[simp] theorem State.updFn_remote (s : State) (n : Nat) (f : Function → Function) : (s.updFn n f).remote = s.remote := rfl
@[simp] theorem State.updFn_slotWrites (s : State) (n : Nat) (f : Function → Function) : (s.updFn n f).slotWrites = s.slotWrites := rfl
@[simp] theorem State.updFn_slotOps (s : State) (n : Nat) (f : Function → Function) : (s.updFn n f).slotOps = s.slotOps := rfl
@[simp] theorem State.updFn_marks (s : State) (n : Nat) (f : Function → Function) : (s.updFn n f).marks = s.marks := rfl
@[simp] theorem State.updFn_mqNotices (s : State) (n : Nat) (f : Function → Function) : (s.updFn n f).mqNotices = s.mqNotices := rfl
@[simp] theorem State.updFn_mqListed (s : State) (n : Nat) (f : Function → Function) : (s.updFn n f).mqListed = s.mqListed := rfl
@[simp] theorem State.updFn_accEntries (s : State) (n : Nat) (f : Function → Function) : (s.updFn n f).accEntries = s.accEntries := rfl
@[simp] theorem State.updFn_invals (s : State) (n : Nat) (f : Function → Function) : (s.updFn n f).invals = s.invals := rfl
@[simp] theorem State.updFn_winSlots (s : State) (n : Nat) (f : Function → Function) : (s.updFn n f).winSlots = s.winSlots := rfl
@[simp] theorem State.updFn_registrants (s : State) (n : Nat) (f : Function → Function) : (s.updFn n f).registrants = s.registrants := rfl
@[simp] theorem State.updFn_early (s : State) (n : Nat) (f : Function → Function) : (s.updFn n f).early = s.early := rfl
@[simp] theorem State.updFn_flits (s : State) (n : Nat) (f : Function → Function) : (s.updFn n f).flits = s.flits := rfl

/-! ### `State.updHub` -/

@[simp] theorem State.updHub_turns (s : State) (f : Hub → Hub) : (s.updHub f).turns = s.turns := rfl
@[simp] theorem State.updHub_cur (s : State) (f : Hub → Hub) : (s.updHub f).cur = s.cur := rfl
@[simp] theorem State.updHub_freeCnt (s : State) (f : Hub → Hub) : (s.updHub f).freeCnt = s.freeCnt := rfl
@[simp] theorem State.updHub_nextId (s : State) (f : Hub → Hub) : (s.updHub f).nextId = s.nextId := rfl
@[simp] theorem State.updHub_rc (s : State) (f : Hub → Hub) : (s.updHub f).rc = s.rc := rfl
@[simp] theorem State.updHub_ac (s : State) (f : Hub → Hub) : (s.updHub f).ac = s.ac := rfl
@[simp] theorem State.updHub_phase (s : State) (f : Hub → Hub) : (s.updHub f).phase = s.phase := rfl
@[simp] theorem State.updHub_acCores (s : State) (f : Hub → Hub) : (s.updHub f).acCores = s.acCores := rfl
@[simp] theorem State.updHub_acMem (s : State) (f : Hub → Hub) : (s.updHub f).acMem = s.acMem := rfl
@[simp] theorem State.updHub_mem (s : State) (f : Hub → Hub) : (s.updHub f).mem = s.mem := rfl
@[simp] theorem State.updHub_poison (s : State) (f : Hub → Hub) : (s.updHub f).poison = s.poison := rfl
@[simp] theorem State.updHub_struck (s : State) (f : Hub → Hub) : (s.updHub f).struck = s.struck := rfl
@[simp] theorem State.updHub_keyed (s : State) (f : Hub → Hub) : (s.updHub f).keyed = s.keyed := rfl
@[simp] theorem State.updHub_cores (s : State) (f : Hub → Hub) : (s.updHub f).cores = s.cores := rfl
@[simp] theorem State.updHub_dies (s : State) (f : Hub → Hub) : (s.updHub f).dies = s.dies := rfl
@[simp] theorem State.updHub_units (s : State) (f : Hub → Hub) : (s.updHub f).units = s.units := rfl
@[simp] theorem State.updHub_cfg (s : State) (f : Hub → Hub) : (s.updHub f).cfg = s.cfg := rfl
@[simp] theorem State.updHub_transit (s : State) (f : Hub → Hub) : (s.updHub f).transit = s.transit := rfl
@[simp] theorem State.updHub_deferred (s : State) (f : Hub → Hub) : (s.updHub f).deferred = s.deferred := rfl
@[simp] theorem State.updHub_waiters (s : State) (f : Hub → Hub) : (s.updHub f).waiters = s.waiters := rfl
@[simp] theorem State.updHub_granted (s : State) (f : Hub → Hub) : (s.updHub f).granted = s.granted := rfl
@[simp] theorem State.updHub_debits (s : State) (f : Hub → Hub) : (s.updHub f).debits = s.debits := rfl
@[simp] theorem State.updHub_remote (s : State) (f : Hub → Hub) : (s.updHub f).remote = s.remote := rfl
@[simp] theorem State.updHub_slotWrites (s : State) (f : Hub → Hub) : (s.updHub f).slotWrites = s.slotWrites := rfl
@[simp] theorem State.updHub_slotOps (s : State) (f : Hub → Hub) : (s.updHub f).slotOps = s.slotOps := rfl
@[simp] theorem State.updHub_marks (s : State) (f : Hub → Hub) : (s.updHub f).marks = s.marks := rfl
@[simp] theorem State.updHub_mqNotices (s : State) (f : Hub → Hub) : (s.updHub f).mqNotices = s.mqNotices := rfl
@[simp] theorem State.updHub_mqListed (s : State) (f : Hub → Hub) : (s.updHub f).mqListed = s.mqListed := rfl
@[simp] theorem State.updHub_accEntries (s : State) (f : Hub → Hub) : (s.updHub f).accEntries = s.accEntries := rfl
@[simp] theorem State.updHub_invals (s : State) (f : Hub → Hub) : (s.updHub f).invals = s.invals := rfl
@[simp] theorem State.updHub_winSlots (s : State) (f : Hub → Hub) : (s.updHub f).winSlots = s.winSlots := rfl
@[simp] theorem State.updHub_registrants (s : State) (f : Hub → Hub) : (s.updHub f).registrants = s.registrants := rfl
@[simp] theorem State.updHub_early (s : State) (f : Hub → Hub) : (s.updHub f).early = s.early := rfl
@[simp] theorem State.updHub_flits (s : State) (f : Hub → Hub) : (s.updHub f).flits = s.flits := rfl

/-! ### `State.updRing` -/

@[simp] theorem State.updRing_turns (s : State) (fn n : Nat) (f : Ring → Ring) : (s.updRing fn n f).turns = s.turns := rfl
@[simp] theorem State.updRing_cur (s : State) (fn n : Nat) (f : Ring → Ring) : (s.updRing fn n f).cur = s.cur := rfl
@[simp] theorem State.updRing_freeCnt (s : State) (fn n : Nat) (f : Ring → Ring) : (s.updRing fn n f).freeCnt = s.freeCnt := rfl
@[simp] theorem State.updRing_nextId (s : State) (fn n : Nat) (f : Ring → Ring) : (s.updRing fn n f).nextId = s.nextId := rfl
@[simp] theorem State.updRing_rc (s : State) (fn n : Nat) (f : Ring → Ring) : (s.updRing fn n f).rc = s.rc := rfl
@[simp] theorem State.updRing_ac (s : State) (fn n : Nat) (f : Ring → Ring) : (s.updRing fn n f).ac = s.ac := rfl
@[simp] theorem State.updRing_phase (s : State) (fn n : Nat) (f : Ring → Ring) : (s.updRing fn n f).phase = s.phase := rfl
@[simp] theorem State.updRing_acCores (s : State) (fn n : Nat) (f : Ring → Ring) : (s.updRing fn n f).acCores = s.acCores := rfl
@[simp] theorem State.updRing_acMem (s : State) (fn n : Nat) (f : Ring → Ring) : (s.updRing fn n f).acMem = s.acMem := rfl
@[simp] theorem State.updRing_mem (s : State) (fn n : Nat) (f : Ring → Ring) : (s.updRing fn n f).mem = s.mem := rfl
@[simp] theorem State.updRing_poison (s : State) (fn n : Nat) (f : Ring → Ring) : (s.updRing fn n f).poison = s.poison := rfl
@[simp] theorem State.updRing_struck (s : State) (fn n : Nat) (f : Ring → Ring) : (s.updRing fn n f).struck = s.struck := rfl
@[simp] theorem State.updRing_keyed (s : State) (fn n : Nat) (f : Ring → Ring) : (s.updRing fn n f).keyed = s.keyed := rfl
@[simp] theorem State.updRing_cores (s : State) (fn n : Nat) (f : Ring → Ring) : (s.updRing fn n f).cores = s.cores := rfl
@[simp] theorem State.updRing_dies (s : State) (fn n : Nat) (f : Ring → Ring) : (s.updRing fn n f).dies = s.dies := rfl
@[simp] theorem State.updRing_units (s : State) (fn n : Nat) (f : Ring → Ring) : (s.updRing fn n f).units = s.units := rfl
@[simp] theorem State.updRing_cfg (s : State) (fn n : Nat) (f : Ring → Ring) : (s.updRing fn n f).cfg = s.cfg := rfl
@[simp] theorem State.updRing_transit (s : State) (fn n : Nat) (f : Ring → Ring) : (s.updRing fn n f).transit = s.transit := rfl
@[simp] theorem State.updRing_deferred (s : State) (fn n : Nat) (f : Ring → Ring) : (s.updRing fn n f).deferred = s.deferred := rfl
@[simp] theorem State.updRing_waiters (s : State) (fn n : Nat) (f : Ring → Ring) : (s.updRing fn n f).waiters = s.waiters := rfl
@[simp] theorem State.updRing_granted (s : State) (fn n : Nat) (f : Ring → Ring) : (s.updRing fn n f).granted = s.granted := rfl
@[simp] theorem State.updRing_debits (s : State) (fn n : Nat) (f : Ring → Ring) : (s.updRing fn n f).debits = s.debits := rfl
@[simp] theorem State.updRing_remote (s : State) (fn n : Nat) (f : Ring → Ring) : (s.updRing fn n f).remote = s.remote := rfl
@[simp] theorem State.updRing_slotWrites (s : State) (fn n : Nat) (f : Ring → Ring) : (s.updRing fn n f).slotWrites = s.slotWrites := rfl
@[simp] theorem State.updRing_slotOps (s : State) (fn n : Nat) (f : Ring → Ring) : (s.updRing fn n f).slotOps = s.slotOps := rfl
@[simp] theorem State.updRing_marks (s : State) (fn n : Nat) (f : Ring → Ring) : (s.updRing fn n f).marks = s.marks := rfl
@[simp] theorem State.updRing_mqNotices (s : State) (fn n : Nat) (f : Ring → Ring) : (s.updRing fn n f).mqNotices = s.mqNotices := rfl
@[simp] theorem State.updRing_mqListed (s : State) (fn n : Nat) (f : Ring → Ring) : (s.updRing fn n f).mqListed = s.mqListed := rfl
@[simp] theorem State.updRing_accEntries (s : State) (fn n : Nat) (f : Ring → Ring) : (s.updRing fn n f).accEntries = s.accEntries := rfl
@[simp] theorem State.updRing_invals (s : State) (fn n : Nat) (f : Ring → Ring) : (s.updRing fn n f).invals = s.invals := rfl
@[simp] theorem State.updRing_winSlots (s : State) (fn n : Nat) (f : Ring → Ring) : (s.updRing fn n f).winSlots = s.winSlots := rfl
@[simp] theorem State.updRing_registrants (s : State) (fn n : Nat) (f : Ring → Ring) : (s.updRing fn n f).registrants = s.registrants := rfl
@[simp] theorem State.updRing_early (s : State) (fn n : Nat) (f : Ring → Ring) : (s.updRing fn n f).early = s.early := rfl
@[simp] theorem State.updRing_flits (s : State) (fn n : Nat) (f : Ring → Ring) : (s.updRing fn n f).flits = s.flits := rfl

/-! ### `State.bumpId` -/

@[simp] theorem State.bumpId_turns (s : State) : (s.bumpId).turns = s.turns := rfl
@[simp] theorem State.bumpId_cur (s : State) : (s.bumpId).cur = s.cur := rfl
@[simp] theorem State.bumpId_freeCnt (s : State) : (s.bumpId).freeCnt = s.freeCnt := rfl
@[simp] theorem State.bumpId_rc (s : State) : (s.bumpId).rc = s.rc := rfl
@[simp] theorem State.bumpId_ac (s : State) : (s.bumpId).ac = s.ac := rfl
@[simp] theorem State.bumpId_phase (s : State) : (s.bumpId).phase = s.phase := rfl
@[simp] theorem State.bumpId_acCores (s : State) : (s.bumpId).acCores = s.acCores := rfl
@[simp] theorem State.bumpId_acMem (s : State) : (s.bumpId).acMem = s.acMem := rfl
@[simp] theorem State.bumpId_mem (s : State) : (s.bumpId).mem = s.mem := rfl
@[simp] theorem State.bumpId_poison (s : State) : (s.bumpId).poison = s.poison := rfl
@[simp] theorem State.bumpId_struck (s : State) : (s.bumpId).struck = s.struck := rfl
@[simp] theorem State.bumpId_keyed (s : State) : (s.bumpId).keyed = s.keyed := rfl
@[simp] theorem State.bumpId_cores (s : State) : (s.bumpId).cores = s.cores := rfl
@[simp] theorem State.bumpId_dies (s : State) : (s.bumpId).dies = s.dies := rfl
@[simp] theorem State.bumpId_units (s : State) : (s.bumpId).units = s.units := rfl
@[simp] theorem State.bumpId_hub (s : State) : (s.bumpId).hub = s.hub := rfl
@[simp] theorem State.bumpId_cfg (s : State) : (s.bumpId).cfg = s.cfg := rfl
@[simp] theorem State.bumpId_transit (s : State) : (s.bumpId).transit = s.transit := rfl
@[simp] theorem State.bumpId_deferred (s : State) : (s.bumpId).deferred = s.deferred := rfl
@[simp] theorem State.bumpId_waiters (s : State) : (s.bumpId).waiters = s.waiters := rfl
@[simp] theorem State.bumpId_granted (s : State) : (s.bumpId).granted = s.granted := rfl
@[simp] theorem State.bumpId_debits (s : State) : (s.bumpId).debits = s.debits := rfl
@[simp] theorem State.bumpId_remote (s : State) : (s.bumpId).remote = s.remote := rfl
@[simp] theorem State.bumpId_slotWrites (s : State) : (s.bumpId).slotWrites = s.slotWrites := rfl
@[simp] theorem State.bumpId_slotOps (s : State) : (s.bumpId).slotOps = s.slotOps := rfl
@[simp] theorem State.bumpId_marks (s : State) : (s.bumpId).marks = s.marks := rfl
@[simp] theorem State.bumpId_mqNotices (s : State) : (s.bumpId).mqNotices = s.mqNotices := rfl
@[simp] theorem State.bumpId_mqListed (s : State) : (s.bumpId).mqListed = s.mqListed := rfl
@[simp] theorem State.bumpId_accEntries (s : State) : (s.bumpId).accEntries = s.accEntries := rfl
@[simp] theorem State.bumpId_invals (s : State) : (s.bumpId).invals = s.invals := rfl
@[simp] theorem State.bumpId_winSlots (s : State) : (s.bumpId).winSlots = s.winSlots := rfl
@[simp] theorem State.bumpId_registrants (s : State) : (s.bumpId).registrants = s.registrants := rfl
@[simp] theorem State.bumpId_early (s : State) : (s.bumpId).early = s.early := rfl
@[simp] theorem State.bumpId_flits (s : State) : (s.bumpId).flits = s.flits := rfl

/-! ### `State.clean` -/

@[simp] theorem State.clean_turns (s : State) (hit : Nat → Bool) : (s.clean hit).turns = s.turns := rfl
@[simp] theorem State.clean_cur (s : State) (hit : Nat → Bool) : (s.clean hit).cur = s.cur := rfl
@[simp] theorem State.clean_freeCnt (s : State) (hit : Nat → Bool) : (s.clean hit).freeCnt = s.freeCnt := rfl
@[simp] theorem State.clean_nextId (s : State) (hit : Nat → Bool) : (s.clean hit).nextId = s.nextId := rfl
@[simp] theorem State.clean_rc (s : State) (hit : Nat → Bool) : (s.clean hit).rc = s.rc := rfl
@[simp] theorem State.clean_ac (s : State) (hit : Nat → Bool) : (s.clean hit).ac = s.ac := rfl
@[simp] theorem State.clean_phase (s : State) (hit : Nat → Bool) : (s.clean hit).phase = s.phase := rfl
@[simp] theorem State.clean_acCores (s : State) (hit : Nat → Bool) : (s.clean hit).acCores = s.acCores := rfl
@[simp] theorem State.clean_acMem (s : State) (hit : Nat → Bool) : (s.clean hit).acMem = s.acMem := rfl
@[simp] theorem State.clean_mem (s : State) (hit : Nat → Bool) : (s.clean hit).mem = s.mem := rfl
@[simp] theorem State.clean_dies (s : State) (hit : Nat → Bool) : (s.clean hit).dies = s.dies := rfl
@[simp] theorem State.clean_units (s : State) (hit : Nat → Bool) : (s.clean hit).units = s.units := rfl
@[simp] theorem State.clean_hub (s : State) (hit : Nat → Bool) : (s.clean hit).hub = s.hub := rfl
@[simp] theorem State.clean_cfg (s : State) (hit : Nat → Bool) : (s.clean hit).cfg = s.cfg := rfl
@[simp] theorem State.clean_transit (s : State) (hit : Nat → Bool) : (s.clean hit).transit = s.transit := rfl
@[simp] theorem State.clean_deferred (s : State) (hit : Nat → Bool) : (s.clean hit).deferred = s.deferred := rfl
@[simp] theorem State.clean_waiters (s : State) (hit : Nat → Bool) : (s.clean hit).waiters = s.waiters := rfl
@[simp] theorem State.clean_granted (s : State) (hit : Nat → Bool) : (s.clean hit).granted = s.granted := rfl
@[simp] theorem State.clean_debits (s : State) (hit : Nat → Bool) : (s.clean hit).debits = s.debits := rfl
@[simp] theorem State.clean_remote (s : State) (hit : Nat → Bool) : (s.clean hit).remote = s.remote := rfl
@[simp] theorem State.clean_slotWrites (s : State) (hit : Nat → Bool) : (s.clean hit).slotWrites = s.slotWrites := rfl
@[simp] theorem State.clean_slotOps (s : State) (hit : Nat → Bool) : (s.clean hit).slotOps = s.slotOps := rfl
@[simp] theorem State.clean_marks (s : State) (hit : Nat → Bool) : (s.clean hit).marks = s.marks := rfl
@[simp] theorem State.clean_mqNotices (s : State) (hit : Nat → Bool) : (s.clean hit).mqNotices = s.mqNotices := rfl
@[simp] theorem State.clean_mqListed (s : State) (hit : Nat → Bool) : (s.clean hit).mqListed = s.mqListed := rfl
@[simp] theorem State.clean_accEntries (s : State) (hit : Nat → Bool) : (s.clean hit).accEntries = s.accEntries := rfl
@[simp] theorem State.clean_invals (s : State) (hit : Nat → Bool) : (s.clean hit).invals = s.invals := rfl
@[simp] theorem State.clean_winSlots (s : State) (hit : Nat → Bool) : (s.clean hit).winSlots = s.winSlots := rfl
@[simp] theorem State.clean_registrants (s : State) (hit : Nat → Bool) : (s.clean hit).registrants = s.registrants := rfl
@[simp] theorem State.clean_early (s : State) (hit : Nat → Bool) : (s.clean hit).early = s.early := rfl
@[simp] theorem State.clean_flits (s : State) (hit : Nat → Bool) : (s.clean hit).flits = s.flits := rfl
@[simp] theorem State.clean_cores (s : State) (hit : Nat → Bool) : (s.clean hit).cores = s.cores := rfl

end Sys2Proof.Machine
end

