-- ==== Sys2Proof/Laws/MemoryForm.lean ====
section
/-! SUPPORT. What the shared operations and the instructions do to memory: `f_mem` says that f leaves memory as it is, `f_wf` that f
keeps its form. -/

set_option linter.unusedSimpArgs false
set_option linter.unusedVariables false

namespace Sys2Proof.Machine

open Sys2Proof

/-- The memory of a next state is `m`. -/
def OutMem (m : List Host.Cell) (o : Out) : Prop := match o with | .next t => t.mem = m | _ => True

/-- The memory of a next state keeps its form. -/
def OutWf (o : Out) : Prop := match o with | .next t => Memory.wf t.mem = true | _ => True

/-- The memory of a state that is there is `m`. -/
def OptMem (m : List Host.Cell) (o : Option State) : Prop := match o with | some t => t.mem = m | _ => True

/-- The memory of a state that is there keeps its form. -/
def OptWf (o : Option State) : Prop := match o with | some t => Memory.wf t.mem = true | _ => True

@[simp] theorem outMem_next (m : List Host.Cell) (t : State) : OutMem m (.next t) ↔ t.mem = m := Iff.rfl

@[simp] theorem outMem_fault (m : List Host.Cell) (f : Fault) : OutMem m (.fault f) := trivial

@[simp] theorem outMem_refused (m : List Host.Cell) (f : Refusal) : OutMem m (.refused f) := trivial

@[simp] theorem outWf_next (t : State) : OutWf (.next t) ↔ Memory.wf t.mem = true := Iff.rfl

@[simp] theorem outWf_fault (f : Fault) : OutWf (.fault f) := trivial

@[simp] theorem outWf_refused (f : Refusal) : OutWf (.refused f) := trivial

@[simp] theorem optMem_some (m : List Host.Cell) (t : State) : OptMem m (some t) ↔ t.mem = m := Iff.rfl

@[simp] theorem optMem_none (m : List Host.Cell) : OptMem m none := trivial

@[simp] theorem optWf_some (t : State) : OptWf (some t) ↔ Memory.wf t.mem = true := Iff.rfl

@[simp] theorem optWf_none : OptWf none := trivial

theorem OutMem.wf {m : List Host.Cell} {o : Out} (h : OutMem m o) (hm : Memory.wf m = true) : OutWf o := by
  cases o with
  | next t => simp only [outMem_next] at h; simpa [h] using hm
  | fault f => trivial
  | refused f => trivial

theorem OptMem.wf {m : List Host.Cell} {o : Option State} (h : OptMem m o) (hm : Memory.wf m = true) : OptWf o := by
  cases o with
  | some t => simp only [optMem_some] at h; simpa [h] using hm
  | none => trivial

/-- A fold of steps that each leave memory as it is. -/
theorem foldl_mem {α : Type} (l : List α) (f : State → α → State) (h : ∀ s a, (f s a).mem = s.mem) (s : State) : (l.foldl f s).mem = s.mem := by
  induction l generalizing s with
  | nil => rfl
  | cons a r ih => simp [ih, h]

/-- A fold of steps that each keep the form of memory. -/
theorem foldl_wf {α : Type} (l : List α) (f : State → α → State) (h : ∀ s a, Memory.wf s.mem = true → Memory.wf (f s a).mem = true) (s : State)
    (hs : Memory.wf s.mem = true) : Memory.wf (l.foldl f s).mem = true := by
  induction l generalizing s with
  | nil => exact hs
  | cons a r ih => exact ih _ (h s a hs)

theorem OptMem.of_eq {m : List Host.Cell} {o : Option State} {t : State} (h : o = some t) (ho : OptMem m o) : t.mem = m := by
  subst h; exact ho

theorem OptWf.of_eq {o : Option State} {t : State} (h : o = some t) (ho : OptWf o) : Memory.wf t.mem = true := by
  subst h; exact ho

theorem OutMem.of_eq {m : List Host.Cell} {o : Out} {t : State} (h : o = .next t) (ho : OutMem m o) : t.mem = m := by
  subst h; exact ho

theorem OutWf.of_eq {o : Out} {t : State} (h : o = .next t) (ho : OutWf o) : Memory.wf t.mem = true := by
  subst h; exact ho

theorem snd_mem {α : Type} {p : α × State} {a : α} {t : State} (h : p = (a, t)) : t.mem = p.2.mem := by subst h; rfl

theorem fst_mem {α : Type} {p : State × α} {a : α} {t : State} (h : p = (t, a)) : t.mem = p.1.mem := by subst h; rfl

theorem outMem_ite {m : List Host.Cell} {a b : Out} (c : Prop) [Decidable c] (ha : OutMem m a) (hb : OutMem m b) :
    OutMem m (if c then a else b) := by
  split
  · exact ha
  · exact hb

theorem outWf_ite {a b : Out} (c : Prop) [Decidable c] (ha : OutWf a) (hb : OutWf b) : OutWf (if c then a else b) := by
  split
  · exact ha
  · exact hb

@[simp] theorem writePlaces_wf (m : List Host.Cell) (ps : List Nat) (bs : List Byte) (hm : Memory.wf m = true) : Memory.wf (writePlaces m ps bs) = true := by
  induction ps generalizing m bs with
  | nil => simpa [writePlaces] using hm
  | cons p ps ih =>
    cases bs with
    | nil => simpa [writePlaces] using hm
    | cons b bs => exact ih _ bs (Memory.wf_write m p b hm)

@[simp] theorem State.useD_mem (s : State) : (State.useD s).mem = s.mem := by unfold State.useD; split <;> rfl

@[simp] theorem State.heal_mem (s : State) (c : Nat) (f : InFlight) : (s.heal c f).mem = s.mem := by unfold State.heal; split <;> rfl

/-- The state in which a result lands has the memory of the state before. -/
theorem State.landing_mem (s : State) (c : Nat) (f : InFlight) :
    (if f.fst = 0 then s.heal c f else (s.heal c f).updShared c (fun h => { h with fstat := h.fstat ||| f.fst })).mem = s.mem := by
  split <;> simp

@[simp] theorem State.land_wf (s : State) (c : Nat) (f : InFlight) (hm : Memory.wf s.mem = true) : Memory.wf (s.land c f).mem = true := by
  unfold State.land
  dsimp only
  have h := State.landing_mem s c f
  split <;> (repeat' split) <;> simp_all

/-- A result that no row takes leaves memory as it was. -/
theorem State.land_mem (s : State) (c : Nat) (f : InFlight) (h : ∀ n, f.target ≠ .row n) : (s.land c f).mem = s.mem := by
  unfold State.land
  dsimp only
  have hl := State.landing_mem s c f
  split <;> (repeat' split) <;> simp_all

@[simp] theorem State.landOf_wf (s : State) (x1 : Nat) (x2 : Agent) (x3 : InFlight) (hm : Memory.wf s.mem = true) : Memory.wf (State.landOf s x1 x2 x3).mem = true := by
  unfold State.landOf
  split <;> simp [hm]

@[simp] theorem State.setPipe_mem (s : State) (x1 : Nat) (x2 : Agent) (x3 : List InFlight) : (State.setPipe s x1 x2 x3).mem = s.mem := by
  unfold State.setPipe
  split <;> rfl

@[simp] theorem State.number_mem (s : State) (x1 : InFlight) : (State.number s x1).2.mem = s.mem := by unfold State.number; split <;> rfl

@[simp] theorem State.put_mem (s : State) (x1 : InFlight) : (State.put s x1).mem = s.mem := by simp [State.put]

@[simp] theorem State.putWord_mem (s : State) (x1 : Target) (x2 : Nat) (x3 : DWord) : (State.putWord s x1 x2 x3).mem = s.mem := by
  simp [State.putWord]

@[simp] theorem State.putX_mem (s : State) (x1 : BitVec 5) (x2 : Nat) (x3 : DWord) : (State.putX s x1 x2 x3).mem = s.mem := by
  simp [State.putX]

@[simp] theorem State.putP_mem (s : State) (x1 : BitVec 3) (x2 : Bool) : (State.putP s x1 x2).mem = s.mem := by simp [State.putP]

@[simp] theorem State.landAll_wf (s : State) (c : Nat) (a : Agent) (l : List InFlight) (hm : Memory.wf s.mem = true) : Memory.wf (s.landAll c a l).mem = true := by
  induction l generalizing s with
  | nil => exact hm
  | cons f r ih => exact ih _ (State.landOf_wf s c a f hm)

@[simp] theorem State.ageStores_mem (s : State) (x1 : Nat) (x2 : Agent) : (State.ageStores s x1 x2).mem = s.mem := by
  unfold State.ageStores
  split <;> rfl

@[simp] theorem State.endCycle_wf (s : State) (c : Nat) (a : Agent) (hm : Memory.wf s.mem = true) : Memory.wf (s.endCycle c a).mem = true := by
  unfold State.endCycle
  exact State.landAll_wf _ _ _ _ (by simp [hm])

@[simp] theorem State.acknowledge_mem (s : State) (x1 : List Nat) : (State.acknowledge s x1).mem = s.mem := by
  unfold State.acknowledge
  split <;> rfl

@[simp] theorem State.abandon_mem (s : State) (x1 : Nat) : (State.abandon s x1).mem = s.mem := by rfl

@[simp] theorem State.endTask_mem (s : State) (x1 : Nat) (x2 : Nat) (x3 : FaultRec) : (State.endTask s x1 x2 x3).mem = s.mem := by
  simp [State.endTask]

@[simp] theorem State.firmwareFault_mem (s : State) (c : Nat) (r : FaultRec) : (s.firmwareFault c r).mem = s.mem := by
  unfold State.firmwareFault
  dsimp only
  split
  · rfl
  · split <;> simp

@[simp] theorem State.takeFault_mem (s : State) (c : Nat) (a : Agent) (r : FaultRec) : (s.takeFault c a r).mem = s.mem := by
  unfold State.takeFault
  split <;> simp

@[simp] theorem raise_mem (x0 : FaultInfo) (s : State) : OutMem s.mem (raise x0 s) := by simp [raise]

@[simp] theorem raise_wf (x0 : FaultInfo) (s : State) (hm : Memory.wf s.mem = true) : OutWf (raise x0 s) := (raise_mem x0 s).wf hm

@[simp] theorem block_mem (s : State) (x1 : Cause) : OutMem s.mem (block s x1) := by unfold block; dsimp only; split <;> rfl

@[simp] theorem block_wf (s : State) (x1 : Cause) (hm : Memory.wf s.mem = true) : OutWf (block s x1) := (block_mem s x1).wf hm

@[simp] theorem skip_mem (s : State) : OutMem s.mem (skip s) := by rfl

@[simp] theorem skip_wf (s : State) (hm : Memory.wf s.mem = true) : OutWf (skip s) := (skip_mem s).wf hm

@[simp] theorem State.returnControl_mem (s : State) (x1 : Nat) (x2 : DWord) : (State.returnControl s x1 x2).mem = s.mem := by rfl

@[simp] theorem State.returnAgent_mem (s : State) (x1 : Nat) (x2 : Agent) (x3 : DWord) (x4 : Bool) : (State.returnAgent s x1 x2 x3 x4).mem = s.mem := by
  rfl

@[simp] theorem State.jump_mem (s : State) (x1 : DWord) : (State.jump s x1).mem = s.mem := by rfl

@[simp] theorem State.ageHeld_mem (s : State) : (State.ageHeld s).mem = s.mem := by rfl

@[simp] theorem State.popQueue_mem (s : State) (x1 : Nat) : (State.popQueue s x1).mem = s.mem := by rfl

@[simp] theorem State.reserve_mem (s : State) (x1 : Nat) (x2 : QEntry) : (State.reserve s x1 x2).mem = s.mem := by rfl

@[simp] theorem State.holdSrc_mem (s : State) (x1 : Option (BitVec 6)) (x2 : Bool) (x3 : VReg) : (State.holdSrc s x1 x2 x3).mem = s.mem := by
  unfold State.holdSrc
  (repeat' split) <;> rfl

@[simp] theorem State.popSources_mem (s : State) (x1 : VOp) : (State.popSources s x1).mem = s.mem := by
  unfold State.popSources
  (repeat' split) <;> rfl

@[simp] theorem State.vdest_mem (s : State) (x1 : VOp) (x2 : Mask) : (State.vdest s x1 x2).2.mem = s.mem := by
  unfold State.vdest
  (repeat' split) <;> rfl

@[simp] theorem State.putV_mem (s : State) (x1 : Target) (x2 : Nat) (x3 : VReg) (x4 : Mask) (x5 : Nat) (x6 : optParam (BitVec 5) 0) : (State.putV s x1 x2 x3 x4 x5 x6).mem = s.mem := by
  unfold State.putV
  split <;> simp

@[simp] theorem State.putM7_mem (s : State) (x1 : Bool) : (State.putM7 s x1).mem = s.mem := by simp [State.putM7]

@[simp] theorem vIssue_mem (o : VOp) (bad : Option Nat) (body : VIn → State → State) (s : State) (hb : ∀ v t, (body v t).mem = t.mem) :
    OutMem s.mem (vIssue o bad body s) := by
  unfold vIssue
  split
  · simp
  · dsimp only
    iterate 11 (refine outMem_ite _ (by simp) ?_)
    simp only [outMem_next, State.ageHeld_mem, hb, State.holdSrc_mem]
    split <;> simp

@[simp] theorem vIssue_wf (o : VOp) (bad : Option Nat) (body : VIn → State → State) (s : State) (hb : ∀ v t, Memory.wf t.mem = true → Memory.wf (body v t).mem = true)
    (hm : Memory.wf s.mem = true) : OutWf (vIssue o bad body s) := by
  unfold vIssue
  split
  · simp [hm]
  · dsimp only
    iterate 11 (refine outWf_ite _ (by simp [hm]) ?_)
    simp only [outWf_next, State.ageHeld_mem]
    refine hb _ _ ?_
    simp only [State.holdSrc_mem]
    split <;> simp [hm]

@[simp] theorem vScalar_mem (bad : Option Nat) (body : State → State) (s : State) (hb : ∀ t, (body t).mem = t.mem) :
    OutMem s.mem (vScalar bad body s) := by
  unfold vScalar
  split <;> simp [hb]

@[simp] theorem State.setClock_mem (s : State) (x1 : Nat) (x2 : List Nat) : (State.setClock s x1 x2).mem = s.mem := by
  unfold State.setClock
  split <;> rfl

@[simp] theorem State.stampFrom_mem (s : State) (x1 : Nat) : (State.stampFrom s x1).2.mem = s.mem := by simp [State.stampFrom]

@[simp] theorem State.applied_mem (s : State) (x1 : Nat) (x2 : Nat) (x3 : List Nat) : (State.applied s x1 x2 x3).mem = s.mem := by
  unfold State.applied
  simp
  (repeat' split) <;> rfl

@[simp] theorem State.voidStamp_mem (s : State) (x1 : Access) : (State.voidStamp s x1).mem = s.mem := by
  unfold State.voidStamp
  (repeat' split) <;> simp

@[simp] theorem State.discard_mem (s : State) (x1 : Access → Bool) : (State.discard s x1).mem = s.mem := by
  unfold State.discard; ((repeat' split) <;> first | rfl | (simp; done) | (simp_all; done) | exact foldl_mem _ _ (fun s b => by simp) _ | (rw [foldl_mem _ _ (fun s b => by simp)]; simp; done) | (rename_i h; simp [snd_mem h]; done) | (rename_i h; simp [fst_mem h]; done) | (rename_i h; simp [OptMem.of_eq (m := s.mem) h (by simp)]; done) | (rename_i h; simp [OutMem.of_eq (m := s.mem) h (by simp)]; done))

@[simp] theorem State.loadReturns_mem (s : State) (x1 : Nat) (x2 : Nat) : (State.loadReturns s x1 x2).mem = s.mem := by
  unfold State.loadReturns
  split <;> simp

@[simp] theorem State.retest_mem (s : State) (x1 : List Nat) : (State.retest s x1).mem = s.mem := by
  unfold State.retest; ((repeat' split) <;> first | rfl | (simp; done) | (simp_all; done) | exact foldl_mem _ _ (fun s b => by simp) _ | (rw [foldl_mem _ _ (fun s b => by simp)]; simp; done) | (rename_i h; simp [snd_mem h]; done) | (rename_i h; simp [fst_mem h]; done) | (rename_i h; simp [OptMem.of_eq (m := s.mem) h (by simp)]; done) | (rename_i h; simp [OutMem.of_eq (m := s.mem) h (by simp)]; done))

@[simp] theorem State.storeAt_wf (s : State) (ps : List Nat) (bs : List Byte) (hm : Memory.wf s.mem = true) : Memory.wf (s.storeAt ps bs).mem = true := by
  unfold State.storeAt
  split
  · exact hm
  · simp [hm]

@[simp] theorem State.loseDecoupling_mem (s : State) (x1 : Nat) (x2 : Nat) : (State.loseDecoupling s x1 x2).mem = s.mem := by
  unfold State.loseDecoupling
  split <;> rfl

@[simp] theorem State.cmdFault_mem (s : State) (x1 : Nat) (x2 : Agent) (x3 : Nat) (x4 : FaultInfo) : (State.cmdFault s x1 x2 x3 x4).mem = s.mem := by
  unfold State.cmdFault
  split <;> rfl

@[simp] theorem State.holdStores_mem (s : State) (x1 : Nat) (x2 : Nat) : (State.holdStores s x1 x2).mem = s.mem := by
  unfold State.holdStores; ((repeat' split) <;> first | rfl | (simp; done) | (simp_all; done) | exact foldl_mem _ _ (fun s b => by simp) _ | (rw [foldl_mem _ _ (fun s b => by simp)]; simp; done) | (rename_i h; simp [snd_mem h]; done) | (rename_i h; simp [fst_mem h]; done) | (rename_i h; simp [OptMem.of_eq (m := s.mem) h (by simp)]; done) | (rename_i h; simp [OutMem.of_eq (m := s.mem) h (by simp)]; done))

@[simp] theorem State.imageFault_mem (s : State) (x1 : Nat) (x2 : FaultRec) : (State.imageFault s x1 x2).mem = s.mem := by
  unfold State.imageFault
  split <;> rfl

@[simp] theorem State.muleCmdFault_mem (s : State) (x1 : Nat) (x2 : Nat) (x3 : FaultRec) : (State.muleCmdFault s x1 x2 x3).mem = s.mem := by
  rfl

@[simp] theorem State.dropLoads_mem (s : State) (x1 : Nat) (x2 : Nat) : (State.dropLoads s x1 x2).mem = s.mem := by rfl

@[simp] theorem State.accessFault_mem (s : State) (x1 : Access) (x2 : Nat) (x3 : Nat) (x4 : DWord) : (State.accessFault s x1 x2 x3 x4).mem = s.mem := by
  unfold State.accessFault
  (repeat' split) <;> simp

@[simp] theorem State.accessFaultVa_mem (s : State) (x1 : Access) (x2 : Nat) (x3 : Nat) : (State.accessFaultVa s x1 x2 x3).mem = s.mem := by
  simp [State.accessFaultVa]

@[simp] theorem State.dropAccess_mem (s : State) (x1 : Nat) : (State.dropAccess s x1).mem = s.mem := by rfl

@[simp] theorem State.performLoad_wf (s : State) (x1 : Access) (x2 : Bool) (hm : Memory.wf s.mem = true) : Memory.wf (State.performLoad s x1 x2).mem = true := by
  unfold State.performLoad
  (repeat' split) <;> simp [hm]

@[simp] theorem State.performStore_wf (s : State) (a : Access) (hm : Memory.wf s.mem = true) : Memory.wf (s.performStore a).mem = true := by
  unfold State.performStore
  dsimp only
  split
  · rw [foldl_mem _ _ (fun s b => by simp)]; simp [hm]
  · simp [hm]

@[simp] theorem State.performAtomic_wf (s : State) (a : Access) (op : Nat) (cmp : DWord) (hm : Memory.wf s.mem = true) :
    Memory.wf (s.performAtomic a op cmp).mem = true := by
  unfold State.performAtomic
  dsimp only
  split <;> simp [hm]

@[simp] theorem State.performWait_wf (s : State) (x1 : Access) (x2 : DWord) (x3 : Bool) (x4 : Bool) (hm : Memory.wf s.mem = true) : Memory.wf (State.performWait s x1 x2 x3 x4).mem = true := by
  unfold State.performWait
  dsimp only
  (repeat' split) <;> simp [hm]

@[simp] theorem State.performNear_wf (s : State) (x1 : Access) (hm : Memory.wf s.mem = true) : Memory.wf (State.performNear s x1).mem = true := by
  unfold State.performNear
  (repeat' split) <;> simp [hm]

@[simp] theorem State.setRing_wf (s : State) (x1 : Nat) (x2 : RingDesc) (hm : Memory.wf s.mem = true) : Memory.wf (State.setRing s x1 x2).mem = true := by
  simp [State.setRing, hm]

@[simp] theorem State.listWriter_mem (s : State) (x1 : Nat) (x2 : Nat) (x3 : Nat) : (State.listWriter s x1 x2 x3).1.mem = s.mem := by
  unfold State.listWriter
  dsimp only
  (repeat' split) <;> rfl

@[simp] theorem State.resumeWriters_mem (s : State) (x1 : Nat) (x2 : Nat) : (State.resumeWriters s x1 x2).mem = s.mem := by rfl

@[simp] theorem State.performMessage_wf (s : State) (a : Access) (hm : Memory.wf s.mem = true) : Memory.wf (s.performMessage a).mem = true := by
  unfold State.performMessage
  dsimp only
  split
  · simp [hm]
  · split
    · simp [hm]
    · split
      · simp [hm]
      · split <;> simp [hm]

@[simp] theorem State.performRing_wf (s : State) (x1 : Access) (x2 : Nat) (x3 : Word) (hm : Memory.wf s.mem = true) : Memory.wf (State.performRing s x1 x2 x3).mem = true := by
  unfold State.performRing
  dsimp only
  (repeat' split) <;> simp [hm]

@[simp] theorem State.portFault_mem (s : State) (x1 : AccEntry) (x2 : DWord) (x3 : Nat) : (State.portFault s x1 x2 x3).mem = s.mem := by rfl

@[simp] theorem aluResult_mem (x0 : BitVec 5) (x1 : DWord) (s : State) : OutMem s.mem (aluResult x0 x1 s) := by simp [aluResult]

@[simp] theorem aluResult_wf (x0 : BitVec 5) (x1 : DWord) (s : State) (hm : Memory.wf s.mem = true) : OutWf (aluResult x0 x1 s) := (aluResult_mem x0 x1 s).wf hm

@[simp] theorem mulResult_mem (x0 : BitVec 5) (x1 : DWord) (s : State) : OutMem s.mem (mulResult x0 x1 s) := by simp [mulResult]

@[simp] theorem mulResult_wf (x0 : BitVec 5) (x1 : DWord) (s : State) (hm : Memory.wf s.mem = true) : OutWf (mulResult x0 x1 s) := (mulResult_mem x0 x1 s).wf hm

@[simp] theorem predResult_mem (x0 : BitVec 3) (x1 : Bool) (s : State) : OutMem s.mem (predResult x0 x1 s) := by simp [predResult]

@[simp] theorem predResult_wf (x0 : BitVec 3) (x1 : Bool) (s : State) (hm : Memory.wf s.mem = true) : OutWf (predResult x0 x1 s) := (predResult_mem x0 x1 s).wf hm

@[simp] theorem execAdd_mem (x0 : BitVec 5) (x1 : BitVec 5) (x2 : BitVec 5) (s : State) : OutMem s.mem (execAdd x0 x1 x2 s) := by
  simp [execAdd]

@[simp] theorem execAdd_wf (x0 : BitVec 5) (x1 : BitVec 5) (x2 : BitVec 5) (s : State) (hm : Memory.wf s.mem = true) : OutWf (execAdd x0 x1 x2 s) := (execAdd_mem x0 x1 x2 s).wf hm

@[simp] theorem execSub_mem (x0 : BitVec 5) (x1 : BitVec 5) (x2 : BitVec 5) (s : State) : OutMem s.mem (execSub x0 x1 x2 s) := by
  simp [execSub]

@[simp] theorem execSub_wf (x0 : BitVec 5) (x1 : BitVec 5) (x2 : BitVec 5) (s : State) (hm : Memory.wf s.mem = true) : OutWf (execSub x0 x1 x2 s) := (execSub_mem x0 x1 x2 s).wf hm

@[simp] theorem execAnd_mem (x0 : BitVec 5) (x1 : BitVec 5) (x2 : BitVec 5) (s : State) : OutMem s.mem (execAnd x0 x1 x2 s) := by
  simp [execAnd]

@[simp] theorem execAnd_wf (x0 : BitVec 5) (x1 : BitVec 5) (x2 : BitVec 5) (s : State) (hm : Memory.wf s.mem = true) : OutWf (execAnd x0 x1 x2 s) := (execAnd_mem x0 x1 x2 s).wf hm

@[simp] theorem execOr_mem (x0 : BitVec 5) (x1 : BitVec 5) (x2 : BitVec 5) (s : State) : OutMem s.mem (execOr x0 x1 x2 s) := by
  simp [execOr]

@[simp] theorem execOr_wf (x0 : BitVec 5) (x1 : BitVec 5) (x2 : BitVec 5) (s : State) (hm : Memory.wf s.mem = true) : OutWf (execOr x0 x1 x2 s) := (execOr_mem x0 x1 x2 s).wf hm

@[simp] theorem execXor_mem (x0 : BitVec 5) (x1 : BitVec 5) (x2 : BitVec 5) (s : State) : OutMem s.mem (execXor x0 x1 x2 s) := by
  simp [execXor]

@[simp] theorem execXor_wf (x0 : BitVec 5) (x1 : BitVec 5) (x2 : BitVec 5) (s : State) (hm : Memory.wf s.mem = true) : OutWf (execXor x0 x1 x2 s) := (execXor_mem x0 x1 x2 s).wf hm

@[simp] theorem execAndn_mem (x0 : BitVec 5) (x1 : BitVec 5) (x2 : BitVec 5) (s : State) : OutMem s.mem (execAndn x0 x1 x2 s) := by
  simp [execAndn]

@[simp] theorem execAndn_wf (x0 : BitVec 5) (x1 : BitVec 5) (x2 : BitVec 5) (s : State) (hm : Memory.wf s.mem = true) : OutWf (execAndn x0 x1 x2 s) := (execAndn_mem x0 x1 x2 s).wf hm

@[simp] theorem execSll_mem (x0 : BitVec 5) (x1 : BitVec 5) (x2 : BitVec 5) (s : State) : OutMem s.mem (execSll x0 x1 x2 s) := by
  simp [execSll]

@[simp] theorem execSll_wf (x0 : BitVec 5) (x1 : BitVec 5) (x2 : BitVec 5) (s : State) (hm : Memory.wf s.mem = true) : OutWf (execSll x0 x1 x2 s) := (execSll_mem x0 x1 x2 s).wf hm

@[simp] theorem execSrl_mem (x0 : BitVec 5) (x1 : BitVec 5) (x2 : BitVec 5) (s : State) : OutMem s.mem (execSrl x0 x1 x2 s) := by
  simp [execSrl]

@[simp] theorem execSrl_wf (x0 : BitVec 5) (x1 : BitVec 5) (x2 : BitVec 5) (s : State) (hm : Memory.wf s.mem = true) : OutWf (execSrl x0 x1 x2 s) := (execSrl_mem x0 x1 x2 s).wf hm

@[simp] theorem execSra_mem (x0 : BitVec 5) (x1 : BitVec 5) (x2 : BitVec 5) (s : State) : OutMem s.mem (execSra x0 x1 x2 s) := by
  simp [execSra]

@[simp] theorem execSra_wf (x0 : BitVec 5) (x1 : BitVec 5) (x2 : BitVec 5) (s : State) (hm : Memory.wf s.mem = true) : OutWf (execSra x0 x1 x2 s) := (execSra_mem x0 x1 x2 s).wf hm

@[simp] theorem execMul_mem (x0 : BitVec 5) (x1 : BitVec 5) (x2 : BitVec 5) (s : State) : OutMem s.mem (execMul x0 x1 x2 s) := by
  simp [execMul]

@[simp] theorem execMul_wf (x0 : BitVec 5) (x1 : BitVec 5) (x2 : BitVec 5) (s : State) (hm : Memory.wf s.mem = true) : OutWf (execMul x0 x1 x2 s) := (execMul_mem x0 x1 x2 s).wf hm

@[simp] theorem execMulh_mem (x0 : BitVec 5) (x1 : BitVec 5) (x2 : BitVec 5) (s : State) : OutMem s.mem (execMulh x0 x1 x2 s) := by
  simp [execMulh]

@[simp] theorem execMulh_wf (x0 : BitVec 5) (x1 : BitVec 5) (x2 : BitVec 5) (s : State) (hm : Memory.wf s.mem = true) : OutWf (execMulh x0 x1 x2 s) := (execMulh_mem x0 x1 x2 s).wf hm

@[simp] theorem execMulhn_mem (x0 : BitVec 5) (x1 : BitVec 5) (x2 : BitVec 5) (s : State) : OutMem s.mem (execMulhn x0 x1 x2 s) := by
  simp [execMulhn]

@[simp] theorem execMulhn_wf (x0 : BitVec 5) (x1 : BitVec 5) (x2 : BitVec 5) (s : State) (hm : Memory.wf s.mem = true) : OutWf (execMulhn x0 x1 x2 s) := (execMulhn_mem x0 x1 x2 s).wf hm

@[simp] theorem execMin_mem (x0 : BitVec 5) (x1 : BitVec 5) (x2 : BitVec 5) (s : State) : OutMem s.mem (execMin x0 x1 x2 s) := by
  simp [execMin]

@[simp] theorem execMin_wf (x0 : BitVec 5) (x1 : BitVec 5) (x2 : BitVec 5) (s : State) (hm : Memory.wf s.mem = true) : OutWf (execMin x0 x1 x2 s) := (execMin_mem x0 x1 x2 s).wf hm

@[simp] theorem execMax_mem (x0 : BitVec 5) (x1 : BitVec 5) (x2 : BitVec 5) (s : State) : OutMem s.mem (execMax x0 x1 x2 s) := by
  simp [execMax]

@[simp] theorem execMax_wf (x0 : BitVec 5) (x1 : BitVec 5) (x2 : BitVec 5) (s : State) (hm : Memory.wf s.mem = true) : OutWf (execMax x0 x1 x2 s) := (execMax_mem x0 x1 x2 s).wf hm

@[simp] theorem execMinn_mem (x0 : BitVec 5) (x1 : BitVec 5) (x2 : BitVec 5) (s : State) : OutMem s.mem (execMinn x0 x1 x2 s) := by
  simp [execMinn]

@[simp] theorem execMinn_wf (x0 : BitVec 5) (x1 : BitVec 5) (x2 : BitVec 5) (s : State) (hm : Memory.wf s.mem = true) : OutWf (execMinn x0 x1 x2 s) := (execMinn_mem x0 x1 x2 s).wf hm

@[simp] theorem execMaxn_mem (x0 : BitVec 5) (x1 : BitVec 5) (x2 : BitVec 5) (s : State) : OutMem s.mem (execMaxn x0 x1 x2 s) := by
  simp [execMaxn]

@[simp] theorem execMaxn_wf (x0 : BitVec 5) (x1 : BitVec 5) (x2 : BitVec 5) (s : State) (hm : Memory.wf s.mem = true) : OutWf (execMaxn x0 x1 x2 s) := (execMaxn_mem x0 x1 x2 s).wf hm

@[simp] theorem execClz_mem (x0 : BitVec 5) (x1 : BitVec 5) (s : State) : OutMem s.mem (execClz x0 x1 s) := by simp [execClz]

@[simp] theorem execClz_wf (x0 : BitVec 5) (x1 : BitVec 5) (s : State) (hm : Memory.wf s.mem = true) : OutWf (execClz x0 x1 s) := (execClz_mem x0 x1 s).wf hm

@[simp] theorem execPopc_mem (x0 : BitVec 5) (x1 : BitVec 5) (s : State) : OutMem s.mem (execPopc x0 x1 s) := by simp [execPopc]

@[simp] theorem execPopc_wf (x0 : BitVec 5) (x1 : BitVec 5) (s : State) (hm : Memory.wf s.mem = true) : OutWf (execPopc x0 x1 s) := (execPopc_mem x0 x1 s).wf hm

@[simp] theorem execCeq_mem (x0 : BitVec 3) (x1 : BitVec 5) (x2 : BitVec 5) (s : State) : OutMem s.mem (execCeq x0 x1 x2 s) := by
  simp [execCeq]

@[simp] theorem execCeq_wf (x0 : BitVec 3) (x1 : BitVec 5) (x2 : BitVec 5) (s : State) (hm : Memory.wf s.mem = true) : OutWf (execCeq x0 x1 x2 s) := (execCeq_mem x0 x1 x2 s).wf hm

@[simp] theorem execCne_mem (x0 : BitVec 3) (x1 : BitVec 5) (x2 : BitVec 5) (s : State) : OutMem s.mem (execCne x0 x1 x2 s) := by
  simp [execCne]

@[simp] theorem execCne_wf (x0 : BitVec 3) (x1 : BitVec 5) (x2 : BitVec 5) (s : State) (hm : Memory.wf s.mem = true) : OutWf (execCne x0 x1 x2 s) := (execCne_mem x0 x1 x2 s).wf hm

@[simp] theorem execClt_mem (x0 : BitVec 3) (x1 : BitVec 5) (x2 : BitVec 5) (s : State) : OutMem s.mem (execClt x0 x1 x2 s) := by
  simp [execClt]

@[simp] theorem execClt_wf (x0 : BitVec 3) (x1 : BitVec 5) (x2 : BitVec 5) (s : State) (hm : Memory.wf s.mem = true) : OutWf (execClt x0 x1 x2 s) := (execClt_mem x0 x1 x2 s).wf hm

@[simp] theorem execCge_mem (x0 : BitVec 3) (x1 : BitVec 5) (x2 : BitVec 5) (s : State) : OutMem s.mem (execCge x0 x1 x2 s) := by
  simp [execCge]

@[simp] theorem execCge_wf (x0 : BitVec 3) (x1 : BitVec 5) (x2 : BitVec 5) (s : State) (hm : Memory.wf s.mem = true) : OutWf (execCge x0 x1 x2 s) := (execCge_mem x0 x1 x2 s).wf hm

@[simp] theorem execCltn_mem (x0 : BitVec 3) (x1 : BitVec 5) (x2 : BitVec 5) (s : State) : OutMem s.mem (execCltn x0 x1 x2 s) := by
  simp [execCltn]

@[simp] theorem execCltn_wf (x0 : BitVec 3) (x1 : BitVec 5) (x2 : BitVec 5) (s : State) (hm : Memory.wf s.mem = true) : OutWf (execCltn x0 x1 x2 s) := (execCltn_mem x0 x1 x2 s).wf hm

@[simp] theorem execCgen_mem (x0 : BitVec 3) (x1 : BitVec 5) (x2 : BitVec 5) (s : State) : OutMem s.mem (execCgen x0 x1 x2 s) := by
  simp [execCgen]

@[simp] theorem execCgen_wf (x0 : BitVec 3) (x1 : BitVec 5) (x2 : BitVec 5) (s : State) (hm : Memory.wf s.mem = true) : OutWf (execCgen x0 x1 x2 s) := (execCgen_mem x0 x1 x2 s).wf hm

@[simp] theorem execPand_mem (x0 : BitVec 3) (x1 : BitVec 3) (x2 : BitVec 3) (s : State) : OutMem s.mem (execPand x0 x1 x2 s) := by
  simp [execPand]

@[simp] theorem execPand_wf (x0 : BitVec 3) (x1 : BitVec 3) (x2 : BitVec 3) (s : State) (hm : Memory.wf s.mem = true) : OutWf (execPand x0 x1 x2 s) := (execPand_mem x0 x1 x2 s).wf hm

@[simp] theorem execPor_mem (x0 : BitVec 3) (x1 : BitVec 3) (x2 : BitVec 3) (s : State) : OutMem s.mem (execPor x0 x1 x2 s) := by
  simp [execPor]

@[simp] theorem execPor_wf (x0 : BitVec 3) (x1 : BitVec 3) (x2 : BitVec 3) (s : State) (hm : Memory.wf s.mem = true) : OutWf (execPor x0 x1 x2 s) := (execPor_mem x0 x1 x2 s).wf hm

@[simp] theorem execPxor_mem (x0 : BitVec 3) (x1 : BitVec 3) (x2 : BitVec 3) (s : State) : OutMem s.mem (execPxor x0 x1 x2 s) := by
  simp [execPxor]

@[simp] theorem execPxor_wf (x0 : BitVec 3) (x1 : BitVec 3) (x2 : BitVec 3) (s : State) (hm : Memory.wf s.mem = true) : OutWf (execPxor x0 x1 x2 s) := (execPxor_mem x0 x1 x2 s).wf hm

@[simp] theorem execPandn_mem (x0 : BitVec 3) (x1 : BitVec 3) (x2 : BitVec 3) (s : State) : OutMem s.mem (execPandn x0 x1 x2 s) := by
  simp [execPandn]

@[simp] theorem execPandn_wf (x0 : BitVec 3) (x1 : BitVec 3) (x2 : BitVec 3) (s : State) (hm : Memory.wf s.mem = true) : OutWf (execPandn x0 x1 x2 s) := (execPandn_mem x0 x1 x2 s).wf hm

@[simp] theorem execAddi_mem (x0 : BitVec 5) (x1 : BitVec 5) (x2 : BitVec 16) (s : State) : OutMem s.mem (execAddi x0 x1 x2 s) := by
  simp [execAddi]

@[simp] theorem execAddi_wf (x0 : BitVec 5) (x1 : BitVec 5) (x2 : BitVec 16) (s : State) (hm : Memory.wf s.mem = true) : OutWf (execAddi x0 x1 x2 s) := (execAddi_mem x0 x1 x2 s).wf hm

@[simp] theorem execAndi_mem (x0 : BitVec 5) (x1 : BitVec 5) (x2 : BitVec 16) (s : State) : OutMem s.mem (execAndi x0 x1 x2 s) := by
  simp [execAndi]

@[simp] theorem execAndi_wf (x0 : BitVec 5) (x1 : BitVec 5) (x2 : BitVec 16) (s : State) (hm : Memory.wf s.mem = true) : OutWf (execAndi x0 x1 x2 s) := (execAndi_mem x0 x1 x2 s).wf hm

@[simp] theorem execOri_mem (x0 : BitVec 5) (x1 : BitVec 5) (x2 : BitVec 16) (s : State) : OutMem s.mem (execOri x0 x1 x2 s) := by
  simp [execOri]

@[simp] theorem execOri_wf (x0 : BitVec 5) (x1 : BitVec 5) (x2 : BitVec 16) (s : State) (hm : Memory.wf s.mem = true) : OutWf (execOri x0 x1 x2 s) := (execOri_mem x0 x1 x2 s).wf hm

@[simp] theorem execXori_mem (x0 : BitVec 5) (x1 : BitVec 5) (x2 : BitVec 16) (s : State) : OutMem s.mem (execXori x0 x1 x2 s) := by
  simp [execXori]

@[simp] theorem execXori_wf (x0 : BitVec 5) (x1 : BitVec 5) (x2 : BitVec 16) (s : State) (hm : Memory.wf s.mem = true) : OutWf (execXori x0 x1 x2 s) := (execXori_mem x0 x1 x2 s).wf hm

@[simp] theorem execSlli_mem (x0 : BitVec 5) (x1 : BitVec 5) (x2 : BitVec 6) (s : State) : OutMem s.mem (execSlli x0 x1 x2 s) := by
  simp [execSlli]

@[simp] theorem execSlli_wf (x0 : BitVec 5) (x1 : BitVec 5) (x2 : BitVec 6) (s : State) (hm : Memory.wf s.mem = true) : OutWf (execSlli x0 x1 x2 s) := (execSlli_mem x0 x1 x2 s).wf hm

@[simp] theorem execSrli_mem (x0 : BitVec 5) (x1 : BitVec 5) (x2 : BitVec 6) (s : State) : OutMem s.mem (execSrli x0 x1 x2 s) := by
  simp [execSrli]

@[simp] theorem execSrli_wf (x0 : BitVec 5) (x1 : BitVec 5) (x2 : BitVec 6) (s : State) (hm : Memory.wf s.mem = true) : OutWf (execSrli x0 x1 x2 s) := (execSrli_mem x0 x1 x2 s).wf hm

@[simp] theorem execSrai_mem (x0 : BitVec 5) (x1 : BitVec 5) (x2 : BitVec 6) (s : State) : OutMem s.mem (execSrai x0 x1 x2 s) := by
  simp [execSrai]

@[simp] theorem execSrai_wf (x0 : BitVec 5) (x1 : BitVec 5) (x2 : BitVec 6) (s : State) (hm : Memory.wf s.mem = true) : OutWf (execSrai x0 x1 x2 s) := (execSrai_mem x0 x1 x2 s).wf hm

@[simp] theorem execCeqi_mem (x0 : BitVec 3) (x1 : BitVec 5) (x2 : BitVec 16) (s : State) : OutMem s.mem (execCeqi x0 x1 x2 s) := by
  simp [execCeqi]

@[simp] theorem execCeqi_wf (x0 : BitVec 3) (x1 : BitVec 5) (x2 : BitVec 16) (s : State) (hm : Memory.wf s.mem = true) : OutWf (execCeqi x0 x1 x2 s) := (execCeqi_mem x0 x1 x2 s).wf hm

@[simp] theorem execClti_mem (x0 : BitVec 3) (x1 : BitVec 5) (x2 : BitVec 16) (s : State) : OutMem s.mem (execClti x0 x1 x2 s) := by
  simp [execClti]

@[simp] theorem execClti_wf (x0 : BitVec 3) (x1 : BitVec 5) (x2 : BitVec 16) (s : State) (hm : Memory.wf s.mem = true) : OutWf (execClti x0 x1 x2 s) := (execClti_mem x0 x1 x2 s).wf hm

@[simp] theorem execCltni_mem (x0 : BitVec 3) (x1 : BitVec 5) (x2 : BitVec 16) (s : State) : OutMem s.mem (execCltni x0 x1 x2 s) := by
  simp [execCltni]

@[simp] theorem execCltni_wf (x0 : BitVec 3) (x1 : BitVec 5) (x2 : BitVec 16) (s : State) (hm : Memory.wf s.mem = true) : OutWf (execCltni x0 x1 x2 s) := (execCltni_mem x0 x1 x2 s).wf hm

@[simp] theorem execXpfx_mem (x0 : BitVec 16) (s : State) : OutMem s.mem (execXpfx x0 s) := by rfl

@[simp] theorem execXpfx_wf (x0 : BitVec 16) (s : State) (hm : Memory.wf s.mem = true) : OutWf (execXpfx x0 s) := (execXpfx_mem x0 s).wf hm

@[simp] theorem execBr_mem (x0 : BitVec 3) (x1 : BitVec 1) (x2 : BitVec 22) (s : State) : OutMem s.mem (execBr x0 x1 x2 s) := by
  unfold execBr
  split <;> rfl

@[simp] theorem execBr_wf (x0 : BitVec 3) (x1 : BitVec 1) (x2 : BitVec 22) (s : State) (hm : Memory.wf s.mem = true) : OutWf (execBr x0 x1 x2 s) := (execBr_mem x0 x1 x2 s).wf hm

@[simp] theorem execCall_mem (x0 : BitVec 3) (x1 : BitVec 1) (x2 : BitVec 22) (s : State) : OutMem s.mem (execCall x0 x1 x2 s) := by
  unfold execCall
  split <;> simp

@[simp] theorem execCall_wf (x0 : BitVec 3) (x1 : BitVec 1) (x2 : BitVec 22) (s : State) (hm : Memory.wf s.mem = true) : OutWf (execCall x0 x1 x2 s) := (execCall_mem x0 x1 x2 s).wf hm

@[simp] theorem execJr_mem (x0 : BitVec 5) (x1 : BitVec 5) (s : State) : OutMem s.mem (execJr x0 x1 s) := by unfold execJr; split <;> simp

@[simp] theorem execJr_wf (x0 : BitVec 5) (x1 : BitVec 5) (s : State) (hm : Memory.wf s.mem = true) : OutWf (execJr x0 x1 s) := (execJr_mem x0 x1 s).wf hm

@[simp] theorem execLoop_mem (x0 : BitVec 5) (x1 : BitVec 16) (s : State) : OutMem s.mem (execLoop x0 x1 s) := by
  unfold execLoop
  dsimp only
  (repeat' split) <;> simp

@[simp] theorem execLoop_wf (x0 : BitVec 5) (x1 : BitVec 16) (s : State) (hm : Memory.wf s.mem = true) : OutWf (execLoop x0 x1 s) := (execLoop_mem x0 x1 s).wf hm

@[simp] theorem execDset_mem (x0 : BitVec 3) (x1 : BitVec 5) (x2 : BitVec 10) (s : State) : OutMem s.mem (execDset x0 x1 x2 s) := by
  unfold execDset
  dsimp only
  (repeat' split) <;> simp

@[simp] theorem execDset_wf (x0 : BitVec 3) (x1 : BitVec 5) (x2 : BitVec 10) (s : State) (hm : Memory.wf s.mem = true) : OutWf (execDset x0 x1 x2 s) := (execDset_mem x0 x1 x2 s).wf hm

@[simp] theorem execDget_mem (x0 : BitVec 5) (x1 : BitVec 3) (x2 : BitVec 10) (s : State) : OutMem s.mem (execDget x0 x1 x2 s) := by
  simp [execDget]

@[simp] theorem execDget_wf (x0 : BitVec 5) (x1 : BitVec 3) (x2 : BitVec 10) (s : State) (hm : Memory.wf s.mem = true) : OutWf (execDget x0 x1 x2 s) := (execDget_mem x0 x1 x2 s).wf hm

@[simp] theorem execSqstart_mem (x0 : BitVec 5) (x1 : BitVec 2) (s : State) : OutMem s.mem (execSqstart x0 x1 s) := by
  unfold execSqstart
  dsimp only
  (repeat' split) <;> simp

@[simp] theorem execSqstart_wf (x0 : BitVec 5) (x1 : BitVec 2) (s : State) (hm : Memory.wf s.mem = true) : OutWf (execSqstart x0 x1 s) := (execSqstart_mem x0 x1 s).wf hm

@[simp] theorem execSqstop_mem (x0 : BitVec 2) (s : State) : OutMem s.mem (execSqstop x0 s) := by
  unfold execSqstop
  dsimp only
  (repeat' split) <;> simp

@[simp] theorem execSqstop_wf (x0 : BitVec 2) (s : State) (hm : Memory.wf s.mem = true) : OutWf (execSqstop x0 s) := (execSqstop_mem x0 s).wf hm

@[simp] theorem execSqbase_mem (x0 : BitVec 5) (x1 : BitVec 2) (s : State) : OutMem s.mem (execSqbase x0 x1 s) := by
  unfold execSqbase
  dsimp only
  (repeat' split) <;> simp

@[simp] theorem execSqbase_wf (x0 : BitVec 5) (x1 : BitVec 2) (s : State) (hm : Memory.wf s.mem = true) : OutWf (execSqbase x0 x1 s) := (execSqbase_mem x0 x1 s).wf hm

@[simp] theorem execSqstat_mem (x0 : BitVec 5) (x1 : BitVec 2) (s : State) : OutMem s.mem (execSqstat x0 x1 s) := by simp [execSqstat]

@[simp] theorem execSqstat_wf (x0 : BitVec 5) (x1 : BitVec 2) (s : State) (hm : Memory.wf s.mem = true) : OutWf (execSqstat x0 x1 s) := (execSqstat_mem x0 x1 s).wf hm

@[simp] theorem State.send_mem (s : State) (x1 : Access) : (State.send s x1).mem = s.mem := by rfl

@[simp] theorem State.pushCmd_mem (s : State) (x1 : Engine) (x2 : Cmd) : (State.pushCmd s x1 x2).mem = s.mem := by rfl

@[simp] theorem tokenSignal_mem (x0 : Nat) (s : State) : OutMem s.mem (tokenSignal x0 s) := by unfold tokenSignal; (repeat' split) <;> simp

@[simp] theorem tokenSignal_wf (x0 : Nat) (s : State) (hm : Memory.wf s.mem = true) : OutWf (tokenSignal x0 s) := (tokenSignal_mem x0 s).wf hm

@[simp] theorem State.takeToken_mem (s : State) (x1 : Nat) : (State.takeToken s x1).mem = s.mem := by rfl

@[simp] theorem tokenWait_mem (x0 : Nat) (s : State) : OutMem s.mem (tokenWait x0 s) := by unfold tokenWait; (repeat' split) <;> simp

@[simp] theorem tokenWait_wf (x0 : Nat) (s : State) (hm : Memory.wf s.mem = true) : OutWf (tokenWait x0 s) := (tokenWait_mem x0 s).wf hm

@[simp] theorem execTsig_mem (x0 : BitVec 4) (s : State) : OutMem s.mem (execTsig x0 s) := by simp [execTsig]

@[simp] theorem execTsig_wf (x0 : BitVec 4) (s : State) (hm : Memory.wf s.mem = true) : OutWf (execTsig x0 s) := (execTsig_mem x0 s).wf hm

@[simp] theorem execTwait_mem (x0 : BitVec 4) (s : State) : OutMem s.mem (execTwait x0 s) := by simp [execTwait]

@[simp] theorem execTwait_wf (x0 : BitVec 4) (s : State) (hm : Memory.wf s.mem = true) : OutWf (execTwait x0 s) := (execTwait_mem x0 s).wf hm

@[simp] theorem execTwaitnb_mem (x0 : BitVec 3) (x1 : BitVec 4) (s : State) : OutMem s.mem (execTwaitnb x0 x1 s) := by
  unfold execTwaitnb
  (repeat' split) <;> simp

@[simp] theorem execTwaitnb_wf (x0 : BitVec 3) (x1 : BitVec 4) (s : State) (hm : Memory.wf s.mem = true) : OutWf (execTwaitnb x0 x1 s) := (execTwaitnb_mem x0 x1 s).wf hm

@[simp] theorem State.sendFlag_mem (s : State) (x1 : RemoteFlag) : (State.sendFlag s x1).mem = s.mem := by rfl

@[simp] theorem ownFlag_mem (x0 : Bool) (x1 : Nat) (x2 : Word) (x3 : BitVec 5) (s : State) : OutMem s.mem (ownFlag x0 x1 x2 x3 s) := by
  unfold ownFlag
  split <;> simp

@[simp] theorem ownFlag_wf (x0 : Bool) (x1 : Nat) (x2 : Word) (x3 : BitVec 5) (s : State) (hm : Memory.wf s.mem = true) : OutWf (ownFlag x0 x1 x2 x3 s) := (ownFlag_mem x0 x1 x2 x3 s).wf hm

@[simp] theorem execFset_mem (x0 : BitVec 5) (x1 : BitVec 5) (x2 : BitVec 5) (s : State) : OutMem s.mem (execFset x0 x1 x2 s) := by
  simp [execFset]

@[simp] theorem execFset_wf (x0 : BitVec 5) (x1 : BitVec 5) (x2 : BitVec 5) (s : State) (hm : Memory.wf s.mem = true) : OutWf (execFset x0 x1 x2 s) := (execFset_mem x0 x1 x2 s).wf hm

@[simp] theorem execFadd_mem (x0 : BitVec 5) (x1 : BitVec 5) (x2 : BitVec 5) (s : State) : OutMem s.mem (execFadd x0 x1 x2 s) := by
  simp [execFadd]

@[simp] theorem execFadd_wf (x0 : BitVec 5) (x1 : BitVec 5) (x2 : BitVec 5) (s : State) (hm : Memory.wf s.mem = true) : OutWf (execFadd x0 x1 x2 s) := (execFadd_mem x0 x1 x2 s).wf hm

theorem State.takeGrant_mem {s t : State} {v : DWord} (h : s.takeGrant = some (v, t)) : t.mem = s.mem := by
  unfold State.takeGrant at h
  dsimp only at h
  split at h
  · simp only [Option.some.injEq, Prod.mk.injEq] at h
    rw [← h.2]
  · simp at h

@[simp] theorem State.await_mem (s : State) (x1 : Nat) (x2 : Word) : (State.await s x1 x2).mem = s.mem := by rfl

@[simp] theorem execFread_mem (x0 : BitVec 5) (x1 : BitVec 5) (s : State) : OutMem s.mem (execFread x0 x1 s) := by simp [execFread]

@[simp] theorem execFread_wf (x0 : BitVec 5) (x1 : BitVec 5) (s : State) (hm : Memory.wf s.mem = true) : OutWf (execFread x0 x1 s) := (execFread_mem x0 x1 s).wf hm

@[simp] theorem remoteFlags_mem (o : BitVec 5) (rs : List RemoteFlag) (s : State) : OutMem s.mem (remoteFlags o rs s) := by
  unfold remoteFlags
  dsimp only
  split
  · simp
  · simp only [outMem_next]; exact foldl_mem _ _ (fun s r => by simp) s

@[simp] theorem execFradd_mem (x0 : BitVec 5) (x1 : BitVec 5) (x2 : BitVec 5) (x3 : BitVec 5) (s : State) : OutMem s.mem (execFradd x0 x1 x2 x3 s) := by
  unfold execFradd
  dsimp only
  split <;> simp

@[simp] theorem execFradd_wf (x0 : BitVec 5) (x1 : BitVec 5) (x2 : BitVec 5) (x3 : BitVec 5) (s : State) (hm : Memory.wf s.mem = true) : OutWf (execFradd x0 x1 x2 x3 s) := (execFradd_mem x0 x1 x2 x3 s).wf hm

@[simp] theorem execFmcast_mem (x0 : BitVec 5) (x1 : BitVec 5) (x2 : BitVec 5) (x3 : BitVec 5) (s : State) : OutMem s.mem (execFmcast x0 x1 x2 x3 s) := by
  unfold execFmcast
  dsimp only
  split <;> simp

@[simp] theorem execFmcast_wf (x0 : BitVec 5) (x1 : BitVec 5) (x2 : BitVec 5) (x3 : BitVec 5) (s : State) (hm : Memory.wf s.mem = true) : OutWf (execFmcast x0 x1 x2 x3 s) := (execFmcast_mem x0 x1 x2 x3 s).wf hm

@[simp] theorem execBaradd_mem (x0 : BitVec 5) (x1 : BitVec 5) (x2 : BitVec 5) (x3 : BitVec 5) (s : State) : OutMem s.mem (execBaradd x0 x1 x2 x3 s) := by
  unfold execBaradd
  dsimp only
  split <;> simp

@[simp] theorem execBaradd_wf (x0 : BitVec 5) (x1 : BitVec 5) (x2 : BitVec 5) (x3 : BitVec 5) (s : State) (hm : Memory.wf s.mem = true) : OutWf (execBaradd x0 x1 x2 x3 s) := (execBaradd_mem x0 x1 x2 x3 s).wf hm

@[simp] theorem execBarcast_mem (x0 : BitVec 5) (x1 : BitVec 5) (x2 : BitVec 5) (x3 : BitVec 5) (s : State) : OutMem s.mem (execBarcast x0 x1 x2 x3 s) := by
  unfold execBarcast
  dsimp only
  split <;> simp

@[simp] theorem execBarcast_wf (x0 : BitVec 5) (x1 : BitVec 5) (x2 : BitVec 5) (x3 : BitVec 5) (s : State) (hm : Memory.wf s.mem = true) : OutWf (execBarcast x0 x1 x2 x3 s) := (execBarcast_mem x0 x1 x2 x3 s).wf hm

@[simp] theorem execBarinit_mem (x0 : BitVec 5) (x1 : BitVec 5) (x2 : BitVec 5) (s : State) : OutMem s.mem (execBarinit x0 x1 x2 s) := by
  unfold execBarinit
  split <;> simp

@[simp] theorem execBarinit_wf (x0 : BitVec 5) (x1 : BitVec 5) (x2 : BitVec 5) (s : State) (hm : Memory.wf s.mem = true) : OutWf (execBarinit x0 x1 x2 s) := (execBarinit_mem x0 x1 x2 s).wf hm

@[simp] theorem State.abortWaiters_mem (s : State) (x1 : Nat) : (State.abortWaiters s x1).mem = s.mem := by
  unfold State.abortWaiters
  dsimp only
  split <;> rfl

@[simp] theorem execBarinitf_wf (x0 : BitVec 5) (x1 : BitVec 5) (x2 : BitVec 5) (s : State) (hm : Memory.wf s.mem = true) : OutWf (execBarinitf x0 x1 x2 s) := by
  unfold execBarinitf
  split <;> simp [hm]

@[simp] theorem execTagwany_mem (x0 : BitVec 5) (x1 : BitVec 5) (s : State) : OutMem s.mem (execTagwany x0 x1 s) := by
  unfold execTagwany
  split <;> simp

@[simp] theorem execTagwany_wf (x0 : BitVec 5) (x1 : BitVec 5) (s : State) (hm : Memory.wf s.mem = true) : OutWf (execTagwany x0 x1 s) := (execTagwany_mem x0 x1 s).wf hm

@[simp] theorem execTagwall_mem (x0 : BitVec 5) (x1 : BitVec 5) (s : State) : OutMem s.mem (execTagwall x0 x1 s) := by
  unfold execTagwall
  split <;> simp

@[simp] theorem execTagwall_wf (x0 : BitVec 5) (x1 : BitVec 5) (s : State) (hm : Memory.wf s.mem = true) : OutWf (execTagwall x0 x1 s) := (execTagwall_mem x0 x1 s).wf hm

@[simp] theorem execTagffr_mem (x0 : BitVec 5) (x1 : BitVec 5) (s : State) : OutMem s.mem (execTagffr x0 x1 s) := by simp [execTagffr]

@[simp] theorem execTagffr_wf (x0 : BitVec 5) (x1 : BitVec 5) (s : State) (hm : Memory.wf s.mem = true) : OutWf (execTagffr x0 x1 s) := (execTagffr_mem x0 x1 s).wf hm

@[simp] theorem execTagclr_mem (x0 : BitVec 5) (s : State) : OutMem s.mem (execTagclr x0 s) := by simp [execTagclr]

@[simp] theorem execTagclr_wf (x0 : BitVec 5) (s : State) (hm : Memory.wf s.mem = true) : OutWf (execTagclr x0 s) := (execTagclr_mem x0 s).wf hm

@[simp] theorem State.hostFenced_mem (s : State) (x1 : Nat) (x2 : BitVec 5) : (State.hostFenced s x1 x2).mem = s.mem := by
  unfold State.hostFenced
  split <;> rfl

@[simp] theorem fence_mem (x0 : Nat) (x1 : BitVec 5) (s : State) : OutMem s.mem (fence x0 x1 s) := by unfold fence; split <;> simp

@[simp] theorem fence_wf (x0 : Nat) (x1 : BitVec 5) (s : State) (hm : Memory.wf s.mem = true) : OutWf (fence x0 x1 s) := (fence_mem x0 x1 s).wf hm

@[simp] theorem execFenceRel_mem (x0 : BitVec 5) (s : State) : OutMem s.mem (execFenceRel x0 s) := by simp [execFenceRel]

@[simp] theorem execFenceRel_wf (x0 : BitVec 5) (s : State) (hm : Memory.wf s.mem = true) : OutWf (execFenceRel x0 s) := (execFenceRel_mem x0 s).wf hm

@[simp] theorem execFenceAcq_mem (x0 : BitVec 5) (s : State) : OutMem s.mem (execFenceAcq x0 s) := by simp [execFenceAcq]

@[simp] theorem execFenceAcq_wf (x0 : BitVec 5) (s : State) (hm : Memory.wf s.mem = true) : OutWf (execFenceAcq x0 s) := (execFenceAcq_mem x0 s).wf hm

@[simp] theorem execFenceFull_mem (x0 : BitVec 5) (s : State) : OutMem s.mem (execFenceFull x0 s) := by simp [execFenceFull]

@[simp] theorem execFenceFull_wf (x0 : BitVec 5) (s : State) (hm : Memory.wf s.mem = true) : OutWf (execFenceFull x0 s) := (execFenceFull_mem x0 s).wf hm

@[simp] theorem execFenceX_mem (s : State) : OutMem s.mem (execFenceX s) := by simp [execFenceX]

@[simp] theorem execFenceX_wf (s : State) (hm : Memory.wf s.mem = true) : OutWf (execFenceX s) := (execFenceX_mem s).wf hm

@[simp] theorem State.takeLatched_mem (s : State) (x1 : Nat) : (State.takeLatched s x1).mem = s.mem := by
  unfold State.takeLatched
  dsimp only
  (repeat' split) <;> rfl

@[simp] theorem State.requestAt_mem (s : State) (x1 : Nat) (x2 : Nat) : (State.requestAt s x1 x2).mem = s.mem := by
  unfold State.requestAt
  split <;> simp

@[simp] theorem State.stopAtOnce_mem (s : State) (x1 : Nat) (x2 : Nat) : (State.stopAtOnce s x1 x2).mem = s.mem := by rfl

@[simp] theorem State.requestPreempt_mem (s : State) (x1 : Nat) (x2 : Nat) : (State.requestPreempt s x1 x2).mem = s.mem := by
  simp [State.requestPreempt, foldl_mem]

@[simp] theorem State.release_mem (s : State) (x1 : Nat) (x2 : Agent) : (State.release s x1 x2).mem = s.mem := by
  unfold State.release
  split <;> rfl

@[simp] theorem State.returnTo_mem (s : State) (x1 : Nat) (x2 : Agent) (x3 : DWord) (x4 : Bool) : (State.returnTo s x1 x2 x3 x4).mem = s.mem := by
  unfold State.returnTo
  dsimp only
  (repeat' split) <;> simp

@[simp] theorem State.trapPreempt_mem (s : State) (x1 : Nat) (x2 : FaultRec) : (State.trapPreempt s x1 x2).mem = s.mem := by
  unfold State.trapPreempt
  (repeat' split) <;> simp

@[simp] theorem State.handlerPreempt_mem (s : State) (x1 : Nat) : (State.handlerPreempt s x1).mem = s.mem := by
  unfold State.handlerPreempt
  dsimp only
  (repeat' split) <;> simp

@[simp] theorem State.writePshare_mem (s : State) (x1 : Nat) (x2 : DWord) : (State.writePshare s x1 x2).mem = s.mem := by
  unfold State.writePshare
  split <;> rfl

@[simp] theorem State.writeSnap_mem (s : State) (x1 : Nat) (x2 : DWord) : (State.writeSnap s x1 x2).mem = s.mem := by rfl

@[simp] theorem State.writePreempt_mem (s : State) : (State.writePreempt s).mem = s.mem := by simp [State.writePreempt]

@[simp] theorem State.writeEndtask_wf (s : State) (x1 : DWord) (hm : Memory.wf s.mem = true) : Memory.wf (State.writeEndtask s x1).mem = true := by
  unfold State.writeEndtask
  dsimp only
  split <;> simp [hm]

@[simp] theorem State.writeFw_wf (s : State) (x1 : Nat) (x2 : DWord) (hm : Memory.wf s.mem = true) : OptWf (State.writeFw s x1 x2) := by
  unfold State.writeFw
  (repeat' split) <;> simp [hm]

@[simp] theorem State.writeLate_mem (s : State) (x1 : Nat) (x2 : DWord) : (State.writeLate s x1 x2).mem = s.mem := by rfl

@[simp] theorem writeReg_mem (x0 : Nat) (x1 : DWord) (s : State) : OutMem s.mem (writeReg x0 x1 s) := by
  unfold writeReg
  (repeat' split) <;> simp

@[simp] theorem writeReg_wf (x0 : Nat) (x1 : DWord) (s : State) (hm : Memory.wf s.mem = true) : OutWf (writeReg x0 x1 s) := (writeReg_mem x0 x1 s).wf hm

@[simp] theorem execFstatWrite_mem (x0 : Word) (s : State) : OutMem s.mem (execFstatWrite x0 s) := by simp [execFstatWrite]

@[simp] theorem execFstatWrite_wf (x0 : Word) (s : State) (hm : Memory.wf s.mem = true) : OutWf (execFstatWrite x0 s) := (execFstatWrite_mem x0 s).wf hm

@[simp] theorem execPaceWrite_mem (x0 : Engine) (x1 : DWord) (s : State) : OutMem s.mem (execPaceWrite x0 x1 s) := by simp [execPaceWrite]

@[simp] theorem execPaceWrite_wf (x0 : Engine) (x1 : DWord) (s : State) (hm : Memory.wf s.mem = true) : OutWf (execPaceWrite x0 x1 s) := (execPaceWrite_mem x0 x1 s).wf hm

@[simp] theorem execPreempt_mem (x0 : DWord) (s : State) : OutMem s.mem (execPreempt x0 s) := by unfold execPreempt; split <;> simp

@[simp] theorem execPreempt_wf (x0 : DWord) (s : State) (hm : Memory.wf s.mem = true) : OutWf (execPreempt x0 s) := (execPreempt_mem x0 s).wf hm

@[simp] theorem execEndtask_wf (x0 : DWord) (s : State) (hm : Memory.wf s.mem = true) : OutWf (execEndtask x0 s) := by
  unfold execEndtask
  split <;> simp [hm]

@[simp] theorem dispatch_mem (x0 : Engine) (x1 : BitVec 1) (x2 : BitVec 4) (x3 : BitVec 1) (x4 : BitVec 4) (x5 : BitVec 3) (x6 : BitVec 3) (x7 : BitVec 5) (s : State) : OutMem s.mem (dispatch x0 x1 x2 x3 x4 x5 x6 x7 s) := by
  unfold dispatch
  dsimp only
  (repeat' split) <;> simp

@[simp] theorem dispatch_wf (x0 : Engine) (x1 : BitVec 1) (x2 : BitVec 4) (x3 : BitVec 1) (x4 : BitVec 4) (x5 : BitVec 3) (x6 : BitVec 3) (x7 : BitVec 5) (s : State) (hm : Memory.wf s.mem = true) : OutWf (dispatch x0 x1 x2 x3 x4 x5 x6 x7 s) := (dispatch_mem x0 x1 x2 x3 x4 x5 x6 x7 s).wf hm

@[simp] theorem execDispMx_mem (x0 : BitVec 1) (x1 : BitVec 4) (x2 : BitVec 1) (x3 : BitVec 4) (x4 : BitVec 3) (x5 : BitVec 3) (x6 : BitVec 5) (s : State) : OutMem s.mem (execDispMx x0 x1 x2 x3 x4 x5 x6 s) := by
  simp [execDispMx]

@[simp] theorem execDispMx_wf (x0 : BitVec 1) (x1 : BitVec 4) (x2 : BitVec 1) (x3 : BitVec 4) (x4 : BitVec 3) (x5 : BitVec 3) (x6 : BitVec 5) (s : State) (hm : Memory.wf s.mem = true) : OutWf (execDispMx x0 x1 x2 x3 x4 x5 x6 s) := (execDispMx_mem x0 x1 x2 x3 x4 x5 x6 s).wf hm

@[simp] theorem execDispCp_mem (x0 : BitVec 1) (x1 : BitVec 4) (x2 : BitVec 1) (x3 : BitVec 4) (x4 : BitVec 3) (x5 : BitVec 3) (x6 : BitVec 5) (s : State) : OutMem s.mem (execDispCp x0 x1 x2 x3 x4 x5 x6 s) := by
  simp [execDispCp]

@[simp] theorem execDispCp_wf (x0 : BitVec 1) (x1 : BitVec 4) (x2 : BitVec 1) (x3 : BitVec 4) (x4 : BitVec 3) (x5 : BitVec 3) (x6 : BitVec 5) (s : State) (hm : Memory.wf s.mem = true) : OutWf (execDispCp x0 x1 x2 x3 x4 x5 x6 s) := (execDispCp_mem x0 x1 x2 x3 x4 x5 x6 s).wf hm

@[simp] theorem execDispCl_mem (x0 : BitVec 1) (x1 : BitVec 4) (x2 : BitVec 1) (x3 : BitVec 4) (x4 : BitVec 3) (x5 : BitVec 3) (x6 : BitVec 5) (s : State) : OutMem s.mem (execDispCl x0 x1 x2 x3 x4 x5 x6 s) := by
  simp [execDispCl]

@[simp] theorem execDispCl_wf (x0 : BitVec 1) (x1 : BitVec 4) (x2 : BitVec 1) (x3 : BitVec 4) (x4 : BitVec 3) (x5 : BitVec 3) (x6 : BitVec 5) (s : State) (hm : Memory.wf s.mem = true) : OutWf (execDispCl x0 x1 x2 x3 x4 x5 x6 s) := (execDispCl_mem x0 x1 x2 x3 x4 x5 x6 s).wf hm

@[simp] theorem execDispMl_mem (x0 : BitVec 1) (x1 : BitVec 4) (x2 : BitVec 1) (x3 : BitVec 4) (x4 : BitVec 3) (x5 : BitVec 3) (x6 : BitVec 5) (s : State) : OutMem s.mem (execDispMl x0 x1 x2 x3 x4 x5 x6 s) := by
  simp [execDispMl]

@[simp] theorem execDispMl_wf (x0 : BitVec 1) (x1 : BitVec 4) (x2 : BitVec 1) (x3 : BitVec 4) (x4 : BitVec 3) (x5 : BitVec 3) (x6 : BitVec 5) (s : State) (hm : Memory.wf s.mem = true) : OutWf (execDispMl x0 x1 x2 x3 x4 x5 x6 s) := (execDispMl_mem x0 x1 x2 x3 x4 x5 x6 s).wf hm

@[simp] theorem State.leaveBy_mem (s : State) (x1 : Leave) : (State.leaveBy s x1).mem = s.mem := by rfl

@[simp] theorem execExit_mem (s : State) : OutMem s.mem (execExit s) := by unfold execExit; split <;> simp

@[simp] theorem execExit_wf (s : State) (hm : Memory.wf s.mem = true) : OutWf (execExit s) := (execExit_mem s).wf hm

@[simp] theorem execExitAbandon_mem (s : State) : OutMem s.mem (execExitAbandon s) := by unfold execExitAbandon; split <;> simp

@[simp] theorem execExitAbandon_wf (s : State) (hm : Memory.wf s.mem = true) : OutWf (execExitAbandon s) := (execExitAbandon_mem s).wf hm

@[simp] theorem execFcall_mem (x0 : BitVec 5) (s : State) : OutMem s.mem (execFcall x0 s) := by unfold execFcall; dsimp only; split <;> simp

@[simp] theorem execFcall_wf (x0 : BitVec 5) (s : State) (hm : Memory.wf s.mem = true) : OutWf (execFcall x0 s) := (execFcall_mem x0 s).wf hm

@[simp] theorem execEret_mem (x0 : BitVec 5) (x1 : BitVec 5) (s : State) : OutMem s.mem (execEret x0 x1 s) := by
  unfold execEret
  dsimp only
  (repeat' split) <;> simp

@[simp] theorem execEret_wf (x0 : BitVec 5) (x1 : BitVec 5) (s : State) (hm : Memory.wf s.mem = true) : OutWf (execEret x0 x1 s) := (execEret_mem x0 x1 s).wf hm

@[simp] theorem State.applyLeave_mem (s : State) (x1 : Nat) (x2 : Leave) : (State.applyLeave s x1 x2).mem = s.mem := by
  unfold State.applyLeave
  split <;> simp

@[simp] theorem State.startInval_mem (s : State) (x1 : Inval) : OptMem s.mem (State.startInval s x1) := by
  unfold State.startInval; dsimp only; ((repeat' split) <;> first | rfl | (simp; done) | (simp_all; done) | exact foldl_mem _ _ (fun s b => by simp) _ | (rw [foldl_mem _ _ (fun s b => by simp)]; simp; done) | (rename_i h; simp [snd_mem h]; done) | (rename_i h; simp [fst_mem h]; done) | (rename_i h; simp [OptMem.of_eq (m := s.mem) h (by simp)]; done) | (rename_i h; simp [OutMem.of_eq (m := s.mem) h (by simp)]; done))

@[simp] theorem State.startInval_wf (s : State) (x1 : Inval) (hm : Memory.wf s.mem = true) : OptWf (State.startInval s x1) := (State.startInval_mem s x1).wf hm

@[simp] theorem State.wakePages_mem (s : State) (x1 : Inval) : (State.wakePages s x1).mem = s.mem := by rfl

@[simp] theorem execPinval_wf (x0 : BitVec 5) (x1 : BitVec 5) (x2 : BitVec 5) (s : State) (hm : Memory.wf s.mem = true) : OutWf (execPinval x0 x1 x2 s) := by
  unfold execPinval; dsimp only; ((repeat' split) <;> first | (simp [hm]; done) | (simp_all; done) | (rename_i h; simp [snd_mem h, hm]; done) | (rename_i h; simp [fst_mem h, hm]; done) | (rename_i h; simp [OptWf.of_eq h (by simp [hm])]; done) | (rename_i h; simp [OutWf.of_eq h (by simp [hm])]; done))

@[simp] theorem laneBody_mem (x0 : NumFmt) (x1 : Nat) (x2 : Nat → Nat → Nat → Nat × BitVec 5) (x3 : VIn) (s : State) : (laneBody x0 x1 x2 x3 s).mem = s.mem := by
  simp [laneBody]

@[simp] theorem maskBody_mem (x0 : NumFmt) (x1 : Nat) (x2 : Nat) (x3 : Nat → Nat → Bool) (x4 : VIn) (s : State) : (maskBody x0 x1 x2 x3 x4 s).mem = s.mem := by
  simp [maskBody]

@[simp] theorem moveBody_mem (x0 : Nat) (x1 : VIn) (s : State) : (moveBody x0 x1 s).mem = s.mem := by simp [moveBody]

@[simp] theorem execVmov_wf (x0 : BitVec 6) (x1 : BitVec 6) (x2 : BitVec 1) (x3 : BitVec 1) (x4 : BitVec 3) (x5 : BitVec 1) (s : State) (hm : Memory.wf s.mem = true) : OutWf (execVmov x0 x1 x2 x3 x4 x5 s) := by
  simp [execVmov, hm]

@[simp] theorem execVrd_wf (x0 : BitVec 6) (x1 : BitVec 6) (x2 : BitVec 1) (x3 : BitVec 1) (x4 : BitVec 1) (x5 : BitVec 3) (x6 : BitVec 1) (s : State) (hm : Memory.wf s.mem = true) : OutWf (execVrd x0 x1 x2 x3 x4 x5 x6 s) := by
  unfold execVrd
  split <;> simp [hm]

@[simp] theorem execVwr_wf (x0 : BitVec 6) (x1 : BitVec 6) (x2 : BitVec 1) (x3 : BitVec 1) (x4 : BitVec 1) (x5 : BitVec 3) (x6 : BitVec 1) (s : State) (hm : Memory.wf s.mem = true) : OutWf (execVwr x0 x1 x2 x3 x4 x5 x6 s) := by
  unfold execVwr
  split <;> simp [hm]

@[simp] theorem execVsel_wf (x0 : BitVec 6) (x1 : BitVec 6) (x2 : BitVec 6) (x3 : BitVec 1) (x4 : BitVec 1) (x5 : BitVec 3) (x6 : BitVec 1) (s : State) (hm : Memory.wf s.mem = true) : OutWf (execVsel x0 x1 x2 x3 x4 x5 x6 s) := by
  simp [execVsel, hm]

@[simp] theorem maskOp_wf (x0 : Mask → Mask → Mask) (x1 : BitVec 3) (x2 : BitVec 3) (x3 : BitVec 3) (x4 : BitVec 1) (s : State) (hm : Memory.wf s.mem = true) : OutWf (maskOp x0 x1 x2 x3 x4 s) := by
  simp [maskOp, hm]

@[simp] theorem execMand_wf (x0 : BitVec 3) (x1 : BitVec 3) (x2 : BitVec 3) (x3 : BitVec 1) (s : State) (hm : Memory.wf s.mem = true) : OutWf (execMand x0 x1 x2 x3 s) := by
  simp [execMand, hm]

@[simp] theorem execMor_wf (x0 : BitVec 3) (x1 : BitVec 3) (x2 : BitVec 3) (x3 : BitVec 1) (s : State) (hm : Memory.wf s.mem = true) : OutWf (execMor x0 x1 x2 x3 s) := by
  simp [execMor, hm]

@[simp] theorem execMxor_wf (x0 : BitVec 3) (x1 : BitVec 3) (x2 : BitVec 3) (x3 : BitVec 1) (s : State) (hm : Memory.wf s.mem = true) : OutWf (execMxor x0 x1 x2 x3 s) := by
  simp [execMxor, hm]

@[simp] theorem execMandn_wf (x0 : BitVec 3) (x1 : BitVec 3) (x2 : BitVec 3) (x3 : BitVec 1) (s : State) (hm : Memory.wf s.mem = true) : OutWf (execMandn x0 x1 x2 x3 s) := by
  simp [execMandn, hm]

@[simp] theorem intOp_wf (x0 : NumFmt → Nat → Nat → Nat × BitVec 5) (x1 : BitVec 1) (x2 : BitVec 6) (x3 : BitVec 6) (x4 : BitVec 6) (x5 : BitVec 1) (x6 : BitVec 1) (x7 : BitVec 3) (x8 : BitVec 1) (s : State) (hm : Memory.wf s.mem = true) : OutWf (intOp x0 x1 x2 x3 x4 x5 x6 x7 x8 s) := by
  simp [intOp, hm]

@[simp] theorem execVaddI_wf (x0 : BitVec 1) (x1 : BitVec 6) (x2 : BitVec 6) (x3 : BitVec 6) (x4 : BitVec 1) (x5 : BitVec 1) (x6 : BitVec 3) (x7 : BitVec 1) (s : State) (hm : Memory.wf s.mem = true) : OutWf (execVaddI x0 x1 x2 x3 x4 x5 x6 x7 s) := by
  simp [execVaddI, hm]

@[simp] theorem execVaddSat_wf (x0 : BitVec 1) (x1 : BitVec 6) (x2 : BitVec 6) (x3 : BitVec 6) (x4 : BitVec 1) (x5 : BitVec 1) (x6 : BitVec 3) (x7 : BitVec 1) (s : State) (hm : Memory.wf s.mem = true) : OutWf (execVaddSat x0 x1 x2 x3 x4 x5 x6 x7 s) := by
  simp [execVaddSat, hm]

@[simp] theorem execVsubI_wf (x0 : BitVec 1) (x1 : BitVec 6) (x2 : BitVec 6) (x3 : BitVec 6) (x4 : BitVec 1) (x5 : BitVec 1) (x6 : BitVec 3) (x7 : BitVec 1) (s : State) (hm : Memory.wf s.mem = true) : OutWf (execVsubI x0 x1 x2 x3 x4 x5 x6 x7 s) := by
  simp [execVsubI, hm]

@[simp] theorem execVsubSat_wf (x0 : BitVec 1) (x1 : BitVec 6) (x2 : BitVec 6) (x3 : BitVec 6) (x4 : BitVec 1) (x5 : BitVec 1) (x6 : BitVec 3) (x7 : BitVec 1) (s : State) (hm : Memory.wf s.mem = true) : OutWf (execVsubSat x0 x1 x2 x3 x4 x5 x6 x7 s) := by
  simp [execVsubSat, hm]

@[simp] theorem execVmulI_wf (x0 : BitVec 1) (x1 : BitVec 6) (x2 : BitVec 6) (x3 : BitVec 6) (x4 : BitVec 1) (x5 : BitVec 1) (x6 : BitVec 3) (x7 : BitVec 1) (s : State) (hm : Memory.wf s.mem = true) : OutWf (execVmulI x0 x1 x2 x3 x4 x5 x6 x7 s) := by
  simp [execVmulI, hm]

@[simp] theorem execVmulSat_wf (x0 : BitVec 1) (x1 : BitVec 6) (x2 : BitVec 6) (x3 : BitVec 6) (x4 : BitVec 1) (x5 : BitVec 1) (x6 : BitVec 3) (x7 : BitVec 1) (s : State) (hm : Memory.wf s.mem = true) : OutWf (execVmulSat x0 x1 x2 x3 x4 x5 x6 x7 s) := by
  simp [execVmulSat, hm]

@[simp] theorem execVminI_wf (x0 : BitVec 1) (x1 : BitVec 6) (x2 : BitVec 6) (x3 : BitVec 6) (x4 : BitVec 1) (x5 : BitVec 1) (x6 : BitVec 3) (x7 : BitVec 1) (s : State) (hm : Memory.wf s.mem = true) : OutWf (execVminI x0 x1 x2 x3 x4 x5 x6 x7 s) := by
  simp [execVminI, hm]

@[simp] theorem execVmaxI_wf (x0 : BitVec 1) (x1 : BitVec 6) (x2 : BitVec 6) (x3 : BitVec 6) (x4 : BitVec 1) (x5 : BitVec 1) (x6 : BitVec 3) (x7 : BitVec 1) (s : State) (hm : Memory.wf s.mem = true) : OutWf (execVmaxI x0 x1 x2 x3 x4 x5 x6 x7 s) := by
  simp [execVmaxI, hm]

@[simp] theorem execVand_wf (x0 : BitVec 1) (x1 : BitVec 6) (x2 : BitVec 6) (x3 : BitVec 6) (x4 : BitVec 1) (x5 : BitVec 1) (x6 : BitVec 3) (x7 : BitVec 1) (s : State) (hm : Memory.wf s.mem = true) : OutWf (execVand x0 x1 x2 x3 x4 x5 x6 x7 s) := by
  simp [execVand, hm]

@[simp] theorem execVor_wf (x0 : BitVec 1) (x1 : BitVec 6) (x2 : BitVec 6) (x3 : BitVec 6) (x4 : BitVec 1) (x5 : BitVec 1) (x6 : BitVec 3) (x7 : BitVec 1) (s : State) (hm : Memory.wf s.mem = true) : OutWf (execVor x0 x1 x2 x3 x4 x5 x6 x7 s) := by
  simp [execVor, hm]

@[simp] theorem execVxor_wf (x0 : BitVec 1) (x1 : BitVec 6) (x2 : BitVec 6) (x3 : BitVec 6) (x4 : BitVec 1) (x5 : BitVec 1) (x6 : BitVec 3) (x7 : BitVec 1) (s : State) (hm : Memory.wf s.mem = true) : OutWf (execVxor x0 x1 x2 x3 x4 x5 x6 x7 s) := by
  simp [execVxor, hm]

@[simp] theorem execVshl_wf (x0 : BitVec 1) (x1 : BitVec 6) (x2 : BitVec 6) (x3 : BitVec 6) (x4 : BitVec 1) (x5 : BitVec 1) (x6 : BitVec 3) (x7 : BitVec 1) (s : State) (hm : Memory.wf s.mem = true) : OutWf (execVshl x0 x1 x2 x3 x4 x5 x6 x7 s) := by
  simp [execVshl, hm]

@[simp] theorem execVshr_wf (x0 : BitVec 1) (x1 : BitVec 6) (x2 : BitVec 6) (x3 : BitVec 6) (x4 : BitVec 1) (x5 : BitVec 1) (x6 : BitVec 3) (x7 : BitVec 1) (s : State) (hm : Memory.wf s.mem = true) : OutWf (execVshr x0 x1 x2 x3 x4 x5 x6 x7 s) := by
  simp [execVshr, hm]

@[simp] theorem execVsra_wf (x0 : BitVec 1) (x1 : BitVec 6) (x2 : BitVec 6) (x3 : BitVec 6) (x4 : BitVec 1) (x5 : BitVec 1) (x6 : BitVec 3) (x7 : BitVec 1) (s : State) (hm : Memory.wf s.mem = true) : OutWf (execVsra x0 x1 x2 x3 x4 x5 x6 x7 s) := by
  simp [execVsra, hm]

@[simp] theorem intCmp_wf (x0 : Int → Int → Bool) (x1 : BitVec 1) (x2 : BitVec 6) (x3 : BitVec 6) (x4 : BitVec 6) (x5 : BitVec 1) (x6 : BitVec 1) (x7 : BitVec 3) (x8 : BitVec 1) (s : State) (hm : Memory.wf s.mem = true) : OutWf (intCmp x0 x1 x2 x3 x4 x5 x6 x7 x8 s) := by
  simp [intCmp, hm]

@[simp] theorem execVceqI_wf (x0 : BitVec 1) (x1 : BitVec 6) (x2 : BitVec 6) (x3 : BitVec 6) (x4 : BitVec 1) (x5 : BitVec 1) (x6 : BitVec 3) (x7 : BitVec 1) (s : State) (hm : Memory.wf s.mem = true) : OutWf (execVceqI x0 x1 x2 x3 x4 x5 x6 x7 s) := by
  simp [execVceqI, hm]

@[simp] theorem execVcltI_wf (x0 : BitVec 1) (x1 : BitVec 6) (x2 : BitVec 6) (x3 : BitVec 6) (x4 : BitVec 1) (x5 : BitVec 1) (x6 : BitVec 3) (x7 : BitVec 1) (s : State) (hm : Memory.wf s.mem = true) : OutWf (execVcltI x0 x1 x2 x3 x4 x5 x6 x7 s) := by
  simp [execVcltI, hm]

@[simp] theorem fltOp_wf (x0 : NumFmt → RoundMode → Nat → Nat → Nat → Nat × BitVec 5) (x1 : Bool) (x2 : BitVec 2) (x3 : BitVec 2) (x4 : BitVec 6) (x5 : BitVec 6) (x6 : BitVec 6) (x7 : BitVec 1) (x8 : BitVec 1) (x9 : BitVec 3) (x10 : BitVec 1) (s : State) (hm : Memory.wf s.mem = true) : OutWf (fltOp x0 x1 x2 x3 x4 x5 x6 x7 x8 x9 x10 s) := by
  simp [fltOp, hm]

@[simp] theorem execVaddF_wf (x0 : BitVec 2) (x1 : BitVec 2) (x2 : BitVec 6) (x3 : BitVec 6) (x4 : BitVec 6) (x5 : BitVec 1) (x6 : BitVec 1) (x7 : BitVec 3) (x8 : BitVec 1) (s : State) (hm : Memory.wf s.mem = true) : OutWf (execVaddF x0 x1 x2 x3 x4 x5 x6 x7 x8 s) := by
  simp [execVaddF, hm]

@[simp] theorem execVsubF_wf (x0 : BitVec 2) (x1 : BitVec 2) (x2 : BitVec 6) (x3 : BitVec 6) (x4 : BitVec 6) (x5 : BitVec 1) (x6 : BitVec 1) (x7 : BitVec 3) (x8 : BitVec 1) (s : State) (hm : Memory.wf s.mem = true) : OutWf (execVsubF x0 x1 x2 x3 x4 x5 x6 x7 x8 s) := by
  simp [execVsubF, hm]

@[simp] theorem execVmulF_wf (x0 : BitVec 2) (x1 : BitVec 2) (x2 : BitVec 6) (x3 : BitVec 6) (x4 : BitVec 6) (x5 : BitVec 1) (x6 : BitVec 1) (x7 : BitVec 3) (x8 : BitVec 1) (s : State) (hm : Memory.wf s.mem = true) : OutWf (execVmulF x0 x1 x2 x3 x4 x5 x6 x7 x8 s) := by
  simp [execVmulF, hm]

@[simp] theorem execVfma_wf (x0 : BitVec 2) (x1 : BitVec 2) (x2 : BitVec 6) (x3 : BitVec 6) (x4 : BitVec 6) (x5 : BitVec 1) (x6 : BitVec 1) (x7 : BitVec 3) (x8 : BitVec 1) (s : State) (hm : Memory.wf s.mem = true) : OutWf (execVfma x0 x1 x2 x3 x4 x5 x6 x7 x8 s) := by
  simp [execVfma, hm]

@[simp] theorem fltPick_wf (x0 : NumFmt → Nat → Nat → Nat) (x1 : BitVec 2) (x2 : BitVec 6) (x3 : BitVec 6) (x4 : BitVec 6) (x5 : BitVec 1) (x6 : BitVec 1) (x7 : BitVec 3) (x8 : BitVec 1) (s : State) (hm : Memory.wf s.mem = true) : OutWf (fltPick x0 x1 x2 x3 x4 x5 x6 x7 x8 s) := by
  simp [fltPick, hm]

@[simp] theorem fltCmp_wf (x0 : Num → Num → Bool) (x1 : BitVec 2) (x2 : BitVec 6) (x3 : BitVec 6) (x4 : BitVec 6) (x5 : BitVec 1) (x6 : BitVec 1) (x7 : BitVec 3) (x8 : BitVec 1) (s : State) (hm : Memory.wf s.mem = true) : OutWf (fltCmp x0 x1 x2 x3 x4 x5 x6 x7 x8 s) := by
  simp [fltCmp, hm]

@[simp] theorem execVminF_wf (x0 : BitVec 2) (x1 : BitVec 6) (x2 : BitVec 6) (x3 : BitVec 6) (x4 : BitVec 1) (x5 : BitVec 1) (x6 : BitVec 3) (x7 : BitVec 1) (s : State) (hm : Memory.wf s.mem = true) : OutWf (execVminF x0 x1 x2 x3 x4 x5 x6 x7 s) := by
  simp [execVminF, hm]

@[simp] theorem execVmaxF_wf (x0 : BitVec 2) (x1 : BitVec 6) (x2 : BitVec 6) (x3 : BitVec 6) (x4 : BitVec 1) (x5 : BitVec 1) (x6 : BitVec 3) (x7 : BitVec 1) (s : State) (hm : Memory.wf s.mem = true) : OutWf (execVmaxF x0 x1 x2 x3 x4 x5 x6 x7 s) := by
  simp [execVmaxF, hm]

@[simp] theorem execVcltF_wf (x0 : BitVec 2) (x1 : BitVec 6) (x2 : BitVec 6) (x3 : BitVec 6) (x4 : BitVec 1) (x5 : BitVec 1) (x6 : BitVec 3) (x7 : BitVec 1) (s : State) (hm : Memory.wf s.mem = true) : OutWf (execVcltF x0 x1 x2 x3 x4 x5 x6 x7 s) := by
  simp [execVcltF, hm]

@[simp] theorem execVceqF_wf (x0 : BitVec 2) (x1 : BitVec 6) (x2 : BitVec 6) (x3 : BitVec 6) (x4 : BitVec 1) (x5 : BitVec 1) (x6 : BitVec 3) (x7 : BitVec 1) (s : State) (hm : Memory.wf s.mem = true) : OutWf (execVceqF x0 x1 x2 x3 x4 x5 x6 x7 s) := by
  simp [execVceqF, hm]

@[simp] theorem execVcvt_wf (x0 : BitVec 3) (x1 : BitVec 6) (x2 : BitVec 6) (x3 : BitVec 2) (x4 : BitVec 1) (x5 : BitVec 3) (x6 : BitVec 1) (x7 : BitVec 1) (x8 : BitVec 3) (x9 : BitVec 1) (s : State) (hm : Memory.wf s.mem = true) : OutWf (execVcvt x0 x1 x2 x3 x4 x5 x6 x7 x8 x9 s) := by
  simp [execVcvt, hm]

@[simp] theorem execVpack_wf (x0 : BitVec 6) (x1 : BitVec 6) (x2 : BitVec 2) (x3 : BitVec 1) (x4 : BitVec 3) (x5 : BitVec 1) (x6 : BitVec 1) (x7 : BitVec 3) (x8 : BitVec 1) (s : State) (hm : Memory.wf s.mem = true) : OutWf (execVpack x0 x1 x2 x3 x4 x5 x6 x7 x8 s) := by
  simp [execVpack, hm]

@[simp] theorem execVunpk_wf (x0 : BitVec 6) (x1 : BitVec 6) (x2 : BitVec 3) (x3 : BitVec 3) (x4 : BitVec 1) (x5 : BitVec 1) (x6 : BitVec 3) (x7 : BitVec 1) (s : State) (hm : Memory.wf s.mem = true) : OutWf (execVunpk x0 x1 x2 x3 x4 x5 x6 x7 s) := by
  simp [execVunpk, hm]

@[simp] theorem expOp_wf (x0 : BitVec 2) (x1 : BitVec 2) (x2 : BitVec 6) (x3 : BitVec 6) (x4 : BitVec 1) (x5 : BitVec 3) (x6 : BitVec 1) (s : State) (hm : Memory.wf s.mem = true) : OutWf (expOp x0 x1 x2 x3 x4 x5 x6 s) := by
  unfold expOp
  dsimp only
  split <;> simp_all

@[simp] theorem execVexp2_wf (x0 : BitVec 2) (x1 : BitVec 6) (x2 : BitVec 6) (x3 : BitVec 1) (x4 : BitVec 3) (x5 : BitVec 1) (s : State) (hm : Memory.wf s.mem = true) : OutWf (execVexp2 x0 x1 x2 x3 x4 x5 s) := by
  simp [execVexp2, hm]

@[simp] theorem execVrcp_wf (x0 : BitVec 2) (x1 : BitVec 6) (x2 : BitVec 6) (x3 : BitVec 1) (x4 : BitVec 3) (x5 : BitVec 1) (s : State) (hm : Memory.wf s.mem = true) : OutWf (execVrcp x0 x1 x2 x3 x4 x5 s) := by
  simp [execVrcp, hm]

@[simp] theorem execVrsq_wf (x0 : BitVec 2) (x1 : BitVec 6) (x2 : BitVec 6) (x3 : BitVec 1) (x4 : BitVec 3) (x5 : BitVec 1) (s : State) (hm : Memory.wf s.mem = true) : OutWf (execVrsq x0 x1 x2 x3 x4 x5 s) := by
  simp [execVrsq, hm]

@[simp] theorem reduceOp_wf (x0 : NumFmt → List Nat → Nat × BitVec 5) (x1 : BitVec 2) (x2 : BitVec 6) (x3 : BitVec 6) (x4 : BitVec 1) (x5 : BitVec 3) (x6 : BitVec 1) (s : State) (hm : Memory.wf s.mem = true) : OutWf (reduceOp x0 x1 x2 x3 x4 x5 x6 s) := by
  simp [reduceOp, hm]

@[simp] theorem execVrsum_wf (x0 : BitVec 2) (x1 : BitVec 6) (x2 : BitVec 6) (x3 : BitVec 1) (x4 : BitVec 3) (x5 : BitVec 1) (s : State) (hm : Memory.wf s.mem = true) : OutWf (execVrsum x0 x1 x2 x3 x4 x5 s) := by
  simp [execVrsum, hm]

@[simp] theorem execVrmax_wf (x0 : BitVec 2) (x1 : BitVec 6) (x2 : BitVec 6) (x3 : BitVec 1) (x4 : BitVec 3) (x5 : BitVec 1) (s : State) (hm : Memory.wf s.mem = true) : OutWf (execVrmax x0 x1 x2 x3 x4 x5 s) := by
  simp [execVrmax, hm]

@[simp] theorem execVrmin_wf (x0 : BitVec 2) (x1 : BitVec 6) (x2 : BitVec 6) (x3 : BitVec 1) (x4 : BitVec 3) (x5 : BitVec 1) (s : State) (hm : Memory.wf s.mem = true) : OutWf (execVrmin x0 x1 x2 x3 x4 x5 s) := by
  simp [execVrmin, hm]

@[simp] theorem execVsnap_wf (x0 : BitVec 6) (x1 : BitVec 6) (x2 : BitVec 4) (x3 : BitVec 3) (x4 : BitVec 1) (s : State) (hm : Memory.wf s.mem = true) : OutWf (execVsnap x0 x1 x2 x3 x4 s) := by
  simp [execVsnap, hm]

@[simp] theorem execVlane_wf (x0 : BitVec 4) (x1 : BitVec 6) (x2 : BitVec 7) (x3 : BitVec 1) (s : State) (hm : Memory.wf s.mem = true) : OutWf (execVlane x0 x1 x2 x3 s) := by
  simp [execVlane, hm]

@[simp] theorem execVbcast_wf (x0 : BitVec 6) (x1 : BitVec 4) (x2 : BitVec 3) (x3 : BitVec 1) (s : State) (hm : Memory.wf s.mem = true) : OutWf (execVbcast x0 x1 x2 x3 s) := by
  simp [execVbcast, hm]

@[simp] theorem execVsetwb_mem (x0 : BitVec 4) (x1 : BitVec 16) (s : State) : OutMem s.mem (execVsetwb x0 x1 s) := by
  unfold execVsetwb
  dsimp only
  (repeat' split) <;> simp

@[simp] theorem execVsetwb_wf (x0 : BitVec 4) (x1 : BitVec 16) (s : State) (hm : Memory.wf s.mem = true) : OutWf (execVsetwb x0 x1 s) := (execVsetwb_mem x0 x1 s).wf hm

@[simp] theorem execVsetacc_mem (x0 : BitVec 2) (s : State) : OutMem s.mem (execVsetacc x0 s) := by rfl

@[simp] theorem execVsetacc_wf (x0 : BitVec 2) (s : State) (hm : Memory.wf s.mem = true) : OutWf (execVsetacc x0 s) := (execVsetacc_mem x0 s).wf hm

@[simp] theorem scalarS_mem (x0 : BitVec 4) (x1 : Word) (s : State) : OutMem s.mem (scalarS x0 x1 s) := by simp [scalarS]

@[simp] theorem scalarS_wf (x0 : BitVec 4) (x1 : Word) (s : State) (hm : Memory.wf s.mem = true) : OutWf (scalarS x0 x1 s) := (scalarS_mem x0 x1 s).wf hm

@[simp] theorem execSaddi_mem (x0 : BitVec 4) (x1 : BitVec 4) (x2 : BitVec 16) (s : State) : OutMem s.mem (execSaddi x0 x1 x2 s) := by
  simp [execSaddi]

@[simp] theorem execSaddi_wf (x0 : BitVec 4) (x1 : BitVec 4) (x2 : BitVec 16) (s : State) (hm : Memory.wf s.mem = true) : OutWf (execSaddi x0 x1 x2 s) := (execSaddi_mem x0 x1 x2 s).wf hm

@[simp] theorem execSadd_mem (x0 : BitVec 4) (x1 : BitVec 4) (x2 : BitVec 4) (s : State) : OutMem s.mem (execSadd x0 x1 x2 s) := by
  simp [execSadd]

@[simp] theorem execSadd_wf (x0 : BitVec 4) (x1 : BitVec 4) (x2 : BitVec 4) (s : State) (hm : Memory.wf s.mem = true) : OutWf (execSadd x0 x1 x2 s) := (execSadd_mem x0 x1 x2 s).wf hm

@[simp] theorem execSmovi_mem (x0 : BitVec 4) (x1 : BitVec 16) (s : State) : OutMem s.mem (execSmovi x0 x1 s) := by simp [execSmovi]

@[simp] theorem execSmovi_wf (x0 : BitVec 4) (x1 : BitVec 16) (s : State) (hm : Memory.wf s.mem = true) : OutWf (execSmovi x0 x1 s) := (execSmovi_mem x0 x1 s).wf hm

@[simp] theorem execSmoviHi_mem (x0 : BitVec 4) (x1 : BitVec 16) (s : State) : OutMem s.mem (execSmoviHi x0 x1 s) := by simp [execSmoviHi]

@[simp] theorem execSmoviHi_wf (x0 : BitVec 4) (x1 : BitVec 16) (s : State) (hm : Memory.wf s.mem = true) : OutWf (execSmoviHi x0 x1 s) := (execSmoviHi_mem x0 x1 s).wf hm

@[simp] theorem execVhalt_mem (s : State) : OutMem s.mem (execVhalt s) := by rfl

@[simp] theorem execVhalt_wf (s : State) (hm : Memory.wf s.mem = true) : OutWf (execVhalt s) := (execVhalt_mem s).wf hm

@[simp] theorem execVrot_mem (x0 : BitVec 4) (s : State) : OutMem s.mem (execVrot x0 s) := by unfold execVrot; dsimp only; split <;> simp

@[simp] theorem execVrot_wf (x0 : BitVec 4) (s : State) (hm : Memory.wf s.mem = true) : OutWf (execVrot x0 s) := (execVrot_mem x0 s).wf hm

@[simp] theorem execVstg_mem (x0 : BitVec 4) (s : State) : OutMem s.mem (execVstg x0 s) := by simp [execVstg]

@[simp] theorem execVstg_wf (x0 : BitVec 4) (s : State) (hm : Memory.wf s.mem = true) : OutWf (execVstg x0 s) := (execVstg_mem x0 s).wf hm

@[simp] theorem execVloop_mem (x0 : BitVec 4) (x1 : BitVec 16) (s : State) : OutMem s.mem (execVloop x0 x1 s) := by
  unfold execVloop
  dsimp only
  split <;> simp

@[simp] theorem execVloop_wf (x0 : BitVec 4) (x1 : BitVec 16) (s : State) (hm : Memory.wf s.mem = true) : OutWf (execVloop x0 x1 s) := (execVloop_mem x0 x1 s).wf hm

@[simp] theorem execVjmp_mem (x0 : BitVec 16) (s : State) : OutMem s.mem (execVjmp x0 s) := by rfl

@[simp] theorem execVjmp_wf (x0 : BitVec 16) (s : State) (hm : Memory.wf s.mem = true) : OutWf (execVjmp x0 s) := (execVjmp_mem x0 s).wf hm

@[simp] theorem State.putPair_mem (s : State) (x1 : BitVec 4) (x2 : DWord) : (State.putPair s x1 x2).mem = s.mem := by simp [State.putPair]

@[simp] theorem State.postInc_mem (s : State) (x1 : BitVec 1) (x2 : BitVec 4) (x3 : BitVec 4) : (State.postInc s x1 x2 x3).mem = s.mem := by
  unfold State.postInc
  split <;> simp

@[simp] theorem State.stampCkpt_mem (s : State) (x1 : Ckpt) : (State.stampCkpt s x1).mem = s.mem := by rfl

@[simp] theorem execAnop_mem (s : State) : OutMem s.mem (execAnop s) := by rfl

@[simp] theorem execAnop_wf (s : State) (hm : Memory.wf s.mem = true) : OutWf (execAnop s) := (execAnop_mem s).wf hm

@[simp] theorem State.countStq_mem (s : State) : (State.countStq s).mem = s.mem := by rfl

@[simp] theorem State.popStore_mem (s : State) (x1 : Nat) : (State.popStore s x1).mem = s.mem := by rfl

@[simp] theorem State.specMiss_mem (s : State) (x1 : Nat) : (State.specMiss s x1).mem = s.mem := by rfl

@[simp] theorem execPref_mem (x0 : BitVec 4) (x1 : BitVec 4) (x2 : BitVec 1) (x3 : BitVec 1) (x4 : BitVec 12) (s : State) : OutMem s.mem (execPref x0 x1 x2 x3 x4 s) := by
  unfold execPref
  dsimp only
  (repeat' split) <;> simp

@[simp] theorem execPref_wf (x0 : BitVec 4) (x1 : BitVec 4) (x2 : BitVec 1) (x3 : BitVec 1) (x4 : BitVec 12) (s : State) (hm : Memory.wf s.mem = true) : OutWf (execPref x0 x1 x2 x3 x4 s) := (execPref_mem x0 x1 x2 x3 x4 s).wf hm

@[simp] theorem addrResult_mem (x0 : BitVec 4) (x1 : DWord) (s : State) : OutMem s.mem (addrResult x0 x1 s) := by simp [addrResult]

@[simp] theorem addrResult_wf (x0 : BitVec 4) (x1 : DWord) (s : State) (hm : Memory.wf s.mem = true) : OutWf (addrResult x0 x1 s) := (addrResult_mem x0 x1 s).wf hm

@[simp] theorem execAaddi_mem (x0 : BitVec 4) (x1 : BitVec 4) (x2 : BitVec 18) (s : State) : OutMem s.mem (execAaddi x0 x1 x2 s) := by
  simp [execAaddi]

@[simp] theorem execAaddi_wf (x0 : BitVec 4) (x1 : BitVec 4) (x2 : BitVec 18) (s : State) (hm : Memory.wf s.mem = true) : OutWf (execAaddi x0 x1 x2 s) := (execAaddi_mem x0 x1 x2 s).wf hm

@[simp] theorem execAadd_mem (x0 : BitVec 4) (x1 : BitVec 4) (x2 : BitVec 4) (s : State) : OutMem s.mem (execAadd x0 x1 x2 s) := by
  simp [execAadd]

@[simp] theorem execAadd_wf (x0 : BitVec 4) (x1 : BitVec 4) (x2 : BitVec 4) (s : State) (hm : Memory.wf s.mem = true) : OutWf (execAadd x0 x1 x2 s) := (execAadd_mem x0 x1 x2 s).wf hm

@[simp] theorem execAsub_mem (x0 : BitVec 4) (x1 : BitVec 4) (x2 : BitVec 4) (s : State) : OutMem s.mem (execAsub x0 x1 x2 s) := by
  simp [execAsub]

@[simp] theorem execAsub_wf (x0 : BitVec 4) (x1 : BitVec 4) (x2 : BitVec 4) (s : State) (hm : Memory.wf s.mem = true) : OutWf (execAsub x0 x1 x2 s) := (execAsub_mem x0 x1 x2 s).wf hm

@[simp] theorem execAslli_mem (x0 : BitVec 4) (x1 : BitVec 4) (x2 : BitVec 6) (s : State) : OutMem s.mem (execAslli x0 x1 x2 s) := by
  simp [execAslli]

@[simp] theorem execAslli_wf (x0 : BitVec 4) (x1 : BitVec 4) (x2 : BitVec 6) (s : State) (hm : Memory.wf s.mem = true) : OutWf (execAslli x0 x1 x2 s) := (execAslli_mem x0 x1 x2 s).wf hm

@[simp] theorem execAseth_mem (x0 : BitVec 4) (x1 : BitVec 18) (s : State) : OutMem s.mem (execAseth x0 x1 s) := by simp [execAseth]

@[simp] theorem execAseth_wf (x0 : BitVec 4) (x1 : BitVec 18) (s : State) (hm : Memory.wf s.mem = true) : OutWf (execAseth x0 x1 s) := (execAseth_mem x0 x1 s).wf hm

@[simp] theorem execAandi_mem (x0 : BitVec 4) (x1 : BitVec 4) (x2 : BitVec 18) (s : State) : OutMem s.mem (execAandi x0 x1 x2 s) := by
  simp [execAandi]

@[simp] theorem execAandi_wf (x0 : BitVec 4) (x1 : BitVec 4) (x2 : BitVec 18) (s : State) (hm : Memory.wf s.mem = true) : OutWf (execAandi x0 x1 x2 s) := (execAandi_mem x0 x1 x2 s).wf hm

@[simp] theorem execAjmp_mem (x0 : BitVec 16) (s : State) : OutMem s.mem (execAjmp x0 s) := by rfl

@[simp] theorem execAjmp_wf (x0 : BitVec 16) (s : State) (hm : Memory.wf s.mem = true) : OutWf (execAjmp x0 s) := (execAjmp_mem x0 s).wf hm

@[simp] theorem execAbnz_mem (x0 : BitVec 4) (x1 : BitVec 16) (s : State) : OutMem s.mem (execAbnz x0 x1 s) := by
  unfold execAbnz
  split <;> rfl

@[simp] theorem execAbnz_wf (x0 : BitVec 4) (x1 : BitVec 16) (s : State) (hm : Memory.wf s.mem = true) : OutWf (execAbnz x0 x1 s) := (execAbnz_mem x0 x1 s).wf hm

@[simp] theorem execAloop_mem (x0 : BitVec 4) (x1 : BitVec 16) (s : State) : OutMem s.mem (execAloop x0 x1 s) := by
  unfold execAloop
  dsimp only
  split <;> simp

@[simp] theorem execAloop_wf (x0 : BitVec 4) (x1 : BitVec 16) (s : State) (hm : Memory.wf s.mem = true) : OutWf (execAloop x0 x1 s) := (execAloop_mem x0 x1 s).wf hm

@[simp] theorem State.putG_mem (s : State) (x1 : BitVec 3) (x2 : Nat) (x3 : Word) : (State.putG s x1 x2 x3).mem = s.mem := by
  simp [State.putG]

@[simp] theorem State.updMule_mem (s : State) (x1 : Mule → Mule) : (State.updMule s x1).mem = s.mem := by rfl

@[simp] theorem execMuleNop_mem (s : State) : OutMem s.mem (execMuleNop s) := by rfl

@[simp] theorem execMuleNop_wf (s : State) (hm : Memory.wf s.mem = true) : OutWf (execMuleNop s) := (execMuleNop_mem s).wf hm

@[simp] theorem execMuleHalt_mem (s : State) : OutMem s.mem (execMuleHalt s) := by unfold execMuleHalt; split <;> simp

@[simp] theorem execMuleHalt_wf (s : State) (hm : Memory.wf s.mem = true) : OutWf (execMuleHalt s) := (execMuleHalt_mem s).wf hm

@[simp] theorem execMulePost_mem (x0 : BitVec 3) (x1 : BitVec 10) (s : State) : OutMem s.mem (execMulePost x0 x1 s) := by
  unfold execMulePost
  (repeat' split) <;> simp

@[simp] theorem execMulePost_wf (x0 : BitVec 3) (x1 : BitVec 10) (s : State) (hm : Memory.wf s.mem = true) : OutWf (execMulePost x0 x1 s) := (execMulePost_mem x0 x1 s).wf hm

@[simp] theorem execMuleJmp_mem (x0 : BitVec 10) (s : State) : OutMem s.mem (execMuleJmp x0 s) := by rfl

@[simp] theorem execMuleJmp_wf (x0 : BitVec 10) (s : State) (hm : Memory.wf s.mem = true) : OutWf (execMuleJmp x0 s) := (execMuleJmp_mem x0 s).wf hm

@[simp] theorem execMuleLoop_mem (x0 : BitVec 3) (x1 : BitVec 10) (s : State) : OutMem s.mem (execMuleLoop x0 x1 s) := by
  unfold execMuleLoop
  dsimp only
  split <;> simp

@[simp] theorem execMuleLoop_wf (x0 : BitVec 3) (x1 : BitVec 10) (s : State) (hm : Memory.wf s.mem = true) : OutWf (execMuleLoop x0 x1 s) := (execMuleLoop_mem x0 x1 s).wf hm

@[simp] theorem execMuleBnz_mem (x0 : BitVec 3) (x1 : BitVec 10) (s : State) : OutMem s.mem (execMuleBnz x0 x1 s) := by
  unfold execMuleBnz
  split <;> rfl

@[simp] theorem execMuleBnz_wf (x0 : BitVec 3) (x1 : BitVec 10) (s : State) (hm : Memory.wf s.mem = true) : OutWf (execMuleBnz x0 x1 s) := (execMuleBnz_mem x0 x1 s).wf hm

@[simp] theorem execMuleSeti_mem (x0 : BitVec 3) (x1 : BitVec 18) (s : State) : OutMem s.mem (execMuleSeti x0 x1 s) := by
  simp [execMuleSeti]

@[simp] theorem execMuleSeti_wf (x0 : BitVec 3) (x1 : BitVec 18) (s : State) (hm : Memory.wf s.mem = true) : OutWf (execMuleSeti x0 x1 s) := (execMuleSeti_mem x0 x1 s).wf hm

@[simp] theorem execMuleAddi_mem (x0 : BitVec 3) (x1 : BitVec 3) (x2 : BitVec 18) (s : State) : OutMem s.mem (execMuleAddi x0 x1 x2 s) := by
  simp [execMuleAddi]

@[simp] theorem execMuleAddi_wf (x0 : BitVec 3) (x1 : BitVec 3) (x2 : BitVec 18) (s : State) (hm : Memory.wf s.mem = true) : OutWf (execMuleAddi x0 x1 x2 s) := (execMuleAddi_mem x0 x1 x2 s).wf hm

@[simp] theorem execMuleAdd_mem (x0 : BitVec 3) (x1 : BitVec 3) (x2 : BitVec 3) (s : State) : OutMem s.mem (execMuleAdd x0 x1 x2 s) := by
  simp [execMuleAdd]

@[simp] theorem execMuleAdd_wf (x0 : BitVec 3) (x1 : BitVec 3) (x2 : BitVec 3) (s : State) (hm : Memory.wf s.mem = true) : OutWf (execMuleAdd x0 x1 x2 s) := (execMuleAdd_mem x0 x1 x2 s).wf hm

@[simp] theorem execMuleAgdim_mem (x0 : BitVec 3) (x1 : BitVec 3) (x2 : BitVec 1) (x3 : BitVec 2) (s : State) : OutMem s.mem (execMuleAgdim x0 x1 x2 x3 s) := by
  unfold execMuleAgdim
  (repeat' split) <;> simp

@[simp] theorem execMuleAgdim_wf (x0 : BitVec 3) (x1 : BitVec 3) (x2 : BitVec 1) (x3 : BitVec 2) (s : State) (hm : Memory.wf s.mem = true) : OutWf (execMuleAgdim x0 x1 x2 x3 s) := (execMuleAgdim_mem x0 x1 x2 x3 s).wf hm

@[simp] theorem execMuleAgind_mem (x0 : BitVec 3) (x1 : BitVec 1) (x2 : BitVec 2) (s : State) : OutMem s.mem (execMuleAgind x0 x1 x2 s) := by
  unfold execMuleAgind
  (repeat' split) <;> simp

@[simp] theorem execMuleAgind_wf (x0 : BitVec 3) (x1 : BitVec 1) (x2 : BitVec 2) (s : State) (hm : Memory.wf s.mem = true) : OutWf (execMuleAgind x0 x1 x2 s) := (execMuleAgind_mem x0 x1 x2 s).wf hm

@[simp] theorem State.agAdvance_mem (s : State) (x1 : BitVec 3) (x2 : Nat) (x3 : Nat) : (State.agAdvance s x1 x2 x3).mem = s.mem := by
  simp [State.agAdvance]

@[simp] theorem State.amendLast_mem (s : State) (x1 : Engine) (x2 : Cmd → Cmd) : (State.amendLast s x1 x2).mem = s.mem := by rfl

@[simp] theorem execMuleMx_mem (x0 : BitVec 3) (x1 : BitVec 3) (x2 : BitVec 2) (s : State) : OutMem s.mem (execMuleMx x0 x1 x2 s) := by
  unfold execMuleMx
  dsimp only
  (repeat' split) <;> simp

@[simp] theorem execMuleMx_wf (x0 : BitVec 3) (x1 : BitVec 3) (x2 : BitVec 2) (s : State) (hm : Memory.wf s.mem = true) : OutWf (execMuleMx x0 x1 x2 s) := (execMuleMx_mem x0 x1 x2 s).wf hm

@[simp] theorem execMuleMxw_mem (s : State) : OutMem s.mem (execMuleMxw s) := by unfold execMuleMxw; dsimp only; split <;> simp

@[simp] theorem execMuleMxw_wf (s : State) (hm : Memory.wf s.mem = true) : OutWf (execMuleMxw s) := (execMuleMxw_mem s).wf hm

@[simp] theorem execMuleEx_mem (x0 : BitVec 3) (x1 : BitVec 3) (x2 : BitVec 2) (x3 : BitVec 2) (s : State) : OutMem s.mem (execMuleEx x0 x1 x2 x3 s) := by
  unfold execMuleEx
  dsimp only
  (repeat' split) <;> simp

@[simp] theorem execMuleEx_wf (x0 : BitVec 3) (x1 : BitVec 3) (x2 : BitVec 2) (x3 : BitVec 2) (s : State) (hm : Memory.wf s.mem = true) : OutWf (execMuleEx x0 x1 x2 x3 s) := (execMuleEx_mem x0 x1 x2 x3 s).wf hm

@[simp] theorem execMuleTagw_mem (x0 : BitVec 3) (x1 : BitVec 3) (s : State) : OutMem s.mem (execMuleTagw x0 x1 s) := by
  unfold execMuleTagw
  dsimp only
  split <;> simp

@[simp] theorem execMuleTagw_wf (x0 : BitVec 3) (x1 : BitVec 3) (s : State) (hm : Memory.wf s.mem = true) : OutWf (execMuleTagw x0 x1 s) := (execMuleTagw_mem x0 x1 s).wf hm

@[simp] theorem execMuleFwait_wf (x0 : BitVec 3) (x1 : BitVec 5) (x2 : BitVec 5) (s : State) (hm : Memory.wf s.mem = true) : OutWf (execMuleFwait x0 x1 x2 s) := by
  unfold execMuleFwait
  split <;> simp [hm]

@[simp] theorem execMuleFset_mem (x0 : BitVec 3) (x1 : BitVec 5) (x2 : BitVec 5) (s : State) : OutMem s.mem (execMuleFset x0 x1 x2 s) := by
  simp [execMuleFset]

@[simp] theorem execMuleFset_wf (x0 : BitVec 3) (x1 : BitVec 5) (x2 : BitVec 5) (s : State) (hm : Memory.wf s.mem = true) : OutWf (execMuleFset x0 x1 x2 s) := (execMuleFset_mem x0 x1 x2 s).wf hm

@[simp] theorem execMuleFence_mem (x0 : BitVec 5) (x1 : BitVec 2) (s : State) : OutMem s.mem (execMuleFence x0 x1 s) := by
  simp [execMuleFence]

@[simp] theorem execMuleFence_wf (x0 : BitVec 5) (x1 : BitVec 2) (s : State) (hm : Memory.wf s.mem = true) : OutWf (execMuleFence x0 x1 s) := (execMuleFence_mem x0 x1 s).wf hm

@[simp] theorem execMuleMfsr_mem (x0 : BitVec 3) (x1 : BitVec 12) (s : State) : OutMem s.mem (execMuleMfsr x0 x1 s) := by
  simp [execMuleMfsr]

@[simp] theorem execMuleMfsr_wf (x0 : BitVec 3) (x1 : BitVec 12) (s : State) (hm : Memory.wf s.mem = true) : OutWf (execMuleMfsr x0 x1 s) := (execMuleMfsr_mem x0 x1 s).wf hm

@[simp] theorem State.updRun_mem (s : State) (x1 : Nat) (x2 : Engine) (x3 : Nat) (x4 : Running → Running) : (State.updRun s x1 x2 x3 x4).mem = s.mem := by
  rfl

@[simp] theorem State.writeRow_wf (s : State) (x1 : Nat) (x2 : Nat) (x3 : Nat) (hm : Memory.wf s.mem = true) : Memory.wf (State.writeRow s x1 x2 x3).mem = true := by
  simp [State.writeRow, hm]

@[simp] theorem State.gather_mem (s : State) (x1 : Nat) (x2 : BitVec 5) : (State.gather s x1 x2).mem = s.mem := by rfl

@[simp] theorem State.setNest_mem (s : State) (x1 : Nat) (x2 : Nat) (x3 : NestSt) : (State.setNest s x1 x2 x3).mem = s.mem := by rfl

@[simp] theorem State.endNest_mem (s : State) (x1 : Nat) (x2 : Nat) (x3 : Nat) : (State.endNest s x1 x2 x3).mem = s.mem := by rfl

@[simp] theorem execHadamardPrepass_mem (x0 : Nat) (s : State) : OutMem s.mem (execHadamardPrepass x0 s) := by
  unfold execHadamardPrepass
  split
  · simp
  · split
    · simp
    · dsimp only
      (repeat' split) <;> simp

@[simp] theorem execHadamardPrepass_wf (x0 : Nat) (s : State) (hm : Memory.wf s.mem = true) : OutWf (execHadamardPrepass x0 s) := (execHadamardPrepass_mem x0 s).wf hm

@[simp] theorem State.nextDrain_mem (s : State) (x1 : Nat) : (State.nextDrain s x1).mem = s.mem := by
  unfold State.nextDrain
  dsimp only
  (repeat' split) <;> rfl

@[simp] theorem State.primaryRow_mem (s : State) (x1 : Nat) (x2 : Cmd) (x3 : NestSt) (x4 : Nat) (x5 : VReg) : (State.primaryRow s x1 x2 x3 x4 x5).mem = s.mem := by
  rfl

@[simp] theorem State.rowDone_mem (s : State) (x1 : Access) : (State.rowDone s x1).mem = s.mem := by
  unfold State.rowDone
  (repeat' split) <;> simp

@[simp] theorem execDrainRowWrite_wf (x0 : Nat) (s : State) (hm : Memory.wf s.mem = true) : OutWf (execDrainRowWrite x0 s) := by
  unfold execDrainRowWrite
  dsimp only
  (repeat' split) <;> simp [hm]

@[simp] theorem State.debit_mem (s : State) (x1 : Nat) (x2 : Nat) : OptMem s.mem (State.debit s x1 x2) := by
  unfold State.debit
  dsimp only
  (repeat' split) <;> simp

@[simp] theorem State.debit_wf (s : State) (x1 : Nat) (x2 : Nat) (hm : Memory.wf s.mem = true) : OptWf (State.debit s x1 x2) := (State.debit_mem s x1 x2).wf hm

@[simp] theorem State.credit_mem (s : State) (x1 : Nat) (x2 : Nat) : (State.credit s x1 x2).mem = s.mem := by rfl

@[simp] theorem State.leaseUp_mem (s : State) (x1 : Nat) : (State.leaseUp s x1).mem = s.mem := by rfl

@[simp] theorem State.leaseDown_mem (s : State) (x1 : Nat) : (State.leaseDown s x1).mem = s.mem := by rfl

@[simp] theorem State.rentDeliver_wf (s : State) (x1 : SlotOp) (hm : Memory.wf s.mem = true) : Memory.wf (State.rentDeliver s x1).mem = true := by
  unfold State.rentDeliver
  split <;> simp [hm]

@[simp] theorem State.rentReturn_wf (s : State) (x1 : Access) (x2 : DWord) (x3 : optParam DWord 0) (hm : Memory.wf s.mem = true) : Memory.wf (State.rentReturn s x1 x2 x3).mem = true := by
  unfold State.rentReturn
  dsimp only
  split <;> simp [hm]

@[simp] theorem State.writeSlot_wf (s : State) (x1 : Access) (x2 : Nat) (x3 : BitVec 256) (x4 : DWord) (hm : Memory.wf s.mem = true) : Memory.wf (State.writeSlot s x1 x2 x3 x4).mem = true := by
  unfold State.writeSlot
  dsimp only
  (repeat' split) <;> simp [hm]

@[simp] theorem State.applySlotWrite_wf (s : State) (x1 : Nat) (x2 : Nat) (hm : Memory.wf s.mem = true) : Memory.wf (State.applySlotWrite s x1 x2).mem = true := by
  unfold State.applySlotWrite
  dsimp only
  (repeat' split) <;> simp [hm]

@[simp] theorem State.sendDebit_wf (s : State) (x1 : Access) (x2 : Nat) (x3 : Nat) (x4 : Nat) (hm : Memory.wf s.mem = true) : Memory.wf (State.sendDebit s x1 x2 x3 x4).mem = true := by
  unfold State.sendDebit
  split <;> simp [hm]

@[simp] theorem State.rentStatus_wf (s : State) (x1 : Access) (x2 : Nat) (hm : Memory.wf s.mem = true) : Memory.wf (State.rentStatus s x1 x2).mem = true := by
  simp [State.rentStatus, hm]

@[simp] theorem State.rentStart_wf (s : State) (x1 : Access) (x2 : Nat) (x3 : Nat) (x4 : Nat) (x5 : Nat) (x6 : Bool) (x7 : Nat) (x8 : Nat) (hm : Memory.wf s.mem = true) : Memory.wf (State.rentStart s x1 x2 x3 x4 x5 x6 x7 x8).mem = true := by
  unfold State.rentStart
  dsimp only
  (repeat' split) <;> simp [hm]

@[simp] theorem State.subletAt_wf (s : State) (x1 : Access) (x2 : Nat) (x3 : Nat) (x4 : Nat) (x5 : Nat) (x6 : Bool) (x7 : Bool) (hm : Memory.wf s.mem = true) : Memory.wf (State.subletAt s x1 x2 x3 x4 x5 x6 x7).mem = true := by
  unfold State.subletAt
  dsimp only
  (repeat' split) <;> simp [hm]

@[simp] theorem State.adoptAt_wf (s : State) (x1 : Access) (x2 : Nat) (x3 : Nat) (hm : Memory.wf s.mem = true) : Memory.wf (State.adoptAt s x1 x2 x3).mem = true := by
  unfold State.adoptAt
  dsimp only
  (repeat' split) <;> simp [hm]

@[simp] theorem State.vacateAt_wf (s : State) (x1 : Access) (x2 : Nat) (x3 : Bool) (hm : Memory.wf s.mem = true) : Memory.wf (State.vacateAt s x1 x2 x3).mem = true := by
  unfold State.vacateAt
  split <;> simp [hm]

@[simp] theorem State.lstatAt_wf (s : State) (x1 : Access) (hm : Memory.wf s.mem = true) : Memory.wf (State.lstatAt s x1).mem = true := by
  simp [State.lstatAt, hm]

@[simp] theorem State.performRent_wf (s : State) (x1 : Access) (x2 : RentOp) (hm : Memory.wf s.mem = true) : Memory.wf (State.performRent s x1 x2).mem = true := by
  unfold State.performRent
  dsimp only
  (repeat' split) <;> simp [hm]

@[simp] theorem State.saveAnswered_mem (s : State) (x1 : Nat) (x2 : Nat) (x3 : Nat) (x4 : Bool) : (State.saveAnswered s x1 x2 x3 x4).mem = s.mem := by
  rfl

@[simp] theorem sendRent_mem (x0 : RentOp) (x1 : BitVec 5) (x2 : Nat) (x3 : Nat) (x4 : Nat) (x5 : Nat) (s : State) : OutMem s.mem (sendRent x0 x1 x2 x3 x4 x5 s) := by
  unfold sendRent
  split <;> simp

@[simp] theorem sendRent_wf (x0 : RentOp) (x1 : BitVec 5) (x2 : Nat) (x3 : Nat) (x4 : Nat) (x5 : Nat) (s : State) (hm : Memory.wf s.mem = true) : OutWf (sendRent x0 x1 x2 x3 x4 x5 s) := (sendRent_mem x0 x1 x2 x3 x4 x5 s).wf hm

@[simp] theorem rentDone_mem (x0 : BitVec 5) (x1 : Nat) (s : State) : OutMem s.mem (rentDone x0 x1 s) := by simp [rentDone]

@[simp] theorem rentDone_wf (x0 : BitVec 5) (x1 : Nat) (s : State) (hm : Memory.wf s.mem = true) : OutWf (rentDone x0 x1 s) := (rentDone_mem x0 x1 s).wf hm

@[simp] theorem onSlot_mem (x0 : RentOp) (x1 : BitVec 5) (x2 : Nat) (s : State) : OutMem s.mem (onSlot x0 x1 x2 s) := by
  unfold onSlot
  dsimp only
  split <;> simp

@[simp] theorem onSlot_wf (x0 : RentOp) (x1 : BitVec 5) (x2 : Nat) (s : State) (hm : Memory.wf s.mem = true) : OutWf (onSlot x0 x1 x2 s) := (onSlot_mem x0 x1 x2 s).wf hm

@[simp] theorem execRent_mem (x0 : BitVec 5) (x1 : BitVec 5) (x2 : BitVec 5) (s : State) : OutMem s.mem (execRent x0 x1 x2 s) := by
  unfold execRent
  dsimp only
  (repeat' split) <;> simp

@[simp] theorem execRent_wf (x0 : BitVec 5) (x1 : BitVec 5) (x2 : BitVec 5) (s : State) (hm : Memory.wf s.mem = true) : OutWf (execRent x0 x1 x2 s) := (execRent_mem x0 x1 x2 s).wf hm

@[simp] theorem execRenew_mem (x0 : BitVec 5) (x1 : BitVec 5) (x2 : BitVec 5) (s : State) : OutMem s.mem (execRenew x0 x1 x2 s) := by
  unfold execRenew
  dsimp only
  (repeat' split) <;> simp

@[simp] theorem execRenew_wf (x0 : BitVec 5) (x1 : BitVec 5) (x2 : BitVec 5) (s : State) (hm : Memory.wf s.mem = true) : OutWf (execRenew x0 x1 x2 s) := (execRenew_mem x0 x1 x2 s).wf hm

@[simp] theorem execPrepay_mem (x0 : BitVec 5) (x1 : BitVec 5) (x2 : BitVec 5) (s : State) : OutMem s.mem (execPrepay x0 x1 x2 s) := by
  unfold execPrepay
  dsimp only
  (repeat' split) <;> simp

@[simp] theorem execPrepay_wf (x0 : BitVec 5) (x1 : BitVec 5) (x2 : BitVec 5) (s : State) (hm : Memory.wf s.mem = true) : OutWf (execPrepay x0 x1 x2 s) := (execPrepay_mem x0 x1 x2 s).wf hm

@[simp] theorem execSublet_mem (x0 : BitVec 5) (x1 : BitVec 5) (x2 : BitVec 5) (s : State) : OutMem s.mem (execSublet x0 x1 x2 s) := by
  unfold execSublet
  dsimp only
  (repeat' split) <;> simp

@[simp] theorem execSublet_wf (x0 : BitVec 5) (x1 : BitVec 5) (x2 : BitVec 5) (s : State) (hm : Memory.wf s.mem = true) : OutWf (execSublet x0 x1 x2 s) := (execSublet_mem x0 x1 x2 s).wf hm

@[simp] theorem execAdopt_mem (x0 : BitVec 5) (x1 : BitVec 5) (x2 : BitVec 5) (s : State) : OutMem s.mem (execAdopt x0 x1 x2 s) := by
  unfold execAdopt
  dsimp only
  split <;> simp

@[simp] theorem execAdopt_wf (x0 : BitVec 5) (x1 : BitVec 5) (x2 : BitVec 5) (s : State) (hm : Memory.wf s.mem = true) : OutWf (execAdopt x0 x1 x2 s) := (execAdopt_mem x0 x1 x2 s).wf hm

@[simp] theorem execVacate_mem (x0 : BitVec 5) (x1 : BitVec 5) (s : State) : OutMem s.mem (execVacate x0 x1 s) := by
  unfold execVacate
  dsimp only
  (repeat' split) <;> simp

@[simp] theorem execVacate_wf (x0 : BitVec 5) (x1 : BitVec 5) (s : State) (hm : Memory.wf s.mem = true) : OutWf (execVacate x0 x1 s) := (execVacate_mem x0 x1 s).wf hm

@[simp] theorem execLstat_mem (x0 : BitVec 5) (x1 : BitVec 5) (s : State) : OutMem s.mem (execLstat x0 x1 s) := by
  unfold execLstat
  dsimp only
  (repeat' split) <;> simp

@[simp] theorem execLstat_wf (x0 : BitVec 5) (x1 : BitVec 5) (s : State) (hm : Memory.wf s.mem = true) : OutWf (execLstat x0 x1 s) := (execLstat_mem x0 x1 s).wf hm

@[simp] theorem State.sendMarks_mem (s : State) (x1 : Nat) (x2 : Nat) (x3 : BitVec 8) : (State.sendMarks s x1 x2 x3).mem = s.mem := by rfl

@[simp] theorem State.wakeSync_mem (s : State) (x1 : Lease) : (State.wakeSync s x1).mem = s.mem := by simp [State.wakeSync, foldl_mem]

@[simp] theorem State.dropEntries_mem (s : State) (x1 : Nat) (x2 : Nat) (x3 : BitVec 8) : (State.dropEntries s x1 x2 x3).mem = s.mem := by
  simp [State.dropEntries, foldl_mem]

@[simp] theorem State.dropMessages_mem (s : State) (x1 : Lease) : (State.dropMessages s x1).mem = s.mem := by rfl

@[simp] theorem State.freeLease_mem (s : State) (x1 : Nat) (x2 : Nat) : (State.freeLease s x1 x2).mem = s.mem := by rfl

@[simp] theorem State.tryScrub_mem (s : State) (x1 : Nat) (x2 : Nat) : (State.tryScrub s x1 x2).mem = s.mem := by
  unfold State.tryScrub
  dsimp only
  (repeat' split) <;> rfl

@[simp] theorem State.settle_mem (s : State) (x1 : Nat) (x2 : Nat) : (State.settle s x1 x2).mem = s.mem := by
  unfold State.settle
  dsimp only
  (repeat' split) <;> simp

@[simp] theorem State.endLease_mem (s : State) (x1 : Nat) (x2 : Nat) : (State.endLease s x1 x2).mem = s.mem := by
  unfold State.endLease
  dsimp only
  (repeat' split) <;> simp

@[simp] theorem State.renewEscrow_mem (s : State) (x1 : Nat) (x2 : Nat) : (State.renewEscrow s x1 x2).mem = s.mem := by
  unfold State.renewEscrow
  dsimp only
  (repeat' split) <;> rfl

@[simp] theorem State.endHead_mem (s : State) (x1 : Nat) (x2 : Nat) : (State.endHead s x1 x2).mem = s.mem := by
  simp [State.endHead, foldl_mem]

@[simp] theorem State.boundaryLeases_mem (s : State) (x1 : Nat) (x2 : Nat) : (State.boundaryLeases s x1 x2).mem = s.mem := by
  simp [State.boundaryLeases, foldl_mem]

@[simp] theorem State.meterDebits_mem (s : State) (x1 : Nat) : (State.meterDebits s x1).mem = s.mem := by rfl

@[simp] theorem State.saveDebits_mem (s : State) : (State.saveDebits s).mem = s.mem := by rfl

@[simp] theorem execDeferredDebitRefusal_mem (x0 : Nat) (x1 : Nat) (s : State) : OutMem s.mem (execDeferredDebitRefusal x0 x1 s) := by
  unfold execDeferredDebitRefusal
  dsimp only
  (repeat' split) <;> rfl

@[simp] theorem execDeferredDebitRefusal_wf (x0 : Nat) (x1 : Nat) (s : State) (hm : Memory.wf s.mem = true) : OutWf (execDeferredDebitRefusal x0 x1 s) := (execDeferredDebitRefusal_mem x0 x1 s).wf hm

@[simp] theorem execMeterRefusal_mem (x0 : Nat) (s : State) : OutMem s.mem (execMeterRefusal x0 s) := by
  unfold execMeterRefusal
  dsimp only
  (repeat' split) <;> simp

@[simp] theorem execMeterRefusal_wf (x0 : Nat) (s : State) (hm : Memory.wf s.mem = true) : OutWf (execMeterRefusal x0 s) := (execMeterRefusal_mem x0 s).wf hm

@[simp] theorem State.applyMark_mem (s : State) (x1 : Mark) : (State.applyMark s x1).mem = s.mem := by
  unfold State.applyMark
  dsimp only
  split <;> rfl

@[simp] theorem State.applyDueMarks_mem (s : State) : (State.applyDueMarks s).mem = s.mem := by
  unfold State.applyDueMarks; ((repeat' split) <;> first | rfl | (simp; done) | (simp_all; done) | exact foldl_mem _ _ (fun s b => by simp) _ | (rw [foldl_mem _ _ (fun s b => by simp)]; simp; done) | (rename_i h; simp [snd_mem h]; done) | (rename_i h; simp [fst_mem h]; done) | (rename_i h; simp [OptMem.of_eq (m := s.mem) h (by simp)]; done) | (rename_i h; simp [OutMem.of_eq (m := s.mem) h (by simp)]; done))

@[simp] theorem execExpiryMark_mem (x0 : Nat) (x1 : Nat) (s : State) : OutMem s.mem (execExpiryMark x0 x1 s) := by
  unfold execExpiryMark
  split <;> simp

@[simp] theorem execExpiryMark_wf (x0 : Nat) (x1 : Nat) (s : State) (hm : Memory.wf s.mem = true) : OutWf (execExpiryMark x0 x1 s) := (execExpiryMark_mem x0 x1 s).wf hm

@[simp] theorem State.releaseHold_mem (s : State) (x1 : Nat) (x2 : Nat) : (State.releaseHold s x1 x2).mem = s.mem := by
  unfold State.releaseHold
  dsimp only
  split <;> simp

@[simp] theorem State.setCopy_mem (s : State) (x1 : Nat) (x2 : Nat) (x3 : CopySt) : (State.setCopy s x1 x2 x3).mem = s.mem := by rfl

@[simp] theorem State.setHolds_mem (s : State) (x1 : Nat) (x2 : Engine) (x3 : Nat) (x4 : List (Nat × Nat)) : (State.setHolds s x1 x2 x3 x4).mem = s.mem := by
  rfl

@[simp] theorem State.expireCopy_mem (s : State) (x1 : Nat) (x2 : Cmd) : (State.expireCopy s x1 x2).mem = s.mem := by rfl

@[simp] theorem State.beatDone_mem (s : State) (x1 : Nat) (x2 : Nat) : (State.beatDone s x1 x2).mem = s.mem := by rfl

@[simp] theorem beatWrite_wf (x0 : Nat) (x1 : Running) (x2 : CopySt) (s : State) (hm : Memory.wf s.mem = true) : OutWf (beatWrite x0 x1 x2 s) := by
  unfold beatWrite
  dsimp only
  (repeat' split) <;> simp [hm]

@[simp] theorem State.takeTurn_mem (s : State) (x1 : Nat) (x2 : Running) : (State.takeTurn s x1 x2).mem = s.mem := by rfl

@[simp] theorem State.takeBeat_mem (s : State) (x1 : Nat) (x2 : Running) : (State.takeBeat s x1 x2).mem = s.mem := by rfl

@[simp] theorem State.setSaved_mem (s : State) (x1 : Nat) (x2 : Nat) (x3 : List SavedTask → List SavedTask) : (State.setSaved s x1 x2 x3).mem = s.mem := by
  rfl

@[simp] theorem State.updMember_mem (s : State) (x1 : Nat) (x2 : Nat) (x3 : Nat) (x4 : Nat) (x5 : Nat) (x6 : TaskCtx → TaskCtx) : (State.updMember s x1 x2 x3 x4 x5 x6).mem = s.mem := by
  unfold State.updMember
  split <;> rfl

@[simp] theorem State.updColl_mem (s : State) (x1 : Nat) (x2 : Running → Running) : (State.updColl s x1 x2).mem = s.mem := by rfl

@[simp] theorem State.endColl_mem (s : State) (x1 : Nat) (x2 : BitVec 8) (x3 : Nat) : (State.endColl s x1 x2 x3).mem = s.mem := by rfl

@[simp] theorem State.loseFlag_mem (s : State) (x1 : Nat) : (State.loseFlag s x1).mem = s.mem := by rfl

@[simp] theorem State.flagAtCore_mem (s : State) (x1 : Nat) (x2 : Nat) (x3 : Nat) (x4 : Word) (x5 : Bool) : (State.flagAtCore s x1 x2 x3 x4 x5).mem = s.mem := by
  unfold State.flagAtCore
  dsimp only
  (repeat' split) <;> simp

@[simp] theorem State.flagAtRank_mem (s : State) (x1 : Nat) (x2 : Nat) (x3 : Nat) (x4 : Nat) (x5 : Nat) (x6 : Nat) (x7 : Word) (x8 : Bool) : (State.flagAtRank s x1 x2 x3 x4 x5 x6 x7 x8).mem = s.mem := by
  unfold State.flagAtRank
  split <;> simp

@[simp] theorem State.updSlot_mem (s : State) (x1 : Nat) (x2 : Nat) (x3 : WinSlot → WinSlot) : (State.updSlot s x1 x2 x3).mem = s.mem := by
  rfl

@[simp] theorem State.freeSlot_mem (s : State) (x1 : Nat) (x2 : Nat) : (State.freeSlot s x1 x2).mem = s.mem := by rfl

@[simp] theorem State.updReg_mem (s : State) (x1 : Nat) (x2 : Registrant → Registrant) : (State.updReg s x1 x2).mem = s.mem := by rfl

@[simp] theorem State.flit_mem (s : State) (x1 : Flit) : (State.flit s x1).mem = s.mem := by rfl

@[simp] theorem State.leaveSlot_mem (s : State) (x1 : Nat) (x2 : Nat) (x3 : Nat) : (State.leaveSlot s x1 x2 x3).mem = s.mem := by
  unfold State.leaveSlot
  dsimp only
  (repeat' split) <;> rfl

@[simp] theorem State.takeSlot_mem (s : State) (x1 : Nat) (x2 : BitVec 256) (x3 : Nat) : (State.takeSlot s x1 x2 x3).mem = s.mem := by
  unfold State.takeSlot
  dsimp only
  (repeat' split) <;> rfl

@[simp] theorem State.abandonColls_mem (s : State) (x1 : List Nat) : (State.abandonColls s x1).mem = s.mem := by
  unfold State.abandonColls; ((repeat' split) <;> first | rfl | (simp; done) | (simp_all; done) | exact foldl_mem _ _ (fun s b => by simp) _ | (rw [foldl_mem _ _ (fun s b => by simp)]; simp; done) | (rename_i h; simp [snd_mem h]; done) | (rename_i h; simp [fst_mem h]; done) | (rename_i h; simp [OptMem.of_eq (m := s.mem) h (by simp)]; done) | (rename_i h; simp [OutMem.of_eq (m := s.mem) h (by simp)]; done))

@[simp] theorem State.fixStatus_mem (s : State) (x1 : Registrant) (x2 : Nat) : (State.fixStatus s x1 x2).mem = s.mem := by
  unfold State.fixStatus
  split <;> simp

@[simp] theorem State.noteFar_mem (s : State) (x1 : Nat) (x2 : BitVec 256) (x3 : Nat) : (State.noteFar s x1 x2 x3).mem = s.mem := by
  unfold State.noteFar
  dsimp only
  split <;> rfl

@[simp] theorem State.refuseJoin_mem (s : State) (x1 : WinSlot) (x2 : Nat) (x3 : Nat) (x4 : Nat) : (State.refuseJoin s x1 x2 x3 x4).mem = s.mem := by
  unfold State.refuseJoin
  (repeat' split) <;> simp

@[simp] theorem State.dropFlits_mem (s : State) (x1 : Nat) (x2 : Nat) : (State.dropFlits s x1 x2).mem = s.mem := by rfl

@[simp] theorem State.placeEnd_mem (s : State) (x1 : Registrant) (x2 : DWord) : (State.placeEnd s x1 x2).mem = s.mem := by
  unfold State.placeEnd
  split <;> simp

@[simp] theorem State.startAbortAt_mem (s : State) (x1 : WinSlot) : (State.startAbortAt s x1).mem = s.mem := by
  unfold State.startAbortAt; ((repeat' split) <;> first | rfl | (simp; done) | (simp_all; done) | exact foldl_mem _ _ (fun s b => by simp) _ | (rw [foldl_mem _ _ (fun s b => by simp)]; simp; done) | (rename_i h; simp [snd_mem h]; done) | (rename_i h; simp [fst_mem h]; done) | (rename_i h; simp [OptMem.of_eq (m := s.mem) h (by simp)]; done) | (rename_i h; simp [OutMem.of_eq (m := s.mem) h (by simp)]; done))

@[simp] theorem State.resultFlit_mem (s : State) (x1 : Registrant) (x2 : Nat) (x3 : List Byte) : (State.resultFlit s x1 x2 x3).mem = s.mem := by
  unfold State.resultFlit
  dsimp only
  (repeat' split) <;> rfl

@[simp] theorem State.deliver_mem (s : State) (x1 : WinSlot) (x2 : Nat) (x3 : List Byte) : (State.deliver s x1 x2 x3).mem = s.mem := by
  unfold State.deliver; ((repeat' split) <;> first | rfl | (simp; done) | (simp_all; done) | exact foldl_mem _ _ (fun s b => by simp) _ | (rw [foldl_mem _ _ (fun s b => by simp)]; simp; done) | (rename_i h; simp [snd_mem h]; done) | (rename_i h; simp [fst_mem h]; done) | (rename_i h; simp [OptMem.of_eq (m := s.mem) h (by simp)]; done) | (rename_i h; simp [OutMem.of_eq (m := s.mem) h (by simp)]; done))

@[simp] theorem State.leaveUp_mem (s : State) (x1 : WinSlot) : (State.leaveUp s x1).mem = s.mem := by
  unfold State.leaveUp
  dsimp only
  rw [foldl_mem _ _ (fun s b => by simp)]
  simp

@[simp] theorem State.forwardLine_mem (s : State) (x1 : WinSlot) (x2 : Nat) (x3 : List Nat) (x4 : Nat) : (State.forwardLine s x1 x2 x3 x4).mem = s.mem := by
  unfold State.forwardLine
  dsimp only
  (repeat' split) <;> simp

@[simp] theorem State.takeLine_mem (s : State) (x1 : WinSlot) (x2 : Nat) (x3 : Nat) (x4 : DWord) (x5 : Nat) (x6 : VReg) : (State.takeLine s x1 x2 x3 x4 x5 x6).mem = s.mem := by
  unfold State.takeLine
  dsimp only
  (repeat' split) <;> simp

@[simp] theorem State.flushResult_mem (s : State) (x1 : Registrant) (x2 : List Byte) (x3 : Bool) : (State.flushResult s x1 x2 x3).mem = s.mem := by
  unfold State.flushResult; ((repeat' split) <;> first | rfl | (simp; done) | (simp_all; done) | exact foldl_mem _ _ (fun s b => by simp) _ | (rw [foldl_mem _ _ (fun s b => by simp)]; simp; done) | (rename_i h; simp [snd_mem h]; done) | (rename_i h; simp [fst_mem h]; done) | (rename_i h; simp [OptMem.of_eq (m := s.mem) h (by simp)]; done) | (rename_i h; simp [OutMem.of_eq (m := s.mem) h (by simp)]; done))

@[simp] theorem State.writeBlock_mem (s : State) (x1 : Registrant) (x2 : List DWord) : (State.writeBlock s x1 x2).mem = s.mem := by
  unfold State.writeBlock
  dsimp only
  split <;> simp

@[simp] theorem State.emitWords_mem (s : State) (x1 : WinSlot) (x2 : List DWord) (x3 : Bool) : (State.emitWords s x1 x2 x3).mem = s.mem := by
  unfold State.emitWords; dsimp only; ((repeat' split) <;> first | rfl | (simp; done) | (simp_all; done) | exact foldl_mem _ _ (fun s b => by simp) _ | (rw [foldl_mem _ _ (fun s b => by simp)]; simp; done) | (rename_i h; simp [snd_mem h]; done) | (rename_i h; simp [fst_mem h]; done) | (rename_i h; simp [OptMem.of_eq (m := s.mem) h (by simp)]; done) | (rename_i h; simp [OutMem.of_eq (m := s.mem) h (by simp)]; done))

@[simp] theorem State.hubCheck_mem (s : State) (x1 x2 : Nat) : (State.hubCheck s x1 x2).mem = s.mem := by
  unfold State.hubCheck
  simp

@[simp] theorem State.hubWrite_wf (s : State) (x1 : List Nat) (x2 : List Byte) (hm : Memory.wf s.mem = true) : OptWf (State.hubWrite s x1 x2) := by
  unfold State.hubWrite
  dsimp only
  (repeat' split) <;> simp [hm]

@[simp] theorem State.resultFault_mem (s : State) (x1 : Registrant) (x2 : Nat) : (State.resultFault s x1 x2).mem = s.mem := by
  unfold State.resultFault
  split <;> rfl

@[simp] theorem State.bufferWrite_mem (s : State) (x1 : XBuf) (x2 : Nat) (x3 : Nat) (x4 : List Byte) : (State.bufferWrite s x1 x2 x3 x4).mem = s.mem := by
  rfl

@[simp] theorem State.writeHeader_mem (s : State) (x1 : XBuf) (x2 : Nat) : (State.writeHeader s x1 x2).mem = s.mem := by rfl

@[simp] theorem State.setBuf_mem (s : State) (x1 : Nat) (x2 : XBuf) : (State.setBuf s x1 x2).mem = s.mem := by rfl

@[simp] theorem State.rowArrival_mem (s : State) (x1 : Nat) (x2 : Nat) (x3 : List Byte) : (State.rowArrival s x1 x2 x3).mem = s.mem := by
  unfold State.rowArrival
  dsimp only
  (repeat' split) <;> rfl

@[simp] theorem State.takeEarly_mem (s : State) (x1 : Nat) (x2 : Nat) (x3 : Nat) : (State.takeEarly s x1 x2 x3).2.mem = s.mem := by rfl

@[simp] theorem State.setColl_mem (s : State) (x1 : Nat) (x2 : Nat) (x3 : CollSt) : (State.setColl s x1 x2 x3).mem = s.mem := by rfl

@[simp] theorem State.collFault_mem (s : State) (x1 : Nat) (x2 : Cmd) (x3 : FaultInfo) : (State.collFault s x1 x2 x3).mem = s.mem := by
  simp [State.collFault]

@[simp] theorem collFinish_mem (x0 : Nat) (x1 : Cmd) (x2 : CollSt) (s : State) : OutMem s.mem (collFinish x0 x1 x2 s) := by
  unfold collFinish
  split <;> rfl

@[simp] theorem collFinish_wf (x0 : Nat) (x1 : Cmd) (x2 : CollSt) (s : State) (hm : Memory.wf s.mem = true) : OutWf (collFinish x0 x1 x2 s) := (collFinish_mem x0 x1 x2 s).wf hm

/-- A page that is translated leaves the form of memory: the walker writes the entry's word alone (R25). -/
def PageResult.Wf (r : PageResult) : Prop := match r with | .at _ t => Memory.wf t.mem = true | _ => True

theorem PageResult.wf_ite {a b : PageResult} (c : Prop) [Decidable c] (ha : a.Wf) (hb : b.Wf) : (if c then a else b).Wf := by split <;> assumption

theorem State.pageAt_form (s : State) (c : Nat) (g : BitVec 128) (n : Nat) (v : BitVec 8) (t p lo k va : Nat) (st sp at' : Bool)
    (hm : Memory.wf s.mem = true) : (s.pageAt c g n v t p lo k va st sp at').Wf := by
  unfold State.pageAt
  dsimp only
  split
  · exact trivial
  · refine PageResult.wf_ite _ ?_ (PageResult.wf_ite _ ?_ (PageResult.wf_ite _ ?_ ?_)) <;> try exact trivial
    split
    · exact trivial
    · refine PageResult.wf_ite _ ?_ ?_
      · exact hm
      unfold PageResult.Wf
      dsimp only
      (repeat' split) <;> simp [hm]

theorem State.pageAt_wf (s : State) (c : Nat) (g : BitVec 128) (n : Nat) (v : BitVec 8) (t p lo k va : Nat) (st sp at' : Bool)
    (f : Nat) (u : State) (h : s.pageAt c g n v t p lo k va st sp at' = .at f u) (hm : Memory.wf s.mem = true) : Memory.wf u.mem = true := by
  have hf := s.pageAt_form c g n v t p lo k va st sp at' hm
  rw [h] at hf
  exact hf

theorem State.windowPage_wf (s : State) (c : Nat) (va : DWord) (n f : Nat) (u : State) (h : s.windowPage c va n = .at f u)
    (hm : Memory.wf s.mem = true) : Memory.wf u.mem = true := by
  unfold State.windowPage at h
  dsimp only at h
  split at h
  · simp only [PageResult.at.injEq] at h; rw [← h.2]; exact hm
  · exact State.pageAt_wf _ _ _ _ _ _ _ _ _ _ _ _ _ _ _ h hm

@[simp] theorem rstoreSend_wf (x0 : Nat) (x1 : Cmd) (x2 : CollSt) (s : State) (hm : Memory.wf s.mem = true) : OutWf (rstoreSend x0 x1 x2 s) := by
  unfold rstoreSend
  dsimp only
  (repeat' split) <;> first | (simp [hm]; done) | (rename_i h _; simp [State.windowPage_wf _ _ _ _ _ _ h hm])

@[simp] theorem spredSend_wf (x0 : Nat) (x1 : Cmd) (x2 : CollSt) (s : State) (hm : Memory.wf s.mem = true) : OutWf (spredSend x0 x1 x2 s) := by
  unfold spredSend
  dsimp only
  split
  · simp [hm]
  · split
    · simp [hm]
    · simp [hm]
    · rename_i h
      have h := State.windowPage_wf _ _ _ _ _ _ h hm
      (repeat' split) <;> simp [foldl_mem, h]

@[simp] theorem State.countArrival_mem (s : State) (x1 : Nat) (x2 : Nat) (x3 : Nat) (x4 : Nat) : (State.countArrival s x1 x2 x3 x4).mem = s.mem := by
  unfold State.countArrival; dsimp only; ((repeat' split) <;> first | rfl | (simp; done) | (simp_all; done) | exact foldl_mem _ _ (fun s b => by simp) _ | (rw [foldl_mem _ _ (fun s b => by simp)]; simp; done) | (rename_i h; simp [snd_mem h]; done) | (rename_i h; simp [fst_mem h]; done) | (rename_i h; simp [OptMem.of_eq (m := s.mem) h (by simp)]; done) | (rename_i h; simp [OutMem.of_eq (m := s.mem) h (by simp)]; done))

@[simp] theorem State.peerStore_mem (s : State) (x1 : Nat) (x2 : Nat) (x3 : List Byte) : (State.peerStore s x1 x2 x3).mem = s.mem := by
  unfold State.peerStore
  split <;> simp

@[simp] theorem State.linkFault_mem (s : State) (x1 : Nat) (x2 : TaskCtx) (x3 : Nat) (x4 : Running) : (State.linkFault s x1 x2 x3 x4).mem = s.mem := by
  rfl

@[simp] theorem State.takeHead_mem (s : State) (x1 : Nat) (x2 : Engine) (x3 : Cmd) : (State.takeHead s x1 x2 x3).mem = s.mem := by rfl

@[simp] theorem State.begin_mem (s : State) (x1 : Nat) (x2 : Engine) (x3 : Cmd) (x4 : RunSt) : (State.begin s x1 x2 x3 x4).mem = s.mem := by
  rfl

@[simp] theorem State.beginCopy_mem (s : State) (x1 : Nat) (x2 : Cmd) : (State.beginCopy s x1 x2).mem = s.mem := by
  unfold State.beginCopy
  dsimp only
  (repeat' split) <;> simp

@[simp] theorem State.beginMrun_mem (s : State) (x1 : Nat) (x2 : Cmd) : (State.beginMrun s x1 x2).mem = s.mem := by
  unfold State.beginMrun
  dsimp only
  split <;> rfl

@[simp] theorem State.completeTag_mem (s : State) (x1 : Nat) (x2 : Engine) (x3 : Running) (x4 : BitVec 8) (x5 : BitVec 42) : (State.completeTag s x1 x2 x3 x4 x5).mem = s.mem := by
  unfold State.completeTag
  simp [foldl_mem]
  (repeat' split) <;> simp

@[simp] theorem State.completeSignal_mem (s : State) (x1 : Nat) (x2 : Engine) (x3 : Cmd) : (State.completeSignal s x1 x2 x3).mem = s.mem := by
  rfl

@[simp] theorem State.dropRun_mem (s : State) (x1 : Nat) (x2 : Engine) (x3 : Nat) : (State.dropRun s x1 x2 x3).mem = s.mem := by rfl

@[simp] theorem State.completeElement_mem (s : State) (x1 : Nat) (x2 : Engine) (x3 : Cmd) (x4 : BitVec 8) (x5 : BitVec 42) : (State.completeElement s x1 x2 x3 x4 x5).mem = s.mem := by
  unfold State.completeElement
  (repeat' split) <;> rfl

@[simp] theorem execCommandCompletion_mem (x0 : Nat) (x1 : Engine) (x2 : Nat) (s : State) : OutMem s.mem (execCommandCompletion x0 x1 x2 s) := by
  unfold execCommandCompletion
  dsimp only
  (repeat' split) <;> simp

@[simp] theorem execCommandCompletion_wf (x0 : Nat) (x1 : Engine) (x2 : Nat) (s : State) (hm : Memory.wf s.mem = true) : OutWf (execCommandCompletion x0 x1 x2 s) := (execCommandCompletion_mem x0 x1 x2 s).wf hm

@[simp] theorem State.enqueueLaunch_mem (s : State) (x1 : Nat) (x2 : LaunchRec) (x3 : List SymElem × List Bool) (x4 : Nat × Nat × Nat) : (State.enqueueLaunch s x1 x2 x3 x4).mem = s.mem := by
  rfl

@[simp] theorem State.startPacket_mem (s : State) (x1 : Nat) (x2 : Nat) (x3 : Nat) : (State.startPacket s x1 x2 x3).mem = s.mem := by rfl

@[simp] theorem State.interrupt_mem (s : State) (x1 : Nat) (x2 : Nat) (x3 : BitVec 2048) : (State.interrupt s x1 x2 x3).mem = s.mem := by
  unfold State.interrupt
  split <;> rfl

@[simp] theorem State.setChain_mem (s : State) (x1 : Nat) (x2 : Nat) (x3 : Chain) : (State.setChain s x1 x2 x3).mem = s.mem := by rfl

@[simp] theorem State.placeMember_mem (s : State) (x1 : Launch) (x2 : Nat) (x3 : Nat) (x4 : Nat) (x5 : Nat) (x6 : Nat) (x7 : Nat) (x8 : Member) (x9 : Nat) : (State.placeMember s x1 x2 x3 x4 x5 x6 x7 x8 x9).mem = s.mem := by
  unfold State.placeMember
  split <;> rfl

@[simp] theorem State.grantReservation_mem (s : State) (x1 : Nat) : (State.grantReservation s x1).mem = s.mem := by
  unfold State.grantReservation
  dsimp only
  (repeat' split) <;> rfl

@[simp] theorem State.missed_mem (s : State) (x1 : Nat) (x2 : Launch) : (State.missed s x1 x2).mem = s.mem := by
  unfold State.missed
  dsimp only
  (repeat' split) <;> simp

@[simp] theorem State.countServed_mem (s : State) (x1 : Nat) (x2 : Nat) : (State.countServed s x1 x2).mem = s.mem := by rfl

@[simp] theorem State.newFile_mem (s : State) (x1 x2 : Nat) : (State.newFile s x1 x2).mem = s.mem := by rfl

@[simp] theorem execTaskStart_wf (x0 : Nat) (s : State) (hm : Memory.wf s.mem = true) : OutWf (execTaskStart x0 s) := by
  unfold execTaskStart
  dsimp only
  (repeat' split) <;> simp [hm]

@[simp] theorem State.imageDone_mem (s : State) (x1 : Nat) : (State.imageDone s x1).mem = s.mem := by unfold State.imageDone; split <;> rfl

@[simp] theorem State.sendMessage_mem (s : State) (x1 : Access) : OptMem s.mem (State.sendMessage s x1) := by
  unfold State.sendMessage
  dsimp only
  split <;> simp

@[simp] theorem State.sendMessage_wf (s : State) (x1 : Access) (hm : Memory.wf s.mem = true) : OptWf (State.sendMessage s x1) := (State.sendMessage_mem s x1).wf hm

@[simp] theorem State.takeDeferred_mem (s : State) (x1 : Deferred) : (State.takeDeferred s x1).mem = s.mem := by
  unfold State.takeDeferred
  (repeat' split) <;> simp

@[simp] theorem execDeferredFault_mem (x0 : Nat) (x1 : Agent) (s : State) : OutMem s.mem (execDeferredFault x0 x1 s) := by
  unfold execDeferredFault
  (repeat' split) <;> simp

@[simp] theorem execDeferredFault_wf (x0 : Nat) (x1 : Agent) (s : State) (hm : Memory.wf s.mem = true) : OutWf (execDeferredFault x0 x1 s) := (execDeferredFault_mem x0 x1 s).wf hm

@[simp] theorem State.releaseAll_mem (s : State) (x1 : Nat) : (State.releaseAll s x1).mem = s.mem := by simp [State.releaseAll, foldl_mem]

@[simp] theorem State.resendKept_mem (s : State) (x1 : Nat) (x2 : Nat) : (State.resendKept s x1 x2).mem = s.mem := by
  unfold State.resendKept
  dsimp only
  split <;> rfl

@[simp] theorem State.resumeSeq_mem (s : State) (x1 : Nat) (x2 : Agent) : (State.resumeSeq s x1 x2).mem = s.mem := by
  unfold State.resumeSeq
  dsimp only
  (repeat' split) <;> simp

@[simp] theorem State.pageAbsent_mem (s : State) (x1 : Nat) (x2 : FaultRec) : (State.pageAbsent s x1 x2).mem = s.mem := by
  simp [State.pageAbsent]

@[simp] theorem State.preempted_mem (s : State) (x1 : Nat) (x2 : FaultRec) : (State.preempted s x1 x2).mem = s.mem := by rfl

@[simp] theorem State.noService_mem (s : State) (x1 : Nat) (x2 : FaultRec) : (State.noService s x1 x2).mem = s.mem := by
  unfold State.noService
  simp [State.land_mem]

@[simp] theorem State.handle_mem (s : State) (x1 : Nat) (x2 : FaultRec) : (State.handle s x1 x2).mem = s.mem := by
  unfold State.handle
  split <;> simp

@[simp] theorem execTrapEntry_mem (x0 : Nat) (s : State) : OutMem s.mem (execTrapEntry x0 s) := by
  unfold execTrapEntry
  dsimp only
  (repeat' split) <;> simp

@[simp] theorem execTrapEntry_wf (x0 : Nat) (s : State) (hm : Memory.wf s.mem = true) : OutWf (execTrapEntry x0 s) := (execTrapEntry_mem x0 s).wf hm

@[simp] theorem execWatchdog_mem (x0 : Nat) (s : State) : OutMem s.mem (execWatchdog x0 s) := by
  unfold execWatchdog
  dsimp only
  (repeat' split) <;> rfl

@[simp] theorem execWatchdog_wf (x0 : Nat) (s : State) (hm : Memory.wf s.mem = true) : OutWf (execWatchdog x0 s) := (execWatchdog_mem x0 s).wf hm

@[simp] theorem State.setAccess_mem (s : State) (x1 : Access) : (State.setAccess s x1).mem = s.mem := by rfl

@[simp] theorem State.fail_mem (s : State) (x1 : Access) (x2 : Nat) (x3 : Nat) (x4 : DWord) : (State.fail s x1 x2 x3 x4).mem = s.mem := by
  unfold State.fail
  (repeat' split) <;> simp

@[simp] theorem State.afterPerform_mem (s : State) (x1 : Access) : (State.afterPerform s x1).mem = s.mem := by
  unfold State.afterPerform
  (repeat' split) <;> simp

@[simp] theorem State.messageGone_mem (s : State) (x1 : Access) : (State.messageGone s x1).mem = s.mem := by
  unfold State.messageGone
  split <;> simp

@[simp] theorem State.stampAccess_mem (s : State) (x1 : Access) : (State.stampAccess s x1).mem = s.mem := by simp [State.stampAccess]

@[simp] theorem State.stampFlag_mem (s : State) (x1 : Nat) (x2 : RemoteFlag) : (State.stampFlag s x1 x2).mem = s.mem := by
  simp [State.stampFlag]

@[simp] theorem State.applyFlag_mem (s : State) (x1 : RemoteFlag) : (State.applyFlag s x1).mem = s.mem := by
  unfold State.applyFlag
  (repeat' split) <;> simp

@[simp] theorem State.peerFlag_mem (s : State) (x1 : Word) (x2 : Nat) (x3 : Nat) (x4 : Word) : (State.peerFlag s x1 x2 x3 x4).mem = s.mem := by
  unfold State.peerFlag
  split <;> simp

@[simp] theorem State.updWriter_mem (s : State) (x1 : MqNotice) (x2 : MqWriter → MqWriter) : (State.updWriter s x1 x2).mem = s.mem := by
  simp [State.updWriter]

@[simp] theorem execMqAcknowledgement_mem (x0 : Nat) (s : State) : OutMem s.mem (execMqAcknowledgement x0 s) := by
  unfold execMqAcknowledgement
  (repeat' split) <;> simp

@[simp] theorem execMqAcknowledgement_wf (x0 : Nat) (s : State) (hm : Memory.wf s.mem = true) : OutWf (execMqAcknowledgement x0 s) := (execMqAcknowledgement_mem x0 s).wf hm

@[simp] theorem State.resendFor_mem (s : State) (x1 : MqNotice) : (State.resendFor s x1).mem = s.mem := by
  unfold State.resendFor
  dsimp only
  (repeat' split) <;> simp

@[simp] theorem execResumeNotice_mem (x0 : Nat) (s : State) : OutMem s.mem (execResumeNotice x0 s) := by
  unfold execResumeNotice
  (repeat' split) <;> simp

@[simp] theorem execResumeNotice_wf (x0 : Nat) (s : State) (hm : Memory.wf s.mem = true) : OutWf (execResumeNotice x0 s) := (execResumeNotice_mem x0 s).wf hm

@[simp] theorem execMqPollResend_mem (x0 : Nat) (x1 : Nat) (s : State) : OutMem s.mem (execMqPollResend x0 x1 s) := by
  unfold execMqPollResend
  (repeat' split) <;> simp

@[simp] theorem execMqPollResend_wf (x0 : Nat) (x1 : Nat) (s : State) (hm : Memory.wf s.mem = true) : OutWf (execMqPollResend x0 x1 s) := (execMqPollResend_mem x0 x1 s).wf hm

@[simp] theorem State.grantClaim_wf (s : State) (x1 : Nat) (x2 : Nat) (hm : Memory.wf s.mem = true) : OptWf (State.grantClaim s x1 x2) := by
  unfold State.grantClaim
  dsimp only
  (repeat' split) <;> simp [hm]

@[simp] theorem execWaitaPoll_mem (x0 : Nat) (s : State) : OutMem s.mem (execWaitaPoll x0 s) := by
  unfold execWaitaPoll
  dsimp only
  (repeat' split) <;> simp

@[simp] theorem execWaitaPoll_wf (x0 : Nat) (s : State) (hm : Memory.wf s.mem = true) : OutWf (execWaitaPoll x0 s) := (execWaitaPoll_mem x0 s).wf hm

@[simp] theorem execTokenSignalApply_mem (x0 : Nat) (x1 : Nat) (s : State) : OutMem s.mem (execTokenSignalApply x0 x1 s) := by
  unfold execTokenSignalApply
  dsimp only
  (repeat' split) <;> rfl

@[simp] theorem execTokenSignalApply_wf (x0 : Nat) (x1 : Nat) (s : State) (hm : Memory.wf s.mem = true) : OutWf (execTokenSignalApply x0 x1 s) := (execTokenSignalApply_mem x0 x1 s).wf hm

@[simp] theorem execSequencerUnblock_mem (x0 : Nat) (x1 : Agent) (s : State) : OutMem s.mem (execSequencerUnblock x0 x1 s) := by
  unfold execSequencerUnblock
  dsimp only
  (repeat' split) <;> rfl

@[simp] theorem execSequencerUnblock_wf (x0 : Nat) (x1 : Agent) (s : State) (hm : Memory.wf s.mem = true) : OutWf (execSequencerUnblock x0 x1 s) := (execSequencerUnblock_mem x0 x1 s).wf hm

@[simp] theorem State.reloadFault_mem (s : State) (x1 : Nat) (x2 : QEntry) (x3 : FaultInfo) : (State.reloadFault s x1 x2 x3).mem = s.mem := by
  rfl

@[simp] theorem State.reload_mem (s : State) (x1 : Nat) (x2 : Nat) (x3 : QEntry) : (State.reload s x1 x2 x3).mem = s.mem := by
  unfold State.reload
  dsimp only
  (repeat' split) <;> first | rfl | simp [State.land_mem]

@[simp] theorem execLossOfDecoupling_mem (x0 : Nat) (x1 : Nat) (s : State) : OutMem s.mem (execLossOfDecoupling x0 x1 s) := by
  unfold execLossOfDecoupling
  dsimp only
  (repeat' split) <;> simp

@[simp] theorem execLossOfDecoupling_wf (x0 : Nat) (x1 : Nat) (s : State) (hm : Memory.wf s.mem = true) : OutWf (execLossOfDecoupling x0 x1 s) := (execLossOfDecoupling_mem x0 x1 s).wf hm

@[simp] theorem State.cross_wf (s : State) (x1 : Nat) (x2 : Agent) (hm : Memory.wf s.mem = true) : Memory.wf (State.cross s x1 x2).1.mem = true := by
  unfold State.cross
  dsimp only
  (repeat' split) <;> simp [hm]

@[simp] theorem execCodeRegionCrossing_wf (x0 : Nat) (x1 : Agent) (s : State) (hm : Memory.wf s.mem = true) : OutWf (execCodeRegionCrossing x0 x1 s) := by
  unfold execCodeRegionCrossing
  (repeat' split) <;> simp [hm]

@[simp] theorem State.configError_mem (s : State) : (State.configError s).mem = s.mem := by rfl

@[simp] theorem State.writeRing_mem (s : State) (x1 : Nat) (x2 : Nat) (x3 : DWord) : (State.writeRing s x1 x2 x3).mem = s.mem := by
  unfold State.writeRing
  dsimp only
  (repeat' split) <;> rfl

@[simp] theorem State.writePsreq_mem (s : State) (x1 : Nat) (x2 : BitVec 3) : (State.writePsreq s x1 x2).mem = s.mem := by rfl

@[simp] theorem State.writePsmap_mem (s : State) (x1 : Word) : (State.writePsmap s x1).mem = s.mem := by rfl

@[simp] theorem State.hostGets_mem (s : State) (x1 : List Byte) : (State.hostGets s x1).mem = s.mem := by rfl

@[simp] theorem State.hostAbsent_mem (s : State) (x1 x2 x3 : Nat) : (State.hostAbsent s x1 x2 x3).mem = s.mem := by
  unfold State.hostAbsent
  simp

@[simp] theorem execHostRead_mem (x0 : Nat) (x1 : Nat) (x2 : Nat) (s : State) : OutMem s.mem (execHostRead x0 x1 x2 s) := by
  unfold execHostRead
  dsimp only
  (repeat' split) <;> simp

@[simp] theorem execHostRead_wf (x0 : Nat) (x1 : Nat) (x2 : Nat) (s : State) (hm : Memory.wf s.mem = true) : OutWf (execHostRead x0 x1 x2 s) := (execHostRead_mem x0 x1 x2 s).wf hm

@[simp] theorem execPowerOn_wf (x0 : PowerUp) (s : State) (hm : Memory.wf s.mem = true) : OutWf (execPowerOn x0 s) := by simp [execPowerOn, hm]

@[simp] theorem State.boundary_mem (s : State) (x1 : Nat) (x2 : Reading) : (State.boundary s x1 x2).mem = s.mem := by rfl

@[simp] theorem State.meet_mem (s : State) (t : Turn) : (State.meet s t).mem = s.mem := by
  unfold State.meet
  (repeat' split) <;> simp

@[simp] theorem execControlIntervalBoundary_mem (x0 : Nat) (x1 : Reading) (s : State) : OutMem s.mem (execControlIntervalBoundary x0 x1 s) := by
  unfold execControlIntervalBoundary
  split <;> simp

@[simp] theorem execControlIntervalBoundary_wf (x0 : Nat) (x1 : Reading) (s : State) (hm : Memory.wf s.mem = true) : OutWf (execControlIntervalBoundary x0 x1 s) := (execControlIntervalBoundary_mem x0 x1 s).wf hm

@[simp] theorem State.endRelock_mem (s : State) : (State.endRelock s).mem = s.mem := by rfl

@[simp] theorem execClockRelock_mem (s : State) : OutMem s.mem (execClockRelock s) := by unfold execClockRelock; split <;> rfl

@[simp] theorem execClockRelock_wf (s : State) (hm : Memory.wf s.mem = true) : OutWf (execClockRelock s) := (execClockRelock_mem s).wf hm

@[simp] theorem State.beginAc_mem (s : State) : (State.beginAc s).mem = s.mem := by rfl

@[simp] theorem State.useSlot_mem (s : State) (x1 : Nat) (x2 : Nat) : (State.useSlot s x1 x2).mem = s.mem := by rfl

@[simp] theorem State.setStep_mem (s : State) (x1 : DWord) : (State.setStep s x1).mem = s.mem := by unfold State.setStep; split <;> rfl

@[simp] theorem State.hasIssued_mem (s : State) : (State.hasIssued s).mem = s.mem := by unfold State.hasIssued; dsimp only; split <;> rfl

@[simp] theorem State.countSlot_mem (s : State) : (State.countSlot s).mem = s.mem := by rfl

@[simp] theorem raiseAt_wf (x0 : Nat × Field) (s : State) (hm : Memory.wf s.mem = true) : OutWf (raiseAt x0 s) := by simp [raiseAt, hm]

@[simp] theorem State.endRun_mem (s : State) : (State.endRun s).mem = s.mem := by unfold State.endRun; split <;> rfl

@[simp] theorem State.stopAt_wf (s : State) (x1 : Nat) (x2 : Agent) (hm : Memory.wf s.mem = true) : Memory.wf (State.stopAt s x1 x2).mem = true := by
  simp [State.stopAt, hm]

@[simp] theorem State.point_mem (s : State) (x1 : Nat) (x2 : Agent) : (State.point s x1 x2).mem = s.mem := by rfl

@[simp] theorem State.insertOrder_mem (s : State) (x1 : Nat) (x2 : Word) (x3 : Nat) : OutMem s.mem (State.insertOrder s x1 x2 x3) := by
  unfold State.insertOrder
  dsimp only
  (repeat' split) <;> rfl

@[simp] theorem State.insertOrder_wf (s : State) (x1 : Nat) (x2 : Word) (x3 : Nat) (hm : Memory.wf s.mem = true) : OutWf (State.insertOrder s x1 x2 x3) := (State.insertOrder_mem s x1 x2 x3).wf hm

@[simp] theorem State.nextTurn_mem (s : State) : (State.nextTurn s).2.mem = s.mem := by unfold State.nextTurn; split <;> rfl

theorem accWords_wf (m : List Host.Cell) (op : Nat) : ∀ (n : Nat) (ps : List Nat) (bs : List Byte), ps.length ≤ n → Memory.wf m = true → Memory.wf (accWords m op ps bs) = true := by
  intro n
  induction n generalizing m with
  | zero => intro ps bs h hm; cases ps with
    | nil => simpa [accWords] using hm
    | cons p r => simp at h
  | succ n ih =>
    intro ps bs h hm
    unfold accWords
    split
    · refine ih _ _ _ ?_ ?_
      · simp at h; omega
      · simp [hm]
    · exact hm

theorem State.accumulateAt_wf (s : State) (ps : List Nat) (bs : List Byte) (f : Nat) (k : DWord) (c : Nat) (va : DWord) (t : State) (h : s.accumulateAt ps bs f k c va = .done t)
    (hm : Memory.wf s.mem = true) : Memory.wf t.mem = true := by
  unfold State.accumulateAt at h
  dsimp only at h
  repeat' split at h
  all_goals first
    | (simp at h; done)
    | (simp only [Accumulated.done.injEq] at h; subst h; first | exact hm | simp [accWords_wf _ _ _ _ _ (Nat.le_refl _) hm, hm])

@[simp] theorem State.performAccumulate_wf (s : State) (a : Access) (f : Nat) (k : DWord) (hm : Memory.wf s.mem = true) :
    Memory.wf (s.performAccumulate a f k).mem = true := by
  unfold State.performAccumulate
  dsimp only
  split
  · simp [hm]
  · simp [hm]
  · rename_i h
    exact State.accumulateAt_wf _ _ _ _ _ _ _ _ h (by simpa using hm)

@[simp] theorem State.flushNear_wf (s : State) (hm : Memory.wf s.mem = true) : Memory.wf s.flushNear.mem = true :=
  foldl_wf _ _ (fun s a h => by simp [h]) s hm

/-- The memory of the state that a request leaves keeps its form. -/
def Issued.Wf (o : Issued) : Prop := match o with | .near _ _ t => Memory.wf t.mem = true | .sent t => Memory.wf t.mem = true | _ => True

theorem Issued.wf_ite {a b : Issued} (c : Prop) [Decidable c] (ha : a.Wf) (hb : b.Wf) : (if c then a else b).Wf := by split <;> assumption

theorem State.requestAs_wf (s : State) (q : Request) (d : Desc) (o : Bool) (hm : Memory.wf s.mem = true) : (s.requestAs q d o).Wf := by
  unfold State.requestAs
  dsimp only
  repeat' (first | exact trivial | exact hm | apply Issued.wf_ite | exact (by simp [hm] : Memory.wf _ = true))

theorem State.request_wf (s : State) (q : Request) (hm : Memory.wf s.mem = true) : (s.request q).Wf := by
  unfold State.request
  split
  · trivial
  · dsimp only
    split
    · exact State.requestAs_wf _ _ _ _ (by simp [hm])
    · exact State.requestAs_wf _ _ _ _ hm

/-- What is made of a request keeps the form of memory. -/
theorem outWf_request {s : State} {q : Request} {a : FaultInfo → Out} {b : Cause → Out} {c : Desc → List Nat → State → Out} {d : State → Out}
    (hm : Memory.wf s.mem = true) (ha : ∀ f, OutWf (a f)) (hb : ∀ w, OutWf (b w)) (hc : ∀ e ps t, Memory.wf t.mem = true → OutWf (c e ps t))
    (hd : ∀ t, Memory.wf t.mem = true → OutWf (d t)) :
    OutWf (match s.request q with | .fault f => a f | .wait w => b w | .near e ps t => c e ps t | .sent t => d t) := by
  have h := s.request_wf q hm
  cases hr : s.request q <;> rw [hr] at h
  · exact ha _
  · exact hb _
  · exact hc _ _ _ h
  · exact hd _ h

@[simp] theorem scalarLoad_wf (g : Bool) (d b : BitVec 5) (k : BitVec 1) (z st : BitVec 2) (o : BitVec 11) (s : State) (hm : Memory.wf s.mem = true) : OutWf (scalarLoad g d b k z st o s) := by
  unfold scalarLoad
  dsimp only
  split
  · simp [hm]
  · exact outWf_request hm (by simp [hm]) (by simp [hm]) (fun e ps t h => by split <;> simp [h]) (by simp)

@[simp] theorem execSt_wf (d b : BitVec 5) (k : BitVec 1) (z st : BitVec 2) (o : BitVec 11) (s : State) (hm : Memory.wf s.mem = true) : OutWf (execSt d b k z st o s) := by
  unfold execSt
  dsimp only
  split
  · simp [hm]
  · exact outWf_request hm (by simp [hm]) (by simp [hm]) (by simp) (by simp)

@[simp] theorem atomic_wf (op : Nat) (d a b : BitVec 5) (st : BitVec 2) (o : BitVec 5) (z : BitVec 1) (s : State) (hm : Memory.wf s.mem = true) : OutWf (atomic op d a b st o z s) := by
  unfold atomic
  dsimp only
  generalize (if z = 1 then 8 else 4) = n
  split
  · simp [hm]
  · split
    · simp [hm]
    · split
      · simp [hm]
      · exact outWf_request hm (by simp [hm]) (by simp [hm]) (fun e ps t h => by (repeat' split) <;> simp [h]) (by simp)

@[simp] theorem execFawait_mem (d a f o : BitVec 5) (s : State) : OutMem s.mem (execFawait d a f o s) := by
  unfold execFawait
  dsimp only
  split
  · rename_i h; simp [State.takeGrant_mem h]
  · split
    · simp
    · have := block_mem (s.await f.toNat (BitVec.setWidth 32 (s.x a))) (.flag f.toNat (BitVec.setWidth 32 (s.x a))); simpa using this

@[simp] theorem execFawait_wf (d a f o : BitVec 5) (s : State) (hm : Memory.wf s.mem = true) : OutWf (execFawait d a f o s) := (execFawait_mem d a f o s).wf hm

theorem claim_wf (q : Request) (g : Except FaultInfo Desc) (deliver : DWord → State → Out) (s : State)
    (hd : ∀ v t, Memory.wf t.mem = true → OutWf (deliver v t)) (hm : Memory.wf s.mem = true) : OutWf (claim q g deliver s) := by
  unfold claim
  split
  · rename_i v t h; exact hd v t (by rw [State.takeGrant_mem h]; exact hm)
  · dsimp only
    repeat' split
    all_goals simp [hm]

theorem ringOp_wf (op : Nat) (va : DWord) (c : Word) (o : BitVec 5) (f : Nat) (deliver : DWord → State → Out) (s : State)
    (hd : ∀ v t, Memory.wf t.mem = true → OutWf (deliver v t)) (hm : Memory.wf s.mem = true) : OutWf (ringOp op va c o f deliver s) := by
  unfold ringOp
  dsimp only
  split
  · exact claim_wf _ _ _ _ hd hm
  · repeat' split
    all_goals simp [hm]

@[simp] theorem execRgprod_wf (d b o : BitVec 5) (s : State) (hm : Memory.wf s.mem = true) : OutWf (execRgprod d b o s) :=
  ringOp_wf _ _ _ _ _ _ _ (fun v t h => by simp [h]) hm

@[simp] theorem execRgpub_wf (d b o : BitVec 5) (s : State) (hm : Memory.wf s.mem = true) : OutWf (execRgpub d b o s) :=
  ringOp_wf _ _ _ _ _ _ _ (fun v t h => by simp [h]) hm

@[simp] theorem execRgcons_wf (d b o : BitVec 5) (s : State) (hm : Memory.wf s.mem = true) : OutWf (execRgcons d b o s) :=
  ringOp_wf _ _ _ _ _ _ _ (fun v t h => by simp [h]) hm

@[simp] theorem execRgrel_wf (d b o : BitVec 5) (s : State) (hm : Memory.wf s.mem = true) : OutWf (execRgrel d b o s) :=
  ringOp_wf _ _ _ _ _ _ _ (fun v t h => by simp [h]) hm

@[simp] theorem execWaita_wf (d a b o : BitVec 5) (s : State) (hm : Memory.wf s.mem = true) : OutWf (execWaita d a b o s) :=
  claim_wf _ _ _ _ (fun v t h => by simp [h]) hm

@[simp] theorem execWaitanb_wf (d a b o : BitVec 5) (s : State) (hm : Memory.wf s.mem = true) : OutWf (execWaitanb d a b o s) := by
  unfold execWaitanb
  dsimp only
  repeat' split
  all_goals simp [hm]

theorem State.popOut_mem {s t : State} {e : Engine} {v : DWord} (h : s.popOut e = some (v, t)) : t.mem = s.mem := by
  unfold State.popOut at h
  repeat' split at h
  all_goals first | (simp at h; done) | (simp only [Option.some.injEq, Prod.mk.injEq] at h; exact (congrArg State.mem h.2).symm)

@[simp] theorem popToX_mem (e : Engine) (d : BitVec 5) (nb : Bool) (p : BitVec 3) (s : State) : OutMem s.mem (popToX e d nb p s) := by
  unfold popToX
  split
  · rename_i h; dsimp only; split <;> simp [State.popOut_mem h]
  · split <;> simp

@[simp] theorem popToX_wf (e : Engine) (d : BitVec 5) (nb : Bool) (p : BitVec 3) (s : State) (hm : Memory.wf s.mem = true) : OutWf (popToX e d nb p s) := (popToX_mem e d nb p s).wf hm

theorem pushed_mem (opf : Nat) (e : Engine) (nb : Option (BitVec 3)) (r : Appended) (s : State) (h : ∀ t, r = .taken t → t.mem = s.mem) : OutMem s.mem (pushed opf e nb r s) := by
  unfold pushed
  split
  · rename_i t; split <;> simp [h t rfl]
  · split <;> simp
  all_goals simp

theorem State.append_mem {s t : State} {e : Engine} {w : Word} (h : s.append e w = .taken t) : t.mem = s.mem := by
  unfold State.append at h
  dsimp only at h
  repeat' split at h
  all_goals first | (simp at h; done) | (simp only [Appended.taken.injEq] at h; subst h; simp)

theorem State.mxGo_mem {s t : State} {v : DWord} (h : s.mxGo v = .taken t) : t.mem = s.mem := by
  unfold State.mxGo at h
  dsimp only at h
  repeat' split at h
  all_goals first | (simp at h; done) | (simp only [Appended.taken.injEq] at h; subst h; simp)

theorem State.mlGo_mem {s t : State} {v : DWord} (h : s.mlGo v = .taken t) : t.mem = s.mem := by
  unfold State.mlGo at h
  repeat' split at h
  all_goals first | (simp at h; done) | (simp only [Appended.taken.injEq] at h; subst h; simp)

theorem pushed_wf (opf : Nat) (e : Engine) (nb : Option (BitVec 3)) (r : Appended) (s : State) (h : ∀ t, r = .taken t → t.mem = s.mem) (hm : Memory.wf s.mem = true) :
    OutWf (pushed opf e nb r s) := (pushed_mem opf e nb r s h).wf hm

@[simp] theorem execMfsr_mem (d : BitVec 5) (n : BitVec 1) (p : BitVec 3) (r : BitVec 12) (s : State) : OutMem s.mem (execMfsr d n p r s) := by
  unfold execMfsr
  repeat' split
  all_goals simp

@[simp] theorem execMfsr_wf (d : BitVec 5) (n : BitVec 1) (p : BitVec 3) (r : BitVec 12) (s : State) (hm : Memory.wf s.mem = true) : OutWf (execMfsr d n p r s) :=
  (execMfsr_mem d n p r s).wf hm

@[simp] theorem execMtsr_mem (a : BitVec 5) (n : BitVec 1) (p : BitVec 3) (r : BitVec 12) (s : State) : OutMem s.mem (execMtsr a n p r s) := by
  unfold execMtsr
  dsimp only
  repeat' split
  all_goals first
    | (simp; done)
    | exact pushed_mem _ _ _ _ _ (fun t h => State.append_mem h)
    | exact pushed_mem _ _ _ _ _ (fun t h => State.mxGo_mem h)
    | exact pushed_mem _ _ _ _ _ (fun t h => State.mlGo_mem h)

@[simp] theorem execMtsr_wf (a : BitVec 5) (n : BitVec 1) (p : BitVec 3) (r : BitVec 12) (s : State) (hm : Memory.wf s.mem = true) : OutWf (execMtsr a n p r s) :=
  (execMtsr_mem a n p r s).wf hm

@[simp] theorem execInputFifoAppend_wf (e : Engine) (w : Word) (s : State) (hm : Memory.wf s.mem = true) : OutWf (execInputFifoAppend e w s) :=
  pushed_wf _ _ _ _ _ (fun t h => State.append_mem h) hm

@[simp] theorem execMxgo_wf (v : DWord) (s : State) (hm : Memory.wf s.mem = true) : OutWf (execMxgo v s) := pushed_wf _ _ _ _ _ (fun t h => State.mxGo_mem h) hm

@[simp] theorem execMlgo_wf (v : DWord) (s : State) (hm : Memory.wf s.mem = true) : OutWf (execMlgo v s) := pushed_wf _ _ _ _ _ (fun t h => State.mlGo_mem h) hm

@[simp] theorem execOutputFifoPop_wf (e : Engine) (n : Nat) (s : State) (hm : Memory.wf s.mem = true) : OutWf (execOutputFifoPop e n s) := by
  unfold execOutputFifoPop
  split
  · simp [hm]
  · rename_i h; have := State.popOut_mem h; split <;> simp [this, hm]

@[simp] theorem State.applyLate_wf (s : State) (l : List (Nat × DWord)) (hm : Memory.wf s.mem = true) : Memory.wf (s.applyLate l).mem = true := by
  induction l generalizing s with
  | nil => exact hm
  | cons e r ih =>
    obtain ⟨n, v⟩ := e
    rw [State.applyLate]
    refine ih _ ?_
    split
    · simp [hm]
    · split
      · rename_i h; exact OptWf.of_eq h (by simp [hm])
      · exact hm

@[simp] theorem execPshareWrite_mem (c : Nat) (v : DWord) (s : State) : OutMem s.mem (execPshareWrite c v s) := by
  unfold execPshareWrite; split <;> simp

@[simp] theorem execPshareWrite_wf (c : Nat) (v : DWord) (s : State) (hm : Memory.wf s.mem = true) : OutWf (execPshareWrite c v s) := (execPshareWrite_mem c v s).wf hm

theorem counted_wf {o : Out} (h : OutWf o) : OutWf (counted o) := by
  unfold counted
  split
  · split <;> simp_all
  · exact h

@[simp] theorem execVbnz_mem (c : BitVec 4) (i : BitVec 16) (s : State) : OutMem s.mem (execVbnz c i s) :=
  vScalar_mem _ _ _ (fun t => by split <;> simp)

@[simp] theorem execVbnz_wf (c : BitVec 4) (i : BitVec 16) (s : State) (hm : Memory.wf s.mem = true) : OutWf (execVbnz c i s) := (execVbnz_mem c i s).wf hm

@[simp] theorem execVtsig_wf (k : BitVec 4) (s : State) (hm : Memory.wf s.mem = true) : OutWf (execVtsig k s) := counted_wf (by simp [hm])

@[simp] theorem execVtwait_wf (k : BitVec 4) (s : State) (hm : Memory.wf s.mem = true) : OutWf (execVtwait k s) := counted_wf (by simp [hm])

@[simp] theorem execVfenceRel_wf (o : BitVec 5) (s : State) (hm : Memory.wf s.mem = true) : OutWf (execVfenceRel o s) := counted_wf (by simp [hm])

@[simp] theorem execVfenceAcq_wf (o : BitVec 5) (s : State) (hm : Memory.wf s.mem = true) : OutWf (execVfenceAcq o s) := counted_wf (by simp [hm])

@[simp] theorem execVfenceFull_wf (o : BitVec 5) (s : State) (hm : Memory.wf s.mem = true) : OutWf (execVfenceFull o s) := counted_wf (by simp [hm])

@[simp] theorem execVfenceX_wf (s : State) (hm : Memory.wf s.mem = true) : OutWf (execVfenceX s) := counted_wf (by simp [hm])

@[simp] theorem execVmfsr_wf (d : BitVec 4) (n : BitVec 1) (r : BitVec 12) (s : State) (hm : Memory.wf s.mem = true) : OutWf (execVmfsr d n r s) := by
  unfold execVmfsr
  split
  · split
    · rename_i h; have := State.popOut_mem h; exact counted_wf (by dsimp only; split <;> simp [this, hm])
    · split
      · exact counted_wf (by simp [hm])
      · simp [hm]
  · split <;> exact counted_wf (by simp [hm])

@[simp] theorem execVmtsr_wf (c : BitVec 4) (n : BitVec 1) (r : BitVec 12) (s : State) (hm : Memory.wf s.mem = true) : OutWf (execVmtsr c n r s) := by
  unfold execVmtsr
  split
  · split
    · rename_i h; have := State.append_mem h; exact counted_wf (by split <;> simp [this, hm])
    · split
      · exact counted_wf (by simp [hm])
      · simp [hm]
    all_goals simp [hm]
  · repeat' split
    all_goals first | (simp [hm]; done) | exact counted_wf (by simp [hm])

theorem precise_wf {f : State → Out} {s : State} (hm : Memory.wf s.mem = true) (h : OutWf (f s)) : OutWf (precise f s) := by
  unfold precise
  split
  · simp [hm]
  · exact h

@[simp] theorem execLdq_wf (q b i : BitVec 4) (p k : BitVec 1) (o : BitVec 12) (s : State) (hm : Memory.wf s.mem = true) : OutWf (execLdq q b i p k o s) := by
  unfold execLdq
  dsimp only
  split
  · simp [hm]
  · split
    · simp [hm]
    · split
      · repeat' split
        all_goals simp [hm]
      · split
        · simp [hm]
        · split
          · simp [hm]
          · exact outWf_request (by simp [hm]) (by simp [hm]) (by simp [hm]) (fun e ps t h => by (repeat' split) <;> simp [h, hm]) (fun t h => by simp [h])

@[simp] theorem execStq_wf (q b i : BitVec 4) (p k : BitVec 1) (o : BitVec 12) (s : State) (hm : Memory.wf s.mem = true) : OutWf (execStq q b i p k o s) := by
  unfold execStq
  dsimp only
  split
  · simp [hm]
  · split
    · simp [hm]
    · split
      · simp [hm]
      · split
        · simp [hm]
        · split
          · repeat' split
            all_goals simp [hm]
          · split
            · simp [hm]
            · split
              · simp [hm]
              · split
                · simp [hm]
                · split
                  · simp [hm]
                  · exact outWf_request (by simp [hm]) (by simp [hm]) (by simp [hm]) (fun e ps t h => by simp [h]) (fun t h => by simp [h])

@[simp] theorem execAld_wf (d b i : BitVec 4) (p k : BitVec 1) (o : BitVec 12) (s : State) (hm : Memory.wf s.mem = true) : OutWf (execAld d b i p k o s) := by
  unfold execAld
  dsimp only
  split
  · simp [hm]
  · split
    · repeat' split
      all_goals simp [hm]
    · exact outWf_request (by simp [hm]) (by simp [hm]) (by simp [hm]) (fun e ps t h => by (repeat' split) <;> simp [h]) (fun t h => by simp [h])

@[simp] theorem execAtsig_wf (k : BitVec 4) (s : State) (hm : Memory.wf s.mem = true) : OutWf (execAtsig k s) := precise_wf hm (by simp [hm])

@[simp] theorem execAtwait_wf (k : BitVec 4) (s : State) (hm : Memory.wf s.mem = true) : OutWf (execAtwait k s) := precise_wf hm (by simp [hm])

@[simp] theorem execAhalt_wf (s : State) (hm : Memory.wf s.mem = true) : OutWf (execAhalt s) := precise_wf hm (by simp [hm])

@[simp] theorem execAfenceRel_wf (o : BitVec 5) (s : State) (hm : Memory.wf s.mem = true) : OutWf (execAfenceRel o s) := precise_wf hm (by simp [hm])

@[simp] theorem execAfenceAcq_wf (o : BitVec 5) (s : State) (hm : Memory.wf s.mem = true) : OutWf (execAfenceAcq o s) := precise_wf hm (by simp [hm])

@[simp] theorem execAfenceFull_wf (o : BitVec 5) (s : State) (hm : Memory.wf s.mem = true) : OutWf (execAfenceFull o s) := precise_wf hm (by simp [hm])

@[simp] theorem execAfenceX_wf (s : State) (hm : Memory.wf s.mem = true) : OutWf (execAfenceX s) := precise_wf hm (by simp [hm])

@[simp] theorem execAmfsr_wf (d : BitVec 4) (n : BitVec 1) (r : BitVec 12) (s : State) (hm : Memory.wf s.mem = true) : OutWf (execAmfsr d n r s) := by
  unfold execAmfsr
  split
  · refine precise_wf hm ?_
    split
    · rename_i h; have := State.popOut_mem h; simp [this, hm]
    · split <;> simp [hm]
  · simp [hm]

@[simp] theorem execAmtsr_wf (d b : BitVec 4) (n : BitVec 1) (r : BitVec 12) (s : State) (hm : Memory.wf s.mem = true) : OutWf (execAmtsr d b n r s) := by
  refine precise_wf hm ?_
  split
  · rename_i h; have := State.append_mem h; split <;> simp [this, hm]
  · split <;> simp [hm]
  all_goals simp [hm]

@[simp] theorem execArprod_wf (d b : BitVec 4) (s : State) (hm : Memory.wf s.mem = true) : OutWf (execArprod d b s) :=
  precise_wf hm (ringOp_wf _ _ _ _ _ _ _ (fun v t h => by simp [h]) hm)

@[simp] theorem execArpub_wf (d b : BitVec 4) (s : State) (hm : Memory.wf s.mem = true) : OutWf (execArpub d b s) :=
  precise_wf hm (ringOp_wf _ _ _ _ _ _ _ (fun v t h => by simp [h]) hm)

@[simp] theorem execArcons_wf (d b : BitVec 4) (s : State) (hm : Memory.wf s.mem = true) : OutWf (execArcons d b s) :=
  precise_wf hm (ringOp_wf _ _ _ _ _ _ _ (fun v t h => by simp [h]) hm)

@[simp] theorem execArrel_wf (d b : BitVec 4) (s : State) (hm : Memory.wf s.mem = true) : OutWf (execArrel d b s) :=
  precise_wf hm (ringOp_wf _ _ _ _ _ _ _ (fun v t h => by simp [h]) hm)

theorem State.muleRequest_wf (s : State) (off : Word) (n f : Nat) (q : Request) (hm : Memory.wf s.mem = true) : (s.muleRequest off n f q).Wf := by
  unfold State.muleRequest
  dsimp only
  split
  · trivial
  · split
    · trivial
    · exact State.request_wf _ _ hm

theorem muleLoad_wf (off : Word) (n f : Nat) (g : List Byte → State → Out) (s : State) (hm : Memory.wf s.mem = true)
    (hg : ∀ b t, Memory.wf t.mem = true → OutWf (g b t)) : OutWf (muleLoad off n f g s) := by
  unfold muleLoad
  have h := s.muleRequest_wf off n f { kind := .load false, va := 0, offs := [], mode := .load } hm
  cases hr : s.muleRequest off n f { kind := .load false, va := 0, offs := [], mode := .load } <;> rw [hr] at h
  · simp [hm]
  · simp [hm]
  · have h : Memory.wf _ = true := h
    dsimp only
    split
    · simp [h]
    · exact hg _ _ h
  · simp [hm]

@[simp] theorem execMuleAgrun_wf (d : BitVec 3) (s : State) (hm : Memory.wf s.mem = true) : OutWf (execMuleAgrun d s) := by
  unfold execMuleAgrun
  dsimp only
  split
  · simp [hm]
  · split
    · simp [hm]
    · exact muleLoad_wf _ _ _ _ _ hm (fun b t h => by simp [h])

@[simp] theorem execMuleCp_wf (a b : BitVec 3) (d e : BitVec 1) (g : BitVec 6) (s : State) (hm : Memory.wf s.mem = true) : OutWf (execMuleCp a b d e g s) := by
  unfold execMuleCp
  dsimp only
  repeat' split
  all_goals first
    | (simp [hm]; done)
    | exact muleLoad_wf _ _ _ _ _ hm (fun b t h => muleLoad_wf _ _ _ _ _ h (fun b t h => by simp [h]))

@[simp] theorem execMuleLd_wf (d a : BitVec 3) (i : BitVec 18) (s : State) (hm : Memory.wf s.mem = true) : OutWf (execMuleLd d a i s) := by
  unfold execMuleLd
  dsimp only
  split
  · simp [hm]
  · exact muleLoad_wf _ _ _ _ _ hm (fun b t h => by simp [h])

@[simp] theorem execMuleSt_wf (a b : BitVec 3) (i : BitVec 18) (s : State) (hm : Memory.wf s.mem = true) : OutWf (execMuleSt a b i s) := by
  unfold execMuleSt
  dsimp only
  split
  · simp [hm]
  · generalize hq : ({ kind := .store, va := 0, offs := [], mode := .store, data := toBytes (s.g b).toNat 4 } : Request) = q
    have h := s.muleRequest_wf (s.g a + i.signExtend 32) 4 2 q hm
    cases hr : s.muleRequest (s.g a + i.signExtend 32) 4 2 q <;> rw [hr] at h
    · simp [hm]
    · simp [hm]
    · exact State.storeAt_wf _ _ _ h
    · exact h

@[simp] theorem execMuleMtsr_wf (a : BitVec 3) (n : BitVec 12) (s : State) (hm : Memory.wf s.mem = true) : OutWf (execMuleMtsr a n s) :=
  pushed_wf _ _ _ _ _ (fun t h => State.append_mem h) hm

@[simp] theorem State.writeAcc_wf (s : State) (c slot : Nat) (acc : NumFmt) (rows : List (List Nat)) (hm : Memory.wf s.mem = true) :
    Memory.wf (s.writeAcc c slot acc rows).mem = true := by
  unfold State.writeAcc
  dsimp only
  exact foldl_wf _ _ (fun s p h => by simp [h]) s hm

@[simp] theorem State.accumulateStep_wf (s : State) (c slot : Nat) (clear : Bool) (e : FmtEntry) (as ws : List Num) (hm : Memory.wf s.mem = true) :
    Memory.wf (s.accumulateStep c slot clear e as ws).mem = true := by
  unfold State.accumulateStep
  dsimp only
  simp [hm]

@[simp] theorem State.sendLoads_mem (s : State) (c : Nat) (prev : List Nat) (l : List Request) : (s.sendLoads c prev l).mem = s.mem := by
  induction l generalizing s prev with
  | nil => rfl
  | cons q r ih =>
    unfold State.sendLoads
    repeat' split
    all_goals simp [ih]

@[simp] theorem State.completeRents_wf (s : State) (hm : Memory.wf s.mem = true) : Memory.wf s.completeRents.mem = true :=
  foldl_wf _ _ (fun s p h => by split <;> simp [h]) s hm

@[simp] theorem execLd_wf (x0 : BitVec 5) (x1 : BitVec 5) (x2 : BitVec 1) (x3 : BitVec 2) (x4 : BitVec 2) (x5 : BitVec 11) (s : State) (hm : Memory.wf s.mem = true) : OutWf (execLd x0 x1 x2 x3 x4 x5 s) := by
  simp [execLd, hm]

@[simp] theorem execLdn_wf (x0 : BitVec 5) (x1 : BitVec 5) (x2 : BitVec 1) (x3 : BitVec 2) (x4 : BitVec 2) (x5 : BitVec 11) (s : State) (hm : Memory.wf s.mem = true) : OutWf (execLdn x0 x1 x2 x3 x4 x5 s) := by
  simp [execLdn, hm]

@[simp] theorem execAtomAdd_wf (x0 : BitVec 5) (x1 : BitVec 5) (x2 : BitVec 5) (x3 : BitVec 2) (x4 : BitVec 5) (x5 : BitVec 1) (s : State) (hm : Memory.wf s.mem = true) : OutWf (execAtomAdd x0 x1 x2 x3 x4 x5 s) := by
  simp [execAtomAdd, hm]

@[simp] theorem execAtomSwap_wf (x0 : BitVec 5) (x1 : BitVec 5) (x2 : BitVec 5) (x3 : BitVec 2) (x4 : BitVec 5) (x5 : BitVec 1) (s : State) (hm : Memory.wf s.mem = true) : OutWf (execAtomSwap x0 x1 x2 x3 x4 x5 s) := by
  simp [execAtomSwap, hm]

@[simp] theorem execAtomCas_wf (x0 : BitVec 5) (x1 : BitVec 5) (x2 : BitVec 5) (x3 : BitVec 2) (x4 : BitVec 5) (x5 : BitVec 1) (s : State) (hm : Memory.wf s.mem = true) : OutWf (execAtomCas x0 x1 x2 x3 x4 x5 s) := by
  simp [execAtomCas, hm]

@[simp] theorem execAtomAnd_wf (x0 : BitVec 5) (x1 : BitVec 5) (x2 : BitVec 5) (x3 : BitVec 2) (x4 : BitVec 5) (x5 : BitVec 1) (s : State) (hm : Memory.wf s.mem = true) : OutWf (execAtomAnd x0 x1 x2 x3 x4 x5 s) := by
  simp [execAtomAnd, hm]

@[simp] theorem execAtomOr_wf (x0 : BitVec 5) (x1 : BitVec 5) (x2 : BitVec 5) (x3 : BitVec 2) (x4 : BitVec 5) (x5 : BitVec 1) (s : State) (hm : Memory.wf s.mem = true) : OutWf (execAtomOr x0 x1 x2 x3 x4 x5 s) := by
  simp [execAtomOr, hm]

@[simp] theorem execAtomXor_wf (x0 : BitVec 5) (x1 : BitVec 5) (x2 : BitVec 5) (x3 : BitVec 2) (x4 : BitVec 5) (x5 : BitVec 1) (s : State) (hm : Memory.wf s.mem = true) : OutWf (execAtomXor x0 x1 x2 x3 x4 x5 s) := by
  simp [execAtomXor, hm]

@[simp] theorem execAtomMin_wf (x0 : BitVec 5) (x1 : BitVec 5) (x2 : BitVec 5) (x3 : BitVec 2) (x4 : BitVec 5) (x5 : BitVec 1) (s : State) (hm : Memory.wf s.mem = true) : OutWf (execAtomMin x0 x1 x2 x3 x4 x5 s) := by
  simp [execAtomMin, hm]

@[simp] theorem execAtomMax_wf (x0 : BitVec 5) (x1 : BitVec 5) (x2 : BitVec 5) (x3 : BitVec 2) (x4 : BitVec 5) (x5 : BitVec 1) (s : State) (hm : Memory.wf s.mem = true) : OutWf (execAtomMax x0 x1 x2 x3 x4 x5 s) := by
  simp [execAtomMax, hm]

@[simp] theorem execMatrixKstep_wf (x0 : Nat) (s : State) (hm : Memory.wf s.mem = true) : OutWf (execMatrixKstep x0 s) := by
  unfold execMatrixKstep
  dsimp only
  (repeat' split) <;> simp [hm]

@[simp] theorem State.beginLoads_mem (s : State) (x1 : Nat) (x2 : Engine) (x3 : Agent) (x4 : Cmd) (x5 : Except FaultInfo (List Request)) : (State.beginLoads s x1 x2 x3 x4 x5).mem = s.mem := by
  unfold State.beginLoads
  (repeat' split) <;> simp

@[simp] theorem State.beginMatrix_mem (s : State) (x1 : Nat) (x2 : Cmd) : (State.beginMatrix s x1 x2).mem = s.mem := by
  unfold State.beginMatrix
  (repeat' split) <;> simp

@[simp] theorem State.beginMule_mem (s : State) (x1 : Nat) (x2 : Cmd) : (State.beginMule s x1 x2).mem = s.mem := by
  unfold State.beginMule
  split <;> simp

@[simp] theorem State.performKind_wf (s : State) (x1 : Access) (hm : Memory.wf s.mem = true) : Memory.wf (State.performKind s x1).mem = true := by
  unfold State.performKind
  split <;> simp [hm]

@[simp] theorem State.decipher_wf (s : State) (us : List Nat) (hm : Memory.wf s.mem = true) : Memory.wf (s.decipher us).mem = true :=
  foldl_wf _ _ (fun _ _ h => Memory.wf_writeNat _ _ _ _ h) s hm

@[simp] theorem State.sealed_mem (s : State) (a : Access) (k : Nat) : (s.sealed a k).mem = s.mem := by
  unfold State.sealed
  split <;> rfl

theorem foldl_form {α : Type} (f : List Host.Cell → α → List Host.Cell) (h : ∀ m a, Memory.wf m = true → Memory.wf (f m a) = true) :
    ∀ (l : List α) (m : List Host.Cell), Memory.wf m = true → Memory.wf (l.foldl f m) = true
  | [], _, hm => hm
  | a :: l, m, hm => foldl_form f h l (f m a) (h m a hm)

@[simp] theorem State.cipherBack_wf (s : State) (m : List Host.Cell) (us : List Nat) (hm : Memory.wf s.mem = true) :
    Memory.wf (s.cipherBack m us).mem = true :=
  foldl_form _ (fun _ _ h => Memory.wf_writeNat _ _ _ _ h) us s.mem hm

@[simp] theorem State.performKeyed_wf (s : State) (a : Access) (hm : Memory.wf s.mem = true) : Memory.wf (s.performKeyed a).mem = true := by
  unfold State.performKeyed
  have h := State.performKind_wf (s.decipher (s.foreign a)) a (State.decipher_wf s _ hm)
  dsimp only
  split <;> simp [h]

@[simp] theorem State.checked_wf (s : State) (x1 : Access) (x2 : List (Nat × Nat)) (x3 : Option Nat) (hm : Memory.wf s.mem = true) : Memory.wf (State.checked s x1 x2 x3).mem = true := by
  unfold State.checked
  (repeat' split) <;> simp [hm]

@[simp] theorem State.elapse_wf (s : State) (x1 : Nat) (hm : Memory.wf s.mem = true) : Memory.wf (State.elapse s x1).mem = true := by
  simp [State.elapse, hm]

@[simp] theorem State.pass_wf (s : State) (x1 : Nat) (x2 : Nat) (hm : Memory.wf s.mem = true) : Memory.wf (State.pass s x1 x2).mem = true := by
  unfold State.pass
  dsimp only
  (repeat' split) <;> simp [hm]

@[simp] theorem State.withFetchWord_wf (s : State) (x1 : Nat) (x2 : Nat) (hm : Memory.wf s.mem = true) : Memory.wf (State.withFetchWord s x1 x2).mem = true := by
  unfold State.withFetchWord
  dsimp only
  (repeat' split) <;> simp [hm]

@[simp] theorem State.vStart_mem (s : State) (x1 : VOp) : (State.vStart s x1).2.mem = s.mem := by unfold State.vStart; split <;> simp

/-- Ranges that are zeroed leave the form of memory. -/
theorem Memory.wf_zeros {α : Type} (l : List α) (f g : α → Nat) (m : List Host.Cell) (hm : Memory.wf m = true) :
    Memory.wf (l.foldl (fun m r => Memory.zero m (f r) (g r)) m) = true := by
  induction l generalizing m with
  | nil => exact hm
  | cons a r ih => exact ih _ (by simp [hm])

@[simp] theorem State.keyRun_mem (s : State) (x1 x2 x3 : Nat) : (State.keyRun s x1 x2 x3).mem = s.mem := by rfl

@[simp] theorem State.zeroRun_wf (s : State) (u b n k : Nat) (hm : Memory.wf s.mem = true) : Memory.wf (s.zeroRun u b n k).mem = true := by
  unfold State.zeroRun
  dsimp only
  simp only [State.updUnit_mem, State.clean_mem]
  exact foldl_wf _ _ (fun s r h => by simp [h]) s hm

@[simp] theorem State.rentGranted_wf (s : State) (a : Access) (h b t n m k : Nat) (y p : Bool) (hm : Memory.wf s.mem = true) :
    Memory.wf (s.rentGranted a h b t n m k y p).mem = true := by
  unfold State.rentGranted
  dsimp only
  split <;> simp [hm]

@[simp] theorem State.debitAnswered_wf (s : State) (d : Debit) (g : Bool) (a : Access) (h b : Nat) (hm : Memory.wf s.mem = true) :
    Memory.wf (s.debitAnswered d g a h b).mem = true := by
  unfold State.debitAnswered
  repeat' split
  all_goals simp [hm]

@[simp] theorem execScrubComplete_wf (u h : Nat) (s : State) (hm : Memory.wf s.mem = true) : OutWf (execScrubComplete u h s) := by
  unfold execScrubComplete
  dsimp only
  split
  · simp [hm]
  · split
    · simp [hm]
    · simp only [outWf_next, State.leaseDown_mem, State.freeLease_mem, State.clean_mem]
      exact foldl_wf _ _ (fun s r h => by split <;> simp [h]) s hm

@[simp] theorem execSlotWriteApply_wf (x0 : Nat) (x1 : Nat) (s : State) (hm : Memory.wf s.mem = true) : OutWf (execSlotWriteApply x0 x1 s) := by
  unfold execSlotWriteApply
  split <;> simp [hm]

@[simp] theorem execRentDebitGrant_wf (x0 : Nat) (s : State) (hm : Memory.wf s.mem = true) : OutWf (execRentDebitGrant x0 s) := by
  unfold execRentDebitGrant
  (repeat' split) <;> simp [hm]

@[simp] theorem execTickBoundary_wf (x0 : Nat) (x1 : Nat) (s : State) (hm : Memory.wf s.mem = true) : OutWf (execTickBoundary x0 x1 s) := by
  unfold execTickBoundary
  (repeat' split) <;> simp [hm]

@[simp] theorem execLeaseExpiry_mem (x0 : Nat) (x1 : Nat) (s : State) : OutMem s.mem (execLeaseExpiry x0 x1 s) := by
  unfold execLeaseExpiry
  dsimp only
  (repeat' split) <;> simp

@[simp] theorem execLeaseExpiry_wf (x0 : Nat) (x1 : Nat) (s : State) (hm : Memory.wf s.mem = true) : OutWf (execLeaseExpiry x0 x1 s) := (execLeaseExpiry_mem x0 x1 s).wf hm

@[simp] theorem State.deny_mem (s : State) (x1 : SlotGrant) : (State.deny s x1).mem = s.mem := by
  unfold State.deny
  dsimp only
  split <;> simp

@[simp] theorem State.arbitrate_mem (s : State) (x1 : Ingress) (x2 : BitVec 256) (x3 : Nat) (x4 : Bool) : (State.arbitrate s x1 x2 x3 x4).1.mem = s.mem := by
  unfold State.arbitrate
  dsimp only
  (repeat' split) <;> simp

@[simp] theorem State.grantSlot_mem (s : State) (x1 : Ingress) (x2 : BitVec 256) (x3 x4 : Nat) : (State.grantSlot s x1 x2 x3 x4).mem = s.mem := by
  unfold State.grantSlot
  dsimp only
  split <;> simp

@[simp] theorem execJoinArrival_mem (x0 : Nat) (x1 : Ingress) (x2 : BitVec 256) (x3 : Nat) (s : State) : OutMem s.mem (execJoinArrival x0 x1 x2 x3 s) := by
  unfold execJoinArrival
  dsimp only
  (repeat' split) <;> simp

@[simp] theorem execJoinArrival_wf (x0 : Nat) (x1 : Ingress) (x2 : BitVec 256) (x3 : Nat) (s : State) (hm : Memory.wf s.mem = true) : OutWf (execJoinArrival x0 x1 x2 x3 s) := (execJoinArrival_mem x0 x1 x2 x3 s).wf hm

@[simp] theorem execDenseContribution_mem (x0 : Nat) (x1 : Nat) (x2 : Nat) (x3 : Nat) (x4 : Nat) (x5 : DWord) (x6 : Nat) (x7 : VReg) (s : State) : OutMem s.mem (execDenseContribution x0 x1 x2 x3 x4 x5 x6 x7 s) := by
  unfold execDenseContribution
  dsimp only
  (repeat' split) <;> simp

@[simp] theorem execDenseContribution_wf (x0 : Nat) (x1 : Nat) (x2 : Nat) (x3 : Nat) (x4 : Nat) (x5 : DWord) (x6 : Nat) (x7 : VReg) (s : State) (hm : Memory.wf s.mem = true) : OutWf (execDenseContribution x0 x1 x2 x3 x4 x5 x6 x7 s) := (execDenseContribution_mem x0 x1 x2 x3 x4 x5 x6 x7 s).wf hm

@[simp] theorem execGanderInputWord_mem (x0 : Nat) (x1 : Nat) (x2 : Nat) (x3 : Nat) (x4 : DWord) (s : State) : OutMem s.mem (execGanderInputWord x0 x1 x2 x3 x4 s) := by
  unfold execGanderInputWord
  dsimp only
  (repeat' split) <;> simp

@[simp] theorem execGanderInputWord_wf (x0 : Nat) (x1 : Nat) (x2 : Nat) (x3 : Nat) (x4 : DWord) (s : State) (hm : Memory.wf s.mem = true) : OutWf (execGanderInputWord x0 x1 x2 x3 x4 s) := (execGanderInputWord_mem x0 x1 x2 x3 x4 s).wf hm

@[simp] theorem execGanderBlockEmit_mem (x0 : Nat) (x1 : Nat) (x2 : Nat) (s : State) : OutMem s.mem (execGanderBlockEmit x0 x1 x2 s) := by
  unfold execGanderBlockEmit
  dsimp only
  (repeat' split) <;> simp

@[simp] theorem execGanderBlockEmit_wf (x0 : Nat) (x1 : Nat) (x2 : Nat) (s : State) (hm : Memory.wf s.mem = true) : OutWf (execGanderBlockEmit x0 x1 x2 s) := (execGanderBlockEmit_mem x0 x1 x2 s).wf hm

@[simp] theorem execLinkTrained_mem (x0 : Nat) (x1 : Nat) (x2 : Nat) (x3 : Nat) (s : State) : OutMem s.mem (execLinkTrained x0 x1 x2 x3 s) := by
  unfold execLinkTrained
  split <;> simp

@[simp] theorem execLinkTrained_wf (x0 : Nat) (x1 : Nat) (x2 : Nat) (x3 : Nat) (s : State) (hm : Memory.wf s.mem = true) : OutWf (execLinkTrained x0 x1 x2 x3 s) := (execLinkTrained_mem x0 x1 x2 x3 s).wf hm

@[simp] theorem execDispatchRowArrival_mem (x0 : Nat) (x1 : List Byte) (s : State) : OutMem s.mem (execDispatchRowArrival x0 x1 s) := by
  unfold execDispatchRowArrival
  split <;> simp

@[simp] theorem execDispatchRowArrival_wf (x0 : Nat) (x1 : List Byte) (s : State) (hm : Memory.wf s.mem = true) : OutWf (execDispatchRowArrival x0 x1 s) := (execDispatchRowArrival_mem x0 x1 s).wf hm

@[simp] theorem execLinkFailure_mem (x0 : Nat) (s : State) : OutMem s.mem (execLinkFailure x0 s) := by
  unfold execLinkFailure; ((repeat' split) <;> first | rfl | (simp; done) | (simp_all; done) | exact foldl_mem _ _ (fun s b => by simp) _ | (rw [foldl_mem _ _ (fun s b => by simp)]; simp; done) | (rename_i h; simp [snd_mem h]; done) | (rename_i h; simp [fst_mem h]; done) | (rename_i h; simp [OptMem.of_eq (m := s.mem) h (by simp)]; done) | (rename_i h; simp [OutMem.of_eq (m := s.mem) h (by simp)]; done))

@[simp] theorem execLinkFailure_wf (x0 : Nat) (s : State) (hm : Memory.wf s.mem = true) : OutWf (execLinkFailure x0 s) := (execLinkFailure_mem x0 s).wf hm

@[simp] theorem execOxVectorExamine_mem (x0 : Nat) (x1 : Nat) (s : State) : OutMem s.mem (execOxVectorExamine x0 x1 s) := by
  unfold execOxVectorExamine
  (repeat' split) <;> simp

@[simp] theorem execOxVectorExamine_wf (x0 : Nat) (x1 : Nat) (s : State) (hm : Memory.wf s.mem = true) : OutWf (execOxVectorExamine x0 x1 s) := (execOxVectorExamine_mem x0 x1 s).wf hm

@[simp] theorem execPreemptionRequest_mem (x0 : Nat) (x1 : Nat) (s : State) : OutMem s.mem (execPreemptionRequest x0 x1 s) := by
  unfold execPreemptionRequest
  (repeat' split) <;> simp

@[simp] theorem execPreemptionRequest_wf (x0 : Nat) (x1 : Nat) (s : State) (hm : Memory.wf s.mem = true) : OutWf (execPreemptionRequest x0 x1 s) := (execPreemptionRequest_mem x0 x1 s).wf hm

@[simp] theorem execFirmwareContextFault_mem (x0 : Nat) (x1 : Nat) (x2 : Nat) (s : State) : OutMem s.mem (execFirmwareContextFault x0 x1 x2 s) := by
  unfold execFirmwareContextFault
  (repeat' split) <;> simp

@[simp] theorem execFirmwareContextFault_wf (x0 : Nat) (x1 : Nat) (x2 : Nat) (s : State) (hm : Memory.wf s.mem = true) : OutWf (execFirmwareContextFault x0 x1 x2 s) := (execFirmwareContextFault_mem x0 x1 x2 s).wf hm

@[simp] theorem execAppliedVectorUpdate_mem (x0 : Nat) (s : State) : OutMem s.mem (execAppliedVectorUpdate x0 s) := by
  unfold execAppliedVectorUpdate
  (repeat' split) <;> simp

@[simp] theorem execAppliedVectorUpdate_wf (x0 : Nat) (s : State) (hm : Memory.wf s.mem = true) : OutWf (execAppliedVectorUpdate x0 s) := (execAppliedVectorUpdate_mem x0 s).wf hm

@[simp] theorem execRemoteFlagOperation_mem (x0 : FlagEvent) (s : State) : OutMem s.mem (execRemoteFlagOperation x0 s) := by
  unfold execRemoteFlagOperation
  dsimp only
  (repeat' split) <;> simp

@[simp] theorem execRemoteFlagOperation_wf (x0 : FlagEvent) (s : State) (hm : Memory.wf s.mem = true) : OutWf (execRemoteFlagOperation x0 s) := (execRemoteFlagOperation_mem x0 s).wf hm

@[simp] theorem execRingClaimGrant_wf (x0 : Nat) (x1 : Nat) (s : State) (hm : Memory.wf s.mem = true) : OutWf (execRingClaimGrant x0 x1 s) := by
  unfold execRingClaimGrant; ((repeat' split) <;> first | (simp [hm]; done) | (simp_all; done) | (rename_i h; simp [snd_mem h, hm]; done) | (rename_i h; simp [fst_mem h, hm]; done) | (rename_i h; simp [OptWf.of_eq h (by simp [hm])]; done) | (rename_i h; simp [OutWf.of_eq h (by simp [hm])]; done))

@[simp] theorem execRingRegisterWrite_mem (x0 : Nat) (x1 : Nat) (x2 : DWord) (s : State) : OutMem s.mem (execRingRegisterWrite x0 x1 x2 s) := by
  unfold execRingRegisterWrite
  (repeat' split) <;> simp

@[simp] theorem execRingRegisterWrite_wf (x0 : Nat) (x1 : Nat) (x2 : DWord) (s : State) (hm : Memory.wf s.mem = true) : OutWf (execRingRegisterWrite x0 x1 x2 s) := (execRingRegisterWrite_mem x0 x1 x2 s).wf hm

@[simp] theorem execFunctionLevelReset_mem (x0 : Nat) (s : State) : OutMem s.mem (execFunctionLevelReset x0 s) := by
  unfold execFunctionLevelReset; ((repeat' split) <;> first | rfl | (simp; done) | (simp_all; done) | exact foldl_mem _ _ (fun s b => by simp) _ | (rw [foldl_mem _ _ (fun s b => by simp)]; simp; done) | (rename_i h; simp [snd_mem h]; done) | (rename_i h; simp [fst_mem h]; done) | (rename_i h; simp [OptMem.of_eq (m := s.mem) h (by simp)]; done) | (rename_i h; simp [OutMem.of_eq (m := s.mem) h (by simp)]; done))

@[simp] theorem execFunctionLevelReset_wf (x0 : Nat) (s : State) (hm : Memory.wf s.mem = true) : OutWf (execFunctionLevelReset x0 s) := (execFunctionLevelReset_mem x0 s).wf hm

@[simp] theorem execBallastKstep_mem (x0 : Ballast) (s : State) : OutMem s.mem (execBallastKstep x0 s) := by
  unfold execBallastKstep
  dsimp only
  (repeat' split) <;> simp

@[simp] theorem execBallastKstep_wf (x0 : Ballast) (s : State) (hm : Memory.wf s.mem = true) : OutWf (execBallastKstep x0 s) := (execBallastKstep_mem x0 s).wf hm

end Sys2Proof.Machine
end

