-- ==== Sys2Proof/Laws/Ops.lean ====
section
/-! SUPPORT. What the shared operations can do, said once: the segment lookup, a raise and a wait, a store at places, and the
issue of a vector micro-order. -/

namespace Sys2Proof.Machine

open Sys2Proof

/-! ### The segment lookup (R14) -/

/-- A chain of checks that answers `b` has passed the first. -/
theorem ite_or {α : Type} {p : Prop} [Decidable p] {x y b : α} (h : (if p then x else y) = b) (hx : x ≠ b) : ¬p ∧ y = b := by
  split at h
  · exact absurd h hx
  · exact ⟨‹_›, h⟩

/-- What a lookup that passes has checked, and what it answers. -/
theorem State.lookup_ok (s : State) (c : Nat) (va : DWord) (n : Nat) (mode : Mode) (opf : Nat) (d : Desc) :
    s.lookup c va n mode opf = .ok d →
    d = s.slotDesc c (vaSlot va) ∧ (s.core c).expired.get (vaSlot va) false = false ∧ d.v = true ∧ d.bad = false ∧
      vaOff va + n ≤ d.bound ∧ (match mode with | .load => d.r | .store => d.w | .fetch => d.x) = true := by
  intro h
  unfold State.lookup at h
  dsimp only at h
  cases mode <;>
  · rcases ite_or h (by simp) with ⟨h1, h⟩
    rcases ite_or h (by simp) with ⟨h2, h⟩
    rcases ite_or h (by simp) with ⟨h3, h⟩
    rcases ite_or h (by simp) with ⟨h4, h⟩
    rcases ite_or h (by simp) with ⟨h5, h⟩
    simp only [Except.ok.injEq] at h
    subst h
    exact ⟨rfl, by simpa using h1, by simpa using h2, by simpa using h3, by omega, by simpa using h4⟩

/-- A segment that permits an access answers its descriptor. -/
theorem SegmentOk.lookup {s : State} {va : DWord} {n : Nat} {mode : Mode} (h : SegmentOk s va n mode) (opf : Nat) :
    s.lookup s.cur.core va n mode opf = .ok (s.seg va) := by
  have hv := h.valid
  have hb := h.good
  have hp := h.permits
  have hn := h.bound
  simp only [State.seg] at hv hb hp hn
  unfold State.lookup
  simp only [h.live, hv, hb, State.seg]
  cases mode <;> simp_all <;> omega

/-- With nothing on its way, nothing is waited for. -/
theorem State.anyLive_of_quiet {s : State} (h : s.liveIds = []) (l : List Nat) : s.anyLive l = false := by
  simp [State.anyLive, h]

/-! ### A raise and a wait (R148, R187) -/

/-- A raise answers a next state whose signal is the fault's record. -/
theorem raise_next (f : FaultInfo) (s : State) :
    ∃ t, raise f s = .next t ∧ t.cur.sig = .fault (s.mkRec s.cur.core s.cur.agent f) := ⟨_, rfl, rfl⟩

/-- A wait answers a next state whose signal says so. -/
theorem block_next (s : State) (why : Cause) : ∃ t, block s why = .next t ∧ t.cur.sig = .blocked := by
  unfold block
  dsimp only
  split <;> exact ⟨_, rfl, rfl⟩

/-! ### A store at places (R84, R201) -/

/-- A byte at a place that a store does not name stays. -/
theorem read_writePlaces_outside (ps : List Nat) (bs : List Byte) (m : List Host.Cell) (a : Nat) (hm : Memory.wf m = true) (ha : a ∉ ps) :
    Memory.read (writePlaces m ps bs) a = Memory.read m a := by
  induction ps generalizing m bs with
  | nil => simp [writePlaces]
  | cons p ps ih =>
    cases bs with
    | nil => simp [writePlaces]
    | cons b bs =>
      simp only [List.mem_cons, not_or] at ha
      simp only [writePlaces]
      rw [ih bs _ (Memory.wf_write m p b hm) ha.2, Memory.read_write_ne m p a b hm ha.1]

/-- A fold of steps that each leave a field of the state as it is. -/
theorem foldl_field {α β : Type} (g : State → β) (f : State → α → State) (h : ∀ s a, g (f s a) = g s) (l : List α) (s : State) :
    g (l.foldl f s) = g s := by
  induction l generalizing s with
  | nil => rfl
  | cons a r ih => simp [ih, h]

/-- The merge of a load's data changes no byte. -/
theorem State.loadReturns_memory (s : State) (a h : Nat) : (s.loadReturns a h).mem = s.mem := by
  unfold State.loadReturns State.setClock; (repeat' split) <;> rfl

/-- The merge of a load's data changes no poison. -/
theorem State.loadReturns_poison (s : State) (a h : Nat) : (s.loadReturns a h).poison = s.poison := by
  unfold State.loadReturns State.setClock; (repeat' split) <;> rfl

/-- The merge of a load's data changes no core. -/
theorem State.loadReturns_cores (s : State) (a h : Nat) : (s.loadReturns a h).cores = s.cores := by
  unfold State.loadReturns State.setClock; (repeat' split) <;> rfl

/-- The memory after a store at places. -/
@[simp] theorem State.storeAt_memory (s : State) (ps : List Nat) (bs : List Byte) : (s.storeAt ps bs).mem = writePlaces s.mem ps bs := by
  unfold State.storeAt
  split
  · rename_i h
    cases ps with
    | nil => simp [writePlaces]
    | cons p ps => simp at h
  · exact foldl_field State.mem _ (fun s _ => s.loadReturns_memory _ _) _ _

/-- The units that are poisoned after a store: those that it does not fill. -/
theorem State.storeAt_poison (s : State) (ps : List Nat) (bs : List Byte) :
    (s.storeAt ps bs).poison = s.poison.filter (fun u => !wholeOf ps u) := by
  unfold State.storeAt
  split
  · rename_i h
    cases ps with
    | nil => simp [wholeOf, List.range_succ, List.filter_eq_self.mpr]
    | cons p ps => simp at h
  · exact foldl_field State.poison _ (fun s _ => s.loadReturns_poison _ _) _ _

/-- A store changes no register, segment or task. -/
theorem State.storeAt_cores (s : State) (ps : List Nat) (bs : List Byte) : (s.storeAt ps bs).cores = s.cores := by
  unfold State.storeAt
  split
  · rfl
  · exact foldl_field State.cores _ (fun s _ => s.loadReturns_cores _ _) _ _

/-! ### A vector micro-order (R232, R271 to R273) -/

/-- A micro-order that takes effect answers its body's state, with its sources read before anything is written. -/
theorem vIssue_of_ready {o : VOp} {s : State} (h : VReady s o) (body : VIn → State → State) :
    vIssue o none body s = .next (State.ageHeld (body
      { a := s.vsrc o.a, b := s.vsrc o.b, d := if o.dsrc then s.vsrc o.d else 0, mask := s.me.regs.mask o.mask.toNat,
        target := (s.vStart o).1, rowA := match o.a with | some v => s.me.regs.windowRow v | none => 0 } (s.vStart o).2)) := by
  have hg : (o.gate && !s.stageOn) = false := by
    cases hh : o.gate
    · rfl
    · simp [h.gate hh]
  have ha : (o.rowA && s.rowOwned o.a) = false := by
    cases hh : o.rowA
    · rfl
    · simp [h.ownA hh]
  have hd : (o.dsrc && s.rowBad o.d) = false := by
    cases hh : o.dsrc
    · rfl
    · simp [h.cleanD hh]
  unfold vIssue
  simp only [hg, h.rowD, h.rowA, h.rowB, h.ownD, ha, h.waits, h.moves, h.cleanA, h.cleanB, hd, Bool.not_true]
  rfl

/-- A micro-order whose gate is not met has no effect but to age the held sources. -/
theorem vIssue_gated {o : VOp} {s : State} (hg : o.gate = true) (hs : s.stageOn = false) (body : VIn → State → State) :
    vIssue o none body s = .next s.ageHeld := by
  simp [vIssue, hg, hs]

end Sys2Proof.Machine
end

