-- ==== Sys2Proof/Laws/PerInstr.lean ====
section
/-! SUPPORT. Decode and encode agree, one lemma for each constructor of Instr. -/

namespace Sys2Proof.Laws.Encodes

open Sys2Proof

/-- An operand of an encoding: its lowest bit and its value. -/
structure Slot where
  lo : Nat
  k : Nat
  v : BitVec k

/-- The word of operands over the constant bits of an encoding. -/
def val : List Slot → Nat → Nat
  | [], c => c
  | ⟨lo, _, v⟩ :: r, c => place v lo (val r c)

/-- Whether bits [q + m − 1 : q] lie outside every operand. -/
def clear : List Slot → Nat → Nat → Bool
  | [], _, _ => true
  | ⟨lo, k, _⟩ :: r, q, m => (Nat.ble (q + m) lo || Nat.ble (lo + k) q) && clear r q m

/-- Whether every operand lies below bit `q`. -/
def below : List Slot → Nat → Bool
  | [], _ => true
  | ⟨lo, k, _⟩ :: r, q => Nat.ble (lo + k) q && below r q

/-- Whether the operands share no bit with each other and with the constant bits. -/
def apart : List Slot → Nat → Bool
  | [], _ => true
  | ⟨lo, k, _⟩ :: r, c => clear r lo k && Nat.beq (c / 2 ^ lo % 2 ^ k) 0 && apart r c

theorem add_low (v lo n q m : Nat) (h : q + m ≤ lo) : (v * 2 ^ lo + n) / 2 ^ q % 2 ^ m = n / 2 ^ q % 2 ^ m := by
  obtain ⟨r, rfl⟩ := Nat.exists_eq_add_of_le h
  have e : v * 2 ^ (q + m + r) + n = 2 ^ q * (2 ^ m * (v * 2 ^ r)) + n := by
    rw [Nat.pow_add, Nat.pow_add]; ac_rfl
  rw [e, Nat.mul_add_div (Nat.two_pow_pos q), Nat.mul_add_mod]

theorem add_top (v lo k n q : Nat) (hv : v < 2 ^ k) (hn : n / 2 ^ lo % 2 ^ k = 0) (h : lo + k ≤ q) : (v * 2 ^ lo + n) / 2 ^ q = n / 2 ^ q := by
  obtain ⟨r, rfl⟩ := Nat.exists_eq_add_of_le h
  have e1 : (v * 2 ^ lo + n) / 2 ^ (lo + k) = n / 2 ^ (lo + k) := by
    rw [Nat.pow_add, ← Nat.div_div_eq_div_mul, ← Nat.div_div_eq_div_mul, Nat.mul_comm v, Nat.mul_add_div (Nat.two_pow_pos lo)]
    have h2 := Nat.div_add_mod (n / 2 ^ lo) (2 ^ k)
    rw [hn, Nat.add_zero] at h2
    rw [← h2, Nat.add_comm, Nat.mul_add_div (Nat.two_pow_pos k), Nat.div_eq_of_lt hv, Nat.mul_div_cancel_left _ (Nat.two_pow_pos k)]
    simp
  rw [Nat.pow_add 2 (lo + k) r, ← Nat.div_div_eq_div_mul, e1, Nat.div_div_eq_div_mul]

theorem add_hit (v lo k n : Nat) (hv : v < 2 ^ k) (hn : n / 2 ^ lo % 2 ^ k = 0) : (v * 2 ^ lo + n) / 2 ^ lo % 2 ^ k = v := by
  rw [Nat.mul_comm v, Nat.mul_add_div (Nat.two_pow_pos lo), Nat.add_mod, hn, Nat.add_zero, Nat.mod_mod, Nat.mod_eq_of_lt hv]

theorem val_clear (fs : List Slot) (c q m : Nat) (ha : apart fs c = true) (h : clear fs q m = true) :
    val fs c / 2 ^ q % 2 ^ m = c / 2 ^ q % 2 ^ m := by
  induction fs generalizing q m with
  | nil => rfl
  | cons e r ih =>
    simp only [apart, clear, Bool.and_eq_true, Bool.or_eq_true, Nat.ble_eq] at ha h
    have ih' := fun q m => ih q m ha.2
    rcases h.1 with h1 | h1
    · rw [val, place, add_low _ _ _ q m h1]; exact ih' q m h.2
    · rw [val, place, add_top _ _ e.k _ q e.v.isLt ((ih' e.lo e.k ha.1.1).trans (Nat.eq_of_beq_eq_true ha.1.2)) h1]; exact ih' q m h.2

theorem val_below (fs : List Slot) (c q : Nat) (ha : apart fs c = true) (h : below fs q = true) : val fs c / 2 ^ q = c / 2 ^ q := by
  induction fs with
  | nil => rfl
  | cons e r ih =>
    simp only [apart, below, Bool.and_eq_true, Nat.ble_eq] at ha h
    rw [val, place, add_top _ _ e.k _ q e.v.isLt ((val_clear r c e.lo e.k ha.2 ha.1.1).trans (Nat.eq_of_beq_eq_true ha.1.2)) h.1]
    exact ih ha.2 h.2

theorem clear_apart (r : List Slot) (q m i : Nat) (e : Slot) (hc : clear r q m = true) (h : r[i]? = some e) : q + m ≤ e.lo ∨ e.lo + e.k ≤ q := by
  induction r generalizing i with
  | nil => simp at h
  | cons x r ih =>
    simp only [clear, Bool.and_eq_true, Bool.or_eq_true, Nat.ble_eq] at hc
    cases i with
    | zero =>
      simp only [List.getElem?_cons_zero, Option.some.injEq] at h
      subst h; exact hc.1
    | succ i => exact ih i hc.2 (by simpa using h)

theorem val_hit (fs : List Slot) (c i : Nat) (e : Slot) (ha : apart fs c = true) (h : fs[i]? = some e) :
    val fs c / 2 ^ e.lo % 2 ^ e.k = e.v.toNat := by
  induction fs generalizing i with
  | nil => simp at h
  | cons x r ih =>
    simp only [apart, Bool.and_eq_true] at ha
    have hz := (val_clear r c x.lo x.k ha.2 ha.1.1).trans (Nat.eq_of_beq_eq_true ha.1.2)
    cases i with
    | zero =>
      simp only [List.getElem?_cons_zero, Option.some.injEq] at h
      subst h
      exact add_hit _ _ _ _ x.v.isLt hz
    | succ i =>
      have hr : r[i]? = some e := by simpa using h
      rcases clear_apart r x.lo x.k i e ha.1.1 hr with h1 | h1
      · rw [val, place, add_top _ _ x.k _ e.lo x.v.isLt hz h1]; exact ih i ha.2 hr
      · rw [val, place, add_low _ _ _ e.lo e.k h1]; exact ih i ha.2 hr

theorem fld_val (fs : List Slot) (c i lo k : Nat) (v : BitVec k) (ha : apart fs c = true) (h : fs[i]? = some ⟨lo, k, v⟩) :
    fld (val fs c) lo k = v := by
  apply BitVec.eq_of_toNat_eq
  rw [fld, BitVec.toNat_ofNat]
  exact val_hit fs c i ⟨lo, k, v⟩ ha h

theorem toNat_val (fs : List Slot) (c : Nat) (ha : apart fs c = true) (h : below fs 32 = true) (hc : c / 2 ^ 32 = 0) :
    (BitVec.ofNat 32 (val fs c)).toNat = val fs c := by
  have := val_below fs c 32 ha h
  rw [hc] at this
  rw [BitVec.toNat_ofNat]
  exact Nat.mod_eq_of_lt (Nat.lt_of_div_eq_zero (Nat.two_pow_pos 32) this)

theorem row_ok (n : Nat) (zs : List (Nat × Nat × Field)) (i : Instr) (hw : i.wf = true) (hz : ∀ z ∈ zs, n / 2 ^ z.1 % 2 ^ z.2.1 = 0) :
    row n zs i = .ok i := by
  have h : zs.find? (fun z => decide (n / 2 ^ z.1 % 2 ^ z.2.1 ≠ 0)) = none := by
    rw [List.find?_eq_none]
    intro z hm
    simpa using hz z hm
  have : i.check = none := Option.isNone_iff_eq_none.1 hw
  rw [row, h]
  simp only [this]

theorem ne_lit {n k v : Nat} (h : n = k) (hv : k ≠ v) (e : n = v) : False := hv (h.symm.trans e)

theorem ne_sub {n c : Nat} (q w s m v : Nat) (h : n / 2 ^ (q + s) % 2 ^ m = c) (hs : s + m ≤ w) (hv : v / 2 ^ s % 2 ^ m ≠ c)
    (e : n / 2 ^ q % 2 ^ w = v) : False := by
  apply hv
  rw [← e, ← h, Nat.pow_add, ← Nat.div_div_eq_div_mul]
  obtain ⟨r, rfl⟩ := Nat.exists_eq_add_of_le hs
  rw [Nat.add_assoc, Nat.pow_add 2 s (m + r), Nat.mod_mul_right_div_self, Nat.pow_add 2 m r, Nat.mod_mul_right_mod]

/-- Decoding the word of a well-formed instruction in its own space gives the instruction back (R221 to R237). -/
def Statement (i : Instr) : Prop := ∀ sp, i.space = some sp → i.wf = true → decodeIn sp (encode i) = .ok i


theorem encodes_of (i : Instr) (sp : Space) (fs : List Slot) (c : Nat) (hsp : i.space = some sp) (he : encode i = BitVec.ofNat 32 (val fs c))
    (ha : apart fs c = true) (hb : below fs 32 = true) (hc : c / 2 ^ 32 = 0)
    (hd : i.wf = true → ∀ w : Word, w.toNat = val fs c → decodeIn sp w = .ok i) : Statement i := by
  intro sp' hs hw
  rw [hsp] at hs
  obtain rfl := Option.some.inj hs
  refine hd hw _ ?_
  rw [he]; exact toNat_val fs c ha hb hc

theorem add : ∀ vd va vb, Statement (.add vd va vb) := by
  intro vd va vb
  refine encodes_of _ .control [⟨21, 5, vd⟩, ⟨16, 5, va⟩, ⟨11, 5, vb⟩] 0x0 rfl rfl rfl rfl rfl fun hw w hn => ?_
  have ha : apart [⟨21, 5, vd⟩, ⟨16, 5, va⟩, ⟨11, 5, vb⟩] 0x0 = true := rfl
  have g0 := fld_val _ _ 0 21 5 vd ha rfl
  have g1 := fld_val _ _ 1 16 5 va ha rfl
  have g2 := fld_val _ _ 2 11 5 vb ha rfl
  have c0 : _ / 2 ^ 26 = 0x0 := val_below _ _ 26 ha rfl
  have c1 : _ / 2 ^ 26 % 2 ^ 6 = 0x0 := val_clear _ _ 26 6 ha rfl
  have c2 : _ / 2 ^ 0 % 2 ^ 11 = 0x0 := val_clear _ _ 0 11 ha rfl
  rw [← hn] at g0 g1 g2 c0 c1 c2
  show decodeControl w = _
  delta decodeControl
  dsimp only
  rw [c0]
  show decodeControl00 w.toNat = _
  delta decodeControl00
  rw [c1, c2]
  show row w.toNat [] (.add (fld w.toNat 21 5) (fld w.toNat 16 5) (fld w.toNat 11 5)) = _
  rw [g0, g1, g2]
  exact row_ok _ _ _ hw (fun _ h => nomatch h)

theorem sub : ∀ vd va vb, Statement (.sub vd va vb) := by
  intro vd va vb
  refine encodes_of _ .control [⟨21, 5, vd⟩, ⟨16, 5, va⟩, ⟨11, 5, vb⟩] 0x1 rfl rfl rfl rfl rfl fun hw w hn => ?_
  have ha : apart [⟨21, 5, vd⟩, ⟨16, 5, va⟩, ⟨11, 5, vb⟩] 0x1 = true := rfl
  have g0 := fld_val _ _ 0 21 5 vd ha rfl
  have g1 := fld_val _ _ 1 16 5 va ha rfl
  have g2 := fld_val _ _ 2 11 5 vb ha rfl
  have c0 : _ / 2 ^ 26 = 0x0 := val_below _ _ 26 ha rfl
  have c1 : _ / 2 ^ 26 % 2 ^ 6 = 0x0 := val_clear _ _ 26 6 ha rfl
  have c2 : _ / 2 ^ 0 % 2 ^ 11 = 0x1 := val_clear _ _ 0 11 ha rfl
  rw [← hn] at g0 g1 g2 c0 c1 c2
  show decodeControl w = _
  delta decodeControl
  dsimp only
  rw [c0]
  show decodeControl00 w.toNat = _
  delta decodeControl00
  rw [c1, c2]
  show row w.toNat [] (.sub (fld w.toNat 21 5) (fld w.toNat 16 5) (fld w.toNat 11 5)) = _
  rw [g0, g1, g2]
  exact row_ok _ _ _ hw (fun _ h => nomatch h)

theorem and : ∀ vd va vb, Statement (.and vd va vb) := by
  intro vd va vb
  refine encodes_of _ .control [⟨21, 5, vd⟩, ⟨16, 5, va⟩, ⟨11, 5, vb⟩] 0x2 rfl rfl rfl rfl rfl fun hw w hn => ?_
  have ha : apart [⟨21, 5, vd⟩, ⟨16, 5, va⟩, ⟨11, 5, vb⟩] 0x2 = true := rfl
  have g0 := fld_val _ _ 0 21 5 vd ha rfl
  have g1 := fld_val _ _ 1 16 5 va ha rfl
  have g2 := fld_val _ _ 2 11 5 vb ha rfl
  have c0 : _ / 2 ^ 26 = 0x0 := val_below _ _ 26 ha rfl
  have c1 : _ / 2 ^ 26 % 2 ^ 6 = 0x0 := val_clear _ _ 26 6 ha rfl
  have c2 : _ / 2 ^ 0 % 2 ^ 11 = 0x2 := val_clear _ _ 0 11 ha rfl
  rw [← hn] at g0 g1 g2 c0 c1 c2
  show decodeControl w = _
  delta decodeControl
  dsimp only
  rw [c0]
  show decodeControl00 w.toNat = _
  delta decodeControl00
  rw [c1, c2]
  show row w.toNat [] (.and (fld w.toNat 21 5) (fld w.toNat 16 5) (fld w.toNat 11 5)) = _
  rw [g0, g1, g2]
  exact row_ok _ _ _ hw (fun _ h => nomatch h)

theorem or : ∀ vd va vb, Statement (.or vd va vb) := by
  intro vd va vb
  refine encodes_of _ .control [⟨21, 5, vd⟩, ⟨16, 5, va⟩, ⟨11, 5, vb⟩] 0x3 rfl rfl rfl rfl rfl fun hw w hn => ?_
  have ha : apart [⟨21, 5, vd⟩, ⟨16, 5, va⟩, ⟨11, 5, vb⟩] 0x3 = true := rfl
  have g0 := fld_val _ _ 0 21 5 vd ha rfl
  have g1 := fld_val _ _ 1 16 5 va ha rfl
  have g2 := fld_val _ _ 2 11 5 vb ha rfl
  have c0 : _ / 2 ^ 26 = 0x0 := val_below _ _ 26 ha rfl
  have c1 : _ / 2 ^ 26 % 2 ^ 6 = 0x0 := val_clear _ _ 26 6 ha rfl
  have c2 : _ / 2 ^ 0 % 2 ^ 11 = 0x3 := val_clear _ _ 0 11 ha rfl
  rw [← hn] at g0 g1 g2 c0 c1 c2
  show decodeControl w = _
  delta decodeControl
  dsimp only
  rw [c0]
  show decodeControl00 w.toNat = _
  delta decodeControl00
  rw [c1, c2]
  show row w.toNat [] (.or (fld w.toNat 21 5) (fld w.toNat 16 5) (fld w.toNat 11 5)) = _
  rw [g0, g1, g2]
  exact row_ok _ _ _ hw (fun _ h => nomatch h)

theorem xor : ∀ vd va vb, Statement (.xor vd va vb) := by
  intro vd va vb
  refine encodes_of _ .control [⟨21, 5, vd⟩, ⟨16, 5, va⟩, ⟨11, 5, vb⟩] 0x4 rfl rfl rfl rfl rfl fun hw w hn => ?_
  have ha : apart [⟨21, 5, vd⟩, ⟨16, 5, va⟩, ⟨11, 5, vb⟩] 0x4 = true := rfl
  have g0 := fld_val _ _ 0 21 5 vd ha rfl
  have g1 := fld_val _ _ 1 16 5 va ha rfl
  have g2 := fld_val _ _ 2 11 5 vb ha rfl
  have c0 : _ / 2 ^ 26 = 0x0 := val_below _ _ 26 ha rfl
  have c1 : _ / 2 ^ 26 % 2 ^ 6 = 0x0 := val_clear _ _ 26 6 ha rfl
  have c2 : _ / 2 ^ 0 % 2 ^ 11 = 0x4 := val_clear _ _ 0 11 ha rfl
  rw [← hn] at g0 g1 g2 c0 c1 c2
  show decodeControl w = _
  delta decodeControl
  dsimp only
  rw [c0]
  show decodeControl00 w.toNat = _
  delta decodeControl00
  rw [c1, c2]
  show row w.toNat [] (.xor (fld w.toNat 21 5) (fld w.toNat 16 5) (fld w.toNat 11 5)) = _
  rw [g0, g1, g2]
  exact row_ok _ _ _ hw (fun _ h => nomatch h)

theorem andn : ∀ vd va vb, Statement (.andn vd va vb) := by
  intro vd va vb
  refine encodes_of _ .control [⟨21, 5, vd⟩, ⟨16, 5, va⟩, ⟨11, 5, vb⟩] 0x5 rfl rfl rfl rfl rfl fun hw w hn => ?_
  have ha : apart [⟨21, 5, vd⟩, ⟨16, 5, va⟩, ⟨11, 5, vb⟩] 0x5 = true := rfl
  have g0 := fld_val _ _ 0 21 5 vd ha rfl
  have g1 := fld_val _ _ 1 16 5 va ha rfl
  have g2 := fld_val _ _ 2 11 5 vb ha rfl
  have c0 : _ / 2 ^ 26 = 0x0 := val_below _ _ 26 ha rfl
  have c1 : _ / 2 ^ 26 % 2 ^ 6 = 0x0 := val_clear _ _ 26 6 ha rfl
  have c2 : _ / 2 ^ 0 % 2 ^ 11 = 0x5 := val_clear _ _ 0 11 ha rfl
  rw [← hn] at g0 g1 g2 c0 c1 c2
  show decodeControl w = _
  delta decodeControl
  dsimp only
  rw [c0]
  show decodeControl00 w.toNat = _
  delta decodeControl00
  rw [c1, c2]
  show row w.toNat [] (.andn (fld w.toNat 21 5) (fld w.toNat 16 5) (fld w.toNat 11 5)) = _
  rw [g0, g1, g2]
  exact row_ok _ _ _ hw (fun _ h => nomatch h)

theorem sll : ∀ vd va vb, Statement (.sll vd va vb) := by
  intro vd va vb
  refine encodes_of _ .control [⟨21, 5, vd⟩, ⟨16, 5, va⟩, ⟨11, 5, vb⟩] 0x6 rfl rfl rfl rfl rfl fun hw w hn => ?_
  have ha : apart [⟨21, 5, vd⟩, ⟨16, 5, va⟩, ⟨11, 5, vb⟩] 0x6 = true := rfl
  have g0 := fld_val _ _ 0 21 5 vd ha rfl
  have g1 := fld_val _ _ 1 16 5 va ha rfl
  have g2 := fld_val _ _ 2 11 5 vb ha rfl
  have c0 : _ / 2 ^ 26 = 0x0 := val_below _ _ 26 ha rfl
  have c1 : _ / 2 ^ 26 % 2 ^ 6 = 0x0 := val_clear _ _ 26 6 ha rfl
  have c2 : _ / 2 ^ 0 % 2 ^ 11 = 0x6 := val_clear _ _ 0 11 ha rfl
  rw [← hn] at g0 g1 g2 c0 c1 c2
  show decodeControl w = _
  delta decodeControl
  dsimp only
  rw [c0]
  show decodeControl00 w.toNat = _
  delta decodeControl00
  rw [c1, c2]
  show row w.toNat [] (.sll (fld w.toNat 21 5) (fld w.toNat 16 5) (fld w.toNat 11 5)) = _
  rw [g0, g1, g2]
  exact row_ok _ _ _ hw (fun _ h => nomatch h)

theorem srl : ∀ vd va vb, Statement (.srl vd va vb) := by
  intro vd va vb
  refine encodes_of _ .control [⟨21, 5, vd⟩, ⟨16, 5, va⟩, ⟨11, 5, vb⟩] 0x7 rfl rfl rfl rfl rfl fun hw w hn => ?_
  have ha : apart [⟨21, 5, vd⟩, ⟨16, 5, va⟩, ⟨11, 5, vb⟩] 0x7 = true := rfl
  have g0 := fld_val _ _ 0 21 5 vd ha rfl
  have g1 := fld_val _ _ 1 16 5 va ha rfl
  have g2 := fld_val _ _ 2 11 5 vb ha rfl
  have c0 : _ / 2 ^ 26 = 0x0 := val_below _ _ 26 ha rfl
  have c1 : _ / 2 ^ 26 % 2 ^ 6 = 0x0 := val_clear _ _ 26 6 ha rfl
  have c2 : _ / 2 ^ 0 % 2 ^ 11 = 0x7 := val_clear _ _ 0 11 ha rfl
  rw [← hn] at g0 g1 g2 c0 c1 c2
  show decodeControl w = _
  delta decodeControl
  dsimp only
  rw [c0]
  show decodeControl00 w.toNat = _
  delta decodeControl00
  rw [c1, c2]
  show row w.toNat [] (.srl (fld w.toNat 21 5) (fld w.toNat 16 5) (fld w.toNat 11 5)) = _
  rw [g0, g1, g2]
  exact row_ok _ _ _ hw (fun _ h => nomatch h)

theorem sra : ∀ vd va vb, Statement (.sra vd va vb) := by
  intro vd va vb
  refine encodes_of _ .control [⟨21, 5, vd⟩, ⟨16, 5, va⟩, ⟨11, 5, vb⟩] 0x8 rfl rfl rfl rfl rfl fun hw w hn => ?_
  have ha : apart [⟨21, 5, vd⟩, ⟨16, 5, va⟩, ⟨11, 5, vb⟩] 0x8 = true := rfl
  have g0 := fld_val _ _ 0 21 5 vd ha rfl
  have g1 := fld_val _ _ 1 16 5 va ha rfl
  have g2 := fld_val _ _ 2 11 5 vb ha rfl
  have c0 : _ / 2 ^ 26 = 0x0 := val_below _ _ 26 ha rfl
  have c1 : _ / 2 ^ 26 % 2 ^ 6 = 0x0 := val_clear _ _ 26 6 ha rfl
  have c2 : _ / 2 ^ 0 % 2 ^ 11 = 0x8 := val_clear _ _ 0 11 ha rfl
  rw [← hn] at g0 g1 g2 c0 c1 c2
  show decodeControl w = _
  delta decodeControl
  dsimp only
  rw [c0]
  show decodeControl00 w.toNat = _
  delta decodeControl00
  rw [c1, c2]
  show row w.toNat [] (.sra (fld w.toNat 21 5) (fld w.toNat 16 5) (fld w.toNat 11 5)) = _
  rw [g0, g1, g2]
  exact row_ok _ _ _ hw (fun _ h => nomatch h)

theorem mul : ∀ vd va vb, Statement (.mul vd va vb) := by
  intro vd va vb
  refine encodes_of _ .control [⟨21, 5, vd⟩, ⟨16, 5, va⟩, ⟨11, 5, vb⟩] 0x9 rfl rfl rfl rfl rfl fun hw w hn => ?_
  have ha : apart [⟨21, 5, vd⟩, ⟨16, 5, va⟩, ⟨11, 5, vb⟩] 0x9 = true := rfl
  have g0 := fld_val _ _ 0 21 5 vd ha rfl
  have g1 := fld_val _ _ 1 16 5 va ha rfl
  have g2 := fld_val _ _ 2 11 5 vb ha rfl
  have c0 : _ / 2 ^ 26 = 0x0 := val_below _ _ 26 ha rfl
  have c1 : _ / 2 ^ 26 % 2 ^ 6 = 0x0 := val_clear _ _ 26 6 ha rfl
  have c2 : _ / 2 ^ 0 % 2 ^ 11 = 0x9 := val_clear _ _ 0 11 ha rfl
  rw [← hn] at g0 g1 g2 c0 c1 c2
  show decodeControl w = _
  delta decodeControl
  dsimp only
  rw [c0]
  show decodeControl00 w.toNat = _
  delta decodeControl00
  rw [c1, c2]
  show row w.toNat [] (.mul (fld w.toNat 21 5) (fld w.toNat 16 5) (fld w.toNat 11 5)) = _
  rw [g0, g1, g2]
  exact row_ok _ _ _ hw (fun _ h => nomatch h)

theorem mulh : ∀ vd va vb, Statement (.mulh vd va vb) := by
  intro vd va vb
  refine encodes_of _ .control [⟨21, 5, vd⟩, ⟨16, 5, va⟩, ⟨11, 5, vb⟩] 0xa rfl rfl rfl rfl rfl fun hw w hn => ?_
  have ha : apart [⟨21, 5, vd⟩, ⟨16, 5, va⟩, ⟨11, 5, vb⟩] 0xa = true := rfl
  have g0 := fld_val _ _ 0 21 5 vd ha rfl
  have g1 := fld_val _ _ 1 16 5 va ha rfl
  have g2 := fld_val _ _ 2 11 5 vb ha rfl
  have c0 : _ / 2 ^ 26 = 0x0 := val_below _ _ 26 ha rfl
  have c1 : _ / 2 ^ 26 % 2 ^ 6 = 0x0 := val_clear _ _ 26 6 ha rfl
  have c2 : _ / 2 ^ 0 % 2 ^ 11 = 0xa := val_clear _ _ 0 11 ha rfl
  rw [← hn] at g0 g1 g2 c0 c1 c2
  show decodeControl w = _
  delta decodeControl
  dsimp only
  rw [c0]
  show decodeControl00 w.toNat = _
  delta decodeControl00
  rw [c1, c2]
  show row w.toNat [] (.mulh (fld w.toNat 21 5) (fld w.toNat 16 5) (fld w.toNat 11 5)) = _
  rw [g0, g1, g2]
  exact row_ok _ _ _ hw (fun _ h => nomatch h)

theorem mulhn : ∀ vd va vb, Statement (.mulhn vd va vb) := by
  intro vd va vb
  refine encodes_of _ .control [⟨21, 5, vd⟩, ⟨16, 5, va⟩, ⟨11, 5, vb⟩] 0xb rfl rfl rfl rfl rfl fun hw w hn => ?_
  have ha : apart [⟨21, 5, vd⟩, ⟨16, 5, va⟩, ⟨11, 5, vb⟩] 0xb = true := rfl
  have g0 := fld_val _ _ 0 21 5 vd ha rfl
  have g1 := fld_val _ _ 1 16 5 va ha rfl
  have g2 := fld_val _ _ 2 11 5 vb ha rfl
  have c0 : _ / 2 ^ 26 = 0x0 := val_below _ _ 26 ha rfl
  have c1 : _ / 2 ^ 26 % 2 ^ 6 = 0x0 := val_clear _ _ 26 6 ha rfl
  have c2 : _ / 2 ^ 0 % 2 ^ 11 = 0xb := val_clear _ _ 0 11 ha rfl
  rw [← hn] at g0 g1 g2 c0 c1 c2
  show decodeControl w = _
  delta decodeControl
  dsimp only
  rw [c0]
  show decodeControl00 w.toNat = _
  delta decodeControl00
  rw [c1, c2]
  show row w.toNat [] (.mulhn (fld w.toNat 21 5) (fld w.toNat 16 5) (fld w.toNat 11 5)) = _
  rw [g0, g1, g2]
  exact row_ok _ _ _ hw (fun _ h => nomatch h)

theorem min : ∀ vd va vb, Statement (.min vd va vb) := by
  intro vd va vb
  refine encodes_of _ .control [⟨21, 5, vd⟩, ⟨16, 5, va⟩, ⟨11, 5, vb⟩] 0xc rfl rfl rfl rfl rfl fun hw w hn => ?_
  have ha : apart [⟨21, 5, vd⟩, ⟨16, 5, va⟩, ⟨11, 5, vb⟩] 0xc = true := rfl
  have g0 := fld_val _ _ 0 21 5 vd ha rfl
  have g1 := fld_val _ _ 1 16 5 va ha rfl
  have g2 := fld_val _ _ 2 11 5 vb ha rfl
  have c0 : _ / 2 ^ 26 = 0x0 := val_below _ _ 26 ha rfl
  have c1 : _ / 2 ^ 26 % 2 ^ 6 = 0x0 := val_clear _ _ 26 6 ha rfl
  have c2 : _ / 2 ^ 0 % 2 ^ 11 = 0xc := val_clear _ _ 0 11 ha rfl
  rw [← hn] at g0 g1 g2 c0 c1 c2
  show decodeControl w = _
  delta decodeControl
  dsimp only
  rw [c0]
  show decodeControl00 w.toNat = _
  delta decodeControl00
  rw [c1, c2]
  show row w.toNat [] (.min (fld w.toNat 21 5) (fld w.toNat 16 5) (fld w.toNat 11 5)) = _
  rw [g0, g1, g2]
  exact row_ok _ _ _ hw (fun _ h => nomatch h)

theorem max : ∀ vd va vb, Statement (.max vd va vb) := by
  intro vd va vb
  refine encodes_of _ .control [⟨21, 5, vd⟩, ⟨16, 5, va⟩, ⟨11, 5, vb⟩] 0xd rfl rfl rfl rfl rfl fun hw w hn => ?_
  have ha : apart [⟨21, 5, vd⟩, ⟨16, 5, va⟩, ⟨11, 5, vb⟩] 0xd = true := rfl
  have g0 := fld_val _ _ 0 21 5 vd ha rfl
  have g1 := fld_val _ _ 1 16 5 va ha rfl
  have g2 := fld_val _ _ 2 11 5 vb ha rfl
  have c0 : _ / 2 ^ 26 = 0x0 := val_below _ _ 26 ha rfl
  have c1 : _ / 2 ^ 26 % 2 ^ 6 = 0x0 := val_clear _ _ 26 6 ha rfl
  have c2 : _ / 2 ^ 0 % 2 ^ 11 = 0xd := val_clear _ _ 0 11 ha rfl
  rw [← hn] at g0 g1 g2 c0 c1 c2
  show decodeControl w = _
  delta decodeControl
  dsimp only
  rw [c0]
  show decodeControl00 w.toNat = _
  delta decodeControl00
  rw [c1, c2]
  show row w.toNat [] (.max (fld w.toNat 21 5) (fld w.toNat 16 5) (fld w.toNat 11 5)) = _
  rw [g0, g1, g2]
  exact row_ok _ _ _ hw (fun _ h => nomatch h)

theorem minn : ∀ vd va vb, Statement (.minn vd va vb) := by
  intro vd va vb
  refine encodes_of _ .control [⟨21, 5, vd⟩, ⟨16, 5, va⟩, ⟨11, 5, vb⟩] 0xe rfl rfl rfl rfl rfl fun hw w hn => ?_
  have ha : apart [⟨21, 5, vd⟩, ⟨16, 5, va⟩, ⟨11, 5, vb⟩] 0xe = true := rfl
  have g0 := fld_val _ _ 0 21 5 vd ha rfl
  have g1 := fld_val _ _ 1 16 5 va ha rfl
  have g2 := fld_val _ _ 2 11 5 vb ha rfl
  have c0 : _ / 2 ^ 26 = 0x0 := val_below _ _ 26 ha rfl
  have c1 : _ / 2 ^ 26 % 2 ^ 6 = 0x0 := val_clear _ _ 26 6 ha rfl
  have c2 : _ / 2 ^ 0 % 2 ^ 11 = 0xe := val_clear _ _ 0 11 ha rfl
  rw [← hn] at g0 g1 g2 c0 c1 c2
  show decodeControl w = _
  delta decodeControl
  dsimp only
  rw [c0]
  show decodeControl00 w.toNat = _
  delta decodeControl00
  rw [c1, c2]
  show row w.toNat [] (.minn (fld w.toNat 21 5) (fld w.toNat 16 5) (fld w.toNat 11 5)) = _
  rw [g0, g1, g2]
  exact row_ok _ _ _ hw (fun _ h => nomatch h)

theorem maxn : ∀ vd va vb, Statement (.maxn vd va vb) := by
  intro vd va vb
  refine encodes_of _ .control [⟨21, 5, vd⟩, ⟨16, 5, va⟩, ⟨11, 5, vb⟩] 0xf rfl rfl rfl rfl rfl fun hw w hn => ?_
  have ha : apart [⟨21, 5, vd⟩, ⟨16, 5, va⟩, ⟨11, 5, vb⟩] 0xf = true := rfl
  have g0 := fld_val _ _ 0 21 5 vd ha rfl
  have g1 := fld_val _ _ 1 16 5 va ha rfl
  have g2 := fld_val _ _ 2 11 5 vb ha rfl
  have c0 : _ / 2 ^ 26 = 0x0 := val_below _ _ 26 ha rfl
  have c1 : _ / 2 ^ 26 % 2 ^ 6 = 0x0 := val_clear _ _ 26 6 ha rfl
  have c2 : _ / 2 ^ 0 % 2 ^ 11 = 0xf := val_clear _ _ 0 11 ha rfl
  rw [← hn] at g0 g1 g2 c0 c1 c2
  show decodeControl w = _
  delta decodeControl
  dsimp only
  rw [c0]
  show decodeControl00 w.toNat = _
  delta decodeControl00
  rw [c1, c2]
  show row w.toNat [] (.maxn (fld w.toNat 21 5) (fld w.toNat 16 5) (fld w.toNat 11 5)) = _
  rw [g0, g1, g2]
  exact row_ok _ _ _ hw (fun _ h => nomatch h)

theorem clz : ∀ vd va, Statement (.clz vd va) := by
  intro vd va
  refine encodes_of _ .control [⟨21, 5, vd⟩, ⟨16, 5, va⟩] 0x10 rfl rfl rfl rfl rfl fun hw w hn => ?_
  have ha : apart [⟨21, 5, vd⟩, ⟨16, 5, va⟩] 0x10 = true := rfl
  have g0 := fld_val _ _ 0 21 5 vd ha rfl
  have g1 := fld_val _ _ 1 16 5 va ha rfl
  have c0 : _ / 2 ^ 26 = 0x0 := val_below _ _ 26 ha rfl
  have c1 : _ / 2 ^ 26 % 2 ^ 6 = 0x0 := val_clear _ _ 26 6 ha rfl
  have c2 : _ / 2 ^ 0 % 2 ^ 11 = 0x10 := val_clear _ _ 0 11 ha rfl
  have z0 : _ / 2 ^ 11 % 2 ^ 5 = 0 := val_clear _ _ 11 5 ha rfl
  rw [← hn] at g0 g1 c0 c1 c2 z0
  show decodeControl w = _
  delta decodeControl
  dsimp only
  rw [c0]
  show decodeControl00 w.toNat = _
  delta decodeControl00
  rw [c1, c2]
  show row w.toNat [(11, 5, .b)] (.clz (fld w.toNat 21 5) (fld w.toNat 16 5)) = _
  rw [g0, g1]
  exact row_ok _ _ _ hw (List.forall_mem_cons.2 ⟨z0, fun _ h => nomatch h⟩)

theorem popc : ∀ vd va, Statement (.popc vd va) := by
  intro vd va
  refine encodes_of _ .control [⟨21, 5, vd⟩, ⟨16, 5, va⟩] 0x11 rfl rfl rfl rfl rfl fun hw w hn => ?_
  have ha : apart [⟨21, 5, vd⟩, ⟨16, 5, va⟩] 0x11 = true := rfl
  have g0 := fld_val _ _ 0 21 5 vd ha rfl
  have g1 := fld_val _ _ 1 16 5 va ha rfl
  have c0 : _ / 2 ^ 26 = 0x0 := val_below _ _ 26 ha rfl
  have c1 : _ / 2 ^ 26 % 2 ^ 6 = 0x0 := val_clear _ _ 26 6 ha rfl
  have c2 : _ / 2 ^ 0 % 2 ^ 11 = 0x11 := val_clear _ _ 0 11 ha rfl
  have z0 : _ / 2 ^ 11 % 2 ^ 5 = 0 := val_clear _ _ 11 5 ha rfl
  rw [← hn] at g0 g1 c0 c1 c2 z0
  show decodeControl w = _
  delta decodeControl
  dsimp only
  rw [c0]
  show decodeControl00 w.toNat = _
  delta decodeControl00
  rw [c1, c2]
  show row w.toNat [(11, 5, .b)] (.popc (fld w.toNat 21 5) (fld w.toNat 16 5)) = _
  rw [g0, g1]
  exact row_ok _ _ _ hw (List.forall_mem_cons.2 ⟨z0, fun _ h => nomatch h⟩)

theorem ceq : ∀ vd va vb, Statement (.ceq vd va vb) := by
  intro vd va vb
  refine encodes_of _ .control [⟨21, 3, vd⟩, ⟨16, 5, va⟩, ⟨11, 5, vb⟩] 0x4000000 rfl rfl rfl rfl rfl fun hw w hn => ?_
  have ha : apart [⟨21, 3, vd⟩, ⟨16, 5, va⟩, ⟨11, 5, vb⟩] 0x4000000 = true := rfl
  have g0 := fld_val _ _ 0 21 3 vd ha rfl
  have g1 := fld_val _ _ 1 16 5 va ha rfl
  have g2 := fld_val _ _ 2 11 5 vb ha rfl
  have c0 : _ / 2 ^ 26 = 0x1 := val_below _ _ 26 ha rfl
  have c1 : _ / 2 ^ 26 % 2 ^ 6 = 0x1 := val_clear _ _ 26 6 ha rfl
  have c2 : _ / 2 ^ 0 % 2 ^ 11 = 0x0 := val_clear _ _ 0 11 ha rfl
  have z0 : _ / 2 ^ 24 % 2 ^ 2 = 0 := val_clear _ _ 24 2 ha rfl
  rw [← hn] at g0 g1 g2 c0 c1 c2 z0
  show decodeControl w = _
  delta decodeControl
  dsimp only
  rw [c0]
  show decodeControl01 w.toNat = _
  delta decodeControl01
  rw [c1, c2]
  show row w.toNat [(24, 2, .d)] (.ceq (fld w.toNat 21 3) (fld w.toNat 16 5) (fld w.toNat 11 5)) = _
  rw [g0, g1, g2]
  exact row_ok _ _ _ hw (List.forall_mem_cons.2 ⟨z0, fun _ h => nomatch h⟩)

theorem cne : ∀ vd va vb, Statement (.cne vd va vb) := by
  intro vd va vb
  refine encodes_of _ .control [⟨21, 3, vd⟩, ⟨16, 5, va⟩, ⟨11, 5, vb⟩] 0x4000001 rfl rfl rfl rfl rfl fun hw w hn => ?_
  have ha : apart [⟨21, 3, vd⟩, ⟨16, 5, va⟩, ⟨11, 5, vb⟩] 0x4000001 = true := rfl
  have g0 := fld_val _ _ 0 21 3 vd ha rfl
  have g1 := fld_val _ _ 1 16 5 va ha rfl
  have g2 := fld_val _ _ 2 11 5 vb ha rfl
  have c0 : _ / 2 ^ 26 = 0x1 := val_below _ _ 26 ha rfl
  have c1 : _ / 2 ^ 26 % 2 ^ 6 = 0x1 := val_clear _ _ 26 6 ha rfl
  have c2 : _ / 2 ^ 0 % 2 ^ 11 = 0x1 := val_clear _ _ 0 11 ha rfl
  have z0 : _ / 2 ^ 24 % 2 ^ 2 = 0 := val_clear _ _ 24 2 ha rfl
  rw [← hn] at g0 g1 g2 c0 c1 c2 z0
  show decodeControl w = _
  delta decodeControl
  dsimp only
  rw [c0]
  show decodeControl01 w.toNat = _
  delta decodeControl01
  rw [c1, c2]
  show row w.toNat [(24, 2, .d)] (.cne (fld w.toNat 21 3) (fld w.toNat 16 5) (fld w.toNat 11 5)) = _
  rw [g0, g1, g2]
  exact row_ok _ _ _ hw (List.forall_mem_cons.2 ⟨z0, fun _ h => nomatch h⟩)

theorem clt : ∀ vd va vb, Statement (.clt vd va vb) := by
  intro vd va vb
  refine encodes_of _ .control [⟨21, 3, vd⟩, ⟨16, 5, va⟩, ⟨11, 5, vb⟩] 0x4000002 rfl rfl rfl rfl rfl fun hw w hn => ?_
  have ha : apart [⟨21, 3, vd⟩, ⟨16, 5, va⟩, ⟨11, 5, vb⟩] 0x4000002 = true := rfl
  have g0 := fld_val _ _ 0 21 3 vd ha rfl
  have g1 := fld_val _ _ 1 16 5 va ha rfl
  have g2 := fld_val _ _ 2 11 5 vb ha rfl
  have c0 : _ / 2 ^ 26 = 0x1 := val_below _ _ 26 ha rfl
  have c1 : _ / 2 ^ 26 % 2 ^ 6 = 0x1 := val_clear _ _ 26 6 ha rfl
  have c2 : _ / 2 ^ 0 % 2 ^ 11 = 0x2 := val_clear _ _ 0 11 ha rfl
  have z0 : _ / 2 ^ 24 % 2 ^ 2 = 0 := val_clear _ _ 24 2 ha rfl
  rw [← hn] at g0 g1 g2 c0 c1 c2 z0
  show decodeControl w = _
  delta decodeControl
  dsimp only
  rw [c0]
  show decodeControl01 w.toNat = _
  delta decodeControl01
  rw [c1, c2]
  show row w.toNat [(24, 2, .d)] (.clt (fld w.toNat 21 3) (fld w.toNat 16 5) (fld w.toNat 11 5)) = _
  rw [g0, g1, g2]
  exact row_ok _ _ _ hw (List.forall_mem_cons.2 ⟨z0, fun _ h => nomatch h⟩)

theorem cge : ∀ vd va vb, Statement (.cge vd va vb) := by
  intro vd va vb
  refine encodes_of _ .control [⟨21, 3, vd⟩, ⟨16, 5, va⟩, ⟨11, 5, vb⟩] 0x4000003 rfl rfl rfl rfl rfl fun hw w hn => ?_
  have ha : apart [⟨21, 3, vd⟩, ⟨16, 5, va⟩, ⟨11, 5, vb⟩] 0x4000003 = true := rfl
  have g0 := fld_val _ _ 0 21 3 vd ha rfl
  have g1 := fld_val _ _ 1 16 5 va ha rfl
  have g2 := fld_val _ _ 2 11 5 vb ha rfl
  have c0 : _ / 2 ^ 26 = 0x1 := val_below _ _ 26 ha rfl
  have c1 : _ / 2 ^ 26 % 2 ^ 6 = 0x1 := val_clear _ _ 26 6 ha rfl
  have c2 : _ / 2 ^ 0 % 2 ^ 11 = 0x3 := val_clear _ _ 0 11 ha rfl
  have z0 : _ / 2 ^ 24 % 2 ^ 2 = 0 := val_clear _ _ 24 2 ha rfl
  rw [← hn] at g0 g1 g2 c0 c1 c2 z0
  show decodeControl w = _
  delta decodeControl
  dsimp only
  rw [c0]
  show decodeControl01 w.toNat = _
  delta decodeControl01
  rw [c1, c2]
  show row w.toNat [(24, 2, .d)] (.cge (fld w.toNat 21 3) (fld w.toNat 16 5) (fld w.toNat 11 5)) = _
  rw [g0, g1, g2]
  exact row_ok _ _ _ hw (List.forall_mem_cons.2 ⟨z0, fun _ h => nomatch h⟩)

theorem cltn : ∀ vd va vb, Statement (.cltn vd va vb) := by
  intro vd va vb
  refine encodes_of _ .control [⟨21, 3, vd⟩, ⟨16, 5, va⟩, ⟨11, 5, vb⟩] 0x4000004 rfl rfl rfl rfl rfl fun hw w hn => ?_
  have ha : apart [⟨21, 3, vd⟩, ⟨16, 5, va⟩, ⟨11, 5, vb⟩] 0x4000004 = true := rfl
  have g0 := fld_val _ _ 0 21 3 vd ha rfl
  have g1 := fld_val _ _ 1 16 5 va ha rfl
  have g2 := fld_val _ _ 2 11 5 vb ha rfl
  have c0 : _ / 2 ^ 26 = 0x1 := val_below _ _ 26 ha rfl
  have c1 : _ / 2 ^ 26 % 2 ^ 6 = 0x1 := val_clear _ _ 26 6 ha rfl
  have c2 : _ / 2 ^ 0 % 2 ^ 11 = 0x4 := val_clear _ _ 0 11 ha rfl
  have z0 : _ / 2 ^ 24 % 2 ^ 2 = 0 := val_clear _ _ 24 2 ha rfl
  rw [← hn] at g0 g1 g2 c0 c1 c2 z0
  show decodeControl w = _
  delta decodeControl
  dsimp only
  rw [c0]
  show decodeControl01 w.toNat = _
  delta decodeControl01
  rw [c1, c2]
  show row w.toNat [(24, 2, .d)] (.cltn (fld w.toNat 21 3) (fld w.toNat 16 5) (fld w.toNat 11 5)) = _
  rw [g0, g1, g2]
  exact row_ok _ _ _ hw (List.forall_mem_cons.2 ⟨z0, fun _ h => nomatch h⟩)

theorem cgen : ∀ vd va vb, Statement (.cgen vd va vb) := by
  intro vd va vb
  refine encodes_of _ .control [⟨21, 3, vd⟩, ⟨16, 5, va⟩, ⟨11, 5, vb⟩] 0x4000005 rfl rfl rfl rfl rfl fun hw w hn => ?_
  have ha : apart [⟨21, 3, vd⟩, ⟨16, 5, va⟩, ⟨11, 5, vb⟩] 0x4000005 = true := rfl
  have g0 := fld_val _ _ 0 21 3 vd ha rfl
  have g1 := fld_val _ _ 1 16 5 va ha rfl
  have g2 := fld_val _ _ 2 11 5 vb ha rfl
  have c0 : _ / 2 ^ 26 = 0x1 := val_below _ _ 26 ha rfl
  have c1 : _ / 2 ^ 26 % 2 ^ 6 = 0x1 := val_clear _ _ 26 6 ha rfl
  have c2 : _ / 2 ^ 0 % 2 ^ 11 = 0x5 := val_clear _ _ 0 11 ha rfl
  have z0 : _ / 2 ^ 24 % 2 ^ 2 = 0 := val_clear _ _ 24 2 ha rfl
  rw [← hn] at g0 g1 g2 c0 c1 c2 z0
  show decodeControl w = _
  delta decodeControl
  dsimp only
  rw [c0]
  show decodeControl01 w.toNat = _
  delta decodeControl01
  rw [c1, c2]
  show row w.toNat [(24, 2, .d)] (.cgen (fld w.toNat 21 3) (fld w.toNat 16 5) (fld w.toNat 11 5)) = _
  rw [g0, g1, g2]
  exact row_ok _ _ _ hw (List.forall_mem_cons.2 ⟨z0, fun _ h => nomatch h⟩)

theorem pand : ∀ vd va vb, Statement (.pand vd va vb) := by
  intro vd va vb
  refine encodes_of _ .control [⟨21, 3, vd⟩, ⟨16, 3, va⟩, ⟨11, 3, vb⟩] 0x4000008 rfl rfl rfl rfl rfl fun hw w hn => ?_
  have ha : apart [⟨21, 3, vd⟩, ⟨16, 3, va⟩, ⟨11, 3, vb⟩] 0x4000008 = true := rfl
  have g0 := fld_val _ _ 0 21 3 vd ha rfl
  have g1 := fld_val _ _ 1 16 3 va ha rfl
  have g2 := fld_val _ _ 2 11 3 vb ha rfl
  have c0 : _ / 2 ^ 26 = 0x1 := val_below _ _ 26 ha rfl
  have c1 : _ / 2 ^ 26 % 2 ^ 6 = 0x1 := val_clear _ _ 26 6 ha rfl
  have c2 : _ / 2 ^ 0 % 2 ^ 11 = 0x8 := val_clear _ _ 0 11 ha rfl
  have z0 : _ / 2 ^ 24 % 2 ^ 2 = 0 := val_clear _ _ 24 2 ha rfl
  have z1 : _ / 2 ^ 19 % 2 ^ 2 = 0 := val_clear _ _ 19 2 ha rfl
  have z2 : _ / 2 ^ 14 % 2 ^ 2 = 0 := val_clear _ _ 14 2 ha rfl
  rw [← hn] at g0 g1 g2 c0 c1 c2 z0 z1 z2
  show decodeControl w = _
  delta decodeControl
  dsimp only
  rw [c0]
  show decodeControl01 w.toNat = _
  delta decodeControl01
  rw [c1, c2]
  show row w.toNat [(24, 2, .d), (19, 2, .a), (14, 2, .b)] (.pand (fld w.toNat 21 3) (fld w.toNat 16 3) (fld w.toNat 11 3)) = _
  rw [g0, g1, g2]
  exact row_ok _ _ _ hw (List.forall_mem_cons.2 ⟨z0, List.forall_mem_cons.2 ⟨z1, List.forall_mem_cons.2 ⟨z2, fun _ h => nomatch h⟩⟩⟩)

theorem por : ∀ vd va vb, Statement (.por vd va vb) := by
  intro vd va vb
  refine encodes_of _ .control [⟨21, 3, vd⟩, ⟨16, 3, va⟩, ⟨11, 3, vb⟩] 0x4000009 rfl rfl rfl rfl rfl fun hw w hn => ?_
  have ha : apart [⟨21, 3, vd⟩, ⟨16, 3, va⟩, ⟨11, 3, vb⟩] 0x4000009 = true := rfl
  have g0 := fld_val _ _ 0 21 3 vd ha rfl
  have g1 := fld_val _ _ 1 16 3 va ha rfl
  have g2 := fld_val _ _ 2 11 3 vb ha rfl
  have c0 : _ / 2 ^ 26 = 0x1 := val_below _ _ 26 ha rfl
  have c1 : _ / 2 ^ 26 % 2 ^ 6 = 0x1 := val_clear _ _ 26 6 ha rfl
  have c2 : _ / 2 ^ 0 % 2 ^ 11 = 0x9 := val_clear _ _ 0 11 ha rfl
  have z0 : _ / 2 ^ 24 % 2 ^ 2 = 0 := val_clear _ _ 24 2 ha rfl
  have z1 : _ / 2 ^ 19 % 2 ^ 2 = 0 := val_clear _ _ 19 2 ha rfl
  have z2 : _ / 2 ^ 14 % 2 ^ 2 = 0 := val_clear _ _ 14 2 ha rfl
  rw [← hn] at g0 g1 g2 c0 c1 c2 z0 z1 z2
  show decodeControl w = _
  delta decodeControl
  dsimp only
  rw [c0]
  show decodeControl01 w.toNat = _
  delta decodeControl01
  rw [c1, c2]
  show row w.toNat [(24, 2, .d), (19, 2, .a), (14, 2, .b)] (.por (fld w.toNat 21 3) (fld w.toNat 16 3) (fld w.toNat 11 3)) = _
  rw [g0, g1, g2]
  exact row_ok _ _ _ hw (List.forall_mem_cons.2 ⟨z0, List.forall_mem_cons.2 ⟨z1, List.forall_mem_cons.2 ⟨z2, fun _ h => nomatch h⟩⟩⟩)

theorem pxor : ∀ vd va vb, Statement (.pxor vd va vb) := by
  intro vd va vb
  refine encodes_of _ .control [⟨21, 3, vd⟩, ⟨16, 3, va⟩, ⟨11, 3, vb⟩] 0x400000a rfl rfl rfl rfl rfl fun hw w hn => ?_
  have ha : apart [⟨21, 3, vd⟩, ⟨16, 3, va⟩, ⟨11, 3, vb⟩] 0x400000a = true := rfl
  have g0 := fld_val _ _ 0 21 3 vd ha rfl
  have g1 := fld_val _ _ 1 16 3 va ha rfl
  have g2 := fld_val _ _ 2 11 3 vb ha rfl
  have c0 : _ / 2 ^ 26 = 0x1 := val_below _ _ 26 ha rfl
  have c1 : _ / 2 ^ 26 % 2 ^ 6 = 0x1 := val_clear _ _ 26 6 ha rfl
  have c2 : _ / 2 ^ 0 % 2 ^ 11 = 0xa := val_clear _ _ 0 11 ha rfl
  have z0 : _ / 2 ^ 24 % 2 ^ 2 = 0 := val_clear _ _ 24 2 ha rfl
  have z1 : _ / 2 ^ 19 % 2 ^ 2 = 0 := val_clear _ _ 19 2 ha rfl
  have z2 : _ / 2 ^ 14 % 2 ^ 2 = 0 := val_clear _ _ 14 2 ha rfl
  rw [← hn] at g0 g1 g2 c0 c1 c2 z0 z1 z2
  show decodeControl w = _
  delta decodeControl
  dsimp only
  rw [c0]
  show decodeControl01 w.toNat = _
  delta decodeControl01
  rw [c1, c2]
  show row w.toNat [(24, 2, .d), (19, 2, .a), (14, 2, .b)] (.pxor (fld w.toNat 21 3) (fld w.toNat 16 3) (fld w.toNat 11 3)) = _
  rw [g0, g1, g2]
  exact row_ok _ _ _ hw (List.forall_mem_cons.2 ⟨z0, List.forall_mem_cons.2 ⟨z1, List.forall_mem_cons.2 ⟨z2, fun _ h => nomatch h⟩⟩⟩)

theorem pandn : ∀ vd va vb, Statement (.pandn vd va vb) := by
  intro vd va vb
  refine encodes_of _ .control [⟨21, 3, vd⟩, ⟨16, 3, va⟩, ⟨11, 3, vb⟩] 0x400000b rfl rfl rfl rfl rfl fun hw w hn => ?_
  have ha : apart [⟨21, 3, vd⟩, ⟨16, 3, va⟩, ⟨11, 3, vb⟩] 0x400000b = true := rfl
  have g0 := fld_val _ _ 0 21 3 vd ha rfl
  have g1 := fld_val _ _ 1 16 3 va ha rfl
  have g2 := fld_val _ _ 2 11 3 vb ha rfl
  have c0 : _ / 2 ^ 26 = 0x1 := val_below _ _ 26 ha rfl
  have c1 : _ / 2 ^ 26 % 2 ^ 6 = 0x1 := val_clear _ _ 26 6 ha rfl
  have c2 : _ / 2 ^ 0 % 2 ^ 11 = 0xb := val_clear _ _ 0 11 ha rfl
  have z0 : _ / 2 ^ 24 % 2 ^ 2 = 0 := val_clear _ _ 24 2 ha rfl
  have z1 : _ / 2 ^ 19 % 2 ^ 2 = 0 := val_clear _ _ 19 2 ha rfl
  have z2 : _ / 2 ^ 14 % 2 ^ 2 = 0 := val_clear _ _ 14 2 ha rfl
  rw [← hn] at g0 g1 g2 c0 c1 c2 z0 z1 z2
  show decodeControl w = _
  delta decodeControl
  dsimp only
  rw [c0]
  show decodeControl01 w.toNat = _
  delta decodeControl01
  rw [c1, c2]
  show row w.toNat [(24, 2, .d), (19, 2, .a), (14, 2, .b)] (.pandn (fld w.toNat 21 3) (fld w.toNat 16 3) (fld w.toNat 11 3)) = _
  rw [g0, g1, g2]
  exact row_ok _ _ _ hw (List.forall_mem_cons.2 ⟨z0, List.forall_mem_cons.2 ⟨z1, List.forall_mem_cons.2 ⟨z2, fun _ h => nomatch h⟩⟩⟩)

theorem addi : ∀ vd va vi, Statement (.addi vd va vi) := by
  intro vd va vi
  refine encodes_of _ .control [⟨21, 5, vd⟩, ⟨16, 5, va⟩, ⟨0, 16, vi⟩] 0x8000000 rfl rfl rfl rfl rfl fun hw w hn => ?_
  have ha : apart [⟨21, 5, vd⟩, ⟨16, 5, va⟩, ⟨0, 16, vi⟩] 0x8000000 = true := rfl
  have g0 := fld_val _ _ 0 21 5 vd ha rfl
  have g1 := fld_val _ _ 1 16 5 va ha rfl
  have g2 := fld_val _ _ 2 0 16 vi ha rfl
  have c0 : _ / 2 ^ 26 = 0x2 := val_below _ _ 26 ha rfl
  rw [← hn] at g0 g1 g2 c0
  show decodeControl w = _
  delta decodeControl
  dsimp only
  rw [c0]
  show row w.toNat [] (.addi (fld w.toNat 21 5) (fld w.toNat 16 5) (fld w.toNat 0 16)) = _
  rw [g0, g1, g2]
  exact row_ok _ _ _ hw (fun _ h => nomatch h)

theorem andi : ∀ vd va vi, Statement (.andi vd va vi) := by
  intro vd va vi
  refine encodes_of _ .control [⟨21, 5, vd⟩, ⟨16, 5, va⟩, ⟨0, 16, vi⟩] 0xc000000 rfl rfl rfl rfl rfl fun hw w hn => ?_
  have ha : apart [⟨21, 5, vd⟩, ⟨16, 5, va⟩, ⟨0, 16, vi⟩] 0xc000000 = true := rfl
  have g0 := fld_val _ _ 0 21 5 vd ha rfl
  have g1 := fld_val _ _ 1 16 5 va ha rfl
  have g2 := fld_val _ _ 2 0 16 vi ha rfl
  have c0 : _ / 2 ^ 26 = 0x3 := val_below _ _ 26 ha rfl
  rw [← hn] at g0 g1 g2 c0
  show decodeControl w = _
  delta decodeControl
  dsimp only
  rw [c0]
  show row w.toNat [] (.andi (fld w.toNat 21 5) (fld w.toNat 16 5) (fld w.toNat 0 16)) = _
  rw [g0, g1, g2]
  exact row_ok _ _ _ hw (fun _ h => nomatch h)

theorem ori : ∀ vd va vi, Statement (.ori vd va vi) := by
  intro vd va vi
  refine encodes_of _ .control [⟨21, 5, vd⟩, ⟨16, 5, va⟩, ⟨0, 16, vi⟩] 0x10000000 rfl rfl rfl rfl rfl fun hw w hn => ?_
  have ha : apart [⟨21, 5, vd⟩, ⟨16, 5, va⟩, ⟨0, 16, vi⟩] 0x10000000 = true := rfl
  have g0 := fld_val _ _ 0 21 5 vd ha rfl
  have g1 := fld_val _ _ 1 16 5 va ha rfl
  have g2 := fld_val _ _ 2 0 16 vi ha rfl
  have c0 : _ / 2 ^ 26 = 0x4 := val_below _ _ 26 ha rfl
  rw [← hn] at g0 g1 g2 c0
  show decodeControl w = _
  delta decodeControl
  dsimp only
  rw [c0]
  show row w.toNat [] (.ori (fld w.toNat 21 5) (fld w.toNat 16 5) (fld w.toNat 0 16)) = _
  rw [g0, g1, g2]
  exact row_ok _ _ _ hw (fun _ h => nomatch h)

theorem xori : ∀ vd va vi, Statement (.xori vd va vi) := by
  intro vd va vi
  refine encodes_of _ .control [⟨21, 5, vd⟩, ⟨16, 5, va⟩, ⟨0, 16, vi⟩] 0x14000000 rfl rfl rfl rfl rfl fun hw w hn => ?_
  have ha : apart [⟨21, 5, vd⟩, ⟨16, 5, va⟩, ⟨0, 16, vi⟩] 0x14000000 = true := rfl
  have g0 := fld_val _ _ 0 21 5 vd ha rfl
  have g1 := fld_val _ _ 1 16 5 va ha rfl
  have g2 := fld_val _ _ 2 0 16 vi ha rfl
  have c0 : _ / 2 ^ 26 = 0x5 := val_below _ _ 26 ha rfl
  rw [← hn] at g0 g1 g2 c0
  show decodeControl w = _
  delta decodeControl
  dsimp only
  rw [c0]
  show row w.toNat [] (.xori (fld w.toNat 21 5) (fld w.toNat 16 5) (fld w.toNat 0 16)) = _
  rw [g0, g1, g2]
  exact row_ok _ _ _ hw (fun _ h => nomatch h)

theorem slli : ∀ vd va vi, Statement (.slli vd va vi) := by
  intro vd va vi
  refine encodes_of _ .control [⟨21, 5, vd⟩, ⟨16, 5, va⟩, ⟨0, 6, vi⟩] 0x18000000 rfl rfl rfl rfl rfl fun hw w hn => ?_
  have ha : apart [⟨21, 5, vd⟩, ⟨16, 5, va⟩, ⟨0, 6, vi⟩] 0x18000000 = true := rfl
  have g0 := fld_val _ _ 0 21 5 vd ha rfl
  have g1 := fld_val _ _ 1 16 5 va ha rfl
  have g2 := fld_val _ _ 2 0 6 vi ha rfl
  have c0 : _ / 2 ^ 26 = 0x6 := val_below _ _ 26 ha rfl
  have z0 : _ / 2 ^ 6 % 2 ^ 10 = 0 := val_clear _ _ 6 10 ha rfl
  rw [← hn] at g0 g1 g2 c0 z0
  show decodeControl w = _
  delta decodeControl
  dsimp only
  rw [c0]
  show row w.toNat [(6, 10, .imm)] (.slli (fld w.toNat 21 5) (fld w.toNat 16 5) (fld w.toNat 0 6)) = _
  rw [g0, g1, g2]
  exact row_ok _ _ _ hw (List.forall_mem_cons.2 ⟨z0, fun _ h => nomatch h⟩)

theorem srli : ∀ vd va vi, Statement (.srli vd va vi) := by
  intro vd va vi
  refine encodes_of _ .control [⟨21, 5, vd⟩, ⟨16, 5, va⟩, ⟨0, 6, vi⟩] 0x1c000000 rfl rfl rfl rfl rfl fun hw w hn => ?_
  have ha : apart [⟨21, 5, vd⟩, ⟨16, 5, va⟩, ⟨0, 6, vi⟩] 0x1c000000 = true := rfl
  have g0 := fld_val _ _ 0 21 5 vd ha rfl
  have g1 := fld_val _ _ 1 16 5 va ha rfl
  have g2 := fld_val _ _ 2 0 6 vi ha rfl
  have c0 : _ / 2 ^ 26 = 0x7 := val_below _ _ 26 ha rfl
  have z0 : _ / 2 ^ 6 % 2 ^ 10 = 0 := val_clear _ _ 6 10 ha rfl
  rw [← hn] at g0 g1 g2 c0 z0
  show decodeControl w = _
  delta decodeControl
  dsimp only
  rw [c0]
  show row w.toNat [(6, 10, .imm)] (.srli (fld w.toNat 21 5) (fld w.toNat 16 5) (fld w.toNat 0 6)) = _
  rw [g0, g1, g2]
  exact row_ok _ _ _ hw (List.forall_mem_cons.2 ⟨z0, fun _ h => nomatch h⟩)

theorem srai : ∀ vd va vi, Statement (.srai vd va vi) := by
  intro vd va vi
  refine encodes_of _ .control [⟨21, 5, vd⟩, ⟨16, 5, va⟩, ⟨0, 6, vi⟩] 0x20000000 rfl rfl rfl rfl rfl fun hw w hn => ?_
  have ha : apart [⟨21, 5, vd⟩, ⟨16, 5, va⟩, ⟨0, 6, vi⟩] 0x20000000 = true := rfl
  have g0 := fld_val _ _ 0 21 5 vd ha rfl
  have g1 := fld_val _ _ 1 16 5 va ha rfl
  have g2 := fld_val _ _ 2 0 6 vi ha rfl
  have c0 : _ / 2 ^ 26 = 0x8 := val_below _ _ 26 ha rfl
  have z0 : _ / 2 ^ 6 % 2 ^ 10 = 0 := val_clear _ _ 6 10 ha rfl
  rw [← hn] at g0 g1 g2 c0 z0
  show decodeControl w = _
  delta decodeControl
  dsimp only
  rw [c0]
  show row w.toNat [(6, 10, .imm)] (.srai (fld w.toNat 21 5) (fld w.toNat 16 5) (fld w.toNat 0 6)) = _
  rw [g0, g1, g2]
  exact row_ok _ _ _ hw (List.forall_mem_cons.2 ⟨z0, fun _ h => nomatch h⟩)

theorem ceqi : ∀ vd va vi, Statement (.ceqi vd va vi) := by
  intro vd va vi
  refine encodes_of _ .control [⟨21, 3, vd⟩, ⟨16, 5, va⟩, ⟨0, 16, vi⟩] 0x24000000 rfl rfl rfl rfl rfl fun hw w hn => ?_
  have ha : apart [⟨21, 3, vd⟩, ⟨16, 5, va⟩, ⟨0, 16, vi⟩] 0x24000000 = true := rfl
  have g0 := fld_val _ _ 0 21 3 vd ha rfl
  have g1 := fld_val _ _ 1 16 5 va ha rfl
  have g2 := fld_val _ _ 2 0 16 vi ha rfl
  have c0 : _ / 2 ^ 26 = 0x9 := val_below _ _ 26 ha rfl
  have z0 : _ / 2 ^ 24 % 2 ^ 2 = 0 := val_clear _ _ 24 2 ha rfl
  rw [← hn] at g0 g1 g2 c0 z0
  show decodeControl w = _
  delta decodeControl
  dsimp only
  rw [c0]
  show row w.toNat [(24, 2, .d)] (.ceqi (fld w.toNat 21 3) (fld w.toNat 16 5) (fld w.toNat 0 16)) = _
  rw [g0, g1, g2]
  exact row_ok _ _ _ hw (List.forall_mem_cons.2 ⟨z0, fun _ h => nomatch h⟩)

theorem clti : ∀ vd va vi, Statement (.clti vd va vi) := by
  intro vd va vi
  refine encodes_of _ .control [⟨21, 3, vd⟩, ⟨16, 5, va⟩, ⟨0, 16, vi⟩] 0x28000000 rfl rfl rfl rfl rfl fun hw w hn => ?_
  have ha : apart [⟨21, 3, vd⟩, ⟨16, 5, va⟩, ⟨0, 16, vi⟩] 0x28000000 = true := rfl
  have g0 := fld_val _ _ 0 21 3 vd ha rfl
  have g1 := fld_val _ _ 1 16 5 va ha rfl
  have g2 := fld_val _ _ 2 0 16 vi ha rfl
  have c0 : _ / 2 ^ 26 = 0xa := val_below _ _ 26 ha rfl
  have z0 : _ / 2 ^ 24 % 2 ^ 2 = 0 := val_clear _ _ 24 2 ha rfl
  rw [← hn] at g0 g1 g2 c0 z0
  show decodeControl w = _
  delta decodeControl
  dsimp only
  rw [c0]
  show row w.toNat [(24, 2, .d)] (.clti (fld w.toNat 21 3) (fld w.toNat 16 5) (fld w.toNat 0 16)) = _
  rw [g0, g1, g2]
  exact row_ok _ _ _ hw (List.forall_mem_cons.2 ⟨z0, fun _ h => nomatch h⟩)

theorem cltni : ∀ vd va vi, Statement (.cltni vd va vi) := by
  intro vd va vi
  refine encodes_of _ .control [⟨21, 3, vd⟩, ⟨16, 5, va⟩, ⟨0, 16, vi⟩] 0x2c000000 rfl rfl rfl rfl rfl fun hw w hn => ?_
  have ha : apart [⟨21, 3, vd⟩, ⟨16, 5, va⟩, ⟨0, 16, vi⟩] 0x2c000000 = true := rfl
  have g0 := fld_val _ _ 0 21 3 vd ha rfl
  have g1 := fld_val _ _ 1 16 5 va ha rfl
  have g2 := fld_val _ _ 2 0 16 vi ha rfl
  have c0 : _ / 2 ^ 26 = 0xb := val_below _ _ 26 ha rfl
  have z0 : _ / 2 ^ 24 % 2 ^ 2 = 0 := val_clear _ _ 24 2 ha rfl
  rw [← hn] at g0 g1 g2 c0 z0
  show decodeControl w = _
  delta decodeControl
  dsimp only
  rw [c0]
  show row w.toNat [(24, 2, .d)] (.cltni (fld w.toNat 21 3) (fld w.toNat 16 5) (fld w.toNat 0 16)) = _
  rw [g0, g1, g2]
  exact row_ok _ _ _ hw (List.forall_mem_cons.2 ⟨z0, fun _ h => nomatch h⟩)

theorem ld : ∀ vd vb vk vz vs vo, Statement (.ld vd vb vk vz vs vo) := by
  intro vd vb vk vz vs vo
  refine encodes_of _ .control [⟨21, 5, vd⟩, ⟨16, 5, vb⟩, ⟨15, 1, vk⟩, ⟨13, 2, vz⟩, ⟨11, 2, vs⟩, ⟨0, 11, vo⟩] 0x30000000 rfl rfl rfl rfl rfl fun hw w hn => ?_
  have ha : apart [⟨21, 5, vd⟩, ⟨16, 5, vb⟩, ⟨15, 1, vk⟩, ⟨13, 2, vz⟩, ⟨11, 2, vs⟩, ⟨0, 11, vo⟩] 0x30000000 = true := rfl
  have g0 := fld_val _ _ 0 21 5 vd ha rfl
  have g1 := fld_val _ _ 1 16 5 vb ha rfl
  have g2 := fld_val _ _ 2 15 1 vk ha rfl
  have g3 := fld_val _ _ 3 13 2 vz ha rfl
  have g4 := fld_val _ _ 4 11 2 vs ha rfl
  have g5 := fld_val _ _ 5 0 11 vo ha rfl
  have c0 : _ / 2 ^ 26 = 0xc := val_below _ _ 26 ha rfl
  rw [← hn] at g0 g1 g2 g3 g4 g5 c0
  show decodeControl w = _
  delta decodeControl
  dsimp only
  rw [c0]
  show row w.toNat [] (.ld (fld w.toNat 21 5) (fld w.toNat 16 5) (fld w.toNat 15 1) (fld w.toNat 13 2) (fld w.toNat 11 2) (fld w.toNat 0 11)) = _
  rw [g0, g1, g2, g3, g4, g5]
  exact row_ok _ _ _ hw (fun _ h => nomatch h)

theorem ldn : ∀ vd vb vk vz vs vo, Statement (.ldn vd vb vk vz vs vo) := by
  intro vd vb vk vz vs vo
  refine encodes_of _ .control [⟨21, 5, vd⟩, ⟨16, 5, vb⟩, ⟨15, 1, vk⟩, ⟨13, 2, vz⟩, ⟨11, 2, vs⟩, ⟨0, 11, vo⟩] 0x34000000 rfl rfl rfl rfl rfl fun hw w hn => ?_
  have ha : apart [⟨21, 5, vd⟩, ⟨16, 5, vb⟩, ⟨15, 1, vk⟩, ⟨13, 2, vz⟩, ⟨11, 2, vs⟩, ⟨0, 11, vo⟩] 0x34000000 = true := rfl
  have g0 := fld_val _ _ 0 21 5 vd ha rfl
  have g1 := fld_val _ _ 1 16 5 vb ha rfl
  have g2 := fld_val _ _ 2 15 1 vk ha rfl
  have g3 := fld_val _ _ 3 13 2 vz ha rfl
  have g4 := fld_val _ _ 4 11 2 vs ha rfl
  have g5 := fld_val _ _ 5 0 11 vo ha rfl
  have c0 : _ / 2 ^ 26 = 0xd := val_below _ _ 26 ha rfl
  rw [← hn] at g0 g1 g2 g3 g4 g5 c0
  show decodeControl w = _
  delta decodeControl
  dsimp only
  rw [c0]
  show row w.toNat [] (.ldn (fld w.toNat 21 5) (fld w.toNat 16 5) (fld w.toNat 15 1) (fld w.toNat 13 2) (fld w.toNat 11 2) (fld w.toNat 0 11)) = _
  rw [g0, g1, g2, g3, g4, g5]
  exact row_ok _ _ _ hw (fun _ h => nomatch h)

theorem st : ∀ vd vb vk vz vs vo, Statement (.st vd vb vk vz vs vo) := by
  intro vd vb vk vz vs vo
  refine encodes_of _ .control [⟨21, 5, vd⟩, ⟨16, 5, vb⟩, ⟨15, 1, vk⟩, ⟨13, 2, vz⟩, ⟨11, 2, vs⟩, ⟨0, 11, vo⟩] 0x38000000 rfl rfl rfl rfl rfl fun hw w hn => ?_
  have ha : apart [⟨21, 5, vd⟩, ⟨16, 5, vb⟩, ⟨15, 1, vk⟩, ⟨13, 2, vz⟩, ⟨11, 2, vs⟩, ⟨0, 11, vo⟩] 0x38000000 = true := rfl
  have g0 := fld_val _ _ 0 21 5 vd ha rfl
  have g1 := fld_val _ _ 1 16 5 vb ha rfl
  have g2 := fld_val _ _ 2 15 1 vk ha rfl
  have g3 := fld_val _ _ 3 13 2 vz ha rfl
  have g4 := fld_val _ _ 4 11 2 vs ha rfl
  have g5 := fld_val _ _ 5 0 11 vo ha rfl
  have c0 : _ / 2 ^ 26 = 0xe := val_below _ _ 26 ha rfl
  rw [← hn] at g0 g1 g2 g3 g4 g5 c0
  show decodeControl w = _
  delta decodeControl
  dsimp only
  rw [c0]
  show row w.toNat [] (.st (fld w.toNat 21 5) (fld w.toNat 16 5) (fld w.toNat 15 1) (fld w.toNat 13 2) (fld w.toNat 11 2) (fld w.toNat 0 11)) = _
  rw [g0, g1, g2, g3, g4, g5]
  exact row_ok _ _ _ hw (fun _ h => nomatch h)

theorem atomAdd : ∀ vd va vb vs vo vz, Statement (.atomAdd vd va vb vs vo vz) := by
  intro vd va vb vs vo vz
  refine encodes_of _ .control [⟨21, 5, vd⟩, ⟨16, 5, va⟩, ⟨11, 5, vb⟩, ⟨9, 2, vs⟩, ⟨4, 5, vo⟩, ⟨3, 1, vz⟩] 0x3c000000 rfl rfl rfl rfl rfl fun hw w hn => ?_
  have ha : apart [⟨21, 5, vd⟩, ⟨16, 5, va⟩, ⟨11, 5, vb⟩, ⟨9, 2, vs⟩, ⟨4, 5, vo⟩, ⟨3, 1, vz⟩] 0x3c000000 = true := rfl
  have g0 := fld_val _ _ 0 21 5 vd ha rfl
  have g1 := fld_val _ _ 1 16 5 va ha rfl
  have g2 := fld_val _ _ 2 11 5 vb ha rfl
  have g3 := fld_val _ _ 3 9 2 vs ha rfl
  have g4 := fld_val _ _ 4 4 5 vo ha rfl
  have g5 := fld_val _ _ 5 3 1 vz ha rfl
  have c0 : _ / 2 ^ 26 = 0xf := val_below _ _ 26 ha rfl
  have c1 : _ / 2 ^ 26 % 2 ^ 6 = 0xf := val_clear _ _ 26 6 ha rfl
  have c2 : _ / 2 ^ 0 % 2 ^ 3 = 0x0 := val_clear _ _ 0 3 ha rfl
  rw [← hn] at g0 g1 g2 g3 g4 g5 c0 c1 c2
  show decodeControl w = _
  delta decodeControl
  dsimp only
  rw [c0]
  show decodeControl0f w.toNat = _
  delta decodeControl0f
  rw [c1, c2]
  show row w.toNat [] (.atomAdd (fld w.toNat 21 5) (fld w.toNat 16 5) (fld w.toNat 11 5) (fld w.toNat 9 2) (fld w.toNat 4 5) (fld w.toNat 3 1)) = _
  rw [g0, g1, g2, g3, g4, g5]
  exact row_ok _ _ _ hw (fun _ h => nomatch h)

theorem atomSwap : ∀ vd va vb vs vo vz, Statement (.atomSwap vd va vb vs vo vz) := by
  intro vd va vb vs vo vz
  refine encodes_of _ .control [⟨21, 5, vd⟩, ⟨16, 5, va⟩, ⟨11, 5, vb⟩, ⟨9, 2, vs⟩, ⟨4, 5, vo⟩, ⟨3, 1, vz⟩] 0x3c000001 rfl rfl rfl rfl rfl fun hw w hn => ?_
  have ha : apart [⟨21, 5, vd⟩, ⟨16, 5, va⟩, ⟨11, 5, vb⟩, ⟨9, 2, vs⟩, ⟨4, 5, vo⟩, ⟨3, 1, vz⟩] 0x3c000001 = true := rfl
  have g0 := fld_val _ _ 0 21 5 vd ha rfl
  have g1 := fld_val _ _ 1 16 5 va ha rfl
  have g2 := fld_val _ _ 2 11 5 vb ha rfl
  have g3 := fld_val _ _ 3 9 2 vs ha rfl
  have g4 := fld_val _ _ 4 4 5 vo ha rfl
  have g5 := fld_val _ _ 5 3 1 vz ha rfl
  have c0 : _ / 2 ^ 26 = 0xf := val_below _ _ 26 ha rfl
  have c1 : _ / 2 ^ 26 % 2 ^ 6 = 0xf := val_clear _ _ 26 6 ha rfl
  have c2 : _ / 2 ^ 0 % 2 ^ 3 = 0x1 := val_clear _ _ 0 3 ha rfl
  rw [← hn] at g0 g1 g2 g3 g4 g5 c0 c1 c2
  show decodeControl w = _
  delta decodeControl
  dsimp only
  rw [c0]
  show decodeControl0f w.toNat = _
  delta decodeControl0f
  rw [c1, c2]
  show row w.toNat [] (.atomSwap (fld w.toNat 21 5) (fld w.toNat 16 5) (fld w.toNat 11 5) (fld w.toNat 9 2) (fld w.toNat 4 5) (fld w.toNat 3 1)) = _
  rw [g0, g1, g2, g3, g4, g5]
  exact row_ok _ _ _ hw (fun _ h => nomatch h)

theorem atomCas : ∀ vd va vb vs vo vz, Statement (.atomCas vd va vb vs vo vz) := by
  intro vd va vb vs vo vz
  refine encodes_of _ .control [⟨21, 5, vd⟩, ⟨16, 5, va⟩, ⟨11, 5, vb⟩, ⟨9, 2, vs⟩, ⟨4, 5, vo⟩, ⟨3, 1, vz⟩] 0x3c000002 rfl rfl rfl rfl rfl fun hw w hn => ?_
  have ha : apart [⟨21, 5, vd⟩, ⟨16, 5, va⟩, ⟨11, 5, vb⟩, ⟨9, 2, vs⟩, ⟨4, 5, vo⟩, ⟨3, 1, vz⟩] 0x3c000002 = true := rfl
  have g0 := fld_val _ _ 0 21 5 vd ha rfl
  have g1 := fld_val _ _ 1 16 5 va ha rfl
  have g2 := fld_val _ _ 2 11 5 vb ha rfl
  have g3 := fld_val _ _ 3 9 2 vs ha rfl
  have g4 := fld_val _ _ 4 4 5 vo ha rfl
  have g5 := fld_val _ _ 5 3 1 vz ha rfl
  have c0 : _ / 2 ^ 26 = 0xf := val_below _ _ 26 ha rfl
  have c1 : _ / 2 ^ 26 % 2 ^ 6 = 0xf := val_clear _ _ 26 6 ha rfl
  have c2 : _ / 2 ^ 0 % 2 ^ 3 = 0x2 := val_clear _ _ 0 3 ha rfl
  rw [← hn] at g0 g1 g2 g3 g4 g5 c0 c1 c2
  show decodeControl w = _
  delta decodeControl
  dsimp only
  rw [c0]
  show decodeControl0f w.toNat = _
  delta decodeControl0f
  rw [c1, c2]
  show row w.toNat [] (.atomCas (fld w.toNat 21 5) (fld w.toNat 16 5) (fld w.toNat 11 5) (fld w.toNat 9 2) (fld w.toNat 4 5) (fld w.toNat 3 1)) = _
  rw [g0, g1, g2, g3, g4, g5]
  exact row_ok _ _ _ hw (fun _ h => nomatch h)

theorem atomAnd : ∀ vd va vb vs vo vz, Statement (.atomAnd vd va vb vs vo vz) := by
  intro vd va vb vs vo vz
  refine encodes_of _ .control [⟨21, 5, vd⟩, ⟨16, 5, va⟩, ⟨11, 5, vb⟩, ⟨9, 2, vs⟩, ⟨4, 5, vo⟩, ⟨3, 1, vz⟩] 0x3c000003 rfl rfl rfl rfl rfl fun hw w hn => ?_
  have ha : apart [⟨21, 5, vd⟩, ⟨16, 5, va⟩, ⟨11, 5, vb⟩, ⟨9, 2, vs⟩, ⟨4, 5, vo⟩, ⟨3, 1, vz⟩] 0x3c000003 = true := rfl
  have g0 := fld_val _ _ 0 21 5 vd ha rfl
  have g1 := fld_val _ _ 1 16 5 va ha rfl
  have g2 := fld_val _ _ 2 11 5 vb ha rfl
  have g3 := fld_val _ _ 3 9 2 vs ha rfl
  have g4 := fld_val _ _ 4 4 5 vo ha rfl
  have g5 := fld_val _ _ 5 3 1 vz ha rfl
  have c0 : _ / 2 ^ 26 = 0xf := val_below _ _ 26 ha rfl
  have c1 : _ / 2 ^ 26 % 2 ^ 6 = 0xf := val_clear _ _ 26 6 ha rfl
  have c2 : _ / 2 ^ 0 % 2 ^ 3 = 0x3 := val_clear _ _ 0 3 ha rfl
  rw [← hn] at g0 g1 g2 g3 g4 g5 c0 c1 c2
  show decodeControl w = _
  delta decodeControl
  dsimp only
  rw [c0]
  show decodeControl0f w.toNat = _
  delta decodeControl0f
  rw [c1, c2]
  show row w.toNat [] (.atomAnd (fld w.toNat 21 5) (fld w.toNat 16 5) (fld w.toNat 11 5) (fld w.toNat 9 2) (fld w.toNat 4 5) (fld w.toNat 3 1)) = _
  rw [g0, g1, g2, g3, g4, g5]
  exact row_ok _ _ _ hw (fun _ h => nomatch h)

theorem atomOr : ∀ vd va vb vs vo vz, Statement (.atomOr vd va vb vs vo vz) := by
  intro vd va vb vs vo vz
  refine encodes_of _ .control [⟨21, 5, vd⟩, ⟨16, 5, va⟩, ⟨11, 5, vb⟩, ⟨9, 2, vs⟩, ⟨4, 5, vo⟩, ⟨3, 1, vz⟩] 0x3c000004 rfl rfl rfl rfl rfl fun hw w hn => ?_
  have ha : apart [⟨21, 5, vd⟩, ⟨16, 5, va⟩, ⟨11, 5, vb⟩, ⟨9, 2, vs⟩, ⟨4, 5, vo⟩, ⟨3, 1, vz⟩] 0x3c000004 = true := rfl
  have g0 := fld_val _ _ 0 21 5 vd ha rfl
  have g1 := fld_val _ _ 1 16 5 va ha rfl
  have g2 := fld_val _ _ 2 11 5 vb ha rfl
  have g3 := fld_val _ _ 3 9 2 vs ha rfl
  have g4 := fld_val _ _ 4 4 5 vo ha rfl
  have g5 := fld_val _ _ 5 3 1 vz ha rfl
  have c0 : _ / 2 ^ 26 = 0xf := val_below _ _ 26 ha rfl
  have c1 : _ / 2 ^ 26 % 2 ^ 6 = 0xf := val_clear _ _ 26 6 ha rfl
  have c2 : _ / 2 ^ 0 % 2 ^ 3 = 0x4 := val_clear _ _ 0 3 ha rfl
  rw [← hn] at g0 g1 g2 g3 g4 g5 c0 c1 c2
  show decodeControl w = _
  delta decodeControl
  dsimp only
  rw [c0]
  show decodeControl0f w.toNat = _
  delta decodeControl0f
  rw [c1, c2]
  show row w.toNat [] (.atomOr (fld w.toNat 21 5) (fld w.toNat 16 5) (fld w.toNat 11 5) (fld w.toNat 9 2) (fld w.toNat 4 5) (fld w.toNat 3 1)) = _
  rw [g0, g1, g2, g3, g4, g5]
  exact row_ok _ _ _ hw (fun _ h => nomatch h)

theorem atomXor : ∀ vd va vb vs vo vz, Statement (.atomXor vd va vb vs vo vz) := by
  intro vd va vb vs vo vz
  refine encodes_of _ .control [⟨21, 5, vd⟩, ⟨16, 5, va⟩, ⟨11, 5, vb⟩, ⟨9, 2, vs⟩, ⟨4, 5, vo⟩, ⟨3, 1, vz⟩] 0x3c000005 rfl rfl rfl rfl rfl fun hw w hn => ?_
  have ha : apart [⟨21, 5, vd⟩, ⟨16, 5, va⟩, ⟨11, 5, vb⟩, ⟨9, 2, vs⟩, ⟨4, 5, vo⟩, ⟨3, 1, vz⟩] 0x3c000005 = true := rfl
  have g0 := fld_val _ _ 0 21 5 vd ha rfl
  have g1 := fld_val _ _ 1 16 5 va ha rfl
  have g2 := fld_val _ _ 2 11 5 vb ha rfl
  have g3 := fld_val _ _ 3 9 2 vs ha rfl
  have g4 := fld_val _ _ 4 4 5 vo ha rfl
  have g5 := fld_val _ _ 5 3 1 vz ha rfl
  have c0 : _ / 2 ^ 26 = 0xf := val_below _ _ 26 ha rfl
  have c1 : _ / 2 ^ 26 % 2 ^ 6 = 0xf := val_clear _ _ 26 6 ha rfl
  have c2 : _ / 2 ^ 0 % 2 ^ 3 = 0x5 := val_clear _ _ 0 3 ha rfl
  rw [← hn] at g0 g1 g2 g3 g4 g5 c0 c1 c2
  show decodeControl w = _
  delta decodeControl
  dsimp only
  rw [c0]
  show decodeControl0f w.toNat = _
  delta decodeControl0f
  rw [c1, c2]
  show row w.toNat [] (.atomXor (fld w.toNat 21 5) (fld w.toNat 16 5) (fld w.toNat 11 5) (fld w.toNat 9 2) (fld w.toNat 4 5) (fld w.toNat 3 1)) = _
  rw [g0, g1, g2, g3, g4, g5]
  exact row_ok _ _ _ hw (fun _ h => nomatch h)

theorem atomMin : ∀ vd va vb vs vo vz, Statement (.atomMin vd va vb vs vo vz) := by
  intro vd va vb vs vo vz
  refine encodes_of _ .control [⟨21, 5, vd⟩, ⟨16, 5, va⟩, ⟨11, 5, vb⟩, ⟨9, 2, vs⟩, ⟨4, 5, vo⟩, ⟨3, 1, vz⟩] 0x3c000006 rfl rfl rfl rfl rfl fun hw w hn => ?_
  have ha : apart [⟨21, 5, vd⟩, ⟨16, 5, va⟩, ⟨11, 5, vb⟩, ⟨9, 2, vs⟩, ⟨4, 5, vo⟩, ⟨3, 1, vz⟩] 0x3c000006 = true := rfl
  have g0 := fld_val _ _ 0 21 5 vd ha rfl
  have g1 := fld_val _ _ 1 16 5 va ha rfl
  have g2 := fld_val _ _ 2 11 5 vb ha rfl
  have g3 := fld_val _ _ 3 9 2 vs ha rfl
  have g4 := fld_val _ _ 4 4 5 vo ha rfl
  have g5 := fld_val _ _ 5 3 1 vz ha rfl
  have c0 : _ / 2 ^ 26 = 0xf := val_below _ _ 26 ha rfl
  have c1 : _ / 2 ^ 26 % 2 ^ 6 = 0xf := val_clear _ _ 26 6 ha rfl
  have c2 : _ / 2 ^ 0 % 2 ^ 3 = 0x6 := val_clear _ _ 0 3 ha rfl
  rw [← hn] at g0 g1 g2 g3 g4 g5 c0 c1 c2
  show decodeControl w = _
  delta decodeControl
  dsimp only
  rw [c0]
  show decodeControl0f w.toNat = _
  delta decodeControl0f
  rw [c1, c2]
  show row w.toNat [] (.atomMin (fld w.toNat 21 5) (fld w.toNat 16 5) (fld w.toNat 11 5) (fld w.toNat 9 2) (fld w.toNat 4 5) (fld w.toNat 3 1)) = _
  rw [g0, g1, g2, g3, g4, g5]
  exact row_ok _ _ _ hw (fun _ h => nomatch h)

theorem atomMax : ∀ vd va vb vs vo vz, Statement (.atomMax vd va vb vs vo vz) := by
  intro vd va vb vs vo vz
  refine encodes_of _ .control [⟨21, 5, vd⟩, ⟨16, 5, va⟩, ⟨11, 5, vb⟩, ⟨9, 2, vs⟩, ⟨4, 5, vo⟩, ⟨3, 1, vz⟩] 0x3c000007 rfl rfl rfl rfl rfl fun hw w hn => ?_
  have ha : apart [⟨21, 5, vd⟩, ⟨16, 5, va⟩, ⟨11, 5, vb⟩, ⟨9, 2, vs⟩, ⟨4, 5, vo⟩, ⟨3, 1, vz⟩] 0x3c000007 = true := rfl
  have g0 := fld_val _ _ 0 21 5 vd ha rfl
  have g1 := fld_val _ _ 1 16 5 va ha rfl
  have g2 := fld_val _ _ 2 11 5 vb ha rfl
  have g3 := fld_val _ _ 3 9 2 vs ha rfl
  have g4 := fld_val _ _ 4 4 5 vo ha rfl
  have g5 := fld_val _ _ 5 3 1 vz ha rfl
  have c0 : _ / 2 ^ 26 = 0xf := val_below _ _ 26 ha rfl
  have c1 : _ / 2 ^ 26 % 2 ^ 6 = 0xf := val_clear _ _ 26 6 ha rfl
  have c2 : _ / 2 ^ 0 % 2 ^ 3 = 0x7 := val_clear _ _ 0 3 ha rfl
  rw [← hn] at g0 g1 g2 g3 g4 g5 c0 c1 c2
  show decodeControl w = _
  delta decodeControl
  dsimp only
  rw [c0]
  show decodeControl0f w.toNat = _
  delta decodeControl0f
  rw [c1, c2]
  show row w.toNat [] (.atomMax (fld w.toNat 21 5) (fld w.toNat 16 5) (fld w.toNat 11 5) (fld w.toNat 9 2) (fld w.toNat 4 5) (fld w.toNat 3 1)) = _
  rw [g0, g1, g2, g3, g4, g5]
  exact row_ok _ _ _ hw (fun _ h => nomatch h)

theorem br : ∀ vp vs vo, Statement (.br vp vs vo) := by
  intro vp vs vo
  refine encodes_of _ .control [⟨23, 3, vp⟩, ⟨22, 1, vs⟩, ⟨0, 22, vo⟩] 0x40000000 rfl rfl rfl rfl rfl fun hw w hn => ?_
  have ha : apart [⟨23, 3, vp⟩, ⟨22, 1, vs⟩, ⟨0, 22, vo⟩] 0x40000000 = true := rfl
  have g0 := fld_val _ _ 0 23 3 vp ha rfl
  have g1 := fld_val _ _ 1 22 1 vs ha rfl
  have g2 := fld_val _ _ 2 0 22 vo ha rfl
  have c0 : _ / 2 ^ 26 = 0x10 := val_below _ _ 26 ha rfl
  rw [← hn] at g0 g1 g2 c0
  show decodeControl w = _
  delta decodeControl
  dsimp only
  rw [c0]
  show row w.toNat [] (.br (fld w.toNat 23 3) (fld w.toNat 22 1) (fld w.toNat 0 22)) = _
  rw [g0, g1, g2]
  exact row_ok _ _ _ hw (fun _ h => nomatch h)

theorem call : ∀ vp vs vo, Statement (.call vp vs vo) := by
  intro vp vs vo
  refine encodes_of _ .control [⟨23, 3, vp⟩, ⟨22, 1, vs⟩, ⟨0, 22, vo⟩] 0x44000000 rfl rfl rfl rfl rfl fun hw w hn => ?_
  have ha : apart [⟨23, 3, vp⟩, ⟨22, 1, vs⟩, ⟨0, 22, vo⟩] 0x44000000 = true := rfl
  have g0 := fld_val _ _ 0 23 3 vp ha rfl
  have g1 := fld_val _ _ 1 22 1 vs ha rfl
  have g2 := fld_val _ _ 2 0 22 vo ha rfl
  have c0 : _ / 2 ^ 26 = 0x11 := val_below _ _ 26 ha rfl
  rw [← hn] at g0 g1 g2 c0
  show decodeControl w = _
  delta decodeControl
  dsimp only
  rw [c0]
  show row w.toNat [] (.call (fld w.toNat 23 3) (fld w.toNat 22 1) (fld w.toNat 0 22)) = _
  rw [g0, g1, g2]
  exact row_ok _ _ _ hw (fun _ h => nomatch h)

theorem jr : ∀ vd va, Statement (.jr vd va) := by
  intro vd va
  refine encodes_of _ .control [⟨21, 5, vd⟩, ⟨16, 5, va⟩] 0x48000000 rfl rfl rfl rfl rfl fun hw w hn => ?_
  have ha : apart [⟨21, 5, vd⟩, ⟨16, 5, va⟩] 0x48000000 = true := rfl
  have g0 := fld_val _ _ 0 21 5 vd ha rfl
  have g1 := fld_val _ _ 1 16 5 va ha rfl
  have c0 : _ / 2 ^ 26 = 0x12 := val_below _ _ 26 ha rfl
  have z0 : _ / 2 ^ 11 % 2 ^ 5 = 0 := val_clear _ _ 11 5 ha rfl
  have z1 : _ / 2 ^ 0 % 2 ^ 11 = 0 := val_clear _ _ 0 11 ha rfl
  rw [← hn] at g0 g1 c0 z0 z1
  show decodeControl w = _
  delta decodeControl
  dsimp only
  rw [c0]
  show row w.toNat [(11, 5, .b), (0, 11, .opcode)] (.jr (fld w.toNat 21 5) (fld w.toNat 16 5)) = _
  rw [g0, g1]
  exact row_ok _ _ _ hw (List.forall_mem_cons.2 ⟨z0, List.forall_mem_cons.2 ⟨z1, fun _ h => nomatch h⟩⟩)

theorem loop : ∀ vd vi, Statement (.loop vd vi) := by
  intro vd vi
  refine encodes_of _ .control [⟨21, 5, vd⟩, ⟨0, 16, vi⟩] 0x4c000000 rfl rfl rfl rfl rfl fun hw w hn => ?_
  have ha : apart [⟨21, 5, vd⟩, ⟨0, 16, vi⟩] 0x4c000000 = true := rfl
  have g0 := fld_val _ _ 0 21 5 vd ha rfl
  have g1 := fld_val _ _ 1 0 16 vi ha rfl
  have c0 : _ / 2 ^ 26 = 0x13 := val_below _ _ 26 ha rfl
  have z0 : _ / 2 ^ 16 % 2 ^ 5 = 0 := val_clear _ _ 16 5 ha rfl
  rw [← hn] at g0 g1 c0 z0
  show decodeControl w = _
  delta decodeControl
  dsimp only
  rw [c0]
  show row w.toNat [(16, 5, .a)] (.loop (fld w.toNat 21 5) (fld w.toNat 0 16)) = _
  rw [g0, g1]
  exact row_ok _ _ _ hw (List.forall_mem_cons.2 ⟨z0, fun _ h => nomatch h⟩)

theorem mfsr : ∀ vd vn vp vr, Statement (.mfsr vd vn vp vr) := by
  intro vd vn vp vr
  refine encodes_of _ .control [⟨21, 5, vd⟩, ⟨15, 1, vn⟩, ⟨12, 3, vp⟩, ⟨0, 12, vr⟩] 0x50000000 rfl rfl rfl rfl rfl fun hw w hn => ?_
  have ha : apart [⟨21, 5, vd⟩, ⟨15, 1, vn⟩, ⟨12, 3, vp⟩, ⟨0, 12, vr⟩] 0x50000000 = true := rfl
  have g0 := fld_val _ _ 0 21 5 vd ha rfl
  have g1 := fld_val _ _ 1 15 1 vn ha rfl
  have g2 := fld_val _ _ 2 12 3 vp ha rfl
  have g3 := fld_val _ _ 3 0 12 vr ha rfl
  have c0 : _ / 2 ^ 26 = 0x14 := val_below _ _ 26 ha rfl
  have z0 : _ / 2 ^ 16 % 2 ^ 5 = 0 := val_clear _ _ 16 5 ha rfl
  rw [← hn] at g0 g1 g2 g3 c0 z0
  show decodeControl w = _
  delta decodeControl
  dsimp only
  rw [c0]
  show row w.toNat [(16, 5, .a)] (.mfsr (fld w.toNat 21 5) (fld w.toNat 15 1) (fld w.toNat 12 3) (fld w.toNat 0 12)) = _
  rw [g0, g1, g2, g3]
  exact row_ok _ _ _ hw (List.forall_mem_cons.2 ⟨z0, fun _ h => nomatch h⟩)

theorem mtsr : ∀ va vn vp vr, Statement (.mtsr va vn vp vr) := by
  intro va vn vp vr
  refine encodes_of _ .control [⟨16, 5, va⟩, ⟨15, 1, vn⟩, ⟨12, 3, vp⟩, ⟨0, 12, vr⟩] 0x54000000 rfl rfl rfl rfl rfl fun hw w hn => ?_
  have ha : apart [⟨16, 5, va⟩, ⟨15, 1, vn⟩, ⟨12, 3, vp⟩, ⟨0, 12, vr⟩] 0x54000000 = true := rfl
  have g0 := fld_val _ _ 0 16 5 va ha rfl
  have g1 := fld_val _ _ 1 15 1 vn ha rfl
  have g2 := fld_val _ _ 2 12 3 vp ha rfl
  have g3 := fld_val _ _ 3 0 12 vr ha rfl
  have c0 : _ / 2 ^ 26 = 0x15 := val_below _ _ 26 ha rfl
  have z0 : _ / 2 ^ 21 % 2 ^ 5 = 0 := val_clear _ _ 21 5 ha rfl
  rw [← hn] at g0 g1 g2 g3 c0 z0
  show decodeControl w = _
  delta decodeControl
  dsimp only
  rw [c0]
  show row w.toNat [(21, 5, .d)] (.mtsr (fld w.toNat 16 5) (fld w.toNat 15 1) (fld w.toNat 12 3) (fld w.toNat 0 12)) = _
  rw [g0, g1, g2, g3]
  exact row_ok _ _ _ hw (List.forall_mem_cons.2 ⟨z0, fun _ h => nomatch h⟩)

theorem dset : ∀ vd va vs, Statement (.dset vd va vs) := by
  intro vd va vs
  refine encodes_of _ .control [⟨21, 3, vd⟩, ⟨16, 5, va⟩, ⟨0, 10, vs⟩] 0x58000000 rfl rfl rfl rfl rfl fun hw w hn => ?_
  have ha : apart [⟨21, 3, vd⟩, ⟨16, 5, va⟩, ⟨0, 10, vs⟩] 0x58000000 = true := rfl
  have g0 := fld_val _ _ 0 21 3 vd ha rfl
  have g1 := fld_val _ _ 1 16 5 va ha rfl
  have g2 := fld_val _ _ 2 0 10 vs ha rfl
  have c0 : _ / 2 ^ 26 = 0x16 := val_below _ _ 26 ha rfl
  have c1 : _ / 2 ^ 26 % 2 ^ 6 = 0x16 := val_clear _ _ 26 6 ha rfl
  have c2 : _ / 2 ^ 10 % 2 ^ 1 = 0x0 := val_clear _ _ 10 1 ha rfl
  have z0 : _ / 2 ^ 24 % 2 ^ 2 = 0 := val_clear _ _ 24 2 ha rfl
  have z1 : _ / 2 ^ 11 % 2 ^ 5 = 0 := val_clear _ _ 11 5 ha rfl
  rw [← hn] at g0 g1 g2 c0 c1 c2 z0 z1
  show decodeControl w = _
  delta decodeControl
  dsimp only
  rw [c0]
  show decodeControl16 w.toNat = _
  delta decodeControl16
  rw [c1, c2]
  show row w.toNat [(24, 2, .d), (11, 5, .b)] (.dset (fld w.toNat 21 3) (fld w.toNat 16 5) (fld w.toNat 0 10)) = _
  rw [g0, g1, g2]
  exact row_ok _ _ _ hw (List.forall_mem_cons.2 ⟨z0, List.forall_mem_cons.2 ⟨z1, fun _ h => nomatch h⟩⟩)

theorem dget : ∀ vd va vs, Statement (.dget vd va vs) := by
  intro vd va vs
  refine encodes_of _ .control [⟨21, 5, vd⟩, ⟨16, 3, va⟩, ⟨0, 10, vs⟩] 0x58000400 rfl rfl rfl rfl rfl fun hw w hn => ?_
  have ha : apart [⟨21, 5, vd⟩, ⟨16, 3, va⟩, ⟨0, 10, vs⟩] 0x58000400 = true := rfl
  have g0 := fld_val _ _ 0 21 5 vd ha rfl
  have g1 := fld_val _ _ 1 16 3 va ha rfl
  have g2 := fld_val _ _ 2 0 10 vs ha rfl
  have c0 : _ / 2 ^ 26 = 0x16 := val_below _ _ 26 ha rfl
  have c1 : _ / 2 ^ 26 % 2 ^ 6 = 0x16 := val_clear _ _ 26 6 ha rfl
  have c2 : _ / 2 ^ 10 % 2 ^ 1 = 0x1 := val_clear _ _ 10 1 ha rfl
  have z0 : _ / 2 ^ 19 % 2 ^ 2 = 0 := val_clear _ _ 19 2 ha rfl
  have z1 : _ / 2 ^ 11 % 2 ^ 5 = 0 := val_clear _ _ 11 5 ha rfl
  rw [← hn] at g0 g1 g2 c0 c1 c2 z0 z1
  show decodeControl w = _
  delta decodeControl
  dsimp only
  rw [c0]
  show decodeControl16 w.toNat = _
  delta decodeControl16
  rw [c1, c2]
  show row w.toNat [(19, 2, .a), (11, 5, .b)] (.dget (fld w.toNat 21 5) (fld w.toNat 16 3) (fld w.toNat 0 10)) = _
  rw [g0, g1, g2]
  exact row_ok _ _ _ hw (List.forall_mem_cons.2 ⟨z0, List.forall_mem_cons.2 ⟨z1, fun _ h => nomatch h⟩⟩)

theorem sqstart : ∀ va vt, Statement (.sqstart va vt) := by
  intro va vt
  refine encodes_of _ .control [⟨16, 5, va⟩, ⟨2, 2, vt⟩] 0x5c000000 rfl rfl rfl rfl rfl fun hw w hn => ?_
  have ha : apart [⟨16, 5, va⟩, ⟨2, 2, vt⟩] 0x5c000000 = true := rfl
  have g0 := fld_val _ _ 0 16 5 va ha rfl
  have g1 := fld_val _ _ 1 2 2 vt ha rfl
  have c0 : _ / 2 ^ 26 = 0x17 := val_below _ _ 26 ha rfl
  have c1 : _ / 2 ^ 26 % 2 ^ 6 = 0x17 := val_clear _ _ 26 6 ha rfl
  have c2 : _ / 2 ^ 0 % 2 ^ 2 = 0x0 := val_clear _ _ 0 2 ha rfl
  have z0 : _ / 2 ^ 21 % 2 ^ 5 = 0 := val_clear _ _ 21 5 ha rfl
  have z1 : _ / 2 ^ 11 % 2 ^ 5 = 0 := val_clear _ _ 11 5 ha rfl
  have z2 : _ / 2 ^ 4 % 2 ^ 7 = 0 := val_clear _ _ 4 7 ha rfl
  rw [← hn] at g0 g1 c0 c1 c2 z0 z1 z2
  show decodeControl w = _
  delta decodeControl
  dsimp only
  rw [c0]
  show decodeControl17 w.toNat = _
  delta decodeControl17
  rw [c1, c2]
  show row w.toNat [(21, 5, .d), (11, 5, .b), (4, 7, .opcode)] (.sqstart (fld w.toNat 16 5) (fld w.toNat 2 2)) = _
  rw [g0, g1]
  exact row_ok _ _ _ hw (List.forall_mem_cons.2 ⟨z0, List.forall_mem_cons.2 ⟨z1, List.forall_mem_cons.2 ⟨z2, fun _ h => nomatch h⟩⟩⟩)

theorem sqstop : ∀ vt, Statement (.sqstop vt) := by
  intro vt
  refine encodes_of _ .control [⟨2, 2, vt⟩] 0x5c000001 rfl rfl rfl rfl rfl fun hw w hn => ?_
  have ha : apart [⟨2, 2, vt⟩] 0x5c000001 = true := rfl
  have g0 := fld_val _ _ 0 2 2 vt ha rfl
  have c0 : _ / 2 ^ 26 = 0x17 := val_below _ _ 26 ha rfl
  have c1 : _ / 2 ^ 26 % 2 ^ 6 = 0x17 := val_clear _ _ 26 6 ha rfl
  have c2 : _ / 2 ^ 0 % 2 ^ 2 = 0x1 := val_clear _ _ 0 2 ha rfl
  have z0 : _ / 2 ^ 21 % 2 ^ 5 = 0 := val_clear _ _ 21 5 ha rfl
  have z1 : _ / 2 ^ 16 % 2 ^ 5 = 0 := val_clear _ _ 16 5 ha rfl
  have z2 : _ / 2 ^ 11 % 2 ^ 5 = 0 := val_clear _ _ 11 5 ha rfl
  have z3 : _ / 2 ^ 4 % 2 ^ 7 = 0 := val_clear _ _ 4 7 ha rfl
  rw [← hn] at g0 c0 c1 c2 z0 z1 z2 z3
  show decodeControl w = _
  delta decodeControl
  dsimp only
  rw [c0]
  show decodeControl17 w.toNat = _
  delta decodeControl17
  rw [c1, c2]
  show row w.toNat [(21, 5, .d), (16, 5, .a), (11, 5, .b), (4, 7, .opcode)] (.sqstop (fld w.toNat 2 2)) = _
  rw [g0]
  exact row_ok _ _ _ hw (List.forall_mem_cons.2 ⟨z0, List.forall_mem_cons.2 ⟨z1, List.forall_mem_cons.2 ⟨z2, List.forall_mem_cons.2 ⟨z3, fun _ h => nomatch h⟩⟩⟩⟩)

theorem sqbase : ∀ va vt, Statement (.sqbase va vt) := by
  intro va vt
  refine encodes_of _ .control [⟨16, 5, va⟩, ⟨2, 2, vt⟩] 0x5c000002 rfl rfl rfl rfl rfl fun hw w hn => ?_
  have ha : apart [⟨16, 5, va⟩, ⟨2, 2, vt⟩] 0x5c000002 = true := rfl
  have g0 := fld_val _ _ 0 16 5 va ha rfl
  have g1 := fld_val _ _ 1 2 2 vt ha rfl
  have c0 : _ / 2 ^ 26 = 0x17 := val_below _ _ 26 ha rfl
  have c1 : _ / 2 ^ 26 % 2 ^ 6 = 0x17 := val_clear _ _ 26 6 ha rfl
  have c2 : _ / 2 ^ 0 % 2 ^ 2 = 0x2 := val_clear _ _ 0 2 ha rfl
  have z0 : _ / 2 ^ 21 % 2 ^ 5 = 0 := val_clear _ _ 21 5 ha rfl
  have z1 : _ / 2 ^ 11 % 2 ^ 5 = 0 := val_clear _ _ 11 5 ha rfl
  have z2 : _ / 2 ^ 4 % 2 ^ 7 = 0 := val_clear _ _ 4 7 ha rfl
  rw [← hn] at g0 g1 c0 c1 c2 z0 z1 z2
  show decodeControl w = _
  delta decodeControl
  dsimp only
  rw [c0]
  show decodeControl17 w.toNat = _
  delta decodeControl17
  rw [c1, c2]
  show row w.toNat [(21, 5, .d), (11, 5, .b), (4, 7, .opcode)] (.sqbase (fld w.toNat 16 5) (fld w.toNat 2 2)) = _
  rw [g0, g1]
  exact row_ok _ _ _ hw (List.forall_mem_cons.2 ⟨z0, List.forall_mem_cons.2 ⟨z1, List.forall_mem_cons.2 ⟨z2, fun _ h => nomatch h⟩⟩⟩)

theorem sqstat : ∀ vd vt, Statement (.sqstat vd vt) := by
  intro vd vt
  refine encodes_of _ .control [⟨21, 5, vd⟩, ⟨2, 2, vt⟩] 0x5c000003 rfl rfl rfl rfl rfl fun hw w hn => ?_
  have ha : apart [⟨21, 5, vd⟩, ⟨2, 2, vt⟩] 0x5c000003 = true := rfl
  have g0 := fld_val _ _ 0 21 5 vd ha rfl
  have g1 := fld_val _ _ 1 2 2 vt ha rfl
  have c0 : _ / 2 ^ 26 = 0x17 := val_below _ _ 26 ha rfl
  have c1 : _ / 2 ^ 26 % 2 ^ 6 = 0x17 := val_clear _ _ 26 6 ha rfl
  have c2 : _ / 2 ^ 0 % 2 ^ 2 = 0x3 := val_clear _ _ 0 2 ha rfl
  have z0 : _ / 2 ^ 16 % 2 ^ 5 = 0 := val_clear _ _ 16 5 ha rfl
  have z1 : _ / 2 ^ 11 % 2 ^ 5 = 0 := val_clear _ _ 11 5 ha rfl
  have z2 : _ / 2 ^ 4 % 2 ^ 7 = 0 := val_clear _ _ 4 7 ha rfl
  rw [← hn] at g0 g1 c0 c1 c2 z0 z1 z2
  show decodeControl w = _
  delta decodeControl
  dsimp only
  rw [c0]
  show decodeControl17 w.toNat = _
  delta decodeControl17
  rw [c1, c2]
  show row w.toNat [(16, 5, .a), (11, 5, .b), (4, 7, .opcode)] (.sqstat (fld w.toNat 21 5) (fld w.toNat 2 2)) = _
  rw [g0, g1]
  exact row_ok _ _ _ hw (List.forall_mem_cons.2 ⟨z0, List.forall_mem_cons.2 ⟨z1, List.forall_mem_cons.2 ⟨z2, fun _ h => nomatch h⟩⟩⟩)

theorem tsig : ∀ vk, Statement (.tsig vk) := by
  intro vk
  refine encodes_of _ .control [⟨11, 4, vk⟩] 0x60000000 rfl rfl rfl rfl rfl fun hw w hn => ?_
  have ha : apart [⟨11, 4, vk⟩] 0x60000000 = true := rfl
  have g0 := fld_val _ _ 0 11 4 vk ha rfl
  have c0 : _ / 2 ^ 26 = 0x18 := val_below _ _ 26 ha rfl
  have c1 : _ / 2 ^ 26 % 2 ^ 6 = 0x18 := val_clear _ _ 26 6 ha rfl
  have c2 : _ / 2 ^ 0 % 2 ^ 6 = 0x0 := val_clear _ _ 0 6 ha rfl
  have z0 : _ / 2 ^ 21 % 2 ^ 5 = 0 := val_clear _ _ 21 5 ha rfl
  have z1 : _ / 2 ^ 16 % 2 ^ 5 = 0 := val_clear _ _ 16 5 ha rfl
  have z2 : _ / 2 ^ 15 % 2 ^ 1 = 0 := val_clear _ _ 15 1 ha rfl
  have z3 : _ / 2 ^ 6 % 2 ^ 5 = 0 := val_clear _ _ 6 5 ha rfl
  rw [← hn] at g0 c0 c1 c2 z0 z1 z2 z3
  show decodeControl w = _
  delta decodeControl
  dsimp only
  rw [c0]
  show decodeControl18 w.toNat = _
  delta decodeControl18
  rw [c1, c2]
  show row w.toNat [(21, 5, .d), (16, 5, .a), (15, 1, .b), (6, 5, .obs)] (.tsig (fld w.toNat 11 4)) = _
  rw [g0]
  exact row_ok _ _ _ hw (List.forall_mem_cons.2 ⟨z0, List.forall_mem_cons.2 ⟨z1, List.forall_mem_cons.2 ⟨z2, List.forall_mem_cons.2 ⟨z3, fun _ h => nomatch h⟩⟩⟩⟩)

theorem twait : ∀ vk, Statement (.twait vk) := by
  intro vk
  refine encodes_of _ .control [⟨11, 4, vk⟩] 0x60000001 rfl rfl rfl rfl rfl fun hw w hn => ?_
  have ha : apart [⟨11, 4, vk⟩] 0x60000001 = true := rfl
  have g0 := fld_val _ _ 0 11 4 vk ha rfl
  have c0 : _ / 2 ^ 26 = 0x18 := val_below _ _ 26 ha rfl
  have c1 : _ / 2 ^ 26 % 2 ^ 6 = 0x18 := val_clear _ _ 26 6 ha rfl
  have c2 : _ / 2 ^ 0 % 2 ^ 6 = 0x1 := val_clear _ _ 0 6 ha rfl
  have z0 : _ / 2 ^ 21 % 2 ^ 5 = 0 := val_clear _ _ 21 5 ha rfl
  have z1 : _ / 2 ^ 16 % 2 ^ 5 = 0 := val_clear _ _ 16 5 ha rfl
  have z2 : _ / 2 ^ 15 % 2 ^ 1 = 0 := val_clear _ _ 15 1 ha rfl
  have z3 : _ / 2 ^ 6 % 2 ^ 5 = 0 := val_clear _ _ 6 5 ha rfl
  rw [← hn] at g0 c0 c1 c2 z0 z1 z2 z3
  show decodeControl w = _
  delta decodeControl
  dsimp only
  rw [c0]
  show decodeControl18 w.toNat = _
  delta decodeControl18
  rw [c1, c2]
  show row w.toNat [(21, 5, .d), (16, 5, .a), (15, 1, .b), (6, 5, .obs)] (.twait (fld w.toNat 11 4)) = _
  rw [g0]
  exact row_ok _ _ _ hw (List.forall_mem_cons.2 ⟨z0, List.forall_mem_cons.2 ⟨z1, List.forall_mem_cons.2 ⟨z2, List.forall_mem_cons.2 ⟨z3, fun _ h => nomatch h⟩⟩⟩⟩)

theorem twaitnb : ∀ vd vk, Statement (.twaitnb vd vk) := by
  intro vd vk
  refine encodes_of _ .control [⟨21, 3, vd⟩, ⟨11, 4, vk⟩] 0x60000002 rfl rfl rfl rfl rfl fun hw w hn => ?_
  have ha : apart [⟨21, 3, vd⟩, ⟨11, 4, vk⟩] 0x60000002 = true := rfl
  have g0 := fld_val _ _ 0 21 3 vd ha rfl
  have g1 := fld_val _ _ 1 11 4 vk ha rfl
  have c0 : _ / 2 ^ 26 = 0x18 := val_below _ _ 26 ha rfl
  have c1 : _ / 2 ^ 26 % 2 ^ 6 = 0x18 := val_clear _ _ 26 6 ha rfl
  have c2 : _ / 2 ^ 0 % 2 ^ 6 = 0x2 := val_clear _ _ 0 6 ha rfl
  have z0 : _ / 2 ^ 24 % 2 ^ 2 = 0 := val_clear _ _ 24 2 ha rfl
  have z1 : _ / 2 ^ 16 % 2 ^ 5 = 0 := val_clear _ _ 16 5 ha rfl
  have z2 : _ / 2 ^ 15 % 2 ^ 1 = 0 := val_clear _ _ 15 1 ha rfl
  have z3 : _ / 2 ^ 6 % 2 ^ 5 = 0 := val_clear _ _ 6 5 ha rfl
  rw [← hn] at g0 g1 c0 c1 c2 z0 z1 z2 z3
  show decodeControl w = _
  delta decodeControl
  dsimp only
  rw [c0]
  show decodeControl18 w.toNat = _
  delta decodeControl18
  rw [c1, c2]
  show row w.toNat [(24, 2, .d), (16, 5, .a), (15, 1, .b), (6, 5, .obs)] (.twaitnb (fld w.toNat 21 3) (fld w.toNat 11 4)) = _
  rw [g0, g1]
  exact row_ok _ _ _ hw (List.forall_mem_cons.2 ⟨z0, List.forall_mem_cons.2 ⟨z1, List.forall_mem_cons.2 ⟨z2, List.forall_mem_cons.2 ⟨z3, fun _ h => nomatch h⟩⟩⟩⟩)

theorem fset : ∀ va vf vo, Statement (.fset va vf vo) := by
  intro va vf vo
  refine encodes_of _ .control [⟨16, 5, va⟩, ⟨11, 5, vf⟩, ⟨6, 5, vo⟩] 0x60000004 rfl rfl rfl rfl rfl fun hw w hn => ?_
  have ha : apart [⟨16, 5, va⟩, ⟨11, 5, vf⟩, ⟨6, 5, vo⟩] 0x60000004 = true := rfl
  have g0 := fld_val _ _ 0 16 5 va ha rfl
  have g1 := fld_val _ _ 1 11 5 vf ha rfl
  have g2 := fld_val _ _ 2 6 5 vo ha rfl
  have c0 : _ / 2 ^ 26 = 0x18 := val_below _ _ 26 ha rfl
  have c1 : _ / 2 ^ 26 % 2 ^ 6 = 0x18 := val_clear _ _ 26 6 ha rfl
  have c2 : _ / 2 ^ 0 % 2 ^ 6 = 0x4 := val_clear _ _ 0 6 ha rfl
  have z0 : _ / 2 ^ 21 % 2 ^ 5 = 0 := val_clear _ _ 21 5 ha rfl
  rw [← hn] at g0 g1 g2 c0 c1 c2 z0
  show decodeControl w = _
  delta decodeControl
  dsimp only
  rw [c0]
  show decodeControl18 w.toNat = _
  delta decodeControl18
  rw [c1, c2]
  show row w.toNat [(21, 5, .d)] (.fset (fld w.toNat 16 5) (fld w.toNat 11 5) (fld w.toNat 6 5)) = _
  rw [g0, g1, g2]
  exact row_ok _ _ _ hw (List.forall_mem_cons.2 ⟨z0, fun _ h => nomatch h⟩)

theorem fadd : ∀ va vf vo, Statement (.fadd va vf vo) := by
  intro va vf vo
  refine encodes_of _ .control [⟨16, 5, va⟩, ⟨11, 5, vf⟩, ⟨6, 5, vo⟩] 0x60000005 rfl rfl rfl rfl rfl fun hw w hn => ?_
  have ha : apart [⟨16, 5, va⟩, ⟨11, 5, vf⟩, ⟨6, 5, vo⟩] 0x60000005 = true := rfl
  have g0 := fld_val _ _ 0 16 5 va ha rfl
  have g1 := fld_val _ _ 1 11 5 vf ha rfl
  have g2 := fld_val _ _ 2 6 5 vo ha rfl
  have c0 : _ / 2 ^ 26 = 0x18 := val_below _ _ 26 ha rfl
  have c1 : _ / 2 ^ 26 % 2 ^ 6 = 0x18 := val_clear _ _ 26 6 ha rfl
  have c2 : _ / 2 ^ 0 % 2 ^ 6 = 0x5 := val_clear _ _ 0 6 ha rfl
  have z0 : _ / 2 ^ 21 % 2 ^ 5 = 0 := val_clear _ _ 21 5 ha rfl
  rw [← hn] at g0 g1 g2 c0 c1 c2 z0
  show decodeControl w = _
  delta decodeControl
  dsimp only
  rw [c0]
  show decodeControl18 w.toNat = _
  delta decodeControl18
  rw [c1, c2]
  show row w.toNat [(21, 5, .d)] (.fadd (fld w.toNat 16 5) (fld w.toNat 11 5) (fld w.toNat 6 5)) = _
  rw [g0, g1, g2]
  exact row_ok _ _ _ hw (List.forall_mem_cons.2 ⟨z0, fun _ h => nomatch h⟩)

theorem fawait : ∀ vd va vf vo, Statement (.fawait vd va vf vo) := by
  intro vd va vf vo
  refine encodes_of _ .control [⟨21, 5, vd⟩, ⟨16, 5, va⟩, ⟨11, 5, vf⟩, ⟨6, 5, vo⟩] 0x60000006 rfl rfl rfl rfl rfl fun hw w hn => ?_
  have ha : apart [⟨21, 5, vd⟩, ⟨16, 5, va⟩, ⟨11, 5, vf⟩, ⟨6, 5, vo⟩] 0x60000006 = true := rfl
  have g0 := fld_val _ _ 0 21 5 vd ha rfl
  have g1 := fld_val _ _ 1 16 5 va ha rfl
  have g2 := fld_val _ _ 2 11 5 vf ha rfl
  have g3 := fld_val _ _ 3 6 5 vo ha rfl
  have c0 : _ / 2 ^ 26 = 0x18 := val_below _ _ 26 ha rfl
  have c1 : _ / 2 ^ 26 % 2 ^ 6 = 0x18 := val_clear _ _ 26 6 ha rfl
  have c2 : _ / 2 ^ 0 % 2 ^ 6 = 0x6 := val_clear _ _ 0 6 ha rfl
  rw [← hn] at g0 g1 g2 g3 c0 c1 c2
  show decodeControl w = _
  delta decodeControl
  dsimp only
  rw [c0]
  show decodeControl18 w.toNat = _
  delta decodeControl18
  rw [c1, c2]
  show row w.toNat [] (.fawait (fld w.toNat 21 5) (fld w.toNat 16 5) (fld w.toNat 11 5) (fld w.toNat 6 5)) = _
  rw [g0, g1, g2, g3]
  exact row_ok _ _ _ hw (fun _ h => nomatch h)

theorem fradd : ∀ vt va vf vo, Statement (.fradd vt va vf vo) := by
  intro vt va vf vo
  refine encodes_of _ .control [⟨21, 5, vt⟩, ⟨16, 5, va⟩, ⟨11, 5, vf⟩, ⟨6, 5, vo⟩] 0x60000007 rfl rfl rfl rfl rfl fun hw w hn => ?_
  have ha : apart [⟨21, 5, vt⟩, ⟨16, 5, va⟩, ⟨11, 5, vf⟩, ⟨6, 5, vo⟩] 0x60000007 = true := rfl
  have g0 := fld_val _ _ 0 21 5 vt ha rfl
  have g1 := fld_val _ _ 1 16 5 va ha rfl
  have g2 := fld_val _ _ 2 11 5 vf ha rfl
  have g3 := fld_val _ _ 3 6 5 vo ha rfl
  have c0 : _ / 2 ^ 26 = 0x18 := val_below _ _ 26 ha rfl
  have c1 : _ / 2 ^ 26 % 2 ^ 6 = 0x18 := val_clear _ _ 26 6 ha rfl
  have c2 : _ / 2 ^ 0 % 2 ^ 6 = 0x7 := val_clear _ _ 0 6 ha rfl
  rw [← hn] at g0 g1 g2 g3 c0 c1 c2
  show decodeControl w = _
  delta decodeControl
  dsimp only
  rw [c0]
  show decodeControl18 w.toNat = _
  delta decodeControl18
  rw [c1, c2]
  show row w.toNat [] (.fradd (fld w.toNat 21 5) (fld w.toNat 16 5) (fld w.toNat 11 5) (fld w.toNat 6 5)) = _
  rw [g0, g1, g2, g3]
  exact row_ok _ _ _ hw (fun _ h => nomatch h)

theorem fmcast : ∀ vt va vf vo, Statement (.fmcast vt va vf vo) := by
  intro vt va vf vo
  refine encodes_of _ .control [⟨21, 5, vt⟩, ⟨16, 5, va⟩, ⟨11, 5, vf⟩, ⟨6, 5, vo⟩] 0x60000008 rfl rfl rfl rfl rfl fun hw w hn => ?_
  have ha : apart [⟨21, 5, vt⟩, ⟨16, 5, va⟩, ⟨11, 5, vf⟩, ⟨6, 5, vo⟩] 0x60000008 = true := rfl
  have g0 := fld_val _ _ 0 21 5 vt ha rfl
  have g1 := fld_val _ _ 1 16 5 va ha rfl
  have g2 := fld_val _ _ 2 11 5 vf ha rfl
  have g3 := fld_val _ _ 3 6 5 vo ha rfl
  have c0 : _ / 2 ^ 26 = 0x18 := val_below _ _ 26 ha rfl
  have c1 : _ / 2 ^ 26 % 2 ^ 6 = 0x18 := val_clear _ _ 26 6 ha rfl
  have c2 : _ / 2 ^ 0 % 2 ^ 6 = 0x8 := val_clear _ _ 0 6 ha rfl
  rw [← hn] at g0 g1 g2 g3 c0 c1 c2
  show decodeControl w = _
  delta decodeControl
  dsimp only
  rw [c0]
  show decodeControl18 w.toNat = _
  delta decodeControl18
  rw [c1, c2]
  show row w.toNat [] (.fmcast (fld w.toNat 21 5) (fld w.toNat 16 5) (fld w.toNat 11 5) (fld w.toNat 6 5)) = _
  rw [g0, g1, g2, g3]
  exact row_ok _ _ _ hw (fun _ h => nomatch h)

theorem fread : ∀ vd vf, Statement (.fread vd vf) := by
  intro vd vf
  refine encodes_of _ .control [⟨21, 5, vd⟩, ⟨11, 5, vf⟩] 0x60000009 rfl rfl rfl rfl rfl fun hw w hn => ?_
  have ha : apart [⟨21, 5, vd⟩, ⟨11, 5, vf⟩] 0x60000009 = true := rfl
  have g0 := fld_val _ _ 0 21 5 vd ha rfl
  have g1 := fld_val _ _ 1 11 5 vf ha rfl
  have c0 : _ / 2 ^ 26 = 0x18 := val_below _ _ 26 ha rfl
  have c1 : _ / 2 ^ 26 % 2 ^ 6 = 0x18 := val_clear _ _ 26 6 ha rfl
  have c2 : _ / 2 ^ 0 % 2 ^ 6 = 0x9 := val_clear _ _ 0 6 ha rfl
  have z0 : _ / 2 ^ 16 % 2 ^ 5 = 0 := val_clear _ _ 16 5 ha rfl
  have z1 : _ / 2 ^ 6 % 2 ^ 5 = 0 := val_clear _ _ 6 5 ha rfl
  rw [← hn] at g0 g1 c0 c1 c2 z0 z1
  show decodeControl w = _
  delta decodeControl
  dsimp only
  rw [c0]
  show decodeControl18 w.toNat = _
  delta decodeControl18
  rw [c1, c2]
  show row w.toNat [(16, 5, .a), (6, 5, .obs)] (.fread (fld w.toNat 21 5) (fld w.toNat 11 5)) = _
  rw [g0, g1]
  exact row_ok _ _ _ hw (List.forall_mem_cons.2 ⟨z0, List.forall_mem_cons.2 ⟨z1, fun _ h => nomatch h⟩⟩)

theorem tagwany : ∀ vd vb, Statement (.tagwany vd vb) := by
  intro vd vb
  refine encodes_of _ .control [⟨21, 5, vd⟩, ⟨11, 5, vb⟩] 0x6000000c rfl rfl rfl rfl rfl fun hw w hn => ?_
  have ha : apart [⟨21, 5, vd⟩, ⟨11, 5, vb⟩] 0x6000000c = true := rfl
  have g0 := fld_val _ _ 0 21 5 vd ha rfl
  have g1 := fld_val _ _ 1 11 5 vb ha rfl
  have c0 : _ / 2 ^ 26 = 0x18 := val_below _ _ 26 ha rfl
  have c1 : _ / 2 ^ 26 % 2 ^ 6 = 0x18 := val_clear _ _ 26 6 ha rfl
  have c2 : _ / 2 ^ 0 % 2 ^ 6 = 0xc := val_clear _ _ 0 6 ha rfl
  have z0 : _ / 2 ^ 16 % 2 ^ 5 = 0 := val_clear _ _ 16 5 ha rfl
  have z1 : _ / 2 ^ 6 % 2 ^ 5 = 0 := val_clear _ _ 6 5 ha rfl
  rw [← hn] at g0 g1 c0 c1 c2 z0 z1
  show decodeControl w = _
  delta decodeControl
  dsimp only
  rw [c0]
  show decodeControl18 w.toNat = _
  delta decodeControl18
  rw [c1, c2]
  show row w.toNat [(16, 5, .a), (6, 5, .obs)] (.tagwany (fld w.toNat 21 5) (fld w.toNat 11 5)) = _
  rw [g0, g1]
  exact row_ok _ _ _ hw (List.forall_mem_cons.2 ⟨z0, List.forall_mem_cons.2 ⟨z1, fun _ h => nomatch h⟩⟩)

theorem tagwall : ∀ vd vb, Statement (.tagwall vd vb) := by
  intro vd vb
  refine encodes_of _ .control [⟨21, 5, vd⟩, ⟨11, 5, vb⟩] 0x6000000d rfl rfl rfl rfl rfl fun hw w hn => ?_
  have ha : apart [⟨21, 5, vd⟩, ⟨11, 5, vb⟩] 0x6000000d = true := rfl
  have g0 := fld_val _ _ 0 21 5 vd ha rfl
  have g1 := fld_val _ _ 1 11 5 vb ha rfl
  have c0 : _ / 2 ^ 26 = 0x18 := val_below _ _ 26 ha rfl
  have c1 : _ / 2 ^ 26 % 2 ^ 6 = 0x18 := val_clear _ _ 26 6 ha rfl
  have c2 : _ / 2 ^ 0 % 2 ^ 6 = 0xd := val_clear _ _ 0 6 ha rfl
  have z0 : _ / 2 ^ 16 % 2 ^ 5 = 0 := val_clear _ _ 16 5 ha rfl
  have z1 : _ / 2 ^ 6 % 2 ^ 5 = 0 := val_clear _ _ 6 5 ha rfl
  rw [← hn] at g0 g1 c0 c1 c2 z0 z1
  show decodeControl w = _
  delta decodeControl
  dsimp only
  rw [c0]
  show decodeControl18 w.toNat = _
  delta decodeControl18
  rw [c1, c2]
  show row w.toNat [(16, 5, .a), (6, 5, .obs)] (.tagwall (fld w.toNat 21 5) (fld w.toNat 11 5)) = _
  rw [g0, g1]
  exact row_ok _ _ _ hw (List.forall_mem_cons.2 ⟨z0, List.forall_mem_cons.2 ⟨z1, fun _ h => nomatch h⟩⟩)

theorem tagffr : ∀ vd vb, Statement (.tagffr vd vb) := by
  intro vd vb
  refine encodes_of _ .control [⟨21, 5, vd⟩, ⟨11, 5, vb⟩] 0x6000000e rfl rfl rfl rfl rfl fun hw w hn => ?_
  have ha : apart [⟨21, 5, vd⟩, ⟨11, 5, vb⟩] 0x6000000e = true := rfl
  have g0 := fld_val _ _ 0 21 5 vd ha rfl
  have g1 := fld_val _ _ 1 11 5 vb ha rfl
  have c0 : _ / 2 ^ 26 = 0x18 := val_below _ _ 26 ha rfl
  have c1 : _ / 2 ^ 26 % 2 ^ 6 = 0x18 := val_clear _ _ 26 6 ha rfl
  have c2 : _ / 2 ^ 0 % 2 ^ 6 = 0xe := val_clear _ _ 0 6 ha rfl
  have z0 : _ / 2 ^ 16 % 2 ^ 5 = 0 := val_clear _ _ 16 5 ha rfl
  have z1 : _ / 2 ^ 6 % 2 ^ 5 = 0 := val_clear _ _ 6 5 ha rfl
  rw [← hn] at g0 g1 c0 c1 c2 z0 z1
  show decodeControl w = _
  delta decodeControl
  dsimp only
  rw [c0]
  show decodeControl18 w.toNat = _
  delta decodeControl18
  rw [c1, c2]
  show row w.toNat [(16, 5, .a), (6, 5, .obs)] (.tagffr (fld w.toNat 21 5) (fld w.toNat 11 5)) = _
  rw [g0, g1]
  exact row_ok _ _ _ hw (List.forall_mem_cons.2 ⟨z0, List.forall_mem_cons.2 ⟨z1, fun _ h => nomatch h⟩⟩)

theorem tagclr : ∀ vb, Statement (.tagclr vb) := by
  intro vb
  refine encodes_of _ .control [⟨11, 5, vb⟩] 0x6000000f rfl rfl rfl rfl rfl fun hw w hn => ?_
  have ha : apart [⟨11, 5, vb⟩] 0x6000000f = true := rfl
  have g0 := fld_val _ _ 0 11 5 vb ha rfl
  have c0 : _ / 2 ^ 26 = 0x18 := val_below _ _ 26 ha rfl
  have c1 : _ / 2 ^ 26 % 2 ^ 6 = 0x18 := val_clear _ _ 26 6 ha rfl
  have c2 : _ / 2 ^ 0 % 2 ^ 6 = 0xf := val_clear _ _ 0 6 ha rfl
  have z0 : _ / 2 ^ 21 % 2 ^ 5 = 0 := val_clear _ _ 21 5 ha rfl
  have z1 : _ / 2 ^ 16 % 2 ^ 5 = 0 := val_clear _ _ 16 5 ha rfl
  have z2 : _ / 2 ^ 6 % 2 ^ 5 = 0 := val_clear _ _ 6 5 ha rfl
  rw [← hn] at g0 c0 c1 c2 z0 z1 z2
  show decodeControl w = _
  delta decodeControl
  dsimp only
  rw [c0]
  show decodeControl18 w.toNat = _
  delta decodeControl18
  rw [c1, c2]
  show row w.toNat [(21, 5, .d), (16, 5, .a), (6, 5, .obs)] (.tagclr (fld w.toNat 11 5)) = _
  rw [g0]
  exact row_ok _ _ _ hw (List.forall_mem_cons.2 ⟨z0, List.forall_mem_cons.2 ⟨z1, List.forall_mem_cons.2 ⟨z2, fun _ h => nomatch h⟩⟩⟩)

theorem rgprod : ∀ vd vb vo, Statement (.rgprod vd vb vo) := by
  intro vd vb vo
  refine encodes_of _ .control [⟨21, 5, vd⟩, ⟨11, 5, vb⟩, ⟨6, 5, vo⟩] 0x60000010 rfl rfl rfl rfl rfl fun hw w hn => ?_
  have ha : apart [⟨21, 5, vd⟩, ⟨11, 5, vb⟩, ⟨6, 5, vo⟩] 0x60000010 = true := rfl
  have g0 := fld_val _ _ 0 21 5 vd ha rfl
  have g1 := fld_val _ _ 1 11 5 vb ha rfl
  have g2 := fld_val _ _ 2 6 5 vo ha rfl
  have c0 : _ / 2 ^ 26 = 0x18 := val_below _ _ 26 ha rfl
  have c1 : _ / 2 ^ 26 % 2 ^ 6 = 0x18 := val_clear _ _ 26 6 ha rfl
  have c2 : _ / 2 ^ 0 % 2 ^ 6 = 0x10 := val_clear _ _ 0 6 ha rfl
  have z0 : _ / 2 ^ 16 % 2 ^ 5 = 0 := val_clear _ _ 16 5 ha rfl
  rw [← hn] at g0 g1 g2 c0 c1 c2 z0
  show decodeControl w = _
  delta decodeControl
  dsimp only
  rw [c0]
  show decodeControl18 w.toNat = _
  delta decodeControl18
  rw [c1, c2]
  show row w.toNat [(16, 5, .a)] (.rgprod (fld w.toNat 21 5) (fld w.toNat 11 5) (fld w.toNat 6 5)) = _
  rw [g0, g1, g2]
  exact row_ok _ _ _ hw (List.forall_mem_cons.2 ⟨z0, fun _ h => nomatch h⟩)

theorem rgpub : ∀ va vb vo, Statement (.rgpub va vb vo) := by
  intro va vb vo
  refine encodes_of _ .control [⟨16, 5, va⟩, ⟨11, 5, vb⟩, ⟨6, 5, vo⟩] 0x60000011 rfl rfl rfl rfl rfl fun hw w hn => ?_
  have ha : apart [⟨16, 5, va⟩, ⟨11, 5, vb⟩, ⟨6, 5, vo⟩] 0x60000011 = true := rfl
  have g0 := fld_val _ _ 0 16 5 va ha rfl
  have g1 := fld_val _ _ 1 11 5 vb ha rfl
  have g2 := fld_val _ _ 2 6 5 vo ha rfl
  have c0 : _ / 2 ^ 26 = 0x18 := val_below _ _ 26 ha rfl
  have c1 : _ / 2 ^ 26 % 2 ^ 6 = 0x18 := val_clear _ _ 26 6 ha rfl
  have c2 : _ / 2 ^ 0 % 2 ^ 6 = 0x11 := val_clear _ _ 0 6 ha rfl
  have z0 : _ / 2 ^ 21 % 2 ^ 5 = 0 := val_clear _ _ 21 5 ha rfl
  rw [← hn] at g0 g1 g2 c0 c1 c2 z0
  show decodeControl w = _
  delta decodeControl
  dsimp only
  rw [c0]
  show decodeControl18 w.toNat = _
  delta decodeControl18
  rw [c1, c2]
  show row w.toNat [(21, 5, .d)] (.rgpub (fld w.toNat 16 5) (fld w.toNat 11 5) (fld w.toNat 6 5)) = _
  rw [g0, g1, g2]
  exact row_ok _ _ _ hw (List.forall_mem_cons.2 ⟨z0, fun _ h => nomatch h⟩)

theorem rgcons : ∀ vd vb vo, Statement (.rgcons vd vb vo) := by
  intro vd vb vo
  refine encodes_of _ .control [⟨21, 5, vd⟩, ⟨11, 5, vb⟩, ⟨6, 5, vo⟩] 0x60000012 rfl rfl rfl rfl rfl fun hw w hn => ?_
  have ha : apart [⟨21, 5, vd⟩, ⟨11, 5, vb⟩, ⟨6, 5, vo⟩] 0x60000012 = true := rfl
  have g0 := fld_val _ _ 0 21 5 vd ha rfl
  have g1 := fld_val _ _ 1 11 5 vb ha rfl
  have g2 := fld_val _ _ 2 6 5 vo ha rfl
  have c0 : _ / 2 ^ 26 = 0x18 := val_below _ _ 26 ha rfl
  have c1 : _ / 2 ^ 26 % 2 ^ 6 = 0x18 := val_clear _ _ 26 6 ha rfl
  have c2 : _ / 2 ^ 0 % 2 ^ 6 = 0x12 := val_clear _ _ 0 6 ha rfl
  have z0 : _ / 2 ^ 16 % 2 ^ 5 = 0 := val_clear _ _ 16 5 ha rfl
  rw [← hn] at g0 g1 g2 c0 c1 c2 z0
  show decodeControl w = _
  delta decodeControl
  dsimp only
  rw [c0]
  show decodeControl18 w.toNat = _
  delta decodeControl18
  rw [c1, c2]
  show row w.toNat [(16, 5, .a)] (.rgcons (fld w.toNat 21 5) (fld w.toNat 11 5) (fld w.toNat 6 5)) = _
  rw [g0, g1, g2]
  exact row_ok _ _ _ hw (List.forall_mem_cons.2 ⟨z0, fun _ h => nomatch h⟩)

theorem rgrel : ∀ va vb vo, Statement (.rgrel va vb vo) := by
  intro va vb vo
  refine encodes_of _ .control [⟨16, 5, va⟩, ⟨11, 5, vb⟩, ⟨6, 5, vo⟩] 0x60000013 rfl rfl rfl rfl rfl fun hw w hn => ?_
  have ha : apart [⟨16, 5, va⟩, ⟨11, 5, vb⟩, ⟨6, 5, vo⟩] 0x60000013 = true := rfl
  have g0 := fld_val _ _ 0 16 5 va ha rfl
  have g1 := fld_val _ _ 1 11 5 vb ha rfl
  have g2 := fld_val _ _ 2 6 5 vo ha rfl
  have c0 : _ / 2 ^ 26 = 0x18 := val_below _ _ 26 ha rfl
  have c1 : _ / 2 ^ 26 % 2 ^ 6 = 0x18 := val_clear _ _ 26 6 ha rfl
  have c2 : _ / 2 ^ 0 % 2 ^ 6 = 0x13 := val_clear _ _ 0 6 ha rfl
  have z0 : _ / 2 ^ 21 % 2 ^ 5 = 0 := val_clear _ _ 21 5 ha rfl
  rw [← hn] at g0 g1 g2 c0 c1 c2 z0
  show decodeControl w = _
  delta decodeControl
  dsimp only
  rw [c0]
  show decodeControl18 w.toNat = _
  delta decodeControl18
  rw [c1, c2]
  show row w.toNat [(21, 5, .d)] (.rgrel (fld w.toNat 16 5) (fld w.toNat 11 5) (fld w.toNat 6 5)) = _
  rw [g0, g1, g2]
  exact row_ok _ _ _ hw (List.forall_mem_cons.2 ⟨z0, fun _ h => nomatch h⟩)

theorem barinit : ∀ va vf vo, Statement (.barinit va vf vo) := by
  intro va vf vo
  refine encodes_of _ .control [⟨16, 5, va⟩, ⟨11, 5, vf⟩, ⟨6, 5, vo⟩] 0x60000018 rfl rfl rfl rfl rfl fun hw w hn => ?_
  have ha : apart [⟨16, 5, va⟩, ⟨11, 5, vf⟩, ⟨6, 5, vo⟩] 0x60000018 = true := rfl
  have g0 := fld_val _ _ 0 16 5 va ha rfl
  have g1 := fld_val _ _ 1 11 5 vf ha rfl
  have g2 := fld_val _ _ 2 6 5 vo ha rfl
  have c0 : _ / 2 ^ 26 = 0x18 := val_below _ _ 26 ha rfl
  have c1 : _ / 2 ^ 26 % 2 ^ 6 = 0x18 := val_clear _ _ 26 6 ha rfl
  have c2 : _ / 2 ^ 0 % 2 ^ 6 = 0x18 := val_clear _ _ 0 6 ha rfl
  have z0 : _ / 2 ^ 21 % 2 ^ 5 = 0 := val_clear _ _ 21 5 ha rfl
  rw [← hn] at g0 g1 g2 c0 c1 c2 z0
  show decodeControl w = _
  delta decodeControl
  dsimp only
  rw [c0]
  show decodeControl18 w.toNat = _
  delta decodeControl18
  rw [c1, c2]
  show row w.toNat [(21, 5, .d)] (.barinit (fld w.toNat 16 5) (fld w.toNat 11 5) (fld w.toNat 6 5)) = _
  rw [g0, g1, g2]
  exact row_ok _ _ _ hw (List.forall_mem_cons.2 ⟨z0, fun _ h => nomatch h⟩)

theorem barinitf : ∀ va vf vo, Statement (.barinitf va vf vo) := by
  intro va vf vo
  refine encodes_of _ .control [⟨16, 5, va⟩, ⟨11, 5, vf⟩, ⟨6, 5, vo⟩] 0x60000019 rfl rfl rfl rfl rfl fun hw w hn => ?_
  have ha : apart [⟨16, 5, va⟩, ⟨11, 5, vf⟩, ⟨6, 5, vo⟩] 0x60000019 = true := rfl
  have g0 := fld_val _ _ 0 16 5 va ha rfl
  have g1 := fld_val _ _ 1 11 5 vf ha rfl
  have g2 := fld_val _ _ 2 6 5 vo ha rfl
  have c0 : _ / 2 ^ 26 = 0x18 := val_below _ _ 26 ha rfl
  have c1 : _ / 2 ^ 26 % 2 ^ 6 = 0x18 := val_clear _ _ 26 6 ha rfl
  have c2 : _ / 2 ^ 0 % 2 ^ 6 = 0x19 := val_clear _ _ 0 6 ha rfl
  have z0 : _ / 2 ^ 21 % 2 ^ 5 = 0 := val_clear _ _ 21 5 ha rfl
  rw [← hn] at g0 g1 g2 c0 c1 c2 z0
  show decodeControl w = _
  delta decodeControl
  dsimp only
  rw [c0]
  show decodeControl18 w.toNat = _
  delta decodeControl18
  rw [c1, c2]
  show row w.toNat [(21, 5, .d)] (.barinitf (fld w.toNat 16 5) (fld w.toNat 11 5) (fld w.toNat 6 5)) = _
  rw [g0, g1, g2]
  exact row_ok _ _ _ hw (List.forall_mem_cons.2 ⟨z0, fun _ h => nomatch h⟩)

theorem baradd : ∀ vt va vf vo, Statement (.baradd vt va vf vo) := by
  intro vt va vf vo
  refine encodes_of _ .control [⟨21, 5, vt⟩, ⟨16, 5, va⟩, ⟨11, 5, vf⟩, ⟨6, 5, vo⟩] 0x6000001a rfl rfl rfl rfl rfl fun hw w hn => ?_
  have ha : apart [⟨21, 5, vt⟩, ⟨16, 5, va⟩, ⟨11, 5, vf⟩, ⟨6, 5, vo⟩] 0x6000001a = true := rfl
  have g0 := fld_val _ _ 0 21 5 vt ha rfl
  have g1 := fld_val _ _ 1 16 5 va ha rfl
  have g2 := fld_val _ _ 2 11 5 vf ha rfl
  have g3 := fld_val _ _ 3 6 5 vo ha rfl
  have c0 : _ / 2 ^ 26 = 0x18 := val_below _ _ 26 ha rfl
  have c1 : _ / 2 ^ 26 % 2 ^ 6 = 0x18 := val_clear _ _ 26 6 ha rfl
  have c2 : _ / 2 ^ 0 % 2 ^ 6 = 0x1a := val_clear _ _ 0 6 ha rfl
  rw [← hn] at g0 g1 g2 g3 c0 c1 c2
  show decodeControl w = _
  delta decodeControl
  dsimp only
  rw [c0]
  show decodeControl18 w.toNat = _
  delta decodeControl18
  rw [c1, c2]
  show row w.toNat [] (.baradd (fld w.toNat 21 5) (fld w.toNat 16 5) (fld w.toNat 11 5) (fld w.toNat 6 5)) = _
  rw [g0, g1, g2, g3]
  exact row_ok _ _ _ hw (fun _ h => nomatch h)

theorem barcast : ∀ vt va vf vo, Statement (.barcast vt va vf vo) := by
  intro vt va vf vo
  refine encodes_of _ .control [⟨21, 5, vt⟩, ⟨16, 5, va⟩, ⟨11, 5, vf⟩, ⟨6, 5, vo⟩] 0x6000001b rfl rfl rfl rfl rfl fun hw w hn => ?_
  have ha : apart [⟨21, 5, vt⟩, ⟨16, 5, va⟩, ⟨11, 5, vf⟩, ⟨6, 5, vo⟩] 0x6000001b = true := rfl
  have g0 := fld_val _ _ 0 21 5 vt ha rfl
  have g1 := fld_val _ _ 1 16 5 va ha rfl
  have g2 := fld_val _ _ 2 11 5 vf ha rfl
  have g3 := fld_val _ _ 3 6 5 vo ha rfl
  have c0 : _ / 2 ^ 26 = 0x18 := val_below _ _ 26 ha rfl
  have c1 : _ / 2 ^ 26 % 2 ^ 6 = 0x18 := val_clear _ _ 26 6 ha rfl
  have c2 : _ / 2 ^ 0 % 2 ^ 6 = 0x1b := val_clear _ _ 0 6 ha rfl
  rw [← hn] at g0 g1 g2 g3 c0 c1 c2
  show decodeControl w = _
  delta decodeControl
  dsimp only
  rw [c0]
  show decodeControl18 w.toNat = _
  delta decodeControl18
  rw [c1, c2]
  show row w.toNat [] (.barcast (fld w.toNat 21 5) (fld w.toNat 16 5) (fld w.toNat 11 5) (fld w.toNat 6 5)) = _
  rw [g0, g1, g2, g3]
  exact row_ok _ _ _ hw (fun _ h => nomatch h)

theorem fenceRel : ∀ vo, Statement (.fenceRel vo) := by
  intro vo
  refine encodes_of _ .control [⟨6, 5, vo⟩] 0x60000020 rfl rfl rfl rfl rfl fun hw w hn => ?_
  have ha : apart [⟨6, 5, vo⟩] 0x60000020 = true := rfl
  have g0 := fld_val _ _ 0 6 5 vo ha rfl
  have c0 : _ / 2 ^ 26 = 0x18 := val_below _ _ 26 ha rfl
  have c1 : _ / 2 ^ 26 % 2 ^ 6 = 0x18 := val_clear _ _ 26 6 ha rfl
  have c2 : _ / 2 ^ 0 % 2 ^ 6 = 0x20 := val_clear _ _ 0 6 ha rfl
  have z0 : _ / 2 ^ 21 % 2 ^ 5 = 0 := val_clear _ _ 21 5 ha rfl
  have z1 : _ / 2 ^ 16 % 2 ^ 5 = 0 := val_clear _ _ 16 5 ha rfl
  have z2 : _ / 2 ^ 11 % 2 ^ 5 = 0 := val_clear _ _ 11 5 ha rfl
  rw [← hn] at g0 c0 c1 c2 z0 z1 z2
  show decodeControl w = _
  delta decodeControl
  dsimp only
  rw [c0]
  show decodeControl18 w.toNat = _
  delta decodeControl18
  rw [c1, c2]
  show row w.toNat [(21, 5, .d), (16, 5, .a), (11, 5, .b)] (.fenceRel (fld w.toNat 6 5)) = _
  rw [g0]
  exact row_ok _ _ _ hw (List.forall_mem_cons.2 ⟨z0, List.forall_mem_cons.2 ⟨z1, List.forall_mem_cons.2 ⟨z2, fun _ h => nomatch h⟩⟩⟩)

theorem fenceAcq : ∀ vo, Statement (.fenceAcq vo) := by
  intro vo
  refine encodes_of _ .control [⟨6, 5, vo⟩] 0x60000021 rfl rfl rfl rfl rfl fun hw w hn => ?_
  have ha : apart [⟨6, 5, vo⟩] 0x60000021 = true := rfl
  have g0 := fld_val _ _ 0 6 5 vo ha rfl
  have c0 : _ / 2 ^ 26 = 0x18 := val_below _ _ 26 ha rfl
  have c1 : _ / 2 ^ 26 % 2 ^ 6 = 0x18 := val_clear _ _ 26 6 ha rfl
  have c2 : _ / 2 ^ 0 % 2 ^ 6 = 0x21 := val_clear _ _ 0 6 ha rfl
  have z0 : _ / 2 ^ 21 % 2 ^ 5 = 0 := val_clear _ _ 21 5 ha rfl
  have z1 : _ / 2 ^ 16 % 2 ^ 5 = 0 := val_clear _ _ 16 5 ha rfl
  have z2 : _ / 2 ^ 11 % 2 ^ 5 = 0 := val_clear _ _ 11 5 ha rfl
  rw [← hn] at g0 c0 c1 c2 z0 z1 z2
  show decodeControl w = _
  delta decodeControl
  dsimp only
  rw [c0]
  show decodeControl18 w.toNat = _
  delta decodeControl18
  rw [c1, c2]
  show row w.toNat [(21, 5, .d), (16, 5, .a), (11, 5, .b)] (.fenceAcq (fld w.toNat 6 5)) = _
  rw [g0]
  exact row_ok _ _ _ hw (List.forall_mem_cons.2 ⟨z0, List.forall_mem_cons.2 ⟨z1, List.forall_mem_cons.2 ⟨z2, fun _ h => nomatch h⟩⟩⟩)

theorem fenceFull : ∀ vo, Statement (.fenceFull vo) := by
  intro vo
  refine encodes_of _ .control [⟨6, 5, vo⟩] 0x60000022 rfl rfl rfl rfl rfl fun hw w hn => ?_
  have ha : apart [⟨6, 5, vo⟩] 0x60000022 = true := rfl
  have g0 := fld_val _ _ 0 6 5 vo ha rfl
  have c0 : _ / 2 ^ 26 = 0x18 := val_below _ _ 26 ha rfl
  have c1 : _ / 2 ^ 26 % 2 ^ 6 = 0x18 := val_clear _ _ 26 6 ha rfl
  have c2 : _ / 2 ^ 0 % 2 ^ 6 = 0x22 := val_clear _ _ 0 6 ha rfl
  have z0 : _ / 2 ^ 21 % 2 ^ 5 = 0 := val_clear _ _ 21 5 ha rfl
  have z1 : _ / 2 ^ 16 % 2 ^ 5 = 0 := val_clear _ _ 16 5 ha rfl
  have z2 : _ / 2 ^ 11 % 2 ^ 5 = 0 := val_clear _ _ 11 5 ha rfl
  rw [← hn] at g0 c0 c1 c2 z0 z1 z2
  show decodeControl w = _
  delta decodeControl
  dsimp only
  rw [c0]
  show decodeControl18 w.toNat = _
  delta decodeControl18
  rw [c1, c2]
  show row w.toNat [(21, 5, .d), (16, 5, .a), (11, 5, .b)] (.fenceFull (fld w.toNat 6 5)) = _
  rw [g0]
  exact row_ok _ _ _ hw (List.forall_mem_cons.2 ⟨z0, List.forall_mem_cons.2 ⟨z1, List.forall_mem_cons.2 ⟨z2, fun _ h => nomatch h⟩⟩⟩)

theorem fenceX : Statement .fenceX := by
  refine encodes_of _ .control [] 0x60000023 rfl rfl rfl rfl rfl fun hw w hn => ?_
  have ha : apart [] 0x60000023 = true := rfl
  have c0 : _ / 2 ^ 26 = 0x18 := val_below _ _ 26 ha rfl
  have c1 : _ / 2 ^ 26 % 2 ^ 6 = 0x18 := val_clear _ _ 26 6 ha rfl
  have c2 : _ / 2 ^ 0 % 2 ^ 6 = 0x23 := val_clear _ _ 0 6 ha rfl
  have z0 : _ / 2 ^ 21 % 2 ^ 5 = 0 := val_clear _ _ 21 5 ha rfl
  have z1 : _ / 2 ^ 16 % 2 ^ 5 = 0 := val_clear _ _ 16 5 ha rfl
  have z2 : _ / 2 ^ 11 % 2 ^ 5 = 0 := val_clear _ _ 11 5 ha rfl
  have z3 : _ / 2 ^ 6 % 2 ^ 5 = 0 := val_clear _ _ 6 5 ha rfl
  rw [← hn] at c0 c1 c2 z0 z1 z2 z3
  show decodeControl w = _
  delta decodeControl
  dsimp only
  rw [c0]
  show decodeControl18 w.toNat = _
  delta decodeControl18
  rw [c1, c2]
  show row w.toNat [(21, 5, .d), (16, 5, .a), (11, 5, .b), (6, 5, .obs)] .fenceX = _
  exact row_ok _ _ _ hw (List.forall_mem_cons.2 ⟨z0, List.forall_mem_cons.2 ⟨z1, List.forall_mem_cons.2 ⟨z2, List.forall_mem_cons.2 ⟨z3, fun _ h => nomatch h⟩⟩⟩⟩)

theorem waita : ∀ vd va vb vo, Statement (.waita vd va vb vo) := by
  intro vd va vb vo
  refine encodes_of _ .control [⟨21, 5, vd⟩, ⟨16, 5, va⟩, ⟨11, 5, vb⟩, ⟨6, 5, vo⟩] 0x60000024 rfl rfl rfl rfl rfl fun hw w hn => ?_
  have ha : apart [⟨21, 5, vd⟩, ⟨16, 5, va⟩, ⟨11, 5, vb⟩, ⟨6, 5, vo⟩] 0x60000024 = true := rfl
  have g0 := fld_val _ _ 0 21 5 vd ha rfl
  have g1 := fld_val _ _ 1 16 5 va ha rfl
  have g2 := fld_val _ _ 2 11 5 vb ha rfl
  have g3 := fld_val _ _ 3 6 5 vo ha rfl
  have c0 : _ / 2 ^ 26 = 0x18 := val_below _ _ 26 ha rfl
  have c1 : _ / 2 ^ 26 % 2 ^ 6 = 0x18 := val_clear _ _ 26 6 ha rfl
  have c2 : _ / 2 ^ 0 % 2 ^ 6 = 0x24 := val_clear _ _ 0 6 ha rfl
  rw [← hn] at g0 g1 g2 g3 c0 c1 c2
  show decodeControl w = _
  delta decodeControl
  dsimp only
  rw [c0]
  show decodeControl18 w.toNat = _
  delta decodeControl18
  rw [c1, c2]
  show row w.toNat [] (.waita (fld w.toNat 21 5) (fld w.toNat 16 5) (fld w.toNat 11 5) (fld w.toNat 6 5)) = _
  rw [g0, g1, g2, g3]
  exact row_ok _ _ _ hw (fun _ h => nomatch h)

theorem waitanb : ∀ vd va vb vo, Statement (.waitanb vd va vb vo) := by
  intro vd va vb vo
  refine encodes_of _ .control [⟨21, 5, vd⟩, ⟨16, 5, va⟩, ⟨11, 5, vb⟩, ⟨6, 5, vo⟩] 0x60000025 rfl rfl rfl rfl rfl fun hw w hn => ?_
  have ha : apart [⟨21, 5, vd⟩, ⟨16, 5, va⟩, ⟨11, 5, vb⟩, ⟨6, 5, vo⟩] 0x60000025 = true := rfl
  have g0 := fld_val _ _ 0 21 5 vd ha rfl
  have g1 := fld_val _ _ 1 16 5 va ha rfl
  have g2 := fld_val _ _ 2 11 5 vb ha rfl
  have g3 := fld_val _ _ 3 6 5 vo ha rfl
  have c0 : _ / 2 ^ 26 = 0x18 := val_below _ _ 26 ha rfl
  have c1 : _ / 2 ^ 26 % 2 ^ 6 = 0x18 := val_clear _ _ 26 6 ha rfl
  have c2 : _ / 2 ^ 0 % 2 ^ 6 = 0x25 := val_clear _ _ 0 6 ha rfl
  rw [← hn] at g0 g1 g2 g3 c0 c1 c2
  show decodeControl w = _
  delta decodeControl
  dsimp only
  rw [c0]
  show decodeControl18 w.toNat = _
  delta decodeControl18
  rw [c1, c2]
  show row w.toNat [] (.waitanb (fld w.toNat 21 5) (fld w.toNat 16 5) (fld w.toNat 11 5) (fld w.toNat 6 5)) = _
  rw [g0, g1, g2, g3]
  exact row_ok _ _ _ hw (fun _ h => nomatch h)

theorem rent : ∀ vd va vb, Statement (.rent vd va vb) := by
  intro vd va vb
  refine encodes_of _ .control [⟨21, 5, vd⟩, ⟨16, 5, va⟩, ⟨11, 5, vb⟩] 0x64000000 rfl rfl rfl rfl rfl fun hw w hn => ?_
  have ha : apart [⟨21, 5, vd⟩, ⟨16, 5, va⟩, ⟨11, 5, vb⟩] 0x64000000 = true := rfl
  have g0 := fld_val _ _ 0 21 5 vd ha rfl
  have g1 := fld_val _ _ 1 16 5 va ha rfl
  have g2 := fld_val _ _ 2 11 5 vb ha rfl
  have c0 : _ / 2 ^ 26 = 0x19 := val_below _ _ 26 ha rfl
  have c1 : _ / 2 ^ 26 % 2 ^ 6 = 0x19 := val_clear _ _ 26 6 ha rfl
  have c2 : _ / 2 ^ 0 % 2 ^ 6 = 0x0 := val_clear _ _ 0 6 ha rfl
  have z0 : _ / 2 ^ 6 % 2 ^ 5 = 0 := val_clear _ _ 6 5 ha rfl
  rw [← hn] at g0 g1 g2 c0 c1 c2 z0
  show decodeControl w = _
  delta decodeControl
  dsimp only
  rw [c0]
  show decodeControl19 w.toNat = _
  delta decodeControl19
  rw [c1, c2]
  show row w.toNat [(6, 5, .obs)] (.rent (fld w.toNat 21 5) (fld w.toNat 16 5) (fld w.toNat 11 5)) = _
  rw [g0, g1, g2]
  exact row_ok _ _ _ hw (List.forall_mem_cons.2 ⟨z0, fun _ h => nomatch h⟩)

theorem renew : ∀ vd va vb, Statement (.renew vd va vb) := by
  intro vd va vb
  refine encodes_of _ .control [⟨21, 5, vd⟩, ⟨16, 5, va⟩, ⟨11, 5, vb⟩] 0x64000001 rfl rfl rfl rfl rfl fun hw w hn => ?_
  have ha : apart [⟨21, 5, vd⟩, ⟨16, 5, va⟩, ⟨11, 5, vb⟩] 0x64000001 = true := rfl
  have g0 := fld_val _ _ 0 21 5 vd ha rfl
  have g1 := fld_val _ _ 1 16 5 va ha rfl
  have g2 := fld_val _ _ 2 11 5 vb ha rfl
  have c0 : _ / 2 ^ 26 = 0x19 := val_below _ _ 26 ha rfl
  have c1 : _ / 2 ^ 26 % 2 ^ 6 = 0x19 := val_clear _ _ 26 6 ha rfl
  have c2 : _ / 2 ^ 0 % 2 ^ 6 = 0x1 := val_clear _ _ 0 6 ha rfl
  have z0 : _ / 2 ^ 6 % 2 ^ 5 = 0 := val_clear _ _ 6 5 ha rfl
  rw [← hn] at g0 g1 g2 c0 c1 c2 z0
  show decodeControl w = _
  delta decodeControl
  dsimp only
  rw [c0]
  show decodeControl19 w.toNat = _
  delta decodeControl19
  rw [c1, c2]
  show row w.toNat [(6, 5, .obs)] (.renew (fld w.toNat 21 5) (fld w.toNat 16 5) (fld w.toNat 11 5)) = _
  rw [g0, g1, g2]
  exact row_ok _ _ _ hw (List.forall_mem_cons.2 ⟨z0, fun _ h => nomatch h⟩)

theorem prepay : ∀ vd va vb, Statement (.prepay vd va vb) := by
  intro vd va vb
  refine encodes_of _ .control [⟨21, 5, vd⟩, ⟨16, 5, va⟩, ⟨11, 5, vb⟩] 0x64000002 rfl rfl rfl rfl rfl fun hw w hn => ?_
  have ha : apart [⟨21, 5, vd⟩, ⟨16, 5, va⟩, ⟨11, 5, vb⟩] 0x64000002 = true := rfl
  have g0 := fld_val _ _ 0 21 5 vd ha rfl
  have g1 := fld_val _ _ 1 16 5 va ha rfl
  have g2 := fld_val _ _ 2 11 5 vb ha rfl
  have c0 : _ / 2 ^ 26 = 0x19 := val_below _ _ 26 ha rfl
  have c1 : _ / 2 ^ 26 % 2 ^ 6 = 0x19 := val_clear _ _ 26 6 ha rfl
  have c2 : _ / 2 ^ 0 % 2 ^ 6 = 0x2 := val_clear _ _ 0 6 ha rfl
  have z0 : _ / 2 ^ 6 % 2 ^ 5 = 0 := val_clear _ _ 6 5 ha rfl
  rw [← hn] at g0 g1 g2 c0 c1 c2 z0
  show decodeControl w = _
  delta decodeControl
  dsimp only
  rw [c0]
  show decodeControl19 w.toNat = _
  delta decodeControl19
  rw [c1, c2]
  show row w.toNat [(6, 5, .obs)] (.prepay (fld w.toNat 21 5) (fld w.toNat 16 5) (fld w.toNat 11 5)) = _
  rw [g0, g1, g2]
  exact row_ok _ _ _ hw (List.forall_mem_cons.2 ⟨z0, fun _ h => nomatch h⟩)

theorem sublet : ∀ vd va vb, Statement (.sublet vd va vb) := by
  intro vd va vb
  refine encodes_of _ .control [⟨21, 5, vd⟩, ⟨16, 5, va⟩, ⟨11, 5, vb⟩] 0x64000003 rfl rfl rfl rfl rfl fun hw w hn => ?_
  have ha : apart [⟨21, 5, vd⟩, ⟨16, 5, va⟩, ⟨11, 5, vb⟩] 0x64000003 = true := rfl
  have g0 := fld_val _ _ 0 21 5 vd ha rfl
  have g1 := fld_val _ _ 1 16 5 va ha rfl
  have g2 := fld_val _ _ 2 11 5 vb ha rfl
  have c0 : _ / 2 ^ 26 = 0x19 := val_below _ _ 26 ha rfl
  have c1 : _ / 2 ^ 26 % 2 ^ 6 = 0x19 := val_clear _ _ 26 6 ha rfl
  have c2 : _ / 2 ^ 0 % 2 ^ 6 = 0x3 := val_clear _ _ 0 6 ha rfl
  have z0 : _ / 2 ^ 6 % 2 ^ 5 = 0 := val_clear _ _ 6 5 ha rfl
  rw [← hn] at g0 g1 g2 c0 c1 c2 z0
  show decodeControl w = _
  delta decodeControl
  dsimp only
  rw [c0]
  show decodeControl19 w.toNat = _
  delta decodeControl19
  rw [c1, c2]
  show row w.toNat [(6, 5, .obs)] (.sublet (fld w.toNat 21 5) (fld w.toNat 16 5) (fld w.toNat 11 5)) = _
  rw [g0, g1, g2]
  exact row_ok _ _ _ hw (List.forall_mem_cons.2 ⟨z0, fun _ h => nomatch h⟩)

theorem adopt : ∀ vd va vb, Statement (.adopt vd va vb) := by
  intro vd va vb
  refine encodes_of _ .control [⟨21, 5, vd⟩, ⟨16, 5, va⟩, ⟨11, 5, vb⟩] 0x64000004 rfl rfl rfl rfl rfl fun hw w hn => ?_
  have ha : apart [⟨21, 5, vd⟩, ⟨16, 5, va⟩, ⟨11, 5, vb⟩] 0x64000004 = true := rfl
  have g0 := fld_val _ _ 0 21 5 vd ha rfl
  have g1 := fld_val _ _ 1 16 5 va ha rfl
  have g2 := fld_val _ _ 2 11 5 vb ha rfl
  have c0 : _ / 2 ^ 26 = 0x19 := val_below _ _ 26 ha rfl
  have c1 : _ / 2 ^ 26 % 2 ^ 6 = 0x19 := val_clear _ _ 26 6 ha rfl
  have c2 : _ / 2 ^ 0 % 2 ^ 6 = 0x4 := val_clear _ _ 0 6 ha rfl
  have z0 : _ / 2 ^ 6 % 2 ^ 5 = 0 := val_clear _ _ 6 5 ha rfl
  rw [← hn] at g0 g1 g2 c0 c1 c2 z0
  show decodeControl w = _
  delta decodeControl
  dsimp only
  rw [c0]
  show decodeControl19 w.toNat = _
  delta decodeControl19
  rw [c1, c2]
  show row w.toNat [(6, 5, .obs)] (.adopt (fld w.toNat 21 5) (fld w.toNat 16 5) (fld w.toNat 11 5)) = _
  rw [g0, g1, g2]
  exact row_ok _ _ _ hw (List.forall_mem_cons.2 ⟨z0, fun _ h => nomatch h⟩)

theorem vacate : ∀ vd va, Statement (.vacate vd va) := by
  intro vd va
  refine encodes_of _ .control [⟨21, 5, vd⟩, ⟨16, 5, va⟩] 0x64000005 rfl rfl rfl rfl rfl fun hw w hn => ?_
  have ha : apart [⟨21, 5, vd⟩, ⟨16, 5, va⟩] 0x64000005 = true := rfl
  have g0 := fld_val _ _ 0 21 5 vd ha rfl
  have g1 := fld_val _ _ 1 16 5 va ha rfl
  have c0 : _ / 2 ^ 26 = 0x19 := val_below _ _ 26 ha rfl
  have c1 : _ / 2 ^ 26 % 2 ^ 6 = 0x19 := val_clear _ _ 26 6 ha rfl
  have c2 : _ / 2 ^ 0 % 2 ^ 6 = 0x5 := val_clear _ _ 0 6 ha rfl
  have z0 : _ / 2 ^ 11 % 2 ^ 5 = 0 := val_clear _ _ 11 5 ha rfl
  have z1 : _ / 2 ^ 6 % 2 ^ 5 = 0 := val_clear _ _ 6 5 ha rfl
  rw [← hn] at g0 g1 c0 c1 c2 z0 z1
  show decodeControl w = _
  delta decodeControl
  dsimp only
  rw [c0]
  show decodeControl19 w.toNat = _
  delta decodeControl19
  rw [c1, c2]
  show row w.toNat [(11, 5, .b), (6, 5, .obs)] (.vacate (fld w.toNat 21 5) (fld w.toNat 16 5)) = _
  rw [g0, g1]
  exact row_ok _ _ _ hw (List.forall_mem_cons.2 ⟨z0, List.forall_mem_cons.2 ⟨z1, fun _ h => nomatch h⟩⟩)

theorem lstat : ∀ vd va, Statement (.lstat vd va) := by
  intro vd va
  refine encodes_of _ .control [⟨21, 5, vd⟩, ⟨16, 5, va⟩] 0x64000006 rfl rfl rfl rfl rfl fun hw w hn => ?_
  have ha : apart [⟨21, 5, vd⟩, ⟨16, 5, va⟩] 0x64000006 = true := rfl
  have g0 := fld_val _ _ 0 21 5 vd ha rfl
  have g1 := fld_val _ _ 1 16 5 va ha rfl
  have c0 : _ / 2 ^ 26 = 0x19 := val_below _ _ 26 ha rfl
  have c1 : _ / 2 ^ 26 % 2 ^ 6 = 0x19 := val_clear _ _ 26 6 ha rfl
  have c2 : _ / 2 ^ 0 % 2 ^ 6 = 0x6 := val_clear _ _ 0 6 ha rfl
  have z0 : _ / 2 ^ 11 % 2 ^ 5 = 0 := val_clear _ _ 11 5 ha rfl
  have z1 : _ / 2 ^ 6 % 2 ^ 5 = 0 := val_clear _ _ 6 5 ha rfl
  rw [← hn] at g0 g1 c0 c1 c2 z0 z1
  show decodeControl w = _
  delta decodeControl
  dsimp only
  rw [c0]
  show decodeControl19 w.toNat = _
  delta decodeControl19
  rw [c1, c2]
  show row w.toNat [(11, 5, .b), (6, 5, .obs)] (.lstat (fld w.toNat 21 5) (fld w.toNat 16 5)) = _
  rw [g0, g1]
  exact row_ok _ _ _ hw (List.forall_mem_cons.2 ⟨z0, List.forall_mem_cons.2 ⟨z1, fun _ h => nomatch h⟩⟩)

theorem exit : Statement .exit := by
  refine encodes_of _ .control [] 0x68000000 rfl rfl rfl rfl rfl fun hw w hn => ?_
  have ha : apart [] 0x68000000 = true := rfl
  have c0 : _ / 2 ^ 26 = 0x1a := val_below _ _ 26 ha rfl
  have c1 : _ / 2 ^ 26 % 2 ^ 6 = 0x1a := val_clear _ _ 26 6 ha rfl
  have c2 : _ / 2 ^ 0 % 2 ^ 6 = 0x0 := val_clear _ _ 0 6 ha rfl
  have z0 : _ / 2 ^ 21 % 2 ^ 5 = 0 := val_clear _ _ 21 5 ha rfl
  have z1 : _ / 2 ^ 16 % 2 ^ 5 = 0 := val_clear _ _ 16 5 ha rfl
  have z2 : _ / 2 ^ 11 % 2 ^ 5 = 0 := val_clear _ _ 11 5 ha rfl
  have z3 : _ / 2 ^ 6 % 2 ^ 5 = 0 := val_clear _ _ 6 5 ha rfl
  rw [← hn] at c0 c1 c2 z0 z1 z2 z3
  show decodeControl w = _
  delta decodeControl
  dsimp only
  rw [c0]
  show decodeControl1a w.toNat = _
  delta decodeControl1a
  rw [c1, c2]
  show row w.toNat [(21, 5, .d), (16, 5, .a), (11, 5, .b), (6, 5, .obs)] .exit = _
  exact row_ok _ _ _ hw (List.forall_mem_cons.2 ⟨z0, List.forall_mem_cons.2 ⟨z1, List.forall_mem_cons.2 ⟨z2, List.forall_mem_cons.2 ⟨z3, fun _ h => nomatch h⟩⟩⟩⟩)

theorem exitAbandon : Statement .exitAbandon := by
  refine encodes_of _ .control [] 0x68000001 rfl rfl rfl rfl rfl fun hw w hn => ?_
  have ha : apart [] 0x68000001 = true := rfl
  have c0 : _ / 2 ^ 26 = 0x1a := val_below _ _ 26 ha rfl
  have c1 : _ / 2 ^ 26 % 2 ^ 6 = 0x1a := val_clear _ _ 26 6 ha rfl
  have c2 : _ / 2 ^ 0 % 2 ^ 6 = 0x1 := val_clear _ _ 0 6 ha rfl
  have z0 : _ / 2 ^ 21 % 2 ^ 5 = 0 := val_clear _ _ 21 5 ha rfl
  have z1 : _ / 2 ^ 16 % 2 ^ 5 = 0 := val_clear _ _ 16 5 ha rfl
  have z2 : _ / 2 ^ 11 % 2 ^ 5 = 0 := val_clear _ _ 11 5 ha rfl
  have z3 : _ / 2 ^ 6 % 2 ^ 5 = 0 := val_clear _ _ 6 5 ha rfl
  rw [← hn] at c0 c1 c2 z0 z1 z2 z3
  show decodeControl w = _
  delta decodeControl
  dsimp only
  rw [c0]
  show decodeControl1a w.toNat = _
  delta decodeControl1a
  rw [c1, c2]
  show row w.toNat [(21, 5, .d), (16, 5, .a), (11, 5, .b), (6, 5, .obs)] .exitAbandon = _
  exact row_ok _ _ _ hw (List.forall_mem_cons.2 ⟨z0, List.forall_mem_cons.2 ⟨z1, List.forall_mem_cons.2 ⟨z2, List.forall_mem_cons.2 ⟨z3, fun _ h => nomatch h⟩⟩⟩⟩)

theorem fcall : ∀ va, Statement (.fcall va) := by
  intro va
  refine encodes_of _ .control [⟨16, 5, va⟩] 0x68000002 rfl rfl rfl rfl rfl fun hw w hn => ?_
  have ha : apart [⟨16, 5, va⟩] 0x68000002 = true := rfl
  have g0 := fld_val _ _ 0 16 5 va ha rfl
  have c0 : _ / 2 ^ 26 = 0x1a := val_below _ _ 26 ha rfl
  have c1 : _ / 2 ^ 26 % 2 ^ 6 = 0x1a := val_clear _ _ 26 6 ha rfl
  have c2 : _ / 2 ^ 0 % 2 ^ 6 = 0x2 := val_clear _ _ 0 6 ha rfl
  have z0 : _ / 2 ^ 21 % 2 ^ 5 = 0 := val_clear _ _ 21 5 ha rfl
  have z1 : _ / 2 ^ 11 % 2 ^ 5 = 0 := val_clear _ _ 11 5 ha rfl
  have z2 : _ / 2 ^ 6 % 2 ^ 5 = 0 := val_clear _ _ 6 5 ha rfl
  rw [← hn] at g0 c0 c1 c2 z0 z1 z2
  show decodeControl w = _
  delta decodeControl
  dsimp only
  rw [c0]
  show decodeControl1a w.toNat = _
  delta decodeControl1a
  rw [c1, c2]
  show row w.toNat [(21, 5, .d), (11, 5, .b), (6, 5, .obs)] (.fcall (fld w.toNat 16 5)) = _
  rw [g0]
  exact row_ok _ _ _ hw (List.forall_mem_cons.2 ⟨z0, List.forall_mem_cons.2 ⟨z1, List.forall_mem_cons.2 ⟨z2, fun _ h => nomatch h⟩⟩⟩)

theorem eret : ∀ va vb, Statement (.eret va vb) := by
  intro va vb
  refine encodes_of _ .control [⟨16, 5, va⟩, ⟨11, 5, vb⟩] 0x68000003 rfl rfl rfl rfl rfl fun hw w hn => ?_
  have ha : apart [⟨16, 5, va⟩, ⟨11, 5, vb⟩] 0x68000003 = true := rfl
  have g0 := fld_val _ _ 0 16 5 va ha rfl
  have g1 := fld_val _ _ 1 11 5 vb ha rfl
  have c0 : _ / 2 ^ 26 = 0x1a := val_below _ _ 26 ha rfl
  have c1 : _ / 2 ^ 26 % 2 ^ 6 = 0x1a := val_clear _ _ 26 6 ha rfl
  have c2 : _ / 2 ^ 0 % 2 ^ 6 = 0x3 := val_clear _ _ 0 6 ha rfl
  have z0 : _ / 2 ^ 21 % 2 ^ 5 = 0 := val_clear _ _ 21 5 ha rfl
  have z1 : _ / 2 ^ 6 % 2 ^ 5 = 0 := val_clear _ _ 6 5 ha rfl
  rw [← hn] at g0 g1 c0 c1 c2 z0 z1
  show decodeControl w = _
  delta decodeControl
  dsimp only
  rw [c0]
  show decodeControl1a w.toNat = _
  delta decodeControl1a
  rw [c1, c2]
  show row w.toNat [(21, 5, .d), (6, 5, .obs)] (.eret (fld w.toNat 16 5) (fld w.toNat 11 5)) = _
  rw [g0, g1]
  exact row_ok _ _ _ hw (List.forall_mem_cons.2 ⟨z0, List.forall_mem_cons.2 ⟨z1, fun _ h => nomatch h⟩⟩)

theorem pinval : ∀ vd va vb, Statement (.pinval vd va vb) := by
  intro vd va vb
  refine encodes_of _ .control [⟨21, 5, vd⟩, ⟨16, 5, va⟩, ⟨11, 5, vb⟩] 0x68000004 rfl rfl rfl rfl rfl fun hw w hn => ?_
  have ha : apart [⟨21, 5, vd⟩, ⟨16, 5, va⟩, ⟨11, 5, vb⟩] 0x68000004 = true := rfl
  have g0 := fld_val _ _ 0 21 5 vd ha rfl
  have g1 := fld_val _ _ 1 16 5 va ha rfl
  have g2 := fld_val _ _ 2 11 5 vb ha rfl
  have c0 : _ / 2 ^ 26 = 0x1a := val_below _ _ 26 ha rfl
  have c1 : _ / 2 ^ 26 % 2 ^ 6 = 0x1a := val_clear _ _ 26 6 ha rfl
  have c2 : _ / 2 ^ 0 % 2 ^ 6 = 0x4 := val_clear _ _ 0 6 ha rfl
  have z0 : _ / 2 ^ 6 % 2 ^ 5 = 0 := val_clear _ _ 6 5 ha rfl
  rw [← hn] at g0 g1 g2 c0 c1 c2 z0
  show decodeControl w = _
  delta decodeControl
  dsimp only
  rw [c0]
  show decodeControl1a w.toNat = _
  delta decodeControl1a
  rw [c1, c2]
  show row w.toNat [(6, 5, .obs)] (.pinval (fld w.toNat 21 5) (fld w.toNat 16 5) (fld w.toNat 11 5)) = _
  rw [g0, g1, g2]
  exact row_ok _ _ _ hw (List.forall_mem_cons.2 ⟨z0, fun _ h => nomatch h⟩)

theorem dispMx : ∀ vw vk vs vj va vb vc, Statement (.dispMx vw vk vs vj va vb vc) := by
  intro vw vk vs vj va vb vc
  refine encodes_of _ .control [⟨23, 1, vw⟩, ⟨19, 4, vk⟩, ⟨18, 1, vs⟩, ⟨14, 4, vj⟩, ⟨11, 3, va⟩, ⟨8, 3, vb⟩, ⟨3, 5, vc⟩] 0x80000000 rfl rfl rfl rfl rfl fun hw w hn => ?_
  have ha : apart [⟨23, 1, vw⟩, ⟨19, 4, vk⟩, ⟨18, 1, vs⟩, ⟨14, 4, vj⟩, ⟨11, 3, va⟩, ⟨8, 3, vb⟩, ⟨3, 5, vc⟩] 0x80000000 = true := rfl
  have g0 := fld_val _ _ 0 23 1 vw ha rfl
  have g1 := fld_val _ _ 1 19 4 vk ha rfl
  have g2 := fld_val _ _ 2 18 1 vs ha rfl
  have g3 := fld_val _ _ 3 14 4 vj ha rfl
  have g4 := fld_val _ _ 4 11 3 va ha rfl
  have g5 := fld_val _ _ 5 8 3 vb ha rfl
  have g6 := fld_val _ _ 6 3 5 vc ha rfl
  have c0 : _ / 2 ^ 26 = 0x20 := val_below _ _ 26 ha rfl
  have c1 : _ / 2 ^ 24 % 2 ^ 8 = 0x80 := val_clear _ _ 24 8 ha rfl
  have z0 : _ / 2 ^ 0 % 2 ^ 3 = 0 := val_clear _ _ 0 3 ha rfl
  rw [← hn] at g0 g1 g2 g3 g4 g5 g6 c0 c1 z0
  show decodeControl w = _
  delta decodeControl
  dsimp only
  rw [c0]
  show decodeControl20 w.toNat = _
  delta decodeControl20
  rw [c1]
  show row w.toNat [(0, 3, .opcode)] (.dispMx (fld w.toNat 23 1) (fld w.toNat 19 4) (fld w.toNat 18 1) (fld w.toNat 14 4) (fld w.toNat 11 3) (fld w.toNat 8 3) (fld w.toNat 3 5)) = _
  rw [g0, g1, g2, g3, g4, g5, g6]
  exact row_ok _ _ _ hw (List.forall_mem_cons.2 ⟨z0, fun _ h => nomatch h⟩)

theorem dispCp : ∀ vw vk vs vj va vb vc, Statement (.dispCp vw vk vs vj va vb vc) := by
  intro vw vk vs vj va vb vc
  refine encodes_of _ .control [⟨23, 1, vw⟩, ⟨19, 4, vk⟩, ⟨18, 1, vs⟩, ⟨14, 4, vj⟩, ⟨11, 3, va⟩, ⟨8, 3, vb⟩, ⟨3, 5, vc⟩] 0x81000000 rfl rfl rfl rfl rfl fun hw w hn => ?_
  have ha : apart [⟨23, 1, vw⟩, ⟨19, 4, vk⟩, ⟨18, 1, vs⟩, ⟨14, 4, vj⟩, ⟨11, 3, va⟩, ⟨8, 3, vb⟩, ⟨3, 5, vc⟩] 0x81000000 = true := rfl
  have g0 := fld_val _ _ 0 23 1 vw ha rfl
  have g1 := fld_val _ _ 1 19 4 vk ha rfl
  have g2 := fld_val _ _ 2 18 1 vs ha rfl
  have g3 := fld_val _ _ 3 14 4 vj ha rfl
  have g4 := fld_val _ _ 4 11 3 va ha rfl
  have g5 := fld_val _ _ 5 8 3 vb ha rfl
  have g6 := fld_val _ _ 6 3 5 vc ha rfl
  have c0 : _ / 2 ^ 26 = 0x20 := val_below _ _ 26 ha rfl
  have c1 : _ / 2 ^ 24 % 2 ^ 8 = 0x81 := val_clear _ _ 24 8 ha rfl
  have z0 : _ / 2 ^ 0 % 2 ^ 3 = 0 := val_clear _ _ 0 3 ha rfl
  rw [← hn] at g0 g1 g2 g3 g4 g5 g6 c0 c1 z0
  show decodeControl w = _
  delta decodeControl
  dsimp only
  rw [c0]
  show decodeControl20 w.toNat = _
  delta decodeControl20
  rw [c1]
  show row w.toNat [(0, 3, .opcode)] (.dispCp (fld w.toNat 23 1) (fld w.toNat 19 4) (fld w.toNat 18 1) (fld w.toNat 14 4) (fld w.toNat 11 3) (fld w.toNat 8 3) (fld w.toNat 3 5)) = _
  rw [g0, g1, g2, g3, g4, g5, g6]
  exact row_ok _ _ _ hw (List.forall_mem_cons.2 ⟨z0, fun _ h => nomatch h⟩)

theorem dispCl : ∀ vw vk vs vj va vb vc, Statement (.dispCl vw vk vs vj va vb vc) := by
  intro vw vk vs vj va vb vc
  refine encodes_of _ .control [⟨23, 1, vw⟩, ⟨19, 4, vk⟩, ⟨18, 1, vs⟩, ⟨14, 4, vj⟩, ⟨11, 3, va⟩, ⟨8, 3, vb⟩, ⟨3, 5, vc⟩] 0x82000000 rfl rfl rfl rfl rfl fun hw w hn => ?_
  have ha : apart [⟨23, 1, vw⟩, ⟨19, 4, vk⟩, ⟨18, 1, vs⟩, ⟨14, 4, vj⟩, ⟨11, 3, va⟩, ⟨8, 3, vb⟩, ⟨3, 5, vc⟩] 0x82000000 = true := rfl
  have g0 := fld_val _ _ 0 23 1 vw ha rfl
  have g1 := fld_val _ _ 1 19 4 vk ha rfl
  have g2 := fld_val _ _ 2 18 1 vs ha rfl
  have g3 := fld_val _ _ 3 14 4 vj ha rfl
  have g4 := fld_val _ _ 4 11 3 va ha rfl
  have g5 := fld_val _ _ 5 8 3 vb ha rfl
  have g6 := fld_val _ _ 6 3 5 vc ha rfl
  have c0 : _ / 2 ^ 26 = 0x20 := val_below _ _ 26 ha rfl
  have c1 : _ / 2 ^ 24 % 2 ^ 8 = 0x82 := val_clear _ _ 24 8 ha rfl
  have z0 : _ / 2 ^ 0 % 2 ^ 3 = 0 := val_clear _ _ 0 3 ha rfl
  rw [← hn] at g0 g1 g2 g3 g4 g5 g6 c0 c1 z0
  show decodeControl w = _
  delta decodeControl
  dsimp only
  rw [c0]
  show decodeControl20 w.toNat = _
  delta decodeControl20
  rw [c1]
  show row w.toNat [(0, 3, .opcode)] (.dispCl (fld w.toNat 23 1) (fld w.toNat 19 4) (fld w.toNat 18 1) (fld w.toNat 14 4) (fld w.toNat 11 3) (fld w.toNat 8 3) (fld w.toNat 3 5)) = _
  rw [g0, g1, g2, g3, g4, g5, g6]
  exact row_ok _ _ _ hw (List.forall_mem_cons.2 ⟨z0, fun _ h => nomatch h⟩)

theorem dispMl : ∀ vw vk vs vj va vb vc, Statement (.dispMl vw vk vs vj va vb vc) := by
  intro vw vk vs vj va vb vc
  refine encodes_of _ .control [⟨23, 1, vw⟩, ⟨19, 4, vk⟩, ⟨18, 1, vs⟩, ⟨14, 4, vj⟩, ⟨11, 3, va⟩, ⟨8, 3, vb⟩, ⟨3, 5, vc⟩] 0x83000000 rfl rfl rfl rfl rfl fun hw w hn => ?_
  have ha : apart [⟨23, 1, vw⟩, ⟨19, 4, vk⟩, ⟨18, 1, vs⟩, ⟨14, 4, vj⟩, ⟨11, 3, va⟩, ⟨8, 3, vb⟩, ⟨3, 5, vc⟩] 0x83000000 = true := rfl
  have g0 := fld_val _ _ 0 23 1 vw ha rfl
  have g1 := fld_val _ _ 1 19 4 vk ha rfl
  have g2 := fld_val _ _ 2 18 1 vs ha rfl
  have g3 := fld_val _ _ 3 14 4 vj ha rfl
  have g4 := fld_val _ _ 4 11 3 va ha rfl
  have g5 := fld_val _ _ 5 8 3 vb ha rfl
  have g6 := fld_val _ _ 6 3 5 vc ha rfl
  have c0 : _ / 2 ^ 26 = 0x20 := val_below _ _ 26 ha rfl
  have c1 : _ / 2 ^ 24 % 2 ^ 8 = 0x83 := val_clear _ _ 24 8 ha rfl
  have z0 : _ / 2 ^ 0 % 2 ^ 3 = 0 := val_clear _ _ 0 3 ha rfl
  rw [← hn] at g0 g1 g2 g3 g4 g5 g6 c0 c1 z0
  show decodeControl w = _
  delta decodeControl
  dsimp only
  rw [c0]
  show decodeControl20 w.toNat = _
  delta decodeControl20
  rw [c1]
  show row w.toNat [(0, 3, .opcode)] (.dispMl (fld w.toNat 23 1) (fld w.toNat 19 4) (fld w.toNat 18 1) (fld w.toNat 14 4) (fld w.toNat 11 3) (fld w.toNat 8 3) (fld w.toNat 3 5)) = _
  rw [g0, g1, g2, g3, g4, g5, g6]
  exact row_ok _ _ _ hw (List.forall_mem_cons.2 ⟨z0, fun _ h => nomatch h⟩)

theorem xpfx : ∀ vi, Statement (.xpfx vi) := by
  intro vi
  refine encodes_of _ .control [⟨0, 16, vi⟩] 0xf8000000 rfl rfl rfl rfl rfl fun hw w hn => ?_
  have ha : apart [⟨0, 16, vi⟩] 0xf8000000 = true := rfl
  have g0 := fld_val _ _ 0 0 16 vi ha rfl
  have c0 : _ / 2 ^ 26 = 0x3e := val_below _ _ 26 ha rfl
  have z0 : _ / 2 ^ 16 % 2 ^ 10 = 0 := val_clear _ _ 16 10 ha rfl
  rw [← hn] at g0 c0 z0
  show decodeControl w = _
  delta decodeControl
  dsimp only
  rw [c0]
  show row w.toNat [(16, 10, .opcode)] (.xpfx (fld w.toNat 0 16)) = _
  rw [g0]
  exact row_ok _ _ _ hw (List.forall_mem_cons.2 ⟨z0, fun _ h => nomatch h⟩)

theorem vmov : ∀ vd va vh vj vm vg, Statement (.vmov vd va vh vj vm vg) := by
  intro vd va vh vj vm vg
  refine encodes_of _ .vector [⟨18, 6, vd⟩, ⟨12, 6, va⟩, ⟨5, 1, vh⟩, ⟨4, 1, vj⟩, ⟨1, 3, vm⟩, ⟨0, 1, vg⟩] 0x0 rfl rfl rfl rfl rfl fun hw w hn => ?_
  have ha : apart [⟨18, 6, vd⟩, ⟨12, 6, va⟩, ⟨5, 1, vh⟩, ⟨4, 1, vj⟩, ⟨1, 3, vm⟩, ⟨0, 1, vg⟩] 0x0 = true := rfl
  have g0 := fld_val _ _ 0 18 6 vd ha rfl
  have g1 := fld_val _ _ 1 12 6 va ha rfl
  have g2 := fld_val _ _ 2 5 1 vh ha rfl
  have g3 := fld_val _ _ 3 4 1 vj ha rfl
  have g4 := fld_val _ _ 4 1 3 vm ha rfl
  have g5 := fld_val _ _ 5 0 1 vg ha rfl
  have c0 : _ / 2 ^ 30 = 0x0 := val_below _ _ 30 ha rfl
  have c1 : _ / 2 ^ 24 % 2 ^ 8 = 0x0 := val_clear _ _ 24 8 ha rfl
  have z0 : _ / 2 ^ 6 % 2 ^ 6 = 0 := val_clear _ _ 6 6 ha rfl
  rw [← hn] at g0 g1 g2 g3 g4 g5 c0 c1 z0
  show decodeVector w = _
  delta decodeVector
  dsimp only
  rw [c0]
  show decodeVector0 w.toNat = _
  delta decodeVector0
  rw [c1]
  show row w.toNat [(6, 6, .b)] (.vmov (fld w.toNat 18 6) (fld w.toNat 12 6) (fld w.toNat 5 1) (fld w.toNat 4 1) (fld w.toNat 1 3) (fld w.toNat 0 1)) = _
  rw [g0, g1, g2, g3, g4, g5]
  exact row_ok _ _ _ hw (List.forall_mem_cons.2 ⟨z0, fun _ h => nomatch h⟩)

theorem vrd : ∀ vd va vl vh vj vm vg, Statement (.vrd vd va vl vh vj vm vg) := by
  intro vd va vl vh vj vm vg
  refine encodes_of _ .vector [⟨18, 6, vd⟩, ⟨12, 6, va⟩, ⟨6, 1, vl⟩, ⟨5, 1, vh⟩, ⟨4, 1, vj⟩, ⟨1, 3, vm⟩, ⟨0, 1, vg⟩] 0x1000000 rfl rfl rfl rfl rfl fun hw w hn => ?_
  have ha : apart [⟨18, 6, vd⟩, ⟨12, 6, va⟩, ⟨6, 1, vl⟩, ⟨5, 1, vh⟩, ⟨4, 1, vj⟩, ⟨1, 3, vm⟩, ⟨0, 1, vg⟩] 0x1000000 = true := rfl
  have g0 := fld_val _ _ 0 18 6 vd ha rfl
  have g1 := fld_val _ _ 1 12 6 va ha rfl
  have g2 := fld_val _ _ 2 6 1 vl ha rfl
  have g3 := fld_val _ _ 3 5 1 vh ha rfl
  have g4 := fld_val _ _ 4 4 1 vj ha rfl
  have g5 := fld_val _ _ 5 1 3 vm ha rfl
  have g6 := fld_val _ _ 6 0 1 vg ha rfl
  have c0 : _ / 2 ^ 30 = 0x0 := val_below _ _ 30 ha rfl
  have c1 : _ / 2 ^ 24 % 2 ^ 8 = 0x1 := val_clear _ _ 24 8 ha rfl
  have z0 : _ / 2 ^ 7 % 2 ^ 5 = 0 := val_clear _ _ 7 5 ha rfl
  rw [← hn] at g0 g1 g2 g3 g4 g5 g6 c0 c1 z0
  show decodeVector w = _
  delta decodeVector
  dsimp only
  rw [c0]
  show decodeVector0 w.toNat = _
  delta decodeVector0
  rw [c1]
  show row w.toNat [(7, 5, .b)] (.vrd (fld w.toNat 18 6) (fld w.toNat 12 6) (fld w.toNat 6 1) (fld w.toNat 5 1) (fld w.toNat 4 1) (fld w.toNat 1 3) (fld w.toNat 0 1)) = _
  rw [g0, g1, g2, g3, g4, g5, g6]
  exact row_ok _ _ _ hw (List.forall_mem_cons.2 ⟨z0, fun _ h => nomatch h⟩)

theorem vwr : ∀ vd va vl vh vj vm vg, Statement (.vwr vd va vl vh vj vm vg) := by
  intro vd va vl vh vj vm vg
  refine encodes_of _ .vector [⟨18, 6, vd⟩, ⟨12, 6, va⟩, ⟨6, 1, vl⟩, ⟨5, 1, vh⟩, ⟨4, 1, vj⟩, ⟨1, 3, vm⟩, ⟨0, 1, vg⟩] 0x2000000 rfl rfl rfl rfl rfl fun hw w hn => ?_
  have ha : apart [⟨18, 6, vd⟩, ⟨12, 6, va⟩, ⟨6, 1, vl⟩, ⟨5, 1, vh⟩, ⟨4, 1, vj⟩, ⟨1, 3, vm⟩, ⟨0, 1, vg⟩] 0x2000000 = true := rfl
  have g0 := fld_val _ _ 0 18 6 vd ha rfl
  have g1 := fld_val _ _ 1 12 6 va ha rfl
  have g2 := fld_val _ _ 2 6 1 vl ha rfl
  have g3 := fld_val _ _ 3 5 1 vh ha rfl
  have g4 := fld_val _ _ 4 4 1 vj ha rfl
  have g5 := fld_val _ _ 5 1 3 vm ha rfl
  have g6 := fld_val _ _ 6 0 1 vg ha rfl
  have c0 : _ / 2 ^ 30 = 0x0 := val_below _ _ 30 ha rfl
  have c1 : _ / 2 ^ 24 % 2 ^ 8 = 0x2 := val_clear _ _ 24 8 ha rfl
  have z0 : _ / 2 ^ 7 % 2 ^ 5 = 0 := val_clear _ _ 7 5 ha rfl
  rw [← hn] at g0 g1 g2 g3 g4 g5 g6 c0 c1 z0
  show decodeVector w = _
  delta decodeVector
  dsimp only
  rw [c0]
  show decodeVector0 w.toNat = _
  delta decodeVector0
  rw [c1]
  show row w.toNat [(7, 5, .b)] (.vwr (fld w.toNat 18 6) (fld w.toNat 12 6) (fld w.toNat 6 1) (fld w.toNat 5 1) (fld w.toNat 4 1) (fld w.toNat 1 3) (fld w.toNat 0 1)) = _
  rw [g0, g1, g2, g3, g4, g5, g6]
  exact row_ok _ _ _ hw (List.forall_mem_cons.2 ⟨z0, fun _ h => nomatch h⟩)

theorem vsel : ∀ vd va vb vh vj vm vg, Statement (.vsel vd va vb vh vj vm vg) := by
  intro vd va vb vh vj vm vg
  refine encodes_of _ .vector [⟨18, 6, vd⟩, ⟨12, 6, va⟩, ⟨6, 6, vb⟩, ⟨5, 1, vh⟩, ⟨4, 1, vj⟩, ⟨1, 3, vm⟩, ⟨0, 1, vg⟩] 0x3000000 rfl rfl rfl rfl rfl fun hw w hn => ?_
  have ha : apart [⟨18, 6, vd⟩, ⟨12, 6, va⟩, ⟨6, 6, vb⟩, ⟨5, 1, vh⟩, ⟨4, 1, vj⟩, ⟨1, 3, vm⟩, ⟨0, 1, vg⟩] 0x3000000 = true := rfl
  have g0 := fld_val _ _ 0 18 6 vd ha rfl
  have g1 := fld_val _ _ 1 12 6 va ha rfl
  have g2 := fld_val _ _ 2 6 6 vb ha rfl
  have g3 := fld_val _ _ 3 5 1 vh ha rfl
  have g4 := fld_val _ _ 4 4 1 vj ha rfl
  have g5 := fld_val _ _ 5 1 3 vm ha rfl
  have g6 := fld_val _ _ 6 0 1 vg ha rfl
  have c0 : _ / 2 ^ 30 = 0x0 := val_below _ _ 30 ha rfl
  have c1 : _ / 2 ^ 24 % 2 ^ 8 = 0x3 := val_clear _ _ 24 8 ha rfl
  rw [← hn] at g0 g1 g2 g3 g4 g5 g6 c0 c1
  show decodeVector w = _
  delta decodeVector
  dsimp only
  rw [c0]
  show decodeVector0 w.toNat = _
  delta decodeVector0
  rw [c1]
  show row w.toNat [] (.vsel (fld w.toNat 18 6) (fld w.toNat 12 6) (fld w.toNat 6 6) (fld w.toNat 5 1) (fld w.toNat 4 1) (fld w.toNat 1 3) (fld w.toNat 0 1)) = _
  rw [g0, g1, g2, g3, g4, g5, g6]
  exact row_ok _ _ _ hw (fun _ h => nomatch h)

theorem mand : ∀ vd va vb vg, Statement (.mand vd va vb vg) := by
  intro vd va vb vg
  refine encodes_of _ .vector [⟨18, 3, vd⟩, ⟨12, 3, va⟩, ⟨6, 3, vb⟩, ⟨0, 1, vg⟩] 0x4000000 rfl rfl rfl rfl rfl fun hw w hn => ?_
  have ha : apart [⟨18, 3, vd⟩, ⟨12, 3, va⟩, ⟨6, 3, vb⟩, ⟨0, 1, vg⟩] 0x4000000 = true := rfl
  have g0 := fld_val _ _ 0 18 3 vd ha rfl
  have g1 := fld_val _ _ 1 12 3 va ha rfl
  have g2 := fld_val _ _ 2 6 3 vb ha rfl
  have g3 := fld_val _ _ 3 0 1 vg ha rfl
  have c0 : _ / 2 ^ 30 = 0x0 := val_below _ _ 30 ha rfl
  have c1 : _ / 2 ^ 24 % 2 ^ 8 = 0x4 := val_clear _ _ 24 8 ha rfl
  have z0 : _ / 2 ^ 21 % 2 ^ 3 = 0 := val_clear _ _ 21 3 ha rfl
  have z1 : _ / 2 ^ 15 % 2 ^ 3 = 0 := val_clear _ _ 15 3 ha rfl
  have z2 : _ / 2 ^ 9 % 2 ^ 3 = 0 := val_clear _ _ 9 3 ha rfl
  have z3 : _ / 2 ^ 4 % 2 ^ 2 = 0 := val_clear _ _ 4 2 ha rfl
  have z4 : _ / 2 ^ 1 % 2 ^ 3 = 0 := val_clear _ _ 1 3 ha rfl
  rw [← hn] at g0 g1 g2 g3 c0 c1 z0 z1 z2 z3 z4
  show decodeVector w = _
  delta decodeVector
  dsimp only
  rw [c0]
  show decodeVector0 w.toNat = _
  delta decodeVector0
  rw [c1]
  show row w.toNat [(21, 3, .d), (15, 3, .a), (9, 3, .b), (4, 2, .hold), (1, 3, .pred)] (.mand (fld w.toNat 18 3) (fld w.toNat 12 3) (fld w.toNat 6 3) (fld w.toNat 0 1)) = _
  rw [g0, g1, g2, g3]
  exact row_ok _ _ _ hw (List.forall_mem_cons.2 ⟨z0, List.forall_mem_cons.2 ⟨z1, List.forall_mem_cons.2 ⟨z2, List.forall_mem_cons.2 ⟨z3, List.forall_mem_cons.2 ⟨z4, fun _ h => nomatch h⟩⟩⟩⟩⟩)

theorem mor : ∀ vd va vb vg, Statement (.mor vd va vb vg) := by
  intro vd va vb vg
  refine encodes_of _ .vector [⟨18, 3, vd⟩, ⟨12, 3, va⟩, ⟨6, 3, vb⟩, ⟨0, 1, vg⟩] 0x5000000 rfl rfl rfl rfl rfl fun hw w hn => ?_
  have ha : apart [⟨18, 3, vd⟩, ⟨12, 3, va⟩, ⟨6, 3, vb⟩, ⟨0, 1, vg⟩] 0x5000000 = true := rfl
  have g0 := fld_val _ _ 0 18 3 vd ha rfl
  have g1 := fld_val _ _ 1 12 3 va ha rfl
  have g2 := fld_val _ _ 2 6 3 vb ha rfl
  have g3 := fld_val _ _ 3 0 1 vg ha rfl
  have c0 : _ / 2 ^ 30 = 0x0 := val_below _ _ 30 ha rfl
  have c1 : _ / 2 ^ 24 % 2 ^ 8 = 0x5 := val_clear _ _ 24 8 ha rfl
  have z0 : _ / 2 ^ 21 % 2 ^ 3 = 0 := val_clear _ _ 21 3 ha rfl
  have z1 : _ / 2 ^ 15 % 2 ^ 3 = 0 := val_clear _ _ 15 3 ha rfl
  have z2 : _ / 2 ^ 9 % 2 ^ 3 = 0 := val_clear _ _ 9 3 ha rfl
  have z3 : _ / 2 ^ 4 % 2 ^ 2 = 0 := val_clear _ _ 4 2 ha rfl
  have z4 : _ / 2 ^ 1 % 2 ^ 3 = 0 := val_clear _ _ 1 3 ha rfl
  rw [← hn] at g0 g1 g2 g3 c0 c1 z0 z1 z2 z3 z4
  show decodeVector w = _
  delta decodeVector
  dsimp only
  rw [c0]
  show decodeVector0 w.toNat = _
  delta decodeVector0
  rw [c1]
  show row w.toNat [(21, 3, .d), (15, 3, .a), (9, 3, .b), (4, 2, .hold), (1, 3, .pred)] (.mor (fld w.toNat 18 3) (fld w.toNat 12 3) (fld w.toNat 6 3) (fld w.toNat 0 1)) = _
  rw [g0, g1, g2, g3]
  exact row_ok _ _ _ hw (List.forall_mem_cons.2 ⟨z0, List.forall_mem_cons.2 ⟨z1, List.forall_mem_cons.2 ⟨z2, List.forall_mem_cons.2 ⟨z3, List.forall_mem_cons.2 ⟨z4, fun _ h => nomatch h⟩⟩⟩⟩⟩)

theorem mxor : ∀ vd va vb vg, Statement (.mxor vd va vb vg) := by
  intro vd va vb vg
  refine encodes_of _ .vector [⟨18, 3, vd⟩, ⟨12, 3, va⟩, ⟨6, 3, vb⟩, ⟨0, 1, vg⟩] 0x6000000 rfl rfl rfl rfl rfl fun hw w hn => ?_
  have ha : apart [⟨18, 3, vd⟩, ⟨12, 3, va⟩, ⟨6, 3, vb⟩, ⟨0, 1, vg⟩] 0x6000000 = true := rfl
  have g0 := fld_val _ _ 0 18 3 vd ha rfl
  have g1 := fld_val _ _ 1 12 3 va ha rfl
  have g2 := fld_val _ _ 2 6 3 vb ha rfl
  have g3 := fld_val _ _ 3 0 1 vg ha rfl
  have c0 : _ / 2 ^ 30 = 0x0 := val_below _ _ 30 ha rfl
  have c1 : _ / 2 ^ 24 % 2 ^ 8 = 0x6 := val_clear _ _ 24 8 ha rfl
  have z0 : _ / 2 ^ 21 % 2 ^ 3 = 0 := val_clear _ _ 21 3 ha rfl
  have z1 : _ / 2 ^ 15 % 2 ^ 3 = 0 := val_clear _ _ 15 3 ha rfl
  have z2 : _ / 2 ^ 9 % 2 ^ 3 = 0 := val_clear _ _ 9 3 ha rfl
  have z3 : _ / 2 ^ 4 % 2 ^ 2 = 0 := val_clear _ _ 4 2 ha rfl
  have z4 : _ / 2 ^ 1 % 2 ^ 3 = 0 := val_clear _ _ 1 3 ha rfl
  rw [← hn] at g0 g1 g2 g3 c0 c1 z0 z1 z2 z3 z4
  show decodeVector w = _
  delta decodeVector
  dsimp only
  rw [c0]
  show decodeVector0 w.toNat = _
  delta decodeVector0
  rw [c1]
  show row w.toNat [(21, 3, .d), (15, 3, .a), (9, 3, .b), (4, 2, .hold), (1, 3, .pred)] (.mxor (fld w.toNat 18 3) (fld w.toNat 12 3) (fld w.toNat 6 3) (fld w.toNat 0 1)) = _
  rw [g0, g1, g2, g3]
  exact row_ok _ _ _ hw (List.forall_mem_cons.2 ⟨z0, List.forall_mem_cons.2 ⟨z1, List.forall_mem_cons.2 ⟨z2, List.forall_mem_cons.2 ⟨z3, List.forall_mem_cons.2 ⟨z4, fun _ h => nomatch h⟩⟩⟩⟩⟩)

theorem mandn : ∀ vd va vb vg, Statement (.mandn vd va vb vg) := by
  intro vd va vb vg
  refine encodes_of _ .vector [⟨18, 3, vd⟩, ⟨12, 3, va⟩, ⟨6, 3, vb⟩, ⟨0, 1, vg⟩] 0x7000000 rfl rfl rfl rfl rfl fun hw w hn => ?_
  have ha : apart [⟨18, 3, vd⟩, ⟨12, 3, va⟩, ⟨6, 3, vb⟩, ⟨0, 1, vg⟩] 0x7000000 = true := rfl
  have g0 := fld_val _ _ 0 18 3 vd ha rfl
  have g1 := fld_val _ _ 1 12 3 va ha rfl
  have g2 := fld_val _ _ 2 6 3 vb ha rfl
  have g3 := fld_val _ _ 3 0 1 vg ha rfl
  have c0 : _ / 2 ^ 30 = 0x0 := val_below _ _ 30 ha rfl
  have c1 : _ / 2 ^ 24 % 2 ^ 8 = 0x7 := val_clear _ _ 24 8 ha rfl
  have z0 : _ / 2 ^ 21 % 2 ^ 3 = 0 := val_clear _ _ 21 3 ha rfl
  have z1 : _ / 2 ^ 15 % 2 ^ 3 = 0 := val_clear _ _ 15 3 ha rfl
  have z2 : _ / 2 ^ 9 % 2 ^ 3 = 0 := val_clear _ _ 9 3 ha rfl
  have z3 : _ / 2 ^ 4 % 2 ^ 2 = 0 := val_clear _ _ 4 2 ha rfl
  have z4 : _ / 2 ^ 1 % 2 ^ 3 = 0 := val_clear _ _ 1 3 ha rfl
  rw [← hn] at g0 g1 g2 g3 c0 c1 z0 z1 z2 z3 z4
  show decodeVector w = _
  delta decodeVector
  dsimp only
  rw [c0]
  show decodeVector0 w.toNat = _
  delta decodeVector0
  rw [c1]
  show row w.toNat [(21, 3, .d), (15, 3, .a), (9, 3, .b), (4, 2, .hold), (1, 3, .pred)] (.mandn (fld w.toNat 18 3) (fld w.toNat 12 3) (fld w.toNat 6 3) (fld w.toNat 0 1)) = _
  rw [g0, g1, g2, g3]
  exact row_ok _ _ _ hw (List.forall_mem_cons.2 ⟨z0, List.forall_mem_cons.2 ⟨z1, List.forall_mem_cons.2 ⟨z2, List.forall_mem_cons.2 ⟨z3, List.forall_mem_cons.2 ⟨z4, fun _ h => nomatch h⟩⟩⟩⟩⟩)

theorem vaddI : ∀ vt vd va vb vh vj vm vg, Statement (.vaddI vt vd va vb vh vj vm vg) := by
  intro vt vd va vb vh vj vm vg
  refine encodes_of _ .vector [⟨28, 1, vt⟩, ⟨18, 6, vd⟩, ⟨12, 6, va⟩, ⟨6, 6, vb⟩, ⟨5, 1, vh⟩, ⟨4, 1, vj⟩, ⟨1, 3, vm⟩, ⟨0, 1, vg⟩] 0x20000000 rfl rfl rfl rfl rfl fun hw w hn => ?_
  have ha : apart [⟨28, 1, vt⟩, ⟨18, 6, vd⟩, ⟨12, 6, va⟩, ⟨6, 6, vb⟩, ⟨5, 1, vh⟩, ⟨4, 1, vj⟩, ⟨1, 3, vm⟩, ⟨0, 1, vg⟩] 0x20000000 = true := rfl
  have g0 := fld_val _ _ 0 28 1 vt ha rfl
  have g1 := fld_val _ _ 1 18 6 vd ha rfl
  have g2 := fld_val _ _ 2 12 6 va ha rfl
  have g3 := fld_val _ _ 3 6 6 vb ha rfl
  have g4 := fld_val _ _ 4 5 1 vh ha rfl
  have g5 := fld_val _ _ 5 4 1 vj ha rfl
  have g6 := fld_val _ _ 6 1 3 vm ha rfl
  have g7 := fld_val _ _ 7 0 1 vg ha rfl
  have c0 : _ / 2 ^ 30 = 0x0 := val_below _ _ 30 ha rfl
  have c1 : _ / 2 ^ 29 % 2 ^ 3 = 0x1 := val_clear _ _ 29 3 ha rfl
  have c2 : _ / 2 ^ 24 % 2 ^ 4 = 0x0 := val_clear _ _ 24 4 ha rfl
  rw [← hn] at g0 g1 g2 g3 g4 g5 g6 g7 c0 c1 c2
  show decodeVector w = _
  delta decodeVector
  dsimp only
  rw [c0]
  show decodeVector0 w.toNat = _
  delta decodeVector0
  rw [if_neg (fun h => ne_sub 24 8 5 3 0x0 c1 (by decide) (by decide) h), if_neg (fun h => ne_sub 24 8 0 4 0x1 c2 (by decide) (by decide) h), if_neg (fun h => ne_sub 24 8 0 4 0x2 c2 (by decide) (by decide) h), if_neg (fun h => ne_sub 24 8 0 4 0x3 c2 (by decide) (by decide) h), if_neg (fun h => ne_sub 24 8 0 4 0x4 c2 (by decide) (by decide) h), if_neg (fun h => ne_sub 24 8 0 4 0x5 c2 (by decide) (by decide) h), if_neg (fun h => ne_sub 24 8 0 4 0x6 c2 (by decide) (by decide) h), if_neg (fun h => ne_sub 24 8 0 4 0x7 c2 (by decide) (by decide) h)]
  rw [c1, c2]
  show row w.toNat [] (.vaddI (fld w.toNat 28 1) (fld w.toNat 18 6) (fld w.toNat 12 6) (fld w.toNat 6 6) (fld w.toNat 5 1) (fld w.toNat 4 1) (fld w.toNat 1 3) (fld w.toNat 0 1)) = _
  rw [g0, g1, g2, g3, g4, g5, g6, g7]
  exact row_ok _ _ _ hw (fun _ h => nomatch h)

theorem vaddSat : ∀ vt vd va vb vh vj vm vg, Statement (.vaddSat vt vd va vb vh vj vm vg) := by
  intro vt vd va vb vh vj vm vg
  refine encodes_of _ .vector [⟨28, 1, vt⟩, ⟨18, 6, vd⟩, ⟨12, 6, va⟩, ⟨6, 6, vb⟩, ⟨5, 1, vh⟩, ⟨4, 1, vj⟩, ⟨1, 3, vm⟩, ⟨0, 1, vg⟩] 0x21000000 rfl rfl rfl rfl rfl fun hw w hn => ?_
  have ha : apart [⟨28, 1, vt⟩, ⟨18, 6, vd⟩, ⟨12, 6, va⟩, ⟨6, 6, vb⟩, ⟨5, 1, vh⟩, ⟨4, 1, vj⟩, ⟨1, 3, vm⟩, ⟨0, 1, vg⟩] 0x21000000 = true := rfl
  have g0 := fld_val _ _ 0 28 1 vt ha rfl
  have g1 := fld_val _ _ 1 18 6 vd ha rfl
  have g2 := fld_val _ _ 2 12 6 va ha rfl
  have g3 := fld_val _ _ 3 6 6 vb ha rfl
  have g4 := fld_val _ _ 4 5 1 vh ha rfl
  have g5 := fld_val _ _ 5 4 1 vj ha rfl
  have g6 := fld_val _ _ 6 1 3 vm ha rfl
  have g7 := fld_val _ _ 7 0 1 vg ha rfl
  have c0 : _ / 2 ^ 30 = 0x0 := val_below _ _ 30 ha rfl
  have c1 : _ / 2 ^ 24 % 2 ^ 4 = 0x1 := val_clear _ _ 24 4 ha rfl
  have c2 : _ / 2 ^ 29 % 2 ^ 3 = 0x1 := val_clear _ _ 29 3 ha rfl
  rw [← hn] at g0 g1 g2 g3 g4 g5 g6 g7 c0 c1 c2
  show decodeVector w = _
  delta decodeVector
  dsimp only
  rw [c0]
  show decodeVector0 w.toNat = _
  delta decodeVector0
  rw [if_neg (fun h => ne_sub 24 8 0 4 0x0 c1 (by decide) (by decide) h), if_neg (fun h => ne_sub 24 8 5 3 0x1 c2 (by decide) (by decide) h), if_neg (fun h => ne_sub 24 8 0 4 0x2 c1 (by decide) (by decide) h), if_neg (fun h => ne_sub 24 8 0 4 0x3 c1 (by decide) (by decide) h), if_neg (fun h => ne_sub 24 8 0 4 0x4 c1 (by decide) (by decide) h), if_neg (fun h => ne_sub 24 8 0 4 0x5 c1 (by decide) (by decide) h), if_neg (fun h => ne_sub 24 8 0 4 0x6 c1 (by decide) (by decide) h), if_neg (fun h => ne_sub 24 8 0 4 0x7 c1 (by decide) (by decide) h)]
  rw [c2, c1]
  show row w.toNat [] (.vaddSat (fld w.toNat 28 1) (fld w.toNat 18 6) (fld w.toNat 12 6) (fld w.toNat 6 6) (fld w.toNat 5 1) (fld w.toNat 4 1) (fld w.toNat 1 3) (fld w.toNat 0 1)) = _
  rw [g0, g1, g2, g3, g4, g5, g6, g7]
  exact row_ok _ _ _ hw (fun _ h => nomatch h)

theorem vsubI : ∀ vt vd va vb vh vj vm vg, Statement (.vsubI vt vd va vb vh vj vm vg) := by
  intro vt vd va vb vh vj vm vg
  refine encodes_of _ .vector [⟨28, 1, vt⟩, ⟨18, 6, vd⟩, ⟨12, 6, va⟩, ⟨6, 6, vb⟩, ⟨5, 1, vh⟩, ⟨4, 1, vj⟩, ⟨1, 3, vm⟩, ⟨0, 1, vg⟩] 0x22000000 rfl rfl rfl rfl rfl fun hw w hn => ?_
  have ha : apart [⟨28, 1, vt⟩, ⟨18, 6, vd⟩, ⟨12, 6, va⟩, ⟨6, 6, vb⟩, ⟨5, 1, vh⟩, ⟨4, 1, vj⟩, ⟨1, 3, vm⟩, ⟨0, 1, vg⟩] 0x22000000 = true := rfl
  have g0 := fld_val _ _ 0 28 1 vt ha rfl
  have g1 := fld_val _ _ 1 18 6 vd ha rfl
  have g2 := fld_val _ _ 2 12 6 va ha rfl
  have g3 := fld_val _ _ 3 6 6 vb ha rfl
  have g4 := fld_val _ _ 4 5 1 vh ha rfl
  have g5 := fld_val _ _ 5 4 1 vj ha rfl
  have g6 := fld_val _ _ 6 1 3 vm ha rfl
  have g7 := fld_val _ _ 7 0 1 vg ha rfl
  have c0 : _ / 2 ^ 30 = 0x0 := val_below _ _ 30 ha rfl
  have c1 : _ / 2 ^ 24 % 2 ^ 4 = 0x2 := val_clear _ _ 24 4 ha rfl
  have c2 : _ / 2 ^ 29 % 2 ^ 3 = 0x1 := val_clear _ _ 29 3 ha rfl
  rw [← hn] at g0 g1 g2 g3 g4 g5 g6 g7 c0 c1 c2
  show decodeVector w = _
  delta decodeVector
  dsimp only
  rw [c0]
  show decodeVector0 w.toNat = _
  delta decodeVector0
  rw [if_neg (fun h => ne_sub 24 8 0 4 0x0 c1 (by decide) (by decide) h), if_neg (fun h => ne_sub 24 8 0 4 0x1 c1 (by decide) (by decide) h), if_neg (fun h => ne_sub 24 8 5 3 0x2 c2 (by decide) (by decide) h), if_neg (fun h => ne_sub 24 8 0 4 0x3 c1 (by decide) (by decide) h), if_neg (fun h => ne_sub 24 8 0 4 0x4 c1 (by decide) (by decide) h), if_neg (fun h => ne_sub 24 8 0 4 0x5 c1 (by decide) (by decide) h), if_neg (fun h => ne_sub 24 8 0 4 0x6 c1 (by decide) (by decide) h), if_neg (fun h => ne_sub 24 8 0 4 0x7 c1 (by decide) (by decide) h)]
  rw [c2, c1]
  show row w.toNat [] (.vsubI (fld w.toNat 28 1) (fld w.toNat 18 6) (fld w.toNat 12 6) (fld w.toNat 6 6) (fld w.toNat 5 1) (fld w.toNat 4 1) (fld w.toNat 1 3) (fld w.toNat 0 1)) = _
  rw [g0, g1, g2, g3, g4, g5, g6, g7]
  exact row_ok _ _ _ hw (fun _ h => nomatch h)

theorem vsubSat : ∀ vt vd va vb vh vj vm vg, Statement (.vsubSat vt vd va vb vh vj vm vg) := by
  intro vt vd va vb vh vj vm vg
  refine encodes_of _ .vector [⟨28, 1, vt⟩, ⟨18, 6, vd⟩, ⟨12, 6, va⟩, ⟨6, 6, vb⟩, ⟨5, 1, vh⟩, ⟨4, 1, vj⟩, ⟨1, 3, vm⟩, ⟨0, 1, vg⟩] 0x23000000 rfl rfl rfl rfl rfl fun hw w hn => ?_
  have ha : apart [⟨28, 1, vt⟩, ⟨18, 6, vd⟩, ⟨12, 6, va⟩, ⟨6, 6, vb⟩, ⟨5, 1, vh⟩, ⟨4, 1, vj⟩, ⟨1, 3, vm⟩, ⟨0, 1, vg⟩] 0x23000000 = true := rfl
  have g0 := fld_val _ _ 0 28 1 vt ha rfl
  have g1 := fld_val _ _ 1 18 6 vd ha rfl
  have g2 := fld_val _ _ 2 12 6 va ha rfl
  have g3 := fld_val _ _ 3 6 6 vb ha rfl
  have g4 := fld_val _ _ 4 5 1 vh ha rfl
  have g5 := fld_val _ _ 5 4 1 vj ha rfl
  have g6 := fld_val _ _ 6 1 3 vm ha rfl
  have g7 := fld_val _ _ 7 0 1 vg ha rfl
  have c0 : _ / 2 ^ 30 = 0x0 := val_below _ _ 30 ha rfl
  have c1 : _ / 2 ^ 24 % 2 ^ 4 = 0x3 := val_clear _ _ 24 4 ha rfl
  have c2 : _ / 2 ^ 29 % 2 ^ 3 = 0x1 := val_clear _ _ 29 3 ha rfl
  rw [← hn] at g0 g1 g2 g3 g4 g5 g6 g7 c0 c1 c2
  show decodeVector w = _
  delta decodeVector
  dsimp only
  rw [c0]
  show decodeVector0 w.toNat = _
  delta decodeVector0
  rw [if_neg (fun h => ne_sub 24 8 0 4 0x0 c1 (by decide) (by decide) h), if_neg (fun h => ne_sub 24 8 0 4 0x1 c1 (by decide) (by decide) h), if_neg (fun h => ne_sub 24 8 0 4 0x2 c1 (by decide) (by decide) h), if_neg (fun h => ne_sub 24 8 5 3 0x3 c2 (by decide) (by decide) h), if_neg (fun h => ne_sub 24 8 0 4 0x4 c1 (by decide) (by decide) h), if_neg (fun h => ne_sub 24 8 0 4 0x5 c1 (by decide) (by decide) h), if_neg (fun h => ne_sub 24 8 0 4 0x6 c1 (by decide) (by decide) h), if_neg (fun h => ne_sub 24 8 0 4 0x7 c1 (by decide) (by decide) h)]
  rw [c2, c1]
  show row w.toNat [] (.vsubSat (fld w.toNat 28 1) (fld w.toNat 18 6) (fld w.toNat 12 6) (fld w.toNat 6 6) (fld w.toNat 5 1) (fld w.toNat 4 1) (fld w.toNat 1 3) (fld w.toNat 0 1)) = _
  rw [g0, g1, g2, g3, g4, g5, g6, g7]
  exact row_ok _ _ _ hw (fun _ h => nomatch h)

theorem vmulI : ∀ vt vd va vb vh vj vm vg, Statement (.vmulI vt vd va vb vh vj vm vg) := by
  intro vt vd va vb vh vj vm vg
  refine encodes_of _ .vector [⟨28, 1, vt⟩, ⟨18, 6, vd⟩, ⟨12, 6, va⟩, ⟨6, 6, vb⟩, ⟨5, 1, vh⟩, ⟨4, 1, vj⟩, ⟨1, 3, vm⟩, ⟨0, 1, vg⟩] 0x24000000 rfl rfl rfl rfl rfl fun hw w hn => ?_
  have ha : apart [⟨28, 1, vt⟩, ⟨18, 6, vd⟩, ⟨12, 6, va⟩, ⟨6, 6, vb⟩, ⟨5, 1, vh⟩, ⟨4, 1, vj⟩, ⟨1, 3, vm⟩, ⟨0, 1, vg⟩] 0x24000000 = true := rfl
  have g0 := fld_val _ _ 0 28 1 vt ha rfl
  have g1 := fld_val _ _ 1 18 6 vd ha rfl
  have g2 := fld_val _ _ 2 12 6 va ha rfl
  have g3 := fld_val _ _ 3 6 6 vb ha rfl
  have g4 := fld_val _ _ 4 5 1 vh ha rfl
  have g5 := fld_val _ _ 5 4 1 vj ha rfl
  have g6 := fld_val _ _ 6 1 3 vm ha rfl
  have g7 := fld_val _ _ 7 0 1 vg ha rfl
  have c0 : _ / 2 ^ 30 = 0x0 := val_below _ _ 30 ha rfl
  have c1 : _ / 2 ^ 24 % 2 ^ 4 = 0x4 := val_clear _ _ 24 4 ha rfl
  have c2 : _ / 2 ^ 29 % 2 ^ 3 = 0x1 := val_clear _ _ 29 3 ha rfl
  rw [← hn] at g0 g1 g2 g3 g4 g5 g6 g7 c0 c1 c2
  show decodeVector w = _
  delta decodeVector
  dsimp only
  rw [c0]
  show decodeVector0 w.toNat = _
  delta decodeVector0
  rw [if_neg (fun h => ne_sub 24 8 0 4 0x0 c1 (by decide) (by decide) h), if_neg (fun h => ne_sub 24 8 0 4 0x1 c1 (by decide) (by decide) h), if_neg (fun h => ne_sub 24 8 0 4 0x2 c1 (by decide) (by decide) h), if_neg (fun h => ne_sub 24 8 0 4 0x3 c1 (by decide) (by decide) h), if_neg (fun h => ne_sub 24 8 5 3 0x4 c2 (by decide) (by decide) h), if_neg (fun h => ne_sub 24 8 0 4 0x5 c1 (by decide) (by decide) h), if_neg (fun h => ne_sub 24 8 0 4 0x6 c1 (by decide) (by decide) h), if_neg (fun h => ne_sub 24 8 0 4 0x7 c1 (by decide) (by decide) h)]
  rw [c2, c1]
  show row w.toNat [] (.vmulI (fld w.toNat 28 1) (fld w.toNat 18 6) (fld w.toNat 12 6) (fld w.toNat 6 6) (fld w.toNat 5 1) (fld w.toNat 4 1) (fld w.toNat 1 3) (fld w.toNat 0 1)) = _
  rw [g0, g1, g2, g3, g4, g5, g6, g7]
  exact row_ok _ _ _ hw (fun _ h => nomatch h)

theorem vmulSat : ∀ vt vd va vb vh vj vm vg, Statement (.vmulSat vt vd va vb vh vj vm vg) := by
  intro vt vd va vb vh vj vm vg
  refine encodes_of _ .vector [⟨28, 1, vt⟩, ⟨18, 6, vd⟩, ⟨12, 6, va⟩, ⟨6, 6, vb⟩, ⟨5, 1, vh⟩, ⟨4, 1, vj⟩, ⟨1, 3, vm⟩, ⟨0, 1, vg⟩] 0x25000000 rfl rfl rfl rfl rfl fun hw w hn => ?_
  have ha : apart [⟨28, 1, vt⟩, ⟨18, 6, vd⟩, ⟨12, 6, va⟩, ⟨6, 6, vb⟩, ⟨5, 1, vh⟩, ⟨4, 1, vj⟩, ⟨1, 3, vm⟩, ⟨0, 1, vg⟩] 0x25000000 = true := rfl
  have g0 := fld_val _ _ 0 28 1 vt ha rfl
  have g1 := fld_val _ _ 1 18 6 vd ha rfl
  have g2 := fld_val _ _ 2 12 6 va ha rfl
  have g3 := fld_val _ _ 3 6 6 vb ha rfl
  have g4 := fld_val _ _ 4 5 1 vh ha rfl
  have g5 := fld_val _ _ 5 4 1 vj ha rfl
  have g6 := fld_val _ _ 6 1 3 vm ha rfl
  have g7 := fld_val _ _ 7 0 1 vg ha rfl
  have c0 : _ / 2 ^ 30 = 0x0 := val_below _ _ 30 ha rfl
  have c1 : _ / 2 ^ 24 % 2 ^ 4 = 0x5 := val_clear _ _ 24 4 ha rfl
  have c2 : _ / 2 ^ 29 % 2 ^ 3 = 0x1 := val_clear _ _ 29 3 ha rfl
  rw [← hn] at g0 g1 g2 g3 g4 g5 g6 g7 c0 c1 c2
  show decodeVector w = _
  delta decodeVector
  dsimp only
  rw [c0]
  show decodeVector0 w.toNat = _
  delta decodeVector0
  rw [if_neg (fun h => ne_sub 24 8 0 4 0x0 c1 (by decide) (by decide) h), if_neg (fun h => ne_sub 24 8 0 4 0x1 c1 (by decide) (by decide) h), if_neg (fun h => ne_sub 24 8 0 4 0x2 c1 (by decide) (by decide) h), if_neg (fun h => ne_sub 24 8 0 4 0x3 c1 (by decide) (by decide) h), if_neg (fun h => ne_sub 24 8 0 4 0x4 c1 (by decide) (by decide) h), if_neg (fun h => ne_sub 24 8 5 3 0x5 c2 (by decide) (by decide) h), if_neg (fun h => ne_sub 24 8 0 4 0x6 c1 (by decide) (by decide) h), if_neg (fun h => ne_sub 24 8 0 4 0x7 c1 (by decide) (by decide) h)]
  rw [c2, c1]
  show row w.toNat [] (.vmulSat (fld w.toNat 28 1) (fld w.toNat 18 6) (fld w.toNat 12 6) (fld w.toNat 6 6) (fld w.toNat 5 1) (fld w.toNat 4 1) (fld w.toNat 1 3) (fld w.toNat 0 1)) = _
  rw [g0, g1, g2, g3, g4, g5, g6, g7]
  exact row_ok _ _ _ hw (fun _ h => nomatch h)

theorem vminI : ∀ vt vd va vb vh vj vm vg, Statement (.vminI vt vd va vb vh vj vm vg) := by
  intro vt vd va vb vh vj vm vg
  refine encodes_of _ .vector [⟨28, 1, vt⟩, ⟨18, 6, vd⟩, ⟨12, 6, va⟩, ⟨6, 6, vb⟩, ⟨5, 1, vh⟩, ⟨4, 1, vj⟩, ⟨1, 3, vm⟩, ⟨0, 1, vg⟩] 0x26000000 rfl rfl rfl rfl rfl fun hw w hn => ?_
  have ha : apart [⟨28, 1, vt⟩, ⟨18, 6, vd⟩, ⟨12, 6, va⟩, ⟨6, 6, vb⟩, ⟨5, 1, vh⟩, ⟨4, 1, vj⟩, ⟨1, 3, vm⟩, ⟨0, 1, vg⟩] 0x26000000 = true := rfl
  have g0 := fld_val _ _ 0 28 1 vt ha rfl
  have g1 := fld_val _ _ 1 18 6 vd ha rfl
  have g2 := fld_val _ _ 2 12 6 va ha rfl
  have g3 := fld_val _ _ 3 6 6 vb ha rfl
  have g4 := fld_val _ _ 4 5 1 vh ha rfl
  have g5 := fld_val _ _ 5 4 1 vj ha rfl
  have g6 := fld_val _ _ 6 1 3 vm ha rfl
  have g7 := fld_val _ _ 7 0 1 vg ha rfl
  have c0 : _ / 2 ^ 30 = 0x0 := val_below _ _ 30 ha rfl
  have c1 : _ / 2 ^ 24 % 2 ^ 4 = 0x6 := val_clear _ _ 24 4 ha rfl
  have c2 : _ / 2 ^ 29 % 2 ^ 3 = 0x1 := val_clear _ _ 29 3 ha rfl
  rw [← hn] at g0 g1 g2 g3 g4 g5 g6 g7 c0 c1 c2
  show decodeVector w = _
  delta decodeVector
  dsimp only
  rw [c0]
  show decodeVector0 w.toNat = _
  delta decodeVector0
  rw [if_neg (fun h => ne_sub 24 8 0 4 0x0 c1 (by decide) (by decide) h), if_neg (fun h => ne_sub 24 8 0 4 0x1 c1 (by decide) (by decide) h), if_neg (fun h => ne_sub 24 8 0 4 0x2 c1 (by decide) (by decide) h), if_neg (fun h => ne_sub 24 8 0 4 0x3 c1 (by decide) (by decide) h), if_neg (fun h => ne_sub 24 8 0 4 0x4 c1 (by decide) (by decide) h), if_neg (fun h => ne_sub 24 8 0 4 0x5 c1 (by decide) (by decide) h), if_neg (fun h => ne_sub 24 8 5 3 0x6 c2 (by decide) (by decide) h), if_neg (fun h => ne_sub 24 8 0 4 0x7 c1 (by decide) (by decide) h)]
  rw [c2, c1]
  show row w.toNat [] (.vminI (fld w.toNat 28 1) (fld w.toNat 18 6) (fld w.toNat 12 6) (fld w.toNat 6 6) (fld w.toNat 5 1) (fld w.toNat 4 1) (fld w.toNat 1 3) (fld w.toNat 0 1)) = _
  rw [g0, g1, g2, g3, g4, g5, g6, g7]
  exact row_ok _ _ _ hw (fun _ h => nomatch h)

theorem vmaxI : ∀ vt vd va vb vh vj vm vg, Statement (.vmaxI vt vd va vb vh vj vm vg) := by
  intro vt vd va vb vh vj vm vg
  refine encodes_of _ .vector [⟨28, 1, vt⟩, ⟨18, 6, vd⟩, ⟨12, 6, va⟩, ⟨6, 6, vb⟩, ⟨5, 1, vh⟩, ⟨4, 1, vj⟩, ⟨1, 3, vm⟩, ⟨0, 1, vg⟩] 0x27000000 rfl rfl rfl rfl rfl fun hw w hn => ?_
  have ha : apart [⟨28, 1, vt⟩, ⟨18, 6, vd⟩, ⟨12, 6, va⟩, ⟨6, 6, vb⟩, ⟨5, 1, vh⟩, ⟨4, 1, vj⟩, ⟨1, 3, vm⟩, ⟨0, 1, vg⟩] 0x27000000 = true := rfl
  have g0 := fld_val _ _ 0 28 1 vt ha rfl
  have g1 := fld_val _ _ 1 18 6 vd ha rfl
  have g2 := fld_val _ _ 2 12 6 va ha rfl
  have g3 := fld_val _ _ 3 6 6 vb ha rfl
  have g4 := fld_val _ _ 4 5 1 vh ha rfl
  have g5 := fld_val _ _ 5 4 1 vj ha rfl
  have g6 := fld_val _ _ 6 1 3 vm ha rfl
  have g7 := fld_val _ _ 7 0 1 vg ha rfl
  have c0 : _ / 2 ^ 30 = 0x0 := val_below _ _ 30 ha rfl
  have c1 : _ / 2 ^ 24 % 2 ^ 4 = 0x7 := val_clear _ _ 24 4 ha rfl
  have c2 : _ / 2 ^ 29 % 2 ^ 3 = 0x1 := val_clear _ _ 29 3 ha rfl
  rw [← hn] at g0 g1 g2 g3 g4 g5 g6 g7 c0 c1 c2
  show decodeVector w = _
  delta decodeVector
  dsimp only
  rw [c0]
  show decodeVector0 w.toNat = _
  delta decodeVector0
  rw [if_neg (fun h => ne_sub 24 8 0 4 0x0 c1 (by decide) (by decide) h), if_neg (fun h => ne_sub 24 8 0 4 0x1 c1 (by decide) (by decide) h), if_neg (fun h => ne_sub 24 8 0 4 0x2 c1 (by decide) (by decide) h), if_neg (fun h => ne_sub 24 8 0 4 0x3 c1 (by decide) (by decide) h), if_neg (fun h => ne_sub 24 8 0 4 0x4 c1 (by decide) (by decide) h), if_neg (fun h => ne_sub 24 8 0 4 0x5 c1 (by decide) (by decide) h), if_neg (fun h => ne_sub 24 8 0 4 0x6 c1 (by decide) (by decide) h), if_neg (fun h => ne_sub 24 8 5 3 0x7 c2 (by decide) (by decide) h)]
  rw [c2, c1]
  show row w.toNat [] (.vmaxI (fld w.toNat 28 1) (fld w.toNat 18 6) (fld w.toNat 12 6) (fld w.toNat 6 6) (fld w.toNat 5 1) (fld w.toNat 4 1) (fld w.toNat 1 3) (fld w.toNat 0 1)) = _
  rw [g0, g1, g2, g3, g4, g5, g6, g7]
  exact row_ok _ _ _ hw (fun _ h => nomatch h)

theorem vand : ∀ vt vd va vb vh vj vm vg, Statement (.vand vt vd va vb vh vj vm vg) := by
  intro vt vd va vb vh vj vm vg
  refine encodes_of _ .vector [⟨28, 1, vt⟩, ⟨18, 6, vd⟩, ⟨12, 6, va⟩, ⟨6, 6, vb⟩, ⟨5, 1, vh⟩, ⟨4, 1, vj⟩, ⟨1, 3, vm⟩, ⟨0, 1, vg⟩] 0x28000000 rfl rfl rfl rfl rfl fun hw w hn => ?_
  have ha : apart [⟨28, 1, vt⟩, ⟨18, 6, vd⟩, ⟨12, 6, va⟩, ⟨6, 6, vb⟩, ⟨5, 1, vh⟩, ⟨4, 1, vj⟩, ⟨1, 3, vm⟩, ⟨0, 1, vg⟩] 0x28000000 = true := rfl
  have g0 := fld_val _ _ 0 28 1 vt ha rfl
  have g1 := fld_val _ _ 1 18 6 vd ha rfl
  have g2 := fld_val _ _ 2 12 6 va ha rfl
  have g3 := fld_val _ _ 3 6 6 vb ha rfl
  have g4 := fld_val _ _ 4 5 1 vh ha rfl
  have g5 := fld_val _ _ 5 4 1 vj ha rfl
  have g6 := fld_val _ _ 6 1 3 vm ha rfl
  have g7 := fld_val _ _ 7 0 1 vg ha rfl
  have c0 : _ / 2 ^ 30 = 0x0 := val_below _ _ 30 ha rfl
  have c1 : _ / 2 ^ 24 % 2 ^ 4 = 0x8 := val_clear _ _ 24 4 ha rfl
  have c2 : _ / 2 ^ 29 % 2 ^ 3 = 0x1 := val_clear _ _ 29 3 ha rfl
  rw [← hn] at g0 g1 g2 g3 g4 g5 g6 g7 c0 c1 c2
  show decodeVector w = _
  delta decodeVector
  dsimp only
  rw [c0]
  show decodeVector0 w.toNat = _
  delta decodeVector0
  rw [if_neg (fun h => ne_sub 24 8 0 4 0x0 c1 (by decide) (by decide) h), if_neg (fun h => ne_sub 24 8 0 4 0x1 c1 (by decide) (by decide) h), if_neg (fun h => ne_sub 24 8 0 4 0x2 c1 (by decide) (by decide) h), if_neg (fun h => ne_sub 24 8 0 4 0x3 c1 (by decide) (by decide) h), if_neg (fun h => ne_sub 24 8 0 4 0x4 c1 (by decide) (by decide) h), if_neg (fun h => ne_sub 24 8 0 4 0x5 c1 (by decide) (by decide) h), if_neg (fun h => ne_sub 24 8 0 4 0x6 c1 (by decide) (by decide) h), if_neg (fun h => ne_sub 24 8 0 4 0x7 c1 (by decide) (by decide) h)]
  rw [c2, c1]
  show row w.toNat [] (.vand (fld w.toNat 28 1) (fld w.toNat 18 6) (fld w.toNat 12 6) (fld w.toNat 6 6) (fld w.toNat 5 1) (fld w.toNat 4 1) (fld w.toNat 1 3) (fld w.toNat 0 1)) = _
  rw [g0, g1, g2, g3, g4, g5, g6, g7]
  exact row_ok _ _ _ hw (fun _ h => nomatch h)

theorem vor : ∀ vt vd va vb vh vj vm vg, Statement (.vor vt vd va vb vh vj vm vg) := by
  intro vt vd va vb vh vj vm vg
  refine encodes_of _ .vector [⟨28, 1, vt⟩, ⟨18, 6, vd⟩, ⟨12, 6, va⟩, ⟨6, 6, vb⟩, ⟨5, 1, vh⟩, ⟨4, 1, vj⟩, ⟨1, 3, vm⟩, ⟨0, 1, vg⟩] 0x29000000 rfl rfl rfl rfl rfl fun hw w hn => ?_
  have ha : apart [⟨28, 1, vt⟩, ⟨18, 6, vd⟩, ⟨12, 6, va⟩, ⟨6, 6, vb⟩, ⟨5, 1, vh⟩, ⟨4, 1, vj⟩, ⟨1, 3, vm⟩, ⟨0, 1, vg⟩] 0x29000000 = true := rfl
  have g0 := fld_val _ _ 0 28 1 vt ha rfl
  have g1 := fld_val _ _ 1 18 6 vd ha rfl
  have g2 := fld_val _ _ 2 12 6 va ha rfl
  have g3 := fld_val _ _ 3 6 6 vb ha rfl
  have g4 := fld_val _ _ 4 5 1 vh ha rfl
  have g5 := fld_val _ _ 5 4 1 vj ha rfl
  have g6 := fld_val _ _ 6 1 3 vm ha rfl
  have g7 := fld_val _ _ 7 0 1 vg ha rfl
  have c0 : _ / 2 ^ 30 = 0x0 := val_below _ _ 30 ha rfl
  have c1 : _ / 2 ^ 24 % 2 ^ 4 = 0x9 := val_clear _ _ 24 4 ha rfl
  have c2 : _ / 2 ^ 29 % 2 ^ 3 = 0x1 := val_clear _ _ 29 3 ha rfl
  rw [← hn] at g0 g1 g2 g3 g4 g5 g6 g7 c0 c1 c2
  show decodeVector w = _
  delta decodeVector
  dsimp only
  rw [c0]
  show decodeVector0 w.toNat = _
  delta decodeVector0
  rw [if_neg (fun h => ne_sub 24 8 0 4 0x0 c1 (by decide) (by decide) h), if_neg (fun h => ne_sub 24 8 0 4 0x1 c1 (by decide) (by decide) h), if_neg (fun h => ne_sub 24 8 0 4 0x2 c1 (by decide) (by decide) h), if_neg (fun h => ne_sub 24 8 0 4 0x3 c1 (by decide) (by decide) h), if_neg (fun h => ne_sub 24 8 0 4 0x4 c1 (by decide) (by decide) h), if_neg (fun h => ne_sub 24 8 0 4 0x5 c1 (by decide) (by decide) h), if_neg (fun h => ne_sub 24 8 0 4 0x6 c1 (by decide) (by decide) h), if_neg (fun h => ne_sub 24 8 0 4 0x7 c1 (by decide) (by decide) h)]
  rw [c2, c1]
  show row w.toNat [] (.vor (fld w.toNat 28 1) (fld w.toNat 18 6) (fld w.toNat 12 6) (fld w.toNat 6 6) (fld w.toNat 5 1) (fld w.toNat 4 1) (fld w.toNat 1 3) (fld w.toNat 0 1)) = _
  rw [g0, g1, g2, g3, g4, g5, g6, g7]
  exact row_ok _ _ _ hw (fun _ h => nomatch h)

theorem vxor : ∀ vt vd va vb vh vj vm vg, Statement (.vxor vt vd va vb vh vj vm vg) := by
  intro vt vd va vb vh vj vm vg
  refine encodes_of _ .vector [⟨28, 1, vt⟩, ⟨18, 6, vd⟩, ⟨12, 6, va⟩, ⟨6, 6, vb⟩, ⟨5, 1, vh⟩, ⟨4, 1, vj⟩, ⟨1, 3, vm⟩, ⟨0, 1, vg⟩] 0x2a000000 rfl rfl rfl rfl rfl fun hw w hn => ?_
  have ha : apart [⟨28, 1, vt⟩, ⟨18, 6, vd⟩, ⟨12, 6, va⟩, ⟨6, 6, vb⟩, ⟨5, 1, vh⟩, ⟨4, 1, vj⟩, ⟨1, 3, vm⟩, ⟨0, 1, vg⟩] 0x2a000000 = true := rfl
  have g0 := fld_val _ _ 0 28 1 vt ha rfl
  have g1 := fld_val _ _ 1 18 6 vd ha rfl
  have g2 := fld_val _ _ 2 12 6 va ha rfl
  have g3 := fld_val _ _ 3 6 6 vb ha rfl
  have g4 := fld_val _ _ 4 5 1 vh ha rfl
  have g5 := fld_val _ _ 5 4 1 vj ha rfl
  have g6 := fld_val _ _ 6 1 3 vm ha rfl
  have g7 := fld_val _ _ 7 0 1 vg ha rfl
  have c0 : _ / 2 ^ 30 = 0x0 := val_below _ _ 30 ha rfl
  have c1 : _ / 2 ^ 24 % 2 ^ 4 = 0xa := val_clear _ _ 24 4 ha rfl
  have c2 : _ / 2 ^ 29 % 2 ^ 3 = 0x1 := val_clear _ _ 29 3 ha rfl
  rw [← hn] at g0 g1 g2 g3 g4 g5 g6 g7 c0 c1 c2
  show decodeVector w = _
  delta decodeVector
  dsimp only
  rw [c0]
  show decodeVector0 w.toNat = _
  delta decodeVector0
  rw [if_neg (fun h => ne_sub 24 8 0 4 0x0 c1 (by decide) (by decide) h), if_neg (fun h => ne_sub 24 8 0 4 0x1 c1 (by decide) (by decide) h), if_neg (fun h => ne_sub 24 8 0 4 0x2 c1 (by decide) (by decide) h), if_neg (fun h => ne_sub 24 8 0 4 0x3 c1 (by decide) (by decide) h), if_neg (fun h => ne_sub 24 8 0 4 0x4 c1 (by decide) (by decide) h), if_neg (fun h => ne_sub 24 8 0 4 0x5 c1 (by decide) (by decide) h), if_neg (fun h => ne_sub 24 8 0 4 0x6 c1 (by decide) (by decide) h), if_neg (fun h => ne_sub 24 8 0 4 0x7 c1 (by decide) (by decide) h)]
  rw [c2, c1]
  show row w.toNat [] (.vxor (fld w.toNat 28 1) (fld w.toNat 18 6) (fld w.toNat 12 6) (fld w.toNat 6 6) (fld w.toNat 5 1) (fld w.toNat 4 1) (fld w.toNat 1 3) (fld w.toNat 0 1)) = _
  rw [g0, g1, g2, g3, g4, g5, g6, g7]
  exact row_ok _ _ _ hw (fun _ h => nomatch h)

theorem vshl : ∀ vt vd va vb vh vj vm vg, Statement (.vshl vt vd va vb vh vj vm vg) := by
  intro vt vd va vb vh vj vm vg
  refine encodes_of _ .vector [⟨28, 1, vt⟩, ⟨18, 6, vd⟩, ⟨12, 6, va⟩, ⟨6, 6, vb⟩, ⟨5, 1, vh⟩, ⟨4, 1, vj⟩, ⟨1, 3, vm⟩, ⟨0, 1, vg⟩] 0x2b000000 rfl rfl rfl rfl rfl fun hw w hn => ?_
  have ha : apart [⟨28, 1, vt⟩, ⟨18, 6, vd⟩, ⟨12, 6, va⟩, ⟨6, 6, vb⟩, ⟨5, 1, vh⟩, ⟨4, 1, vj⟩, ⟨1, 3, vm⟩, ⟨0, 1, vg⟩] 0x2b000000 = true := rfl
  have g0 := fld_val _ _ 0 28 1 vt ha rfl
  have g1 := fld_val _ _ 1 18 6 vd ha rfl
  have g2 := fld_val _ _ 2 12 6 va ha rfl
  have g3 := fld_val _ _ 3 6 6 vb ha rfl
  have g4 := fld_val _ _ 4 5 1 vh ha rfl
  have g5 := fld_val _ _ 5 4 1 vj ha rfl
  have g6 := fld_val _ _ 6 1 3 vm ha rfl
  have g7 := fld_val _ _ 7 0 1 vg ha rfl
  have c0 : _ / 2 ^ 30 = 0x0 := val_below _ _ 30 ha rfl
  have c1 : _ / 2 ^ 24 % 2 ^ 4 = 0xb := val_clear _ _ 24 4 ha rfl
  have c2 : _ / 2 ^ 29 % 2 ^ 3 = 0x1 := val_clear _ _ 29 3 ha rfl
  rw [← hn] at g0 g1 g2 g3 g4 g5 g6 g7 c0 c1 c2
  show decodeVector w = _
  delta decodeVector
  dsimp only
  rw [c0]
  show decodeVector0 w.toNat = _
  delta decodeVector0
  rw [if_neg (fun h => ne_sub 24 8 0 4 0x0 c1 (by decide) (by decide) h), if_neg (fun h => ne_sub 24 8 0 4 0x1 c1 (by decide) (by decide) h), if_neg (fun h => ne_sub 24 8 0 4 0x2 c1 (by decide) (by decide) h), if_neg (fun h => ne_sub 24 8 0 4 0x3 c1 (by decide) (by decide) h), if_neg (fun h => ne_sub 24 8 0 4 0x4 c1 (by decide) (by decide) h), if_neg (fun h => ne_sub 24 8 0 4 0x5 c1 (by decide) (by decide) h), if_neg (fun h => ne_sub 24 8 0 4 0x6 c1 (by decide) (by decide) h), if_neg (fun h => ne_sub 24 8 0 4 0x7 c1 (by decide) (by decide) h)]
  rw [c2, c1]
  show row w.toNat [] (.vshl (fld w.toNat 28 1) (fld w.toNat 18 6) (fld w.toNat 12 6) (fld w.toNat 6 6) (fld w.toNat 5 1) (fld w.toNat 4 1) (fld w.toNat 1 3) (fld w.toNat 0 1)) = _
  rw [g0, g1, g2, g3, g4, g5, g6, g7]
  exact row_ok _ _ _ hw (fun _ h => nomatch h)

theorem vshr : ∀ vt vd va vb vh vj vm vg, Statement (.vshr vt vd va vb vh vj vm vg) := by
  intro vt vd va vb vh vj vm vg
  refine encodes_of _ .vector [⟨28, 1, vt⟩, ⟨18, 6, vd⟩, ⟨12, 6, va⟩, ⟨6, 6, vb⟩, ⟨5, 1, vh⟩, ⟨4, 1, vj⟩, ⟨1, 3, vm⟩, ⟨0, 1, vg⟩] 0x2c000000 rfl rfl rfl rfl rfl fun hw w hn => ?_
  have ha : apart [⟨28, 1, vt⟩, ⟨18, 6, vd⟩, ⟨12, 6, va⟩, ⟨6, 6, vb⟩, ⟨5, 1, vh⟩, ⟨4, 1, vj⟩, ⟨1, 3, vm⟩, ⟨0, 1, vg⟩] 0x2c000000 = true := rfl
  have g0 := fld_val _ _ 0 28 1 vt ha rfl
  have g1 := fld_val _ _ 1 18 6 vd ha rfl
  have g2 := fld_val _ _ 2 12 6 va ha rfl
  have g3 := fld_val _ _ 3 6 6 vb ha rfl
  have g4 := fld_val _ _ 4 5 1 vh ha rfl
  have g5 := fld_val _ _ 5 4 1 vj ha rfl
  have g6 := fld_val _ _ 6 1 3 vm ha rfl
  have g7 := fld_val _ _ 7 0 1 vg ha rfl
  have c0 : _ / 2 ^ 30 = 0x0 := val_below _ _ 30 ha rfl
  have c1 : _ / 2 ^ 24 % 2 ^ 4 = 0xc := val_clear _ _ 24 4 ha rfl
  have c2 : _ / 2 ^ 29 % 2 ^ 3 = 0x1 := val_clear _ _ 29 3 ha rfl
  rw [← hn] at g0 g1 g2 g3 g4 g5 g6 g7 c0 c1 c2
  show decodeVector w = _
  delta decodeVector
  dsimp only
  rw [c0]
  show decodeVector0 w.toNat = _
  delta decodeVector0
  rw [if_neg (fun h => ne_sub 24 8 0 4 0x0 c1 (by decide) (by decide) h), if_neg (fun h => ne_sub 24 8 0 4 0x1 c1 (by decide) (by decide) h), if_neg (fun h => ne_sub 24 8 0 4 0x2 c1 (by decide) (by decide) h), if_neg (fun h => ne_sub 24 8 0 4 0x3 c1 (by decide) (by decide) h), if_neg (fun h => ne_sub 24 8 0 4 0x4 c1 (by decide) (by decide) h), if_neg (fun h => ne_sub 24 8 0 4 0x5 c1 (by decide) (by decide) h), if_neg (fun h => ne_sub 24 8 0 4 0x6 c1 (by decide) (by decide) h), if_neg (fun h => ne_sub 24 8 0 4 0x7 c1 (by decide) (by decide) h)]
  rw [c2, c1]
  show row w.toNat [] (.vshr (fld w.toNat 28 1) (fld w.toNat 18 6) (fld w.toNat 12 6) (fld w.toNat 6 6) (fld w.toNat 5 1) (fld w.toNat 4 1) (fld w.toNat 1 3) (fld w.toNat 0 1)) = _
  rw [g0, g1, g2, g3, g4, g5, g6, g7]
  exact row_ok _ _ _ hw (fun _ h => nomatch h)

theorem vsra : ∀ vt vd va vb vh vj vm vg, Statement (.vsra vt vd va vb vh vj vm vg) := by
  intro vt vd va vb vh vj vm vg
  refine encodes_of _ .vector [⟨28, 1, vt⟩, ⟨18, 6, vd⟩, ⟨12, 6, va⟩, ⟨6, 6, vb⟩, ⟨5, 1, vh⟩, ⟨4, 1, vj⟩, ⟨1, 3, vm⟩, ⟨0, 1, vg⟩] 0x2d000000 rfl rfl rfl rfl rfl fun hw w hn => ?_
  have ha : apart [⟨28, 1, vt⟩, ⟨18, 6, vd⟩, ⟨12, 6, va⟩, ⟨6, 6, vb⟩, ⟨5, 1, vh⟩, ⟨4, 1, vj⟩, ⟨1, 3, vm⟩, ⟨0, 1, vg⟩] 0x2d000000 = true := rfl
  have g0 := fld_val _ _ 0 28 1 vt ha rfl
  have g1 := fld_val _ _ 1 18 6 vd ha rfl
  have g2 := fld_val _ _ 2 12 6 va ha rfl
  have g3 := fld_val _ _ 3 6 6 vb ha rfl
  have g4 := fld_val _ _ 4 5 1 vh ha rfl
  have g5 := fld_val _ _ 5 4 1 vj ha rfl
  have g6 := fld_val _ _ 6 1 3 vm ha rfl
  have g7 := fld_val _ _ 7 0 1 vg ha rfl
  have c0 : _ / 2 ^ 30 = 0x0 := val_below _ _ 30 ha rfl
  have c1 : _ / 2 ^ 24 % 2 ^ 4 = 0xd := val_clear _ _ 24 4 ha rfl
  have c2 : _ / 2 ^ 29 % 2 ^ 3 = 0x1 := val_clear _ _ 29 3 ha rfl
  rw [← hn] at g0 g1 g2 g3 g4 g5 g6 g7 c0 c1 c2
  show decodeVector w = _
  delta decodeVector
  dsimp only
  rw [c0]
  show decodeVector0 w.toNat = _
  delta decodeVector0
  rw [if_neg (fun h => ne_sub 24 8 0 4 0x0 c1 (by decide) (by decide) h), if_neg (fun h => ne_sub 24 8 0 4 0x1 c1 (by decide) (by decide) h), if_neg (fun h => ne_sub 24 8 0 4 0x2 c1 (by decide) (by decide) h), if_neg (fun h => ne_sub 24 8 0 4 0x3 c1 (by decide) (by decide) h), if_neg (fun h => ne_sub 24 8 0 4 0x4 c1 (by decide) (by decide) h), if_neg (fun h => ne_sub 24 8 0 4 0x5 c1 (by decide) (by decide) h), if_neg (fun h => ne_sub 24 8 0 4 0x6 c1 (by decide) (by decide) h), if_neg (fun h => ne_sub 24 8 0 4 0x7 c1 (by decide) (by decide) h)]
  rw [c2, c1]
  show row w.toNat [] (.vsra (fld w.toNat 28 1) (fld w.toNat 18 6) (fld w.toNat 12 6) (fld w.toNat 6 6) (fld w.toNat 5 1) (fld w.toNat 4 1) (fld w.toNat 1 3) (fld w.toNat 0 1)) = _
  rw [g0, g1, g2, g3, g4, g5, g6, g7]
  exact row_ok _ _ _ hw (fun _ h => nomatch h)

theorem vceqI : ∀ vt vd va vb vh vj vm vg, Statement (.vceqI vt vd va vb vh vj vm vg) := by
  intro vt vd va vb vh vj vm vg
  refine encodes_of _ .vector [⟨28, 1, vt⟩, ⟨18, 6, vd⟩, ⟨12, 6, va⟩, ⟨6, 6, vb⟩, ⟨5, 1, vh⟩, ⟨4, 1, vj⟩, ⟨1, 3, vm⟩, ⟨0, 1, vg⟩] 0x2e000000 rfl rfl rfl rfl rfl fun hw w hn => ?_
  have ha : apart [⟨28, 1, vt⟩, ⟨18, 6, vd⟩, ⟨12, 6, va⟩, ⟨6, 6, vb⟩, ⟨5, 1, vh⟩, ⟨4, 1, vj⟩, ⟨1, 3, vm⟩, ⟨0, 1, vg⟩] 0x2e000000 = true := rfl
  have g0 := fld_val _ _ 0 28 1 vt ha rfl
  have g1 := fld_val _ _ 1 18 6 vd ha rfl
  have g2 := fld_val _ _ 2 12 6 va ha rfl
  have g3 := fld_val _ _ 3 6 6 vb ha rfl
  have g4 := fld_val _ _ 4 5 1 vh ha rfl
  have g5 := fld_val _ _ 5 4 1 vj ha rfl
  have g6 := fld_val _ _ 6 1 3 vm ha rfl
  have g7 := fld_val _ _ 7 0 1 vg ha rfl
  have c0 : _ / 2 ^ 30 = 0x0 := val_below _ _ 30 ha rfl
  have c1 : _ / 2 ^ 24 % 2 ^ 4 = 0xe := val_clear _ _ 24 4 ha rfl
  have c2 : _ / 2 ^ 29 % 2 ^ 3 = 0x1 := val_clear _ _ 29 3 ha rfl
  rw [← hn] at g0 g1 g2 g3 g4 g5 g6 g7 c0 c1 c2
  show decodeVector w = _
  delta decodeVector
  dsimp only
  rw [c0]
  show decodeVector0 w.toNat = _
  delta decodeVector0
  rw [if_neg (fun h => ne_sub 24 8 0 4 0x0 c1 (by decide) (by decide) h), if_neg (fun h => ne_sub 24 8 0 4 0x1 c1 (by decide) (by decide) h), if_neg (fun h => ne_sub 24 8 0 4 0x2 c1 (by decide) (by decide) h), if_neg (fun h => ne_sub 24 8 0 4 0x3 c1 (by decide) (by decide) h), if_neg (fun h => ne_sub 24 8 0 4 0x4 c1 (by decide) (by decide) h), if_neg (fun h => ne_sub 24 8 0 4 0x5 c1 (by decide) (by decide) h), if_neg (fun h => ne_sub 24 8 0 4 0x6 c1 (by decide) (by decide) h), if_neg (fun h => ne_sub 24 8 0 4 0x7 c1 (by decide) (by decide) h)]
  rw [c2, c1]
  show row w.toNat [] (.vceqI (fld w.toNat 28 1) (fld w.toNat 18 6) (fld w.toNat 12 6) (fld w.toNat 6 6) (fld w.toNat 5 1) (fld w.toNat 4 1) (fld w.toNat 1 3) (fld w.toNat 0 1)) = _
  rw [g0, g1, g2, g3, g4, g5, g6, g7]
  exact row_ok _ _ _ hw (fun _ h => nomatch h)

theorem vcltI : ∀ vt vd va vb vh vj vm vg, Statement (.vcltI vt vd va vb vh vj vm vg) := by
  intro vt vd va vb vh vj vm vg
  refine encodes_of _ .vector [⟨28, 1, vt⟩, ⟨18, 6, vd⟩, ⟨12, 6, va⟩, ⟨6, 6, vb⟩, ⟨5, 1, vh⟩, ⟨4, 1, vj⟩, ⟨1, 3, vm⟩, ⟨0, 1, vg⟩] 0x2f000000 rfl rfl rfl rfl rfl fun hw w hn => ?_
  have ha : apart [⟨28, 1, vt⟩, ⟨18, 6, vd⟩, ⟨12, 6, va⟩, ⟨6, 6, vb⟩, ⟨5, 1, vh⟩, ⟨4, 1, vj⟩, ⟨1, 3, vm⟩, ⟨0, 1, vg⟩] 0x2f000000 = true := rfl
  have g0 := fld_val _ _ 0 28 1 vt ha rfl
  have g1 := fld_val _ _ 1 18 6 vd ha rfl
  have g2 := fld_val _ _ 2 12 6 va ha rfl
  have g3 := fld_val _ _ 3 6 6 vb ha rfl
  have g4 := fld_val _ _ 4 5 1 vh ha rfl
  have g5 := fld_val _ _ 5 4 1 vj ha rfl
  have g6 := fld_val _ _ 6 1 3 vm ha rfl
  have g7 := fld_val _ _ 7 0 1 vg ha rfl
  have c0 : _ / 2 ^ 30 = 0x0 := val_below _ _ 30 ha rfl
  have c1 : _ / 2 ^ 24 % 2 ^ 4 = 0xf := val_clear _ _ 24 4 ha rfl
  have c2 : _ / 2 ^ 29 % 2 ^ 3 = 0x1 := val_clear _ _ 29 3 ha rfl
  rw [← hn] at g0 g1 g2 g3 g4 g5 g6 g7 c0 c1 c2
  show decodeVector w = _
  delta decodeVector
  dsimp only
  rw [c0]
  show decodeVector0 w.toNat = _
  delta decodeVector0
  rw [if_neg (fun h => ne_sub 24 8 0 4 0x0 c1 (by decide) (by decide) h), if_neg (fun h => ne_sub 24 8 0 4 0x1 c1 (by decide) (by decide) h), if_neg (fun h => ne_sub 24 8 0 4 0x2 c1 (by decide) (by decide) h), if_neg (fun h => ne_sub 24 8 0 4 0x3 c1 (by decide) (by decide) h), if_neg (fun h => ne_sub 24 8 0 4 0x4 c1 (by decide) (by decide) h), if_neg (fun h => ne_sub 24 8 0 4 0x5 c1 (by decide) (by decide) h), if_neg (fun h => ne_sub 24 8 0 4 0x6 c1 (by decide) (by decide) h), if_neg (fun h => ne_sub 24 8 0 4 0x7 c1 (by decide) (by decide) h)]
  rw [c2, c1]
  show row w.toNat [] (.vcltI (fld w.toNat 28 1) (fld w.toNat 18 6) (fld w.toNat 12 6) (fld w.toNat 6 6) (fld w.toNat 5 1) (fld w.toNat 4 1) (fld w.toNat 1 3) (fld w.toNat 0 1)) = _
  rw [g0, g1, g2, g3, g4, g5, g6, g7]
  exact row_ok _ _ _ hw (fun _ h => nomatch h)

theorem vaddF : ∀ vt vr vd va vb vh vj vm vg, Statement (.vaddF vt vr vd va vb vh vj vm vg) := by
  intro vt vr vd va vb vh vj vm vg
  refine encodes_of _ .vector [⟨28, 2, vt⟩, ⟨24, 2, vr⟩, ⟨18, 6, vd⟩, ⟨12, 6, va⟩, ⟨6, 6, vb⟩, ⟨5, 1, vh⟩, ⟨4, 1, vj⟩, ⟨1, 3, vm⟩, ⟨0, 1, vg⟩] 0x40000000 rfl rfl rfl rfl rfl fun hw w hn => ?_
  have ha : apart [⟨28, 2, vt⟩, ⟨24, 2, vr⟩, ⟨18, 6, vd⟩, ⟨12, 6, va⟩, ⟨6, 6, vb⟩, ⟨5, 1, vh⟩, ⟨4, 1, vj⟩, ⟨1, 3, vm⟩, ⟨0, 1, vg⟩] 0x40000000 = true := rfl
  have g0 := fld_val _ _ 0 28 2 vt ha rfl
  have g1 := fld_val _ _ 1 24 2 vr ha rfl
  have g2 := fld_val _ _ 2 18 6 vd ha rfl
  have g3 := fld_val _ _ 3 12 6 va ha rfl
  have g4 := fld_val _ _ 4 6 6 vb ha rfl
  have g5 := fld_val _ _ 5 5 1 vh ha rfl
  have g6 := fld_val _ _ 6 4 1 vj ha rfl
  have g7 := fld_val _ _ 7 1 3 vm ha rfl
  have g8 := fld_val _ _ 8 0 1 vg ha rfl
  have c0 : _ / 2 ^ 30 = 0x1 := val_below _ _ 30 ha rfl
  have c1 : _ / 2 ^ 30 % 2 ^ 2 = 0x1 := val_clear _ _ 30 2 ha rfl
  have c2 : _ / 2 ^ 26 % 2 ^ 2 = 0x0 := val_clear _ _ 26 2 ha rfl
  rw [← hn] at g0 g1 g2 g3 g4 g5 g6 g7 g8 c0 c1 c2
  show decodeVector w = _
  delta decodeVector
  dsimp only
  rw [c0]
  show decodeVector1 w.toNat = _
  delta decodeVector1
  rw [c1, c2]
  show row w.toNat [] (.vaddF (fld w.toNat 28 2) (fld w.toNat 24 2) (fld w.toNat 18 6) (fld w.toNat 12 6) (fld w.toNat 6 6) (fld w.toNat 5 1) (fld w.toNat 4 1) (fld w.toNat 1 3) (fld w.toNat 0 1)) = _
  rw [g0, g1, g2, g3, g4, g5, g6, g7, g8]
  exact row_ok _ _ _ hw (fun _ h => nomatch h)

theorem vsubF : ∀ vt vr vd va vb vh vj vm vg, Statement (.vsubF vt vr vd va vb vh vj vm vg) := by
  intro vt vr vd va vb vh vj vm vg
  refine encodes_of _ .vector [⟨28, 2, vt⟩, ⟨24, 2, vr⟩, ⟨18, 6, vd⟩, ⟨12, 6, va⟩, ⟨6, 6, vb⟩, ⟨5, 1, vh⟩, ⟨4, 1, vj⟩, ⟨1, 3, vm⟩, ⟨0, 1, vg⟩] 0x44000000 rfl rfl rfl rfl rfl fun hw w hn => ?_
  have ha : apart [⟨28, 2, vt⟩, ⟨24, 2, vr⟩, ⟨18, 6, vd⟩, ⟨12, 6, va⟩, ⟨6, 6, vb⟩, ⟨5, 1, vh⟩, ⟨4, 1, vj⟩, ⟨1, 3, vm⟩, ⟨0, 1, vg⟩] 0x44000000 = true := rfl
  have g0 := fld_val _ _ 0 28 2 vt ha rfl
  have g1 := fld_val _ _ 1 24 2 vr ha rfl
  have g2 := fld_val _ _ 2 18 6 vd ha rfl
  have g3 := fld_val _ _ 3 12 6 va ha rfl
  have g4 := fld_val _ _ 4 6 6 vb ha rfl
  have g5 := fld_val _ _ 5 5 1 vh ha rfl
  have g6 := fld_val _ _ 6 4 1 vj ha rfl
  have g7 := fld_val _ _ 7 1 3 vm ha rfl
  have g8 := fld_val _ _ 8 0 1 vg ha rfl
  have c0 : _ / 2 ^ 30 = 0x1 := val_below _ _ 30 ha rfl
  have c1 : _ / 2 ^ 30 % 2 ^ 2 = 0x1 := val_clear _ _ 30 2 ha rfl
  have c2 : _ / 2 ^ 26 % 2 ^ 2 = 0x1 := val_clear _ _ 26 2 ha rfl
  rw [← hn] at g0 g1 g2 g3 g4 g5 g6 g7 g8 c0 c1 c2
  show decodeVector w = _
  delta decodeVector
  dsimp only
  rw [c0]
  show decodeVector1 w.toNat = _
  delta decodeVector1
  rw [c1, c2]
  show row w.toNat [] (.vsubF (fld w.toNat 28 2) (fld w.toNat 24 2) (fld w.toNat 18 6) (fld w.toNat 12 6) (fld w.toNat 6 6) (fld w.toNat 5 1) (fld w.toNat 4 1) (fld w.toNat 1 3) (fld w.toNat 0 1)) = _
  rw [g0, g1, g2, g3, g4, g5, g6, g7, g8]
  exact row_ok _ _ _ hw (fun _ h => nomatch h)

theorem vmulF : ∀ vt vr vd va vb vh vj vm vg, Statement (.vmulF vt vr vd va vb vh vj vm vg) := by
  intro vt vr vd va vb vh vj vm vg
  refine encodes_of _ .vector [⟨28, 2, vt⟩, ⟨24, 2, vr⟩, ⟨18, 6, vd⟩, ⟨12, 6, va⟩, ⟨6, 6, vb⟩, ⟨5, 1, vh⟩, ⟨4, 1, vj⟩, ⟨1, 3, vm⟩, ⟨0, 1, vg⟩] 0x48000000 rfl rfl rfl rfl rfl fun hw w hn => ?_
  have ha : apart [⟨28, 2, vt⟩, ⟨24, 2, vr⟩, ⟨18, 6, vd⟩, ⟨12, 6, va⟩, ⟨6, 6, vb⟩, ⟨5, 1, vh⟩, ⟨4, 1, vj⟩, ⟨1, 3, vm⟩, ⟨0, 1, vg⟩] 0x48000000 = true := rfl
  have g0 := fld_val _ _ 0 28 2 vt ha rfl
  have g1 := fld_val _ _ 1 24 2 vr ha rfl
  have g2 := fld_val _ _ 2 18 6 vd ha rfl
  have g3 := fld_val _ _ 3 12 6 va ha rfl
  have g4 := fld_val _ _ 4 6 6 vb ha rfl
  have g5 := fld_val _ _ 5 5 1 vh ha rfl
  have g6 := fld_val _ _ 6 4 1 vj ha rfl
  have g7 := fld_val _ _ 7 1 3 vm ha rfl
  have g8 := fld_val _ _ 8 0 1 vg ha rfl
  have c0 : _ / 2 ^ 30 = 0x1 := val_below _ _ 30 ha rfl
  have c1 : _ / 2 ^ 30 % 2 ^ 2 = 0x1 := val_clear _ _ 30 2 ha rfl
  have c2 : _ / 2 ^ 26 % 2 ^ 2 = 0x2 := val_clear _ _ 26 2 ha rfl
  rw [← hn] at g0 g1 g2 g3 g4 g5 g6 g7 g8 c0 c1 c2
  show decodeVector w = _
  delta decodeVector
  dsimp only
  rw [c0]
  show decodeVector1 w.toNat = _
  delta decodeVector1
  rw [c1, c2]
  show row w.toNat [] (.vmulF (fld w.toNat 28 2) (fld w.toNat 24 2) (fld w.toNat 18 6) (fld w.toNat 12 6) (fld w.toNat 6 6) (fld w.toNat 5 1) (fld w.toNat 4 1) (fld w.toNat 1 3) (fld w.toNat 0 1)) = _
  rw [g0, g1, g2, g3, g4, g5, g6, g7, g8]
  exact row_ok _ _ _ hw (fun _ h => nomatch h)

theorem vfma : ∀ vt vr vd va vb vh vj vm vg, Statement (.vfma vt vr vd va vb vh vj vm vg) := by
  intro vt vr vd va vb vh vj vm vg
  refine encodes_of _ .vector [⟨28, 2, vt⟩, ⟨24, 2, vr⟩, ⟨18, 6, vd⟩, ⟨12, 6, va⟩, ⟨6, 6, vb⟩, ⟨5, 1, vh⟩, ⟨4, 1, vj⟩, ⟨1, 3, vm⟩, ⟨0, 1, vg⟩] 0x4c000000 rfl rfl rfl rfl rfl fun hw w hn => ?_
  have ha : apart [⟨28, 2, vt⟩, ⟨24, 2, vr⟩, ⟨18, 6, vd⟩, ⟨12, 6, va⟩, ⟨6, 6, vb⟩, ⟨5, 1, vh⟩, ⟨4, 1, vj⟩, ⟨1, 3, vm⟩, ⟨0, 1, vg⟩] 0x4c000000 = true := rfl
  have g0 := fld_val _ _ 0 28 2 vt ha rfl
  have g1 := fld_val _ _ 1 24 2 vr ha rfl
  have g2 := fld_val _ _ 2 18 6 vd ha rfl
  have g3 := fld_val _ _ 3 12 6 va ha rfl
  have g4 := fld_val _ _ 4 6 6 vb ha rfl
  have g5 := fld_val _ _ 5 5 1 vh ha rfl
  have g6 := fld_val _ _ 6 4 1 vj ha rfl
  have g7 := fld_val _ _ 7 1 3 vm ha rfl
  have g8 := fld_val _ _ 8 0 1 vg ha rfl
  have c0 : _ / 2 ^ 30 = 0x1 := val_below _ _ 30 ha rfl
  have c1 : _ / 2 ^ 30 % 2 ^ 2 = 0x1 := val_clear _ _ 30 2 ha rfl
  have c2 : _ / 2 ^ 26 % 2 ^ 2 = 0x3 := val_clear _ _ 26 2 ha rfl
  rw [← hn] at g0 g1 g2 g3 g4 g5 g6 g7 g8 c0 c1 c2
  show decodeVector w = _
  delta decodeVector
  dsimp only
  rw [c0]
  show decodeVector1 w.toNat = _
  delta decodeVector1
  rw [c1, c2]
  show row w.toNat [] (.vfma (fld w.toNat 28 2) (fld w.toNat 24 2) (fld w.toNat 18 6) (fld w.toNat 12 6) (fld w.toNat 6 6) (fld w.toNat 5 1) (fld w.toNat 4 1) (fld w.toNat 1 3) (fld w.toNat 0 1)) = _
  rw [g0, g1, g2, g3, g4, g5, g6, g7, g8]
  exact row_ok _ _ _ hw (fun _ h => nomatch h)

theorem vminF : ∀ vt vd va vb vh vj vm vg, Statement (.vminF vt vd va vb vh vj vm vg) := by
  intro vt vd va vb vh vj vm vg
  refine encodes_of _ .vector [⟨26, 2, vt⟩, ⟨18, 6, vd⟩, ⟨12, 6, va⟩, ⟨6, 6, vb⟩, ⟨5, 1, vh⟩, ⟨4, 1, vj⟩, ⟨1, 3, vm⟩, ⟨0, 1, vg⟩] 0x80000000 rfl rfl rfl rfl rfl fun hw w hn => ?_
  have ha : apart [⟨26, 2, vt⟩, ⟨18, 6, vd⟩, ⟨12, 6, va⟩, ⟨6, 6, vb⟩, ⟨5, 1, vh⟩, ⟨4, 1, vj⟩, ⟨1, 3, vm⟩, ⟨0, 1, vg⟩] 0x80000000 = true := rfl
  have g0 := fld_val _ _ 0 26 2 vt ha rfl
  have g1 := fld_val _ _ 1 18 6 vd ha rfl
  have g2 := fld_val _ _ 2 12 6 va ha rfl
  have g3 := fld_val _ _ 3 6 6 vb ha rfl
  have g4 := fld_val _ _ 4 5 1 vh ha rfl
  have g5 := fld_val _ _ 5 4 1 vj ha rfl
  have g6 := fld_val _ _ 6 1 3 vm ha rfl
  have g7 := fld_val _ _ 7 0 1 vg ha rfl
  have c0 : _ / 2 ^ 30 = 0x2 := val_below _ _ 30 ha rfl
  have c1 : _ / 2 ^ 28 % 2 ^ 4 = 0x8 := val_clear _ _ 28 4 ha rfl
  have c2 : _ / 2 ^ 24 % 2 ^ 2 = 0x0 := val_clear _ _ 24 2 ha rfl
  rw [← hn] at g0 g1 g2 g3 g4 g5 g6 g7 c0 c1 c2
  show decodeVector w = _
  delta decodeVector
  dsimp only
  rw [c0]
  show decodeVector2 w.toNat = _
  delta decodeVector2
  rw [c1, c2]
  show row w.toNat [] (.vminF (fld w.toNat 26 2) (fld w.toNat 18 6) (fld w.toNat 12 6) (fld w.toNat 6 6) (fld w.toNat 5 1) (fld w.toNat 4 1) (fld w.toNat 1 3) (fld w.toNat 0 1)) = _
  rw [g0, g1, g2, g3, g4, g5, g6, g7]
  exact row_ok _ _ _ hw (fun _ h => nomatch h)

theorem vmaxF : ∀ vt vd va vb vh vj vm vg, Statement (.vmaxF vt vd va vb vh vj vm vg) := by
  intro vt vd va vb vh vj vm vg
  refine encodes_of _ .vector [⟨26, 2, vt⟩, ⟨18, 6, vd⟩, ⟨12, 6, va⟩, ⟨6, 6, vb⟩, ⟨5, 1, vh⟩, ⟨4, 1, vj⟩, ⟨1, 3, vm⟩, ⟨0, 1, vg⟩] 0x81000000 rfl rfl rfl rfl rfl fun hw w hn => ?_
  have ha : apart [⟨26, 2, vt⟩, ⟨18, 6, vd⟩, ⟨12, 6, va⟩, ⟨6, 6, vb⟩, ⟨5, 1, vh⟩, ⟨4, 1, vj⟩, ⟨1, 3, vm⟩, ⟨0, 1, vg⟩] 0x81000000 = true := rfl
  have g0 := fld_val _ _ 0 26 2 vt ha rfl
  have g1 := fld_val _ _ 1 18 6 vd ha rfl
  have g2 := fld_val _ _ 2 12 6 va ha rfl
  have g3 := fld_val _ _ 3 6 6 vb ha rfl
  have g4 := fld_val _ _ 4 5 1 vh ha rfl
  have g5 := fld_val _ _ 5 4 1 vj ha rfl
  have g6 := fld_val _ _ 6 1 3 vm ha rfl
  have g7 := fld_val _ _ 7 0 1 vg ha rfl
  have c0 : _ / 2 ^ 30 = 0x2 := val_below _ _ 30 ha rfl
  have c1 : _ / 2 ^ 28 % 2 ^ 4 = 0x8 := val_clear _ _ 28 4 ha rfl
  have c2 : _ / 2 ^ 24 % 2 ^ 2 = 0x1 := val_clear _ _ 24 2 ha rfl
  rw [← hn] at g0 g1 g2 g3 g4 g5 g6 g7 c0 c1 c2
  show decodeVector w = _
  delta decodeVector
  dsimp only
  rw [c0]
  show decodeVector2 w.toNat = _
  delta decodeVector2
  rw [c1, c2]
  show row w.toNat [] (.vmaxF (fld w.toNat 26 2) (fld w.toNat 18 6) (fld w.toNat 12 6) (fld w.toNat 6 6) (fld w.toNat 5 1) (fld w.toNat 4 1) (fld w.toNat 1 3) (fld w.toNat 0 1)) = _
  rw [g0, g1, g2, g3, g4, g5, g6, g7]
  exact row_ok _ _ _ hw (fun _ h => nomatch h)

theorem vcltF : ∀ vt vd va vb vh vj vm vg, Statement (.vcltF vt vd va vb vh vj vm vg) := by
  intro vt vd va vb vh vj vm vg
  refine encodes_of _ .vector [⟨26, 2, vt⟩, ⟨18, 6, vd⟩, ⟨12, 6, va⟩, ⟨6, 6, vb⟩, ⟨5, 1, vh⟩, ⟨4, 1, vj⟩, ⟨1, 3, vm⟩, ⟨0, 1, vg⟩] 0x82000000 rfl rfl rfl rfl rfl fun hw w hn => ?_
  have ha : apart [⟨26, 2, vt⟩, ⟨18, 6, vd⟩, ⟨12, 6, va⟩, ⟨6, 6, vb⟩, ⟨5, 1, vh⟩, ⟨4, 1, vj⟩, ⟨1, 3, vm⟩, ⟨0, 1, vg⟩] 0x82000000 = true := rfl
  have g0 := fld_val _ _ 0 26 2 vt ha rfl
  have g1 := fld_val _ _ 1 18 6 vd ha rfl
  have g2 := fld_val _ _ 2 12 6 va ha rfl
  have g3 := fld_val _ _ 3 6 6 vb ha rfl
  have g4 := fld_val _ _ 4 5 1 vh ha rfl
  have g5 := fld_val _ _ 5 4 1 vj ha rfl
  have g6 := fld_val _ _ 6 1 3 vm ha rfl
  have g7 := fld_val _ _ 7 0 1 vg ha rfl
  have c0 : _ / 2 ^ 30 = 0x2 := val_below _ _ 30 ha rfl
  have c1 : _ / 2 ^ 28 % 2 ^ 4 = 0x8 := val_clear _ _ 28 4 ha rfl
  have c2 : _ / 2 ^ 24 % 2 ^ 2 = 0x2 := val_clear _ _ 24 2 ha rfl
  rw [← hn] at g0 g1 g2 g3 g4 g5 g6 g7 c0 c1 c2
  show decodeVector w = _
  delta decodeVector
  dsimp only
  rw [c0]
  show decodeVector2 w.toNat = _
  delta decodeVector2
  rw [c1, c2]
  show row w.toNat [] (.vcltF (fld w.toNat 26 2) (fld w.toNat 18 6) (fld w.toNat 12 6) (fld w.toNat 6 6) (fld w.toNat 5 1) (fld w.toNat 4 1) (fld w.toNat 1 3) (fld w.toNat 0 1)) = _
  rw [g0, g1, g2, g3, g4, g5, g6, g7]
  exact row_ok _ _ _ hw (fun _ h => nomatch h)

theorem vceqF : ∀ vt vd va vb vh vj vm vg, Statement (.vceqF vt vd va vb vh vj vm vg) := by
  intro vt vd va vb vh vj vm vg
  refine encodes_of _ .vector [⟨26, 2, vt⟩, ⟨18, 6, vd⟩, ⟨12, 6, va⟩, ⟨6, 6, vb⟩, ⟨5, 1, vh⟩, ⟨4, 1, vj⟩, ⟨1, 3, vm⟩, ⟨0, 1, vg⟩] 0x83000000 rfl rfl rfl rfl rfl fun hw w hn => ?_
  have ha : apart [⟨26, 2, vt⟩, ⟨18, 6, vd⟩, ⟨12, 6, va⟩, ⟨6, 6, vb⟩, ⟨5, 1, vh⟩, ⟨4, 1, vj⟩, ⟨1, 3, vm⟩, ⟨0, 1, vg⟩] 0x83000000 = true := rfl
  have g0 := fld_val _ _ 0 26 2 vt ha rfl
  have g1 := fld_val _ _ 1 18 6 vd ha rfl
  have g2 := fld_val _ _ 2 12 6 va ha rfl
  have g3 := fld_val _ _ 3 6 6 vb ha rfl
  have g4 := fld_val _ _ 4 5 1 vh ha rfl
  have g5 := fld_val _ _ 5 4 1 vj ha rfl
  have g6 := fld_val _ _ 6 1 3 vm ha rfl
  have g7 := fld_val _ _ 7 0 1 vg ha rfl
  have c0 : _ / 2 ^ 30 = 0x2 := val_below _ _ 30 ha rfl
  have c1 : _ / 2 ^ 28 % 2 ^ 4 = 0x8 := val_clear _ _ 28 4 ha rfl
  have c2 : _ / 2 ^ 24 % 2 ^ 2 = 0x3 := val_clear _ _ 24 2 ha rfl
  rw [← hn] at g0 g1 g2 g3 g4 g5 g6 g7 c0 c1 c2
  show decodeVector w = _
  delta decodeVector
  dsimp only
  rw [c0]
  show decodeVector2 w.toNat = _
  delta decodeVector2
  rw [c1, c2]
  show row w.toNat [] (.vceqF (fld w.toNat 26 2) (fld w.toNat 18 6) (fld w.toNat 12 6) (fld w.toNat 6 6) (fld w.toNat 5 1) (fld w.toNat 4 1) (fld w.toNat 1 3) (fld w.toNat 0 1)) = _
  rw [g0, g1, g2, g3, g4, g5, g6, g7]
  exact row_ok _ _ _ hw (fun _ h => nomatch h)

theorem vcvt : ∀ vs vd va vr vu vf vh vj vm vg, Statement (.vcvt vs vd va vr vu vf vh vj vm vg) := by
  intro vs vd va vr vu vf vh vj vm vg
  refine encodes_of _ .vector [⟨24, 3, vs⟩, ⟨18, 6, vd⟩, ⟨12, 6, va⟩, ⟨10, 2, vr⟩, ⟨9, 1, vu⟩, ⟨6, 3, vf⟩, ⟨5, 1, vh⟩, ⟨4, 1, vj⟩, ⟨1, 3, vm⟩, ⟨0, 1, vg⟩] 0x90000000 rfl rfl rfl rfl rfl fun hw w hn => ?_
  have ha : apart [⟨24, 3, vs⟩, ⟨18, 6, vd⟩, ⟨12, 6, va⟩, ⟨10, 2, vr⟩, ⟨9, 1, vu⟩, ⟨6, 3, vf⟩, ⟨5, 1, vh⟩, ⟨4, 1, vj⟩, ⟨1, 3, vm⟩, ⟨0, 1, vg⟩] 0x90000000 = true := rfl
  have g0 := fld_val _ _ 0 24 3 vs ha rfl
  have g1 := fld_val _ _ 1 18 6 vd ha rfl
  have g2 := fld_val _ _ 2 12 6 va ha rfl
  have g3 := fld_val _ _ 3 10 2 vr ha rfl
  have g4 := fld_val _ _ 4 9 1 vu ha rfl
  have g5 := fld_val _ _ 5 6 3 vf ha rfl
  have g6 := fld_val _ _ 6 5 1 vh ha rfl
  have g7 := fld_val _ _ 7 4 1 vj ha rfl
  have g8 := fld_val _ _ 8 1 3 vm ha rfl
  have g9 := fld_val _ _ 9 0 1 vg ha rfl
  have c0 : _ / 2 ^ 30 = 0x2 := val_below _ _ 30 ha rfl
  have c1 : _ / 2 ^ 28 % 2 ^ 4 = 0x9 := val_clear _ _ 28 4 ha rfl
  have c2 : _ / 2 ^ 27 % 2 ^ 5 = 0x12 := val_clear _ _ 27 5 ha rfl
  rw [← hn] at g0 g1 g2 g3 g4 g5 g6 g7 g8 g9 c0 c1 c2
  show decodeVector w = _
  delta decodeVector
  dsimp only
  rw [c0]
  show decodeVector2 w.toNat = _
  delta decodeVector2
  rw [if_neg (fun h => ne_lit c1 (by decide) h.1), if_neg (fun h => ne_lit c1 (by decide) h.1), if_neg (fun h => ne_lit c1 (by decide) h.1), if_neg (fun h => ne_lit c1 (by decide) h.1)]
  rw [c2]
  show row w.toNat [] (.vcvt (fld w.toNat 24 3) (fld w.toNat 18 6) (fld w.toNat 12 6) (fld w.toNat 10 2) (fld w.toNat 9 1) (fld w.toNat 6 3) (fld w.toNat 5 1) (fld w.toNat 4 1) (fld w.toNat 1 3) (fld w.toNat 0 1)) = _
  rw [g0, g1, g2, g3, g4, g5, g6, g7, g8, g9]
  exact row_ok _ _ _ hw (fun _ h => nomatch h)

theorem vpack : ∀ vd va vr vu vf vh vj vm vg, Statement (.vpack vd va vr vu vf vh vj vm vg) := by
  intro vd va vr vu vf vh vj vm vg
  refine encodes_of _ .vector [⟨18, 6, vd⟩, ⟨12, 6, va⟩, ⟨10, 2, vr⟩, ⟨9, 1, vu⟩, ⟨6, 3, vf⟩, ⟨5, 1, vh⟩, ⟨4, 1, vj⟩, ⟨1, 3, vm⟩, ⟨0, 1, vg⟩] 0x98000000 rfl rfl rfl rfl rfl fun hw w hn => ?_
  have ha : apart [⟨18, 6, vd⟩, ⟨12, 6, va⟩, ⟨10, 2, vr⟩, ⟨9, 1, vu⟩, ⟨6, 3, vf⟩, ⟨5, 1, vh⟩, ⟨4, 1, vj⟩, ⟨1, 3, vm⟩, ⟨0, 1, vg⟩] 0x98000000 = true := rfl
  have g0 := fld_val _ _ 0 18 6 vd ha rfl
  have g1 := fld_val _ _ 1 12 6 va ha rfl
  have g2 := fld_val _ _ 2 10 2 vr ha rfl
  have g3 := fld_val _ _ 3 9 1 vu ha rfl
  have g4 := fld_val _ _ 4 6 3 vf ha rfl
  have g5 := fld_val _ _ 5 5 1 vh ha rfl
  have g6 := fld_val _ _ 6 4 1 vj ha rfl
  have g7 := fld_val _ _ 7 1 3 vm ha rfl
  have g8 := fld_val _ _ 8 0 1 vg ha rfl
  have c0 : _ / 2 ^ 30 = 0x2 := val_below _ _ 30 ha rfl
  have c1 : _ / 2 ^ 28 % 2 ^ 4 = 0x9 := val_clear _ _ 28 4 ha rfl
  have c2 : _ / 2 ^ 24 % 2 ^ 2 = 0x0 := val_clear _ _ 24 2 ha rfl
  have c3 : _ / 2 ^ 27 % 2 ^ 5 = 0x13 := val_clear _ _ 27 5 ha rfl
  have c4 : _ / 2 ^ 24 % 2 ^ 8 = 0x98 := val_clear _ _ 24 8 ha rfl
  rw [← hn] at g0 g1 g2 g3 g4 g5 g6 g7 g8 c0 c1 c2 c3 c4
  show decodeVector w = _
  delta decodeVector
  dsimp only
  rw [c0]
  show decodeVector2 w.toNat = _
  delta decodeVector2
  rw [c1, c2, c3, c4]
  show row w.toNat [] (.vpack (fld w.toNat 18 6) (fld w.toNat 12 6) (fld w.toNat 10 2) (fld w.toNat 9 1) (fld w.toNat 6 3) (fld w.toNat 5 1) (fld w.toNat 4 1) (fld w.toNat 1 3) (fld w.toNat 0 1)) = _
  rw [g0, g1, g2, g3, g4, g5, g6, g7, g8]
  exact row_ok _ _ _ hw (fun _ h => nomatch h)

theorem vunpk : ∀ vd va vp vf vh vj vm vg, Statement (.vunpk vd va vp vf vh vj vm vg) := by
  intro vd va vp vf vh vj vm vg
  refine encodes_of _ .vector [⟨18, 6, vd⟩, ⟨12, 6, va⟩, ⟨9, 3, vp⟩, ⟨6, 3, vf⟩, ⟨5, 1, vh⟩, ⟨4, 1, vj⟩, ⟨1, 3, vm⟩, ⟨0, 1, vg⟩] 0x99000000 rfl rfl rfl rfl rfl fun hw w hn => ?_
  have ha : apart [⟨18, 6, vd⟩, ⟨12, 6, va⟩, ⟨9, 3, vp⟩, ⟨6, 3, vf⟩, ⟨5, 1, vh⟩, ⟨4, 1, vj⟩, ⟨1, 3, vm⟩, ⟨0, 1, vg⟩] 0x99000000 = true := rfl
  have g0 := fld_val _ _ 0 18 6 vd ha rfl
  have g1 := fld_val _ _ 1 12 6 va ha rfl
  have g2 := fld_val _ _ 2 9 3 vp ha rfl
  have g3 := fld_val _ _ 3 6 3 vf ha rfl
  have g4 := fld_val _ _ 4 5 1 vh ha rfl
  have g5 := fld_val _ _ 5 4 1 vj ha rfl
  have g6 := fld_val _ _ 6 1 3 vm ha rfl
  have g7 := fld_val _ _ 7 0 1 vg ha rfl
  have c0 : _ / 2 ^ 30 = 0x2 := val_below _ _ 30 ha rfl
  have c1 : _ / 2 ^ 28 % 2 ^ 4 = 0x9 := val_clear _ _ 28 4 ha rfl
  have c2 : _ / 2 ^ 24 % 2 ^ 2 = 0x1 := val_clear _ _ 24 2 ha rfl
  have c3 : _ / 2 ^ 27 % 2 ^ 5 = 0x13 := val_clear _ _ 27 5 ha rfl
  have c4 : _ / 2 ^ 24 % 2 ^ 8 = 0x99 := val_clear _ _ 24 8 ha rfl
  rw [← hn] at g0 g1 g2 g3 g4 g5 g6 g7 c0 c1 c2 c3 c4
  show decodeVector w = _
  delta decodeVector
  dsimp only
  rw [c0]
  show decodeVector2 w.toNat = _
  delta decodeVector2
  rw [c1, c2, c3, c4]
  show row w.toNat [] (.vunpk (fld w.toNat 18 6) (fld w.toNat 12 6) (fld w.toNat 9 3) (fld w.toNat 6 3) (fld w.toNat 5 1) (fld w.toNat 4 1) (fld w.toNat 1 3) (fld w.toNat 0 1)) = _
  rw [g0, g1, g2, g3, g4, g5, g6, g7]
  exact row_ok _ _ _ hw (fun _ h => nomatch h)

theorem vexp2 : ∀ vt vd va vh vm vg, Statement (.vexp2 vt vd va vh vm vg) := by
  intro vt vd va vh vm vg
  refine encodes_of _ .vector [⟨24, 2, vt⟩, ⟨18, 6, vd⟩, ⟨12, 6, va⟩, ⟨5, 1, vh⟩, ⟨1, 3, vm⟩, ⟨0, 1, vg⟩] 0xa0000000 rfl rfl rfl rfl rfl fun hw w hn => ?_
  have ha : apart [⟨24, 2, vt⟩, ⟨18, 6, vd⟩, ⟨12, 6, va⟩, ⟨5, 1, vh⟩, ⟨1, 3, vm⟩, ⟨0, 1, vg⟩] 0xa0000000 = true := rfl
  have g0 := fld_val _ _ 0 24 2 vt ha rfl
  have g1 := fld_val _ _ 1 18 6 vd ha rfl
  have g2 := fld_val _ _ 2 12 6 va ha rfl
  have g3 := fld_val _ _ 3 5 1 vh ha rfl
  have g4 := fld_val _ _ 4 1 3 vm ha rfl
  have g5 := fld_val _ _ 5 0 1 vg ha rfl
  have c0 : _ / 2 ^ 30 = 0x2 := val_below _ _ 30 ha rfl
  have c1 : _ / 2 ^ 28 % 2 ^ 4 = 0xa := val_clear _ _ 28 4 ha rfl
  have c2 : _ / 2 ^ 27 % 2 ^ 5 = 0x14 := val_clear _ _ 27 5 ha rfl
  have c3 : _ / 2 ^ 26 % 2 ^ 6 = 0x28 := val_clear _ _ 26 6 ha rfl
  have z0 : _ / 2 ^ 6 % 2 ^ 6 = 0 := val_clear _ _ 6 6 ha rfl
  have z1 : _ / 2 ^ 4 % 2 ^ 1 = 0 := val_clear _ _ 4 1 ha rfl
  rw [← hn] at g0 g1 g2 g3 g4 g5 c0 c1 c2 c3 z0 z1
  show decodeVector w = _
  delta decodeVector
  dsimp only
  rw [c0]
  show decodeVector2 w.toNat = _
  delta decodeVector2
  rw [if_neg (fun h => ne_lit c1 (by decide) h.1), if_neg (fun h => ne_lit c1 (by decide) h.1), if_neg (fun h => ne_lit c1 (by decide) h.1), if_neg (fun h => ne_lit c1 (by decide) h.1), if_neg (fun h => ne_lit c2 (by decide) h), if_neg (fun h => ne_sub 24 8 2 6 0x98 c3 (by decide) (by decide) h), if_neg (fun h => ne_sub 24 8 2 6 0x99 c3 (by decide) (by decide) h)]
  rw [c3]
  show row w.toNat [(6, 6, .b), (4, 1, .hold)] (.vexp2 (fld w.toNat 24 2) (fld w.toNat 18 6) (fld w.toNat 12 6) (fld w.toNat 5 1) (fld w.toNat 1 3) (fld w.toNat 0 1)) = _
  rw [g0, g1, g2, g3, g4, g5]
  exact row_ok _ _ _ hw (List.forall_mem_cons.2 ⟨z0, List.forall_mem_cons.2 ⟨z1, fun _ h => nomatch h⟩⟩)

theorem vrcp : ∀ vt vd va vh vm vg, Statement (.vrcp vt vd va vh vm vg) := by
  intro vt vd va vh vm vg
  refine encodes_of _ .vector [⟨24, 2, vt⟩, ⟨18, 6, vd⟩, ⟨12, 6, va⟩, ⟨5, 1, vh⟩, ⟨1, 3, vm⟩, ⟨0, 1, vg⟩] 0xa4000000 rfl rfl rfl rfl rfl fun hw w hn => ?_
  have ha : apart [⟨24, 2, vt⟩, ⟨18, 6, vd⟩, ⟨12, 6, va⟩, ⟨5, 1, vh⟩, ⟨1, 3, vm⟩, ⟨0, 1, vg⟩] 0xa4000000 = true := rfl
  have g0 := fld_val _ _ 0 24 2 vt ha rfl
  have g1 := fld_val _ _ 1 18 6 vd ha rfl
  have g2 := fld_val _ _ 2 12 6 va ha rfl
  have g3 := fld_val _ _ 3 5 1 vh ha rfl
  have g4 := fld_val _ _ 4 1 3 vm ha rfl
  have g5 := fld_val _ _ 5 0 1 vg ha rfl
  have c0 : _ / 2 ^ 30 = 0x2 := val_below _ _ 30 ha rfl
  have c1 : _ / 2 ^ 28 % 2 ^ 4 = 0xa := val_clear _ _ 28 4 ha rfl
  have c2 : _ / 2 ^ 27 % 2 ^ 5 = 0x14 := val_clear _ _ 27 5 ha rfl
  have c3 : _ / 2 ^ 26 % 2 ^ 6 = 0x29 := val_clear _ _ 26 6 ha rfl
  have z0 : _ / 2 ^ 6 % 2 ^ 6 = 0 := val_clear _ _ 6 6 ha rfl
  have z1 : _ / 2 ^ 4 % 2 ^ 1 = 0 := val_clear _ _ 4 1 ha rfl
  rw [← hn] at g0 g1 g2 g3 g4 g5 c0 c1 c2 c3 z0 z1
  show decodeVector w = _
  delta decodeVector
  dsimp only
  rw [c0]
  show decodeVector2 w.toNat = _
  delta decodeVector2
  rw [if_neg (fun h => ne_lit c1 (by decide) h.1), if_neg (fun h => ne_lit c1 (by decide) h.1), if_neg (fun h => ne_lit c1 (by decide) h.1), if_neg (fun h => ne_lit c1 (by decide) h.1), if_neg (fun h => ne_lit c2 (by decide) h), if_neg (fun h => ne_sub 24 8 2 6 0x98 c3 (by decide) (by decide) h), if_neg (fun h => ne_sub 24 8 2 6 0x99 c3 (by decide) (by decide) h), if_neg (fun h => ne_lit c3 (by decide) h)]
  rw [c3]
  show row w.toNat [(6, 6, .b), (4, 1, .hold)] (.vrcp (fld w.toNat 24 2) (fld w.toNat 18 6) (fld w.toNat 12 6) (fld w.toNat 5 1) (fld w.toNat 1 3) (fld w.toNat 0 1)) = _
  rw [g0, g1, g2, g3, g4, g5]
  exact row_ok _ _ _ hw (List.forall_mem_cons.2 ⟨z0, List.forall_mem_cons.2 ⟨z1, fun _ h => nomatch h⟩⟩)

theorem vrsq : ∀ vt vd va vh vm vg, Statement (.vrsq vt vd va vh vm vg) := by
  intro vt vd va vh vm vg
  refine encodes_of _ .vector [⟨24, 2, vt⟩, ⟨18, 6, vd⟩, ⟨12, 6, va⟩, ⟨5, 1, vh⟩, ⟨1, 3, vm⟩, ⟨0, 1, vg⟩] 0xa8000000 rfl rfl rfl rfl rfl fun hw w hn => ?_
  have ha : apart [⟨24, 2, vt⟩, ⟨18, 6, vd⟩, ⟨12, 6, va⟩, ⟨5, 1, vh⟩, ⟨1, 3, vm⟩, ⟨0, 1, vg⟩] 0xa8000000 = true := rfl
  have g0 := fld_val _ _ 0 24 2 vt ha rfl
  have g1 := fld_val _ _ 1 18 6 vd ha rfl
  have g2 := fld_val _ _ 2 12 6 va ha rfl
  have g3 := fld_val _ _ 3 5 1 vh ha rfl
  have g4 := fld_val _ _ 4 1 3 vm ha rfl
  have g5 := fld_val _ _ 5 0 1 vg ha rfl
  have c0 : _ / 2 ^ 30 = 0x2 := val_below _ _ 30 ha rfl
  have c1 : _ / 2 ^ 28 % 2 ^ 4 = 0xa := val_clear _ _ 28 4 ha rfl
  have c2 : _ / 2 ^ 27 % 2 ^ 5 = 0x15 := val_clear _ _ 27 5 ha rfl
  have c3 : _ / 2 ^ 26 % 2 ^ 6 = 0x2a := val_clear _ _ 26 6 ha rfl
  have z0 : _ / 2 ^ 6 % 2 ^ 6 = 0 := val_clear _ _ 6 6 ha rfl
  have z1 : _ / 2 ^ 4 % 2 ^ 1 = 0 := val_clear _ _ 4 1 ha rfl
  rw [← hn] at g0 g1 g2 g3 g4 g5 c0 c1 c2 c3 z0 z1
  show decodeVector w = _
  delta decodeVector
  dsimp only
  rw [c0]
  show decodeVector2 w.toNat = _
  delta decodeVector2
  rw [if_neg (fun h => ne_lit c1 (by decide) h.1), if_neg (fun h => ne_lit c1 (by decide) h.1), if_neg (fun h => ne_lit c1 (by decide) h.1), if_neg (fun h => ne_lit c1 (by decide) h.1), if_neg (fun h => ne_lit c2 (by decide) h), if_neg (fun h => ne_sub 24 8 2 6 0x98 c3 (by decide) (by decide) h), if_neg (fun h => ne_sub 24 8 2 6 0x99 c3 (by decide) (by decide) h), if_neg (fun h => ne_lit c3 (by decide) h), if_neg (fun h => ne_lit c3 (by decide) h)]
  rw [c3]
  show row w.toNat [(6, 6, .b), (4, 1, .hold)] (.vrsq (fld w.toNat 24 2) (fld w.toNat 18 6) (fld w.toNat 12 6) (fld w.toNat 5 1) (fld w.toNat 1 3) (fld w.toNat 0 1)) = _
  rw [g0, g1, g2, g3, g4, g5]
  exact row_ok _ _ _ hw (List.forall_mem_cons.2 ⟨z0, List.forall_mem_cons.2 ⟨z1, fun _ h => nomatch h⟩⟩)

theorem vrsum : ∀ vt vd va vh vm vg, Statement (.vrsum vt vd va vh vm vg) := by
  intro vt vd va vh vm vg
  refine encodes_of _ .vector [⟨24, 2, vt⟩, ⟨18, 6, vd⟩, ⟨12, 6, va⟩, ⟨5, 1, vh⟩, ⟨1, 3, vm⟩, ⟨0, 1, vg⟩] 0xb0000000 rfl rfl rfl rfl rfl fun hw w hn => ?_
  have ha : apart [⟨24, 2, vt⟩, ⟨18, 6, vd⟩, ⟨12, 6, va⟩, ⟨5, 1, vh⟩, ⟨1, 3, vm⟩, ⟨0, 1, vg⟩] 0xb0000000 = true := rfl
  have g0 := fld_val _ _ 0 24 2 vt ha rfl
  have g1 := fld_val _ _ 1 18 6 vd ha rfl
  have g2 := fld_val _ _ 2 12 6 va ha rfl
  have g3 := fld_val _ _ 3 5 1 vh ha rfl
  have g4 := fld_val _ _ 4 1 3 vm ha rfl
  have g5 := fld_val _ _ 5 0 1 vg ha rfl
  have c0 : _ / 2 ^ 30 = 0x2 := val_below _ _ 30 ha rfl
  have c1 : _ / 2 ^ 28 % 2 ^ 4 = 0xb := val_clear _ _ 28 4 ha rfl
  have c2 : _ / 2 ^ 27 % 2 ^ 5 = 0x16 := val_clear _ _ 27 5 ha rfl
  have c3 : _ / 2 ^ 26 % 2 ^ 6 = 0x2c := val_clear _ _ 26 6 ha rfl
  have z0 : _ / 2 ^ 6 % 2 ^ 6 = 0 := val_clear _ _ 6 6 ha rfl
  have z1 : _ / 2 ^ 4 % 2 ^ 1 = 0 := val_clear _ _ 4 1 ha rfl
  rw [← hn] at g0 g1 g2 g3 g4 g5 c0 c1 c2 c3 z0 z1
  show decodeVector w = _
  delta decodeVector
  dsimp only
  rw [c0]
  show decodeVector2 w.toNat = _
  delta decodeVector2
  rw [if_neg (fun h => ne_lit c1 (by decide) h.1), if_neg (fun h => ne_lit c1 (by decide) h.1), if_neg (fun h => ne_lit c1 (by decide) h.1), if_neg (fun h => ne_lit c1 (by decide) h.1), if_neg (fun h => ne_lit c2 (by decide) h), if_neg (fun h => ne_sub 24 8 2 6 0x98 c3 (by decide) (by decide) h), if_neg (fun h => ne_sub 24 8 2 6 0x99 c3 (by decide) (by decide) h), if_neg (fun h => ne_lit c3 (by decide) h), if_neg (fun h => ne_lit c3 (by decide) h), if_neg (fun h => ne_lit c3 (by decide) h)]
  rw [c3]
  show row w.toNat [(6, 6, .b), (4, 1, .hold)] (.vrsum (fld w.toNat 24 2) (fld w.toNat 18 6) (fld w.toNat 12 6) (fld w.toNat 5 1) (fld w.toNat 1 3) (fld w.toNat 0 1)) = _
  rw [g0, g1, g2, g3, g4, g5]
  exact row_ok _ _ _ hw (List.forall_mem_cons.2 ⟨z0, List.forall_mem_cons.2 ⟨z1, fun _ h => nomatch h⟩⟩)

theorem vrmax : ∀ vt vd va vh vm vg, Statement (.vrmax vt vd va vh vm vg) := by
  intro vt vd va vh vm vg
  refine encodes_of _ .vector [⟨24, 2, vt⟩, ⟨18, 6, vd⟩, ⟨12, 6, va⟩, ⟨5, 1, vh⟩, ⟨1, 3, vm⟩, ⟨0, 1, vg⟩] 0xb4000000 rfl rfl rfl rfl rfl fun hw w hn => ?_
  have ha : apart [⟨24, 2, vt⟩, ⟨18, 6, vd⟩, ⟨12, 6, va⟩, ⟨5, 1, vh⟩, ⟨1, 3, vm⟩, ⟨0, 1, vg⟩] 0xb4000000 = true := rfl
  have g0 := fld_val _ _ 0 24 2 vt ha rfl
  have g1 := fld_val _ _ 1 18 6 vd ha rfl
  have g2 := fld_val _ _ 2 12 6 va ha rfl
  have g3 := fld_val _ _ 3 5 1 vh ha rfl
  have g4 := fld_val _ _ 4 1 3 vm ha rfl
  have g5 := fld_val _ _ 5 0 1 vg ha rfl
  have c0 : _ / 2 ^ 30 = 0x2 := val_below _ _ 30 ha rfl
  have c1 : _ / 2 ^ 28 % 2 ^ 4 = 0xb := val_clear _ _ 28 4 ha rfl
  have c2 : _ / 2 ^ 27 % 2 ^ 5 = 0x16 := val_clear _ _ 27 5 ha rfl
  have c3 : _ / 2 ^ 26 % 2 ^ 6 = 0x2d := val_clear _ _ 26 6 ha rfl
  have z0 : _ / 2 ^ 6 % 2 ^ 6 = 0 := val_clear _ _ 6 6 ha rfl
  have z1 : _ / 2 ^ 4 % 2 ^ 1 = 0 := val_clear _ _ 4 1 ha rfl
  rw [← hn] at g0 g1 g2 g3 g4 g5 c0 c1 c2 c3 z0 z1
  show decodeVector w = _
  delta decodeVector
  dsimp only
  rw [c0]
  show decodeVector2 w.toNat = _
  delta decodeVector2
  rw [if_neg (fun h => ne_lit c1 (by decide) h.1), if_neg (fun h => ne_lit c1 (by decide) h.1), if_neg (fun h => ne_lit c1 (by decide) h.1), if_neg (fun h => ne_lit c1 (by decide) h.1), if_neg (fun h => ne_lit c2 (by decide) h), if_neg (fun h => ne_sub 24 8 2 6 0x98 c3 (by decide) (by decide) h), if_neg (fun h => ne_sub 24 8 2 6 0x99 c3 (by decide) (by decide) h), if_neg (fun h => ne_lit c3 (by decide) h), if_neg (fun h => ne_lit c3 (by decide) h), if_neg (fun h => ne_lit c3 (by decide) h), if_neg (fun h => ne_lit c3 (by decide) h)]
  rw [c3]
  show row w.toNat [(6, 6, .b), (4, 1, .hold)] (.vrmax (fld w.toNat 24 2) (fld w.toNat 18 6) (fld w.toNat 12 6) (fld w.toNat 5 1) (fld w.toNat 1 3) (fld w.toNat 0 1)) = _
  rw [g0, g1, g2, g3, g4, g5]
  exact row_ok _ _ _ hw (List.forall_mem_cons.2 ⟨z0, List.forall_mem_cons.2 ⟨z1, fun _ h => nomatch h⟩⟩)

theorem vrmin : ∀ vt vd va vh vm vg, Statement (.vrmin vt vd va vh vm vg) := by
  intro vt vd va vh vm vg
  refine encodes_of _ .vector [⟨24, 2, vt⟩, ⟨18, 6, vd⟩, ⟨12, 6, va⟩, ⟨5, 1, vh⟩, ⟨1, 3, vm⟩, ⟨0, 1, vg⟩] 0xb8000000 rfl rfl rfl rfl rfl fun hw w hn => ?_
  have ha : apart [⟨24, 2, vt⟩, ⟨18, 6, vd⟩, ⟨12, 6, va⟩, ⟨5, 1, vh⟩, ⟨1, 3, vm⟩, ⟨0, 1, vg⟩] 0xb8000000 = true := rfl
  have g0 := fld_val _ _ 0 24 2 vt ha rfl
  have g1 := fld_val _ _ 1 18 6 vd ha rfl
  have g2 := fld_val _ _ 2 12 6 va ha rfl
  have g3 := fld_val _ _ 3 5 1 vh ha rfl
  have g4 := fld_val _ _ 4 1 3 vm ha rfl
  have g5 := fld_val _ _ 5 0 1 vg ha rfl
  have c0 : _ / 2 ^ 30 = 0x2 := val_below _ _ 30 ha rfl
  have c1 : _ / 2 ^ 28 % 2 ^ 4 = 0xb := val_clear _ _ 28 4 ha rfl
  have c2 : _ / 2 ^ 27 % 2 ^ 5 = 0x17 := val_clear _ _ 27 5 ha rfl
  have c3 : _ / 2 ^ 26 % 2 ^ 6 = 0x2e := val_clear _ _ 26 6 ha rfl
  have z0 : _ / 2 ^ 6 % 2 ^ 6 = 0 := val_clear _ _ 6 6 ha rfl
  have z1 : _ / 2 ^ 4 % 2 ^ 1 = 0 := val_clear _ _ 4 1 ha rfl
  rw [← hn] at g0 g1 g2 g3 g4 g5 c0 c1 c2 c3 z0 z1
  show decodeVector w = _
  delta decodeVector
  dsimp only
  rw [c0]
  show decodeVector2 w.toNat = _
  delta decodeVector2
  rw [if_neg (fun h => ne_lit c1 (by decide) h.1), if_neg (fun h => ne_lit c1 (by decide) h.1), if_neg (fun h => ne_lit c1 (by decide) h.1), if_neg (fun h => ne_lit c1 (by decide) h.1), if_neg (fun h => ne_lit c2 (by decide) h), if_neg (fun h => ne_sub 24 8 2 6 0x98 c3 (by decide) (by decide) h), if_neg (fun h => ne_sub 24 8 2 6 0x99 c3 (by decide) (by decide) h), if_neg (fun h => ne_lit c3 (by decide) h), if_neg (fun h => ne_lit c3 (by decide) h), if_neg (fun h => ne_lit c3 (by decide) h), if_neg (fun h => ne_lit c3 (by decide) h), if_neg (fun h => ne_lit c3 (by decide) h)]
  rw [c3]
  show row w.toNat [(6, 6, .b), (4, 1, .hold)] (.vrmin (fld w.toNat 24 2) (fld w.toNat 18 6) (fld w.toNat 12 6) (fld w.toNat 5 1) (fld w.toNat 1 3) (fld w.toNat 0 1)) = _
  rw [g0, g1, g2, g3, g4, g5]
  exact row_ok _ _ _ hw (List.forall_mem_cons.2 ⟨z0, List.forall_mem_cons.2 ⟨z1, fun _ h => nomatch h⟩⟩)

theorem vsnap : ∀ vd va vs vm vg, Statement (.vsnap vd va vs vm vg) := by
  intro vd va vs vm vg
  refine encodes_of _ .vector [⟨18, 6, vd⟩, ⟨12, 6, va⟩, ⟨6, 4, vs⟩, ⟨1, 3, vm⟩, ⟨0, 1, vg⟩] 0xc0000000 rfl rfl rfl rfl rfl fun hw w hn => ?_
  have ha : apart [⟨18, 6, vd⟩, ⟨12, 6, va⟩, ⟨6, 4, vs⟩, ⟨1, 3, vm⟩, ⟨0, 1, vg⟩] 0xc0000000 = true := rfl
  have g0 := fld_val _ _ 0 18 6 vd ha rfl
  have g1 := fld_val _ _ 1 12 6 va ha rfl
  have g2 := fld_val _ _ 2 6 4 vs ha rfl
  have g3 := fld_val _ _ 3 1 3 vm ha rfl
  have g4 := fld_val _ _ 4 0 1 vg ha rfl
  have c0 : _ / 2 ^ 30 = 0x3 := val_below _ _ 30 ha rfl
  have c1 : _ / 2 ^ 24 % 2 ^ 8 = 0xc0 := val_clear _ _ 24 8 ha rfl
  have z0 : _ / 2 ^ 10 % 2 ^ 2 = 0 := val_clear _ _ 10 2 ha rfl
  have z1 : _ / 2 ^ 4 % 2 ^ 2 = 0 := val_clear _ _ 4 2 ha rfl
  rw [← hn] at g0 g1 g2 g3 g4 c0 c1 z0 z1
  show decodeVector w = _
  delta decodeVector
  dsimp only
  rw [c0]
  show decodeVector3 w.toNat = _
  delta decodeVector3
  rw [c1]
  show row w.toNat [(10, 2, .b), (4, 2, .hold)] (.vsnap (fld w.toNat 18 6) (fld w.toNat 12 6) (fld w.toNat 6 4) (fld w.toNat 1 3) (fld w.toNat 0 1)) = _
  rw [g0, g1, g2, g3, g4]
  exact row_ok _ _ _ hw (List.forall_mem_cons.2 ⟨z0, List.forall_mem_cons.2 ⟨z1, fun _ h => nomatch h⟩⟩)

theorem vrot : ∀ vc, Statement (.vrot vc) := by
  intro vc
  refine encodes_of _ .vector [⟨16, 4, vc⟩] 0xc4000000 rfl rfl rfl rfl rfl fun hw w hn => ?_
  have ha : apart [⟨16, 4, vc⟩] 0xc4000000 = true := rfl
  have g0 := fld_val _ _ 0 16 4 vc ha rfl
  have c0 : _ / 2 ^ 30 = 0x3 := val_below _ _ 30 ha rfl
  have c1 : _ / 2 ^ 24 % 2 ^ 8 = 0xc4 := val_clear _ _ 24 8 ha rfl
  have z0 : _ / 2 ^ 20 % 2 ^ 4 = 0 := val_clear _ _ 20 4 ha rfl
  have z1 : _ / 2 ^ 0 % 2 ^ 16 = 0 := val_clear _ _ 0 16 ha rfl
  rw [← hn] at g0 c0 c1 z0 z1
  show decodeVector w = _
  delta decodeVector
  dsimp only
  rw [c0]
  show decodeVector3 w.toNat = _
  delta decodeVector3
  rw [c1]
  show row w.toNat [(20, 4, .d), (0, 16, .imm)] (.vrot (fld w.toNat 16 4)) = _
  rw [g0]
  exact row_ok _ _ _ hw (List.forall_mem_cons.2 ⟨z0, List.forall_mem_cons.2 ⟨z1, fun _ h => nomatch h⟩⟩)

theorem vstg : ∀ vn, Statement (.vstg vn) := by
  intro vn
  refine encodes_of _ .vector [⟨0, 4, vn⟩] 0xc5000000 rfl rfl rfl rfl rfl fun hw w hn => ?_
  have ha : apart [⟨0, 4, vn⟩] 0xc5000000 = true := rfl
  have g0 := fld_val _ _ 0 0 4 vn ha rfl
  have c0 : _ / 2 ^ 30 = 0x3 := val_below _ _ 30 ha rfl
  have c1 : _ / 2 ^ 24 % 2 ^ 8 = 0xc5 := val_clear _ _ 24 8 ha rfl
  have z0 : _ / 2 ^ 20 % 2 ^ 4 = 0 := val_clear _ _ 20 4 ha rfl
  have z1 : _ / 2 ^ 16 % 2 ^ 4 = 0 := val_clear _ _ 16 4 ha rfl
  have z2 : _ / 2 ^ 4 % 2 ^ 12 = 0 := val_clear _ _ 4 12 ha rfl
  rw [← hn] at g0 c0 c1 z0 z1 z2
  show decodeVector w = _
  delta decodeVector
  dsimp only
  rw [c0]
  show decodeVector3 w.toNat = _
  delta decodeVector3
  rw [c1]
  show row w.toNat [(20, 4, .d), (16, 4, .a), (4, 12, .imm)] (.vstg (fld w.toNat 0 4)) = _
  rw [g0]
  exact row_ok _ _ _ hw (List.forall_mem_cons.2 ⟨z0, List.forall_mem_cons.2 ⟨z1, List.forall_mem_cons.2 ⟨z2, fun _ h => nomatch h⟩⟩⟩)

theorem vlane : ∀ vs va vl vg, Statement (.vlane vs va vl vg) := by
  intro vs va vl vg
  refine encodes_of _ .vector [⟨18, 4, vs⟩, ⟨12, 6, va⟩, ⟨5, 7, vl⟩, ⟨0, 1, vg⟩] 0xd0000000 rfl rfl rfl rfl rfl fun hw w hn => ?_
  have ha : apart [⟨18, 4, vs⟩, ⟨12, 6, va⟩, ⟨5, 7, vl⟩, ⟨0, 1, vg⟩] 0xd0000000 = true := rfl
  have g0 := fld_val _ _ 0 18 4 vs ha rfl
  have g1 := fld_val _ _ 1 12 6 va ha rfl
  have g2 := fld_val _ _ 2 5 7 vl ha rfl
  have g3 := fld_val _ _ 3 0 1 vg ha rfl
  have c0 : _ / 2 ^ 30 = 0x3 := val_below _ _ 30 ha rfl
  have c1 : _ / 2 ^ 24 % 2 ^ 8 = 0xd0 := val_clear _ _ 24 8 ha rfl
  have z0 : _ / 2 ^ 22 % 2 ^ 2 = 0 := val_clear _ _ 22 2 ha rfl
  have z1 : _ / 2 ^ 4 % 2 ^ 1 = 0 := val_clear _ _ 4 1 ha rfl
  have z2 : _ / 2 ^ 1 % 2 ^ 3 = 0 := val_clear _ _ 1 3 ha rfl
  rw [← hn] at g0 g1 g2 g3 c0 c1 z0 z1 z2
  show decodeVector w = _
  delta decodeVector
  dsimp only
  rw [c0]
  show decodeVector3 w.toNat = _
  delta decodeVector3
  rw [c1]
  show row w.toNat [(22, 2, .d), (4, 1, .hold), (1, 3, .pred)] (.vlane (fld w.toNat 18 4) (fld w.toNat 12 6) (fld w.toNat 5 7) (fld w.toNat 0 1)) = _
  rw [g0, g1, g2, g3]
  exact row_ok _ _ _ hw (List.forall_mem_cons.2 ⟨z0, List.forall_mem_cons.2 ⟨z1, List.forall_mem_cons.2 ⟨z2, fun _ h => nomatch h⟩⟩⟩)

theorem vbcast : ∀ vd vs vm vg, Statement (.vbcast vd vs vm vg) := by
  intro vd vs vm vg
  refine encodes_of _ .vector [⟨18, 6, vd⟩, ⟨14, 4, vs⟩, ⟨1, 3, vm⟩, ⟨0, 1, vg⟩] 0xd1000000 rfl rfl rfl rfl rfl fun hw w hn => ?_
  have ha : apart [⟨18, 6, vd⟩, ⟨14, 4, vs⟩, ⟨1, 3, vm⟩, ⟨0, 1, vg⟩] 0xd1000000 = true := rfl
  have g0 := fld_val _ _ 0 18 6 vd ha rfl
  have g1 := fld_val _ _ 1 14 4 vs ha rfl
  have g2 := fld_val _ _ 2 1 3 vm ha rfl
  have g3 := fld_val _ _ 3 0 1 vg ha rfl
  have c0 : _ / 2 ^ 30 = 0x3 := val_below _ _ 30 ha rfl
  have c1 : _ / 2 ^ 24 % 2 ^ 8 = 0xd1 := val_clear _ _ 24 8 ha rfl
  have z0 : _ / 2 ^ 12 % 2 ^ 2 = 0 := val_clear _ _ 12 2 ha rfl
  have z1 : _ / 2 ^ 6 % 2 ^ 6 = 0 := val_clear _ _ 6 6 ha rfl
  have z2 : _ / 2 ^ 4 % 2 ^ 2 = 0 := val_clear _ _ 4 2 ha rfl
  rw [← hn] at g0 g1 g2 g3 c0 c1 z0 z1 z2
  show decodeVector w = _
  delta decodeVector
  dsimp only
  rw [c0]
  show decodeVector3 w.toNat = _
  delta decodeVector3
  rw [c1]
  show row w.toNat [(12, 2, .a), (6, 6, .b), (4, 2, .hold)] (.vbcast (fld w.toNat 18 6) (fld w.toNat 14 4) (fld w.toNat 1 3) (fld w.toNat 0 1)) = _
  rw [g0, g1, g2, g3]
  exact row_ok _ _ _ hw (List.forall_mem_cons.2 ⟨z0, List.forall_mem_cons.2 ⟨z1, List.forall_mem_cons.2 ⟨z2, fun _ h => nomatch h⟩⟩⟩)

theorem vsetwb : ∀ vs vi, Statement (.vsetwb vs vi) := by
  intro vs vi
  refine encodes_of _ .vector [⟨16, 4, vs⟩, ⟨0, 16, vi⟩] 0xd2000000 rfl rfl rfl rfl rfl fun hw w hn => ?_
  have ha : apart [⟨16, 4, vs⟩, ⟨0, 16, vi⟩] 0xd2000000 = true := rfl
  have g0 := fld_val _ _ 0 16 4 vs ha rfl
  have g1 := fld_val _ _ 1 0 16 vi ha rfl
  have c0 : _ / 2 ^ 30 = 0x3 := val_below _ _ 30 ha rfl
  have c1 : _ / 2 ^ 24 % 2 ^ 8 = 0xd2 := val_clear _ _ 24 8 ha rfl
  have z0 : _ / 2 ^ 20 % 2 ^ 4 = 0 := val_clear _ _ 20 4 ha rfl
  rw [← hn] at g0 g1 c0 c1 z0
  show decodeVector w = _
  delta decodeVector
  dsimp only
  rw [c0]
  show decodeVector3 w.toNat = _
  delta decodeVector3
  rw [c1]
  show row w.toNat [(20, 4, .d)] (.vsetwb (fld w.toNat 16 4) (fld w.toNat 0 16)) = _
  rw [g0, g1]
  exact row_ok _ _ _ hw (List.forall_mem_cons.2 ⟨z0, fun _ h => nomatch h⟩)

theorem vsetacc : ∀ vm, Statement (.vsetacc vm) := by
  intro vm
  refine encodes_of _ .vector [⟨0, 2, vm⟩] 0xd3000000 rfl rfl rfl rfl rfl fun hw w hn => ?_
  have ha : apart [⟨0, 2, vm⟩] 0xd3000000 = true := rfl
  have g0 := fld_val _ _ 0 0 2 vm ha rfl
  have c0 : _ / 2 ^ 30 = 0x3 := val_below _ _ 30 ha rfl
  have c1 : _ / 2 ^ 24 % 2 ^ 8 = 0xd3 := val_clear _ _ 24 8 ha rfl
  have z0 : _ / 2 ^ 20 % 2 ^ 4 = 0 := val_clear _ _ 20 4 ha rfl
  have z1 : _ / 2 ^ 16 % 2 ^ 4 = 0 := val_clear _ _ 16 4 ha rfl
  have z2 : _ / 2 ^ 2 % 2 ^ 14 = 0 := val_clear _ _ 2 14 ha rfl
  rw [← hn] at g0 c0 c1 z0 z1 z2
  show decodeVector w = _
  delta decodeVector
  dsimp only
  rw [c0]
  show decodeVector3 w.toNat = _
  delta decodeVector3
  rw [c1]
  show row w.toNat [(20, 4, .d), (16, 4, .a), (2, 14, .imm)] (.vsetacc (fld w.toNat 0 2)) = _
  rw [g0]
  exact row_ok _ _ _ hw (List.forall_mem_cons.2 ⟨z0, List.forall_mem_cons.2 ⟨z1, List.forall_mem_cons.2 ⟨z2, fun _ h => nomatch h⟩⟩⟩)

theorem saddi : ∀ vd vs vi, Statement (.saddi vd vs vi) := by
  intro vd vs vi
  refine encodes_of _ .vector [⟨20, 4, vd⟩, ⟨16, 4, vs⟩, ⟨0, 16, vi⟩] 0xd4000000 rfl rfl rfl rfl rfl fun hw w hn => ?_
  have ha : apart [⟨20, 4, vd⟩, ⟨16, 4, vs⟩, ⟨0, 16, vi⟩] 0xd4000000 = true := rfl
  have g0 := fld_val _ _ 0 20 4 vd ha rfl
  have g1 := fld_val _ _ 1 16 4 vs ha rfl
  have g2 := fld_val _ _ 2 0 16 vi ha rfl
  have c0 : _ / 2 ^ 30 = 0x3 := val_below _ _ 30 ha rfl
  have c1 : _ / 2 ^ 24 % 2 ^ 8 = 0xd4 := val_clear _ _ 24 8 ha rfl
  rw [← hn] at g0 g1 g2 c0 c1
  show decodeVector w = _
  delta decodeVector
  dsimp only
  rw [c0]
  show decodeVector3 w.toNat = _
  delta decodeVector3
  rw [c1]
  show row w.toNat [] (.saddi (fld w.toNat 20 4) (fld w.toNat 16 4) (fld w.toNat 0 16)) = _
  rw [g0, g1, g2]
  exact row_ok _ _ _ hw (fun _ h => nomatch h)

theorem sadd : ∀ vd vs vb, Statement (.sadd vd vs vb) := by
  intro vd vs vb
  refine encodes_of _ .vector [⟨20, 4, vd⟩, ⟨16, 4, vs⟩, ⟨12, 4, vb⟩] 0xd5000000 rfl rfl rfl rfl rfl fun hw w hn => ?_
  have ha : apart [⟨20, 4, vd⟩, ⟨16, 4, vs⟩, ⟨12, 4, vb⟩] 0xd5000000 = true := rfl
  have g0 := fld_val _ _ 0 20 4 vd ha rfl
  have g1 := fld_val _ _ 1 16 4 vs ha rfl
  have g2 := fld_val _ _ 2 12 4 vb ha rfl
  have c0 : _ / 2 ^ 30 = 0x3 := val_below _ _ 30 ha rfl
  have c1 : _ / 2 ^ 24 % 2 ^ 8 = 0xd5 := val_clear _ _ 24 8 ha rfl
  have z0 : _ / 2 ^ 0 % 2 ^ 12 = 0 := val_clear _ _ 0 12 ha rfl
  rw [← hn] at g0 g1 g2 c0 c1 z0
  show decodeVector w = _
  delta decodeVector
  dsimp only
  rw [c0]
  show decodeVector3 w.toNat = _
  delta decodeVector3
  rw [c1]
  show row w.toNat [(0, 12, .imm)] (.sadd (fld w.toNat 20 4) (fld w.toNat 16 4) (fld w.toNat 12 4)) = _
  rw [g0, g1, g2]
  exact row_ok _ _ _ hw (List.forall_mem_cons.2 ⟨z0, fun _ h => nomatch h⟩)

theorem smovi : ∀ vd vi, Statement (.smovi vd vi) := by
  intro vd vi
  refine encodes_of _ .vector [⟨20, 4, vd⟩, ⟨0, 16, vi⟩] 0xd6000000 rfl rfl rfl rfl rfl fun hw w hn => ?_
  have ha : apart [⟨20, 4, vd⟩, ⟨0, 16, vi⟩] 0xd6000000 = true := rfl
  have g0 := fld_val _ _ 0 20 4 vd ha rfl
  have g1 := fld_val _ _ 1 0 16 vi ha rfl
  have c0 : _ / 2 ^ 30 = 0x3 := val_below _ _ 30 ha rfl
  have c1 : _ / 2 ^ 24 % 2 ^ 8 = 0xd6 := val_clear _ _ 24 8 ha rfl
  have c2 : _ / 2 ^ 19 % 2 ^ 1 = 0x0 := val_clear _ _ 19 1 ha rfl
  have z0 : _ / 2 ^ 16 % 2 ^ 3 = 0 := val_clear _ _ 16 3 ha rfl
  rw [← hn] at g0 g1 c0 c1 c2 z0
  show decodeVector w = _
  delta decodeVector
  dsimp only
  rw [c0]
  show decodeVector3 w.toNat = _
  delta decodeVector3
  rw [c1, c2]
  show row w.toNat [(16, 3, .a)] (.smovi (fld w.toNat 20 4) (fld w.toNat 0 16)) = _
  rw [g0, g1]
  exact row_ok _ _ _ hw (List.forall_mem_cons.2 ⟨z0, fun _ h => nomatch h⟩)

theorem smoviHi : ∀ vd vi, Statement (.smoviHi vd vi) := by
  intro vd vi
  refine encodes_of _ .vector [⟨20, 4, vd⟩, ⟨0, 16, vi⟩] 0xd6080000 rfl rfl rfl rfl rfl fun hw w hn => ?_
  have ha : apart [⟨20, 4, vd⟩, ⟨0, 16, vi⟩] 0xd6080000 = true := rfl
  have g0 := fld_val _ _ 0 20 4 vd ha rfl
  have g1 := fld_val _ _ 1 0 16 vi ha rfl
  have c0 : _ / 2 ^ 30 = 0x3 := val_below _ _ 30 ha rfl
  have c1 : _ / 2 ^ 24 % 2 ^ 8 = 0xd6 := val_clear _ _ 24 8 ha rfl
  have c2 : _ / 2 ^ 19 % 2 ^ 1 = 0x1 := val_clear _ _ 19 1 ha rfl
  have z0 : _ / 2 ^ 16 % 2 ^ 3 = 0 := val_clear _ _ 16 3 ha rfl
  rw [← hn] at g0 g1 c0 c1 c2 z0
  show decodeVector w = _
  delta decodeVector
  dsimp only
  rw [c0]
  show decodeVector3 w.toNat = _
  delta decodeVector3
  rw [c1, c2]
  show row w.toNat [(16, 3, .a)] (.smoviHi (fld w.toNat 20 4) (fld w.toNat 0 16)) = _
  rw [g0, g1]
  exact row_ok _ _ _ hw (List.forall_mem_cons.2 ⟨z0, fun _ h => nomatch h⟩)

theorem vhalt : Statement .vhalt := by
  refine encodes_of _ .vector [] 0xd7000000 rfl rfl rfl rfl rfl fun hw w hn => ?_
  have ha : apart [] 0xd7000000 = true := rfl
  have c0 : _ / 2 ^ 30 = 0x3 := val_below _ _ 30 ha rfl
  have c1 : _ / 2 ^ 24 % 2 ^ 8 = 0xd7 := val_clear _ _ 24 8 ha rfl
  have c2 : _ / 2 ^ 19 % 2 ^ 1 = 0x0 := val_clear _ _ 19 1 ha rfl
  have z0 : _ / 2 ^ 20 % 2 ^ 4 = 0 := val_clear _ _ 20 4 ha rfl
  have z1 : _ / 2 ^ 16 % 2 ^ 4 = 0 := val_clear _ _ 16 4 ha rfl
  have z2 : _ / 2 ^ 0 % 2 ^ 16 = 0 := val_clear _ _ 0 16 ha rfl
  rw [← hn] at c0 c1 c2 z0 z1 z2
  show decodeVector w = _
  delta decodeVector
  dsimp only
  rw [c0]
  show decodeVector3 w.toNat = _
  delta decodeVector3
  rw [c1, c2]
  show row w.toNat [(20, 4, .d), (16, 4, .a), (0, 16, .imm)] .vhalt = _
  exact row_ok _ _ _ hw (List.forall_mem_cons.2 ⟨z0, List.forall_mem_cons.2 ⟨z1, List.forall_mem_cons.2 ⟨z2, fun _ h => nomatch h⟩⟩⟩)

theorem vtsig : ∀ vk, Statement (.vtsig vk) := by
  intro vk
  refine encodes_of _ .vector [⟨16, 4, vk⟩] 0xd8000000 rfl rfl rfl rfl rfl fun hw w hn => ?_
  have ha : apart [⟨16, 4, vk⟩] 0xd8000000 = true := rfl
  have g0 := fld_val _ _ 0 16 4 vk ha rfl
  have c0 : _ / 2 ^ 30 = 0x3 := val_below _ _ 30 ha rfl
  have c1 : _ / 2 ^ 24 % 2 ^ 8 = 0xd8 := val_clear _ _ 24 8 ha rfl
  have z0 : _ / 2 ^ 20 % 2 ^ 4 = 0 := val_clear _ _ 20 4 ha rfl
  have z1 : _ / 2 ^ 0 % 2 ^ 16 = 0 := val_clear _ _ 0 16 ha rfl
  rw [← hn] at g0 c0 c1 z0 z1
  show decodeVector w = _
  delta decodeVector
  dsimp only
  rw [c0]
  show decodeVector3 w.toNat = _
  delta decodeVector3
  rw [if_neg (fun h => ne_lit c1 (by decide) h), if_neg (fun h => ne_lit c1 (by decide) h), if_neg (fun h => ne_lit c1 (by decide) h), if_neg (fun h => ne_lit c1 (by decide) h), if_neg (fun h => ne_lit c1 (by decide) h), if_neg (fun h => ne_lit c1 (by decide) h), if_neg (fun h => ne_lit c1 (by decide) h), if_neg (fun h => ne_lit c1 (by decide) h), if_neg (fun h => ne_lit c1 (by decide) h), if_neg (fun h => ne_lit c1 (by decide) h.1), if_neg (fun h => ne_lit c1 (by decide) h.1), if_neg (fun h => ne_lit c1 (by decide) h)]
  rw [c1]
  show row w.toNat [(20, 4, .d), (0, 16, .imm)] (.vtsig (fld w.toNat 16 4)) = _
  rw [g0]
  exact row_ok _ _ _ hw (List.forall_mem_cons.2 ⟨z0, List.forall_mem_cons.2 ⟨z1, fun _ h => nomatch h⟩⟩)

theorem vtwait : ∀ vk, Statement (.vtwait vk) := by
  intro vk
  refine encodes_of _ .vector [⟨16, 4, vk⟩] 0xd9000000 rfl rfl rfl rfl rfl fun hw w hn => ?_
  have ha : apart [⟨16, 4, vk⟩] 0xd9000000 = true := rfl
  have g0 := fld_val _ _ 0 16 4 vk ha rfl
  have c0 : _ / 2 ^ 30 = 0x3 := val_below _ _ 30 ha rfl
  have c1 : _ / 2 ^ 24 % 2 ^ 8 = 0xd9 := val_clear _ _ 24 8 ha rfl
  have z0 : _ / 2 ^ 20 % 2 ^ 4 = 0 := val_clear _ _ 20 4 ha rfl
  have z1 : _ / 2 ^ 0 % 2 ^ 16 = 0 := val_clear _ _ 0 16 ha rfl
  rw [← hn] at g0 c0 c1 z0 z1
  show decodeVector w = _
  delta decodeVector
  dsimp only
  rw [c0]
  show decodeVector3 w.toNat = _
  delta decodeVector3
  rw [if_neg (fun h => ne_lit c1 (by decide) h), if_neg (fun h => ne_lit c1 (by decide) h), if_neg (fun h => ne_lit c1 (by decide) h), if_neg (fun h => ne_lit c1 (by decide) h), if_neg (fun h => ne_lit c1 (by decide) h), if_neg (fun h => ne_lit c1 (by decide) h), if_neg (fun h => ne_lit c1 (by decide) h), if_neg (fun h => ne_lit c1 (by decide) h), if_neg (fun h => ne_lit c1 (by decide) h), if_neg (fun h => ne_lit c1 (by decide) h.1), if_neg (fun h => ne_lit c1 (by decide) h.1), if_neg (fun h => ne_lit c1 (by decide) h), if_neg (fun h => ne_lit c1 (by decide) h)]
  rw [c1]
  show row w.toNat [(20, 4, .d), (0, 16, .imm)] (.vtwait (fld w.toNat 16 4)) = _
  rw [g0]
  exact row_ok _ _ _ hw (List.forall_mem_cons.2 ⟨z0, List.forall_mem_cons.2 ⟨z1, fun _ h => nomatch h⟩⟩)

theorem vfenceRel : ∀ vo, Statement (.vfenceRel vo) := by
  intro vo
  refine encodes_of _ .vector [⟨16, 5, vo⟩] 0xda000000 rfl rfl rfl rfl rfl fun hw w hn => ?_
  have ha : apart [⟨16, 5, vo⟩] 0xda000000 = true := rfl
  have g0 := fld_val _ _ 0 16 5 vo ha rfl
  have c0 : _ / 2 ^ 30 = 0x3 := val_below _ _ 30 ha rfl
  have c1 : _ / 2 ^ 24 % 2 ^ 8 = 0xda := val_clear _ _ 24 8 ha rfl
  have c2 : _ / 2 ^ 22 % 2 ^ 10 = 0x368 := val_clear _ _ 22 10 ha rfl
  have z0 : _ / 2 ^ 21 % 2 ^ 1 = 0 := val_clear _ _ 21 1 ha rfl
  have z1 : _ / 2 ^ 0 % 2 ^ 16 = 0 := val_clear _ _ 0 16 ha rfl
  rw [← hn] at g0 c0 c1 c2 z0 z1
  show decodeVector w = _
  delta decodeVector
  dsimp only
  rw [c0]
  show decodeVector3 w.toNat = _
  delta decodeVector3
  rw [if_neg (fun h => ne_lit c1 (by decide) h), if_neg (fun h => ne_lit c1 (by decide) h), if_neg (fun h => ne_lit c1 (by decide) h), if_neg (fun h => ne_lit c1 (by decide) h), if_neg (fun h => ne_lit c1 (by decide) h), if_neg (fun h => ne_lit c1 (by decide) h), if_neg (fun h => ne_lit c1 (by decide) h), if_neg (fun h => ne_lit c1 (by decide) h), if_neg (fun h => ne_lit c1 (by decide) h), if_neg (fun h => ne_lit c1 (by decide) h.1), if_neg (fun h => ne_lit c1 (by decide) h.1), if_neg (fun h => ne_lit c1 (by decide) h), if_neg (fun h => ne_lit c1 (by decide) h), if_neg (fun h => ne_lit c1 (by decide) h)]
  rw [c2]
  show row w.toNat [(21, 1, .d), (0, 16, .imm)] (.vfenceRel (fld w.toNat 16 5)) = _
  rw [g0]
  exact row_ok _ _ _ hw (List.forall_mem_cons.2 ⟨z0, List.forall_mem_cons.2 ⟨z1, fun _ h => nomatch h⟩⟩)

theorem vfenceAcq : ∀ vo, Statement (.vfenceAcq vo) := by
  intro vo
  refine encodes_of _ .vector [⟨16, 5, vo⟩] 0xda400000 rfl rfl rfl rfl rfl fun hw w hn => ?_
  have ha : apart [⟨16, 5, vo⟩] 0xda400000 = true := rfl
  have g0 := fld_val _ _ 0 16 5 vo ha rfl
  have c0 : _ / 2 ^ 30 = 0x3 := val_below _ _ 30 ha rfl
  have c1 : _ / 2 ^ 24 % 2 ^ 8 = 0xda := val_clear _ _ 24 8 ha rfl
  have c2 : _ / 2 ^ 22 % 2 ^ 10 = 0x369 := val_clear _ _ 22 10 ha rfl
  have z0 : _ / 2 ^ 21 % 2 ^ 1 = 0 := val_clear _ _ 21 1 ha rfl
  have z1 : _ / 2 ^ 0 % 2 ^ 16 = 0 := val_clear _ _ 0 16 ha rfl
  rw [← hn] at g0 c0 c1 c2 z0 z1
  show decodeVector w = _
  delta decodeVector
  dsimp only
  rw [c0]
  show decodeVector3 w.toNat = _
  delta decodeVector3
  rw [if_neg (fun h => ne_lit c1 (by decide) h), if_neg (fun h => ne_lit c1 (by decide) h), if_neg (fun h => ne_lit c1 (by decide) h), if_neg (fun h => ne_lit c1 (by decide) h), if_neg (fun h => ne_lit c1 (by decide) h), if_neg (fun h => ne_lit c1 (by decide) h), if_neg (fun h => ne_lit c1 (by decide) h), if_neg (fun h => ne_lit c1 (by decide) h), if_neg (fun h => ne_lit c1 (by decide) h), if_neg (fun h => ne_lit c1 (by decide) h.1), if_neg (fun h => ne_lit c1 (by decide) h.1), if_neg (fun h => ne_lit c1 (by decide) h), if_neg (fun h => ne_lit c1 (by decide) h), if_neg (fun h => ne_lit c1 (by decide) h), if_neg (fun h => ne_lit c2 (by decide) h)]
  rw [c2]
  show row w.toNat [(21, 1, .d), (0, 16, .imm)] (.vfenceAcq (fld w.toNat 16 5)) = _
  rw [g0]
  exact row_ok _ _ _ hw (List.forall_mem_cons.2 ⟨z0, List.forall_mem_cons.2 ⟨z1, fun _ h => nomatch h⟩⟩)

theorem vfenceFull : ∀ vo, Statement (.vfenceFull vo) := by
  intro vo
  refine encodes_of _ .vector [⟨16, 5, vo⟩] 0xda800000 rfl rfl rfl rfl rfl fun hw w hn => ?_
  have ha : apart [⟨16, 5, vo⟩] 0xda800000 = true := rfl
  have g0 := fld_val _ _ 0 16 5 vo ha rfl
  have c0 : _ / 2 ^ 30 = 0x3 := val_below _ _ 30 ha rfl
  have c1 : _ / 2 ^ 24 % 2 ^ 8 = 0xda := val_clear _ _ 24 8 ha rfl
  have c2 : _ / 2 ^ 22 % 2 ^ 10 = 0x36a := val_clear _ _ 22 10 ha rfl
  have z0 : _ / 2 ^ 21 % 2 ^ 1 = 0 := val_clear _ _ 21 1 ha rfl
  have z1 : _ / 2 ^ 0 % 2 ^ 16 = 0 := val_clear _ _ 0 16 ha rfl
  rw [← hn] at g0 c0 c1 c2 z0 z1
  show decodeVector w = _
  delta decodeVector
  dsimp only
  rw [c0]
  show decodeVector3 w.toNat = _
  delta decodeVector3
  rw [if_neg (fun h => ne_lit c1 (by decide) h), if_neg (fun h => ne_lit c1 (by decide) h), if_neg (fun h => ne_lit c1 (by decide) h), if_neg (fun h => ne_lit c1 (by decide) h), if_neg (fun h => ne_lit c1 (by decide) h), if_neg (fun h => ne_lit c1 (by decide) h), if_neg (fun h => ne_lit c1 (by decide) h), if_neg (fun h => ne_lit c1 (by decide) h), if_neg (fun h => ne_lit c1 (by decide) h), if_neg (fun h => ne_lit c1 (by decide) h.1), if_neg (fun h => ne_lit c1 (by decide) h.1), if_neg (fun h => ne_lit c1 (by decide) h), if_neg (fun h => ne_lit c1 (by decide) h), if_neg (fun h => ne_lit c1 (by decide) h), if_neg (fun h => ne_lit c2 (by decide) h), if_neg (fun h => ne_lit c2 (by decide) h)]
  rw [c2]
  show row w.toNat [(21, 1, .d), (0, 16, .imm)] (.vfenceFull (fld w.toNat 16 5)) = _
  rw [g0]
  exact row_ok _ _ _ hw (List.forall_mem_cons.2 ⟨z0, List.forall_mem_cons.2 ⟨z1, fun _ h => nomatch h⟩⟩)

theorem vfenceX : Statement .vfenceX := by
  refine encodes_of _ .vector [] 0xdac00000 rfl rfl rfl rfl rfl fun hw w hn => ?_
  have ha : apart [] 0xdac00000 = true := rfl
  have c0 : _ / 2 ^ 30 = 0x3 := val_below _ _ 30 ha rfl
  have c1 : _ / 2 ^ 24 % 2 ^ 8 = 0xda := val_clear _ _ 24 8 ha rfl
  have c2 : _ / 2 ^ 19 % 2 ^ 1 = 0x0 := val_clear _ _ 19 1 ha rfl
  have c3 : _ / 2 ^ 22 % 2 ^ 10 = 0x36b := val_clear _ _ 22 10 ha rfl
  have z0 : _ / 2 ^ 20 % 2 ^ 2 = 0 := val_clear _ _ 20 2 ha rfl
  have z1 : _ / 2 ^ 16 % 2 ^ 4 = 0 := val_clear _ _ 16 4 ha rfl
  have z2 : _ / 2 ^ 0 % 2 ^ 16 = 0 := val_clear _ _ 0 16 ha rfl
  rw [← hn] at c0 c1 c2 c3 z0 z1 z2
  show decodeVector w = _
  delta decodeVector
  dsimp only
  rw [c0]
  show decodeVector3 w.toNat = _
  delta decodeVector3
  rw [c1, c2, c3]
  show row w.toNat [(20, 2, .d), (16, 4, .a), (0, 16, .imm)] .vfenceX = _
  exact row_ok _ _ _ hw (List.forall_mem_cons.2 ⟨z0, List.forall_mem_cons.2 ⟨z1, List.forall_mem_cons.2 ⟨z2, fun _ h => nomatch h⟩⟩⟩)

theorem vmfsr : ∀ vd vn vr, Statement (.vmfsr vd vn vr) := by
  intro vd vn vr
  refine encodes_of _ .vector [⟨20, 4, vd⟩, ⟨15, 1, vn⟩, ⟨0, 12, vr⟩] 0xdb000000 rfl rfl rfl rfl rfl fun hw w hn => ?_
  have ha : apart [⟨20, 4, vd⟩, ⟨15, 1, vn⟩, ⟨0, 12, vr⟩] 0xdb000000 = true := rfl
  have g0 := fld_val _ _ 0 20 4 vd ha rfl
  have g1 := fld_val _ _ 1 15 1 vn ha rfl
  have g2 := fld_val _ _ 2 0 12 vr ha rfl
  have c0 : _ / 2 ^ 30 = 0x3 := val_below _ _ 30 ha rfl
  have c1 : _ / 2 ^ 24 % 2 ^ 8 = 0xdb := val_clear _ _ 24 8 ha rfl
  have z0 : _ / 2 ^ 16 % 2 ^ 4 = 0 := val_clear _ _ 16 4 ha rfl
  have z1 : _ / 2 ^ 12 % 2 ^ 3 = 0 := val_clear _ _ 12 3 ha rfl
  rw [← hn] at g0 g1 g2 c0 c1 z0 z1
  show decodeVector w = _
  delta decodeVector
  dsimp only
  rw [c0]
  show decodeVector3 w.toNat = _
  delta decodeVector3
  rw [if_neg (fun h => ne_lit c1 (by decide) h), if_neg (fun h => ne_lit c1 (by decide) h), if_neg (fun h => ne_lit c1 (by decide) h), if_neg (fun h => ne_lit c1 (by decide) h), if_neg (fun h => ne_lit c1 (by decide) h), if_neg (fun h => ne_lit c1 (by decide) h), if_neg (fun h => ne_lit c1 (by decide) h), if_neg (fun h => ne_lit c1 (by decide) h), if_neg (fun h => ne_lit c1 (by decide) h), if_neg (fun h => ne_lit c1 (by decide) h.1), if_neg (fun h => ne_lit c1 (by decide) h.1), if_neg (fun h => ne_lit c1 (by decide) h), if_neg (fun h => ne_lit c1 (by decide) h), if_neg (fun h => ne_lit c1 (by decide) h), if_neg (fun h => ne_sub 22 10 2 8 0x368 c1 (by decide) (by decide) h), if_neg (fun h => ne_sub 22 10 2 8 0x369 c1 (by decide) (by decide) h), if_neg (fun h => ne_sub 22 10 2 8 0x36a c1 (by decide) (by decide) h), if_neg (fun h => ne_sub 22 10 2 8 0x36b c1 (by decide) (by decide) h)]
  rw [c1]
  show row w.toNat [(16, 4, .a), (12, 3, .imm)] (.vmfsr (fld w.toNat 20 4) (fld w.toNat 15 1) (fld w.toNat 0 12)) = _
  rw [g0, g1, g2]
  exact row_ok _ _ _ hw (List.forall_mem_cons.2 ⟨z0, List.forall_mem_cons.2 ⟨z1, fun _ h => nomatch h⟩⟩)

theorem vmtsr : ∀ vs vn vr, Statement (.vmtsr vs vn vr) := by
  intro vs vn vr
  refine encodes_of _ .vector [⟨16, 4, vs⟩, ⟨15, 1, vn⟩, ⟨0, 12, vr⟩] 0xdc000000 rfl rfl rfl rfl rfl fun hw w hn => ?_
  have ha : apart [⟨16, 4, vs⟩, ⟨15, 1, vn⟩, ⟨0, 12, vr⟩] 0xdc000000 = true := rfl
  have g0 := fld_val _ _ 0 16 4 vs ha rfl
  have g1 := fld_val _ _ 1 15 1 vn ha rfl
  have g2 := fld_val _ _ 2 0 12 vr ha rfl
  have c0 : _ / 2 ^ 30 = 0x3 := val_below _ _ 30 ha rfl
  have c1 : _ / 2 ^ 24 % 2 ^ 8 = 0xdc := val_clear _ _ 24 8 ha rfl
  have c2 : _ / 2 ^ 22 % 2 ^ 10 = 0x370 := val_clear _ _ 22 10 ha rfl
  have z0 : _ / 2 ^ 20 % 2 ^ 4 = 0 := val_clear _ _ 20 4 ha rfl
  have z1 : _ / 2 ^ 12 % 2 ^ 3 = 0 := val_clear _ _ 12 3 ha rfl
  rw [← hn] at g0 g1 g2 c0 c1 c2 z0 z1
  show decodeVector w = _
  delta decodeVector
  dsimp only
  rw [c0]
  show decodeVector3 w.toNat = _
  delta decodeVector3
  rw [if_neg (fun h => ne_lit c1 (by decide) h), if_neg (fun h => ne_lit c1 (by decide) h), if_neg (fun h => ne_lit c1 (by decide) h), if_neg (fun h => ne_lit c1 (by decide) h), if_neg (fun h => ne_lit c1 (by decide) h), if_neg (fun h => ne_lit c1 (by decide) h), if_neg (fun h => ne_lit c1 (by decide) h), if_neg (fun h => ne_lit c1 (by decide) h), if_neg (fun h => ne_lit c1 (by decide) h), if_neg (fun h => ne_lit c1 (by decide) h.1), if_neg (fun h => ne_lit c1 (by decide) h.1), if_neg (fun h => ne_lit c1 (by decide) h), if_neg (fun h => ne_lit c1 (by decide) h), if_neg (fun h => ne_lit c1 (by decide) h), if_neg (fun h => ne_lit c2 (by decide) h), if_neg (fun h => ne_lit c2 (by decide) h), if_neg (fun h => ne_lit c2 (by decide) h), if_neg (fun h => ne_lit c2 (by decide) h), if_neg (fun h => ne_lit c1 (by decide) h)]
  rw [c1]
  show row w.toNat [(20, 4, .d), (12, 3, .imm)] (.vmtsr (fld w.toNat 16 4) (fld w.toNat 15 1) (fld w.toNat 0 12)) = _
  rw [g0, g1, g2]
  exact row_ok _ _ _ hw (List.forall_mem_cons.2 ⟨z0, List.forall_mem_cons.2 ⟨z1, fun _ h => nomatch h⟩⟩)

theorem vloop : ∀ vd vi, Statement (.vloop vd vi) := by
  intro vd vi
  refine encodes_of _ .vector [⟨20, 4, vd⟩, ⟨0, 16, vi⟩] 0xe0000000 rfl rfl rfl rfl rfl fun hw w hn => ?_
  have ha : apart [⟨20, 4, vd⟩, ⟨0, 16, vi⟩] 0xe0000000 = true := rfl
  have g0 := fld_val _ _ 0 20 4 vd ha rfl
  have g1 := fld_val _ _ 1 0 16 vi ha rfl
  have c0 : _ / 2 ^ 30 = 0x3 := val_below _ _ 30 ha rfl
  have c1 : _ / 2 ^ 24 % 2 ^ 8 = 0xe0 := val_clear _ _ 24 8 ha rfl
  have z0 : _ / 2 ^ 16 % 2 ^ 4 = 0 := val_clear _ _ 16 4 ha rfl
  rw [← hn] at g0 g1 c0 c1 z0
  show decodeVector w = _
  delta decodeVector
  dsimp only
  rw [c0]
  show decodeVector3 w.toNat = _
  delta decodeVector3
  rw [if_neg (fun h => ne_lit c1 (by decide) h), if_neg (fun h => ne_lit c1 (by decide) h), if_neg (fun h => ne_lit c1 (by decide) h), if_neg (fun h => ne_lit c1 (by decide) h), if_neg (fun h => ne_lit c1 (by decide) h), if_neg (fun h => ne_lit c1 (by decide) h), if_neg (fun h => ne_lit c1 (by decide) h), if_neg (fun h => ne_lit c1 (by decide) h), if_neg (fun h => ne_lit c1 (by decide) h), if_neg (fun h => ne_lit c1 (by decide) h.1), if_neg (fun h => ne_lit c1 (by decide) h.1), if_neg (fun h => ne_lit c1 (by decide) h), if_neg (fun h => ne_lit c1 (by decide) h), if_neg (fun h => ne_lit c1 (by decide) h), if_neg (fun h => ne_sub 22 10 2 8 0x368 c1 (by decide) (by decide) h), if_neg (fun h => ne_sub 22 10 2 8 0x369 c1 (by decide) (by decide) h), if_neg (fun h => ne_sub 22 10 2 8 0x36a c1 (by decide) (by decide) h), if_neg (fun h => ne_sub 22 10 2 8 0x36b c1 (by decide) (by decide) h), if_neg (fun h => ne_lit c1 (by decide) h), if_neg (fun h => ne_lit c1 (by decide) h)]
  rw [c1]
  show row w.toNat [(16, 4, .a)] (.vloop (fld w.toNat 20 4) (fld w.toNat 0 16)) = _
  rw [g0, g1]
  exact row_ok _ _ _ hw (List.forall_mem_cons.2 ⟨z0, fun _ h => nomatch h⟩)

theorem vbnz : ∀ vs vi, Statement (.vbnz vs vi) := by
  intro vs vi
  refine encodes_of _ .vector [⟨16, 4, vs⟩, ⟨0, 16, vi⟩] 0xe1000000 rfl rfl rfl rfl rfl fun hw w hn => ?_
  have ha : apart [⟨16, 4, vs⟩, ⟨0, 16, vi⟩] 0xe1000000 = true := rfl
  have g0 := fld_val _ _ 0 16 4 vs ha rfl
  have g1 := fld_val _ _ 1 0 16 vi ha rfl
  have c0 : _ / 2 ^ 30 = 0x3 := val_below _ _ 30 ha rfl
  have c1 : _ / 2 ^ 24 % 2 ^ 8 = 0xe1 := val_clear _ _ 24 8 ha rfl
  have c2 : _ / 2 ^ 22 % 2 ^ 10 = 0x384 := val_clear _ _ 22 10 ha rfl
  have z0 : _ / 2 ^ 20 % 2 ^ 4 = 0 := val_clear _ _ 20 4 ha rfl
  rw [← hn] at g0 g1 c0 c1 c2 z0
  show decodeVector w = _
  delta decodeVector
  dsimp only
  rw [c0]
  show decodeVector3 w.toNat = _
  delta decodeVector3
  rw [if_neg (fun h => ne_lit c1 (by decide) h), if_neg (fun h => ne_lit c1 (by decide) h), if_neg (fun h => ne_lit c1 (by decide) h), if_neg (fun h => ne_lit c1 (by decide) h), if_neg (fun h => ne_lit c1 (by decide) h), if_neg (fun h => ne_lit c1 (by decide) h), if_neg (fun h => ne_lit c1 (by decide) h), if_neg (fun h => ne_lit c1 (by decide) h), if_neg (fun h => ne_lit c1 (by decide) h), if_neg (fun h => ne_lit c1 (by decide) h.1), if_neg (fun h => ne_lit c1 (by decide) h.1), if_neg (fun h => ne_lit c1 (by decide) h), if_neg (fun h => ne_lit c1 (by decide) h), if_neg (fun h => ne_lit c1 (by decide) h), if_neg (fun h => ne_lit c2 (by decide) h), if_neg (fun h => ne_lit c2 (by decide) h), if_neg (fun h => ne_lit c2 (by decide) h), if_neg (fun h => ne_lit c2 (by decide) h), if_neg (fun h => ne_lit c1 (by decide) h), if_neg (fun h => ne_lit c1 (by decide) h), if_neg (fun h => ne_lit c1 (by decide) h)]
  rw [c1]
  show row w.toNat [(20, 4, .d)] (.vbnz (fld w.toNat 16 4) (fld w.toNat 0 16)) = _
  rw [g0, g1]
  exact row_ok _ _ _ hw (List.forall_mem_cons.2 ⟨z0, fun _ h => nomatch h⟩)

theorem vjmp : ∀ vi, Statement (.vjmp vi) := by
  intro vi
  refine encodes_of _ .vector [⟨0, 16, vi⟩] 0xe2000000 rfl rfl rfl rfl rfl fun hw w hn => ?_
  have ha : apart [⟨0, 16, vi⟩] 0xe2000000 = true := rfl
  have g0 := fld_val _ _ 0 0 16 vi ha rfl
  have c0 : _ / 2 ^ 30 = 0x3 := val_below _ _ 30 ha rfl
  have c1 : _ / 2 ^ 24 % 2 ^ 8 = 0xe2 := val_clear _ _ 24 8 ha rfl
  have c2 : _ / 2 ^ 19 % 2 ^ 1 = 0x0 := val_clear _ _ 19 1 ha rfl
  have c3 : _ / 2 ^ 22 % 2 ^ 10 = 0x388 := val_clear _ _ 22 10 ha rfl
  have z0 : _ / 2 ^ 20 % 2 ^ 4 = 0 := val_clear _ _ 20 4 ha rfl
  have z1 : _ / 2 ^ 16 % 2 ^ 4 = 0 := val_clear _ _ 16 4 ha rfl
  rw [← hn] at g0 c0 c1 c2 c3 z0 z1
  show decodeVector w = _
  delta decodeVector
  dsimp only
  rw [c0]
  show decodeVector3 w.toNat = _
  delta decodeVector3
  rw [c1, c2, c3]
  show row w.toNat [(20, 4, .d), (16, 4, .a)] (.vjmp (fld w.toNat 0 16)) = _
  rw [g0]
  exact row_ok _ _ _ hw (List.forall_mem_cons.2 ⟨z0, List.forall_mem_cons.2 ⟨z1, fun _ h => nomatch h⟩⟩)

theorem anop : Statement .anop := by
  refine encodes_of _ .access [] 0x0 rfl rfl rfl rfl rfl fun hw w hn => ?_
  have ha : apart [] 0x0 = true := rfl
  have c0 : _ / 2 ^ 26 % 2 ^ 6 = 0x0 := val_clear _ _ 26 6 ha rfl
  have z0 : _ / 2 ^ 22 % 2 ^ 4 = 0 := val_clear _ _ 22 4 ha rfl
  have z1 : _ / 2 ^ 18 % 2 ^ 4 = 0 := val_clear _ _ 18 4 ha rfl
  have z2 : _ / 2 ^ 0 % 2 ^ 18 = 0 := val_clear _ _ 0 18 ha rfl
  rw [← hn] at c0 z0 z1 z2
  show decodeAccessNat w.toNat = _
  delta decodeAccessNat
  rw [c0]
  show row w.toNat [(22, 4, .d), (18, 4, .b), (0, 18, .imm)] .anop = _
  exact row_ok _ _ _ hw (List.forall_mem_cons.2 ⟨z0, List.forall_mem_cons.2 ⟨z1, List.forall_mem_cons.2 ⟨z2, fun _ h => nomatch h⟩⟩⟩)

theorem ldq : ∀ vq vb vi vp vk vo, Statement (.ldq vq vb vi vp vk vo) := by
  intro vq vb vi vp vk vo
  refine encodes_of _ .access [⟨22, 4, vq⟩, ⟨18, 4, vb⟩, ⟨14, 4, vi⟩, ⟨13, 1, vp⟩, ⟨12, 1, vk⟩, ⟨0, 12, vo⟩] 0x4000000 rfl rfl rfl rfl rfl fun hw w hn => ?_
  have ha : apart [⟨22, 4, vq⟩, ⟨18, 4, vb⟩, ⟨14, 4, vi⟩, ⟨13, 1, vp⟩, ⟨12, 1, vk⟩, ⟨0, 12, vo⟩] 0x4000000 = true := rfl
  have g0 := fld_val _ _ 0 22 4 vq ha rfl
  have g1 := fld_val _ _ 1 18 4 vb ha rfl
  have g2 := fld_val _ _ 2 14 4 vi ha rfl
  have g3 := fld_val _ _ 3 13 1 vp ha rfl
  have g4 := fld_val _ _ 4 12 1 vk ha rfl
  have g5 := fld_val _ _ 5 0 12 vo ha rfl
  have c0 : _ / 2 ^ 26 % 2 ^ 6 = 0x1 := val_clear _ _ 26 6 ha rfl
  rw [← hn] at g0 g1 g2 g3 g4 g5 c0
  show decodeAccessNat w.toNat = _
  delta decodeAccessNat
  rw [c0]
  show row w.toNat [] (.ldq (fld w.toNat 22 4) (fld w.toNat 18 4) (fld w.toNat 14 4) (fld w.toNat 13 1) (fld w.toNat 12 1) (fld w.toNat 0 12)) = _
  rw [g0, g1, g2, g3, g4, g5]
  exact row_ok _ _ _ hw (fun _ h => nomatch h)

theorem stq : ∀ vq vb vi vp vk vo, Statement (.stq vq vb vi vp vk vo) := by
  intro vq vb vi vp vk vo
  refine encodes_of _ .access [⟨22, 4, vq⟩, ⟨18, 4, vb⟩, ⟨14, 4, vi⟩, ⟨13, 1, vp⟩, ⟨12, 1, vk⟩, ⟨0, 12, vo⟩] 0x8000000 rfl rfl rfl rfl rfl fun hw w hn => ?_
  have ha : apart [⟨22, 4, vq⟩, ⟨18, 4, vb⟩, ⟨14, 4, vi⟩, ⟨13, 1, vp⟩, ⟨12, 1, vk⟩, ⟨0, 12, vo⟩] 0x8000000 = true := rfl
  have g0 := fld_val _ _ 0 22 4 vq ha rfl
  have g1 := fld_val _ _ 1 18 4 vb ha rfl
  have g2 := fld_val _ _ 2 14 4 vi ha rfl
  have g3 := fld_val _ _ 3 13 1 vp ha rfl
  have g4 := fld_val _ _ 4 12 1 vk ha rfl
  have g5 := fld_val _ _ 5 0 12 vo ha rfl
  have c0 : _ / 2 ^ 26 % 2 ^ 6 = 0x2 := val_clear _ _ 26 6 ha rfl
  rw [← hn] at g0 g1 g2 g3 g4 g5 c0
  show decodeAccessNat w.toNat = _
  delta decodeAccessNat
  rw [c0]
  show row w.toNat [] (.stq (fld w.toNat 22 4) (fld w.toNat 18 4) (fld w.toNat 14 4) (fld w.toNat 13 1) (fld w.toNat 12 1) (fld w.toNat 0 12)) = _
  rw [g0, g1, g2, g3, g4, g5]
  exact row_ok _ _ _ hw (fun _ h => nomatch h)

theorem pref : ∀ vb vi vp vk vo, Statement (.pref vb vi vp vk vo) := by
  intro vb vi vp vk vo
  refine encodes_of _ .access [⟨18, 4, vb⟩, ⟨14, 4, vi⟩, ⟨13, 1, vp⟩, ⟨12, 1, vk⟩, ⟨0, 12, vo⟩] 0xc000000 rfl rfl rfl rfl rfl fun hw w hn => ?_
  have ha : apart [⟨18, 4, vb⟩, ⟨14, 4, vi⟩, ⟨13, 1, vp⟩, ⟨12, 1, vk⟩, ⟨0, 12, vo⟩] 0xc000000 = true := rfl
  have g0 := fld_val _ _ 0 18 4 vb ha rfl
  have g1 := fld_val _ _ 1 14 4 vi ha rfl
  have g2 := fld_val _ _ 2 13 1 vp ha rfl
  have g3 := fld_val _ _ 3 12 1 vk ha rfl
  have g4 := fld_val _ _ 4 0 12 vo ha rfl
  have c0 : _ / 2 ^ 26 % 2 ^ 6 = 0x3 := val_clear _ _ 26 6 ha rfl
  have z0 : _ / 2 ^ 22 % 2 ^ 4 = 0 := val_clear _ _ 22 4 ha rfl
  rw [← hn] at g0 g1 g2 g3 g4 c0 z0
  show decodeAccessNat w.toNat = _
  delta decodeAccessNat
  rw [c0]
  show row w.toNat [(22, 4, .d)] (.pref (fld w.toNat 18 4) (fld w.toNat 14 4) (fld w.toNat 13 1) (fld w.toNat 12 1) (fld w.toNat 0 12)) = _
  rw [g0, g1, g2, g3, g4]
  exact row_ok _ _ _ hw (List.forall_mem_cons.2 ⟨z0, fun _ h => nomatch h⟩)

theorem ald : ∀ vd vb vi vp vk vo, Statement (.ald vd vb vi vp vk vo) := by
  intro vd vb vi vp vk vo
  refine encodes_of _ .access [⟨22, 4, vd⟩, ⟨18, 4, vb⟩, ⟨14, 4, vi⟩, ⟨13, 1, vp⟩, ⟨12, 1, vk⟩, ⟨0, 12, vo⟩] 0x10000000 rfl rfl rfl rfl rfl fun hw w hn => ?_
  have ha : apart [⟨22, 4, vd⟩, ⟨18, 4, vb⟩, ⟨14, 4, vi⟩, ⟨13, 1, vp⟩, ⟨12, 1, vk⟩, ⟨0, 12, vo⟩] 0x10000000 = true := rfl
  have g0 := fld_val _ _ 0 22 4 vd ha rfl
  have g1 := fld_val _ _ 1 18 4 vb ha rfl
  have g2 := fld_val _ _ 2 14 4 vi ha rfl
  have g3 := fld_val _ _ 3 13 1 vp ha rfl
  have g4 := fld_val _ _ 4 12 1 vk ha rfl
  have g5 := fld_val _ _ 5 0 12 vo ha rfl
  have c0 : _ / 2 ^ 26 % 2 ^ 6 = 0x4 := val_clear _ _ 26 6 ha rfl
  rw [← hn] at g0 g1 g2 g3 g4 g5 c0
  show decodeAccessNat w.toNat = _
  delta decodeAccessNat
  rw [c0]
  show row w.toNat [] (.ald (fld w.toNat 22 4) (fld w.toNat 18 4) (fld w.toNat 14 4) (fld w.toNat 13 1) (fld w.toNat 12 1) (fld w.toNat 0 12)) = _
  rw [g0, g1, g2, g3, g4, g5]
  exact row_ok _ _ _ hw (fun _ h => nomatch h)

theorem aaddi : ∀ vd vb vi, Statement (.aaddi vd vb vi) := by
  intro vd vb vi
  refine encodes_of _ .access [⟨22, 4, vd⟩, ⟨18, 4, vb⟩, ⟨0, 18, vi⟩] 0x20000000 rfl rfl rfl rfl rfl fun hw w hn => ?_
  have ha : apart [⟨22, 4, vd⟩, ⟨18, 4, vb⟩, ⟨0, 18, vi⟩] 0x20000000 = true := rfl
  have g0 := fld_val _ _ 0 22 4 vd ha rfl
  have g1 := fld_val _ _ 1 18 4 vb ha rfl
  have g2 := fld_val _ _ 2 0 18 vi ha rfl
  have c0 : _ / 2 ^ 26 % 2 ^ 6 = 0x8 := val_clear _ _ 26 6 ha rfl
  rw [← hn] at g0 g1 g2 c0
  show decodeAccessNat w.toNat = _
  delta decodeAccessNat
  rw [c0]
  show row w.toNat [] (.aaddi (fld w.toNat 22 4) (fld w.toNat 18 4) (fld w.toNat 0 18)) = _
  rw [g0, g1, g2]
  exact row_ok _ _ _ hw (fun _ h => nomatch h)

theorem aadd : ∀ vd vb vi, Statement (.aadd vd vb vi) := by
  intro vd vb vi
  refine encodes_of _ .access [⟨22, 4, vd⟩, ⟨18, 4, vb⟩, ⟨14, 4, vi⟩] 0x24000000 rfl rfl rfl rfl rfl fun hw w hn => ?_
  have ha : apart [⟨22, 4, vd⟩, ⟨18, 4, vb⟩, ⟨14, 4, vi⟩] 0x24000000 = true := rfl
  have g0 := fld_val _ _ 0 22 4 vd ha rfl
  have g1 := fld_val _ _ 1 18 4 vb ha rfl
  have g2 := fld_val _ _ 2 14 4 vi ha rfl
  have c0 : _ / 2 ^ 26 % 2 ^ 6 = 0x9 := val_clear _ _ 26 6 ha rfl
  have z0 : _ / 2 ^ 0 % 2 ^ 14 = 0 := val_clear _ _ 0 14 ha rfl
  rw [← hn] at g0 g1 g2 c0 z0
  show decodeAccessNat w.toNat = _
  delta decodeAccessNat
  rw [c0]
  show row w.toNat [(0, 14, .imm)] (.aadd (fld w.toNat 22 4) (fld w.toNat 18 4) (fld w.toNat 14 4)) = _
  rw [g0, g1, g2]
  exact row_ok _ _ _ hw (List.forall_mem_cons.2 ⟨z0, fun _ h => nomatch h⟩)

theorem asub : ∀ vd vb vi, Statement (.asub vd vb vi) := by
  intro vd vb vi
  refine encodes_of _ .access [⟨22, 4, vd⟩, ⟨18, 4, vb⟩, ⟨14, 4, vi⟩] 0x28000000 rfl rfl rfl rfl rfl fun hw w hn => ?_
  have ha : apart [⟨22, 4, vd⟩, ⟨18, 4, vb⟩, ⟨14, 4, vi⟩] 0x28000000 = true := rfl
  have g0 := fld_val _ _ 0 22 4 vd ha rfl
  have g1 := fld_val _ _ 1 18 4 vb ha rfl
  have g2 := fld_val _ _ 2 14 4 vi ha rfl
  have c0 : _ / 2 ^ 26 % 2 ^ 6 = 0xa := val_clear _ _ 26 6 ha rfl
  have z0 : _ / 2 ^ 0 % 2 ^ 14 = 0 := val_clear _ _ 0 14 ha rfl
  rw [← hn] at g0 g1 g2 c0 z0
  show decodeAccessNat w.toNat = _
  delta decodeAccessNat
  rw [c0]
  show row w.toNat [(0, 14, .imm)] (.asub (fld w.toNat 22 4) (fld w.toNat 18 4) (fld w.toNat 14 4)) = _
  rw [g0, g1, g2]
  exact row_ok _ _ _ hw (List.forall_mem_cons.2 ⟨z0, fun _ h => nomatch h⟩)

theorem aslli : ∀ vd vb vn, Statement (.aslli vd vb vn) := by
  intro vd vb vn
  refine encodes_of _ .access [⟨22, 4, vd⟩, ⟨18, 4, vb⟩, ⟨0, 6, vn⟩] 0x2c000000 rfl rfl rfl rfl rfl fun hw w hn => ?_
  have ha : apart [⟨22, 4, vd⟩, ⟨18, 4, vb⟩, ⟨0, 6, vn⟩] 0x2c000000 = true := rfl
  have g0 := fld_val _ _ 0 22 4 vd ha rfl
  have g1 := fld_val _ _ 1 18 4 vb ha rfl
  have g2 := fld_val _ _ 2 0 6 vn ha rfl
  have c0 : _ / 2 ^ 26 % 2 ^ 6 = 0xb := val_clear _ _ 26 6 ha rfl
  have z0 : _ / 2 ^ 6 % 2 ^ 12 = 0 := val_clear _ _ 6 12 ha rfl
  rw [← hn] at g0 g1 g2 c0 z0
  show decodeAccessNat w.toNat = _
  delta decodeAccessNat
  rw [c0]
  show row w.toNat [(6, 12, .imm)] (.aslli (fld w.toNat 22 4) (fld w.toNat 18 4) (fld w.toNat 0 6)) = _
  rw [g0, g1, g2]
  exact row_ok _ _ _ hw (List.forall_mem_cons.2 ⟨z0, fun _ h => nomatch h⟩)

theorem aseth : ∀ vd vi, Statement (.aseth vd vi) := by
  intro vd vi
  refine encodes_of _ .access [⟨22, 4, vd⟩, ⟨0, 18, vi⟩] 0x30000000 rfl rfl rfl rfl rfl fun hw w hn => ?_
  have ha : apart [⟨22, 4, vd⟩, ⟨0, 18, vi⟩] 0x30000000 = true := rfl
  have g0 := fld_val _ _ 0 22 4 vd ha rfl
  have g1 := fld_val _ _ 1 0 18 vi ha rfl
  have c0 : _ / 2 ^ 26 % 2 ^ 6 = 0xc := val_clear _ _ 26 6 ha rfl
  have z0 : _ / 2 ^ 18 % 2 ^ 4 = 0 := val_clear _ _ 18 4 ha rfl
  rw [← hn] at g0 g1 c0 z0
  show decodeAccessNat w.toNat = _
  delta decodeAccessNat
  rw [c0]
  show row w.toNat [(18, 4, .b)] (.aseth (fld w.toNat 22 4) (fld w.toNat 0 18)) = _
  rw [g0, g1]
  exact row_ok _ _ _ hw (List.forall_mem_cons.2 ⟨z0, fun _ h => nomatch h⟩)

theorem aandi : ∀ vd vb vi, Statement (.aandi vd vb vi) := by
  intro vd vb vi
  refine encodes_of _ .access [⟨22, 4, vd⟩, ⟨18, 4, vb⟩, ⟨0, 18, vi⟩] 0x34000000 rfl rfl rfl rfl rfl fun hw w hn => ?_
  have ha : apart [⟨22, 4, vd⟩, ⟨18, 4, vb⟩, ⟨0, 18, vi⟩] 0x34000000 = true := rfl
  have g0 := fld_val _ _ 0 22 4 vd ha rfl
  have g1 := fld_val _ _ 1 18 4 vb ha rfl
  have g2 := fld_val _ _ 2 0 18 vi ha rfl
  have c0 : _ / 2 ^ 26 % 2 ^ 6 = 0xd := val_clear _ _ 26 6 ha rfl
  rw [← hn] at g0 g1 g2 c0
  show decodeAccessNat w.toNat = _
  delta decodeAccessNat
  rw [c0]
  show row w.toNat [] (.aandi (fld w.toNat 22 4) (fld w.toNat 18 4) (fld w.toNat 0 18)) = _
  rw [g0, g1, g2]
  exact row_ok _ _ _ hw (fun _ h => nomatch h)

theorem ajmp : ∀ vo, Statement (.ajmp vo) := by
  intro vo
  refine encodes_of _ .access [⟨0, 16, vo⟩] 0x40000000 rfl rfl rfl rfl rfl fun hw w hn => ?_
  have ha : apart [⟨0, 16, vo⟩] 0x40000000 = true := rfl
  have g0 := fld_val _ _ 0 0 16 vo ha rfl
  have c0 : _ / 2 ^ 26 % 2 ^ 6 = 0x10 := val_clear _ _ 26 6 ha rfl
  have z0 : _ / 2 ^ 22 % 2 ^ 4 = 0 := val_clear _ _ 22 4 ha rfl
  have z1 : _ / 2 ^ 16 % 2 ^ 6 = 0 := val_clear _ _ 16 6 ha rfl
  rw [← hn] at g0 c0 z0 z1
  show decodeAccessNat w.toNat = _
  delta decodeAccessNat
  rw [c0]
  show row w.toNat [(22, 4, .b), (16, 6, .imm)] (.ajmp (fld w.toNat 0 16)) = _
  rw [g0]
  exact row_ok _ _ _ hw (List.forall_mem_cons.2 ⟨z0, List.forall_mem_cons.2 ⟨z1, fun _ h => nomatch h⟩⟩)

theorem abnz : ∀ vb vo, Statement (.abnz vb vo) := by
  intro vb vo
  refine encodes_of _ .access [⟨22, 4, vb⟩, ⟨0, 16, vo⟩] 0x44000000 rfl rfl rfl rfl rfl fun hw w hn => ?_
  have ha : apart [⟨22, 4, vb⟩, ⟨0, 16, vo⟩] 0x44000000 = true := rfl
  have g0 := fld_val _ _ 0 22 4 vb ha rfl
  have g1 := fld_val _ _ 1 0 16 vo ha rfl
  have c0 : _ / 2 ^ 26 % 2 ^ 6 = 0x11 := val_clear _ _ 26 6 ha rfl
  have z0 : _ / 2 ^ 16 % 2 ^ 6 = 0 := val_clear _ _ 16 6 ha rfl
  rw [← hn] at g0 g1 c0 z0
  show decodeAccessNat w.toNat = _
  delta decodeAccessNat
  rw [c0]
  show row w.toNat [(16, 6, .imm)] (.abnz (fld w.toNat 22 4) (fld w.toNat 0 16)) = _
  rw [g0, g1]
  exact row_ok _ _ _ hw (List.forall_mem_cons.2 ⟨z0, fun _ h => nomatch h⟩)

theorem aloop : ∀ vb vo, Statement (.aloop vb vo) := by
  intro vb vo
  refine encodes_of _ .access [⟨22, 4, vb⟩, ⟨0, 16, vo⟩] 0x48000000 rfl rfl rfl rfl rfl fun hw w hn => ?_
  have ha : apart [⟨22, 4, vb⟩, ⟨0, 16, vo⟩] 0x48000000 = true := rfl
  have g0 := fld_val _ _ 0 22 4 vb ha rfl
  have g1 := fld_val _ _ 1 0 16 vo ha rfl
  have c0 : _ / 2 ^ 26 % 2 ^ 6 = 0x12 := val_clear _ _ 26 6 ha rfl
  have z0 : _ / 2 ^ 16 % 2 ^ 6 = 0 := val_clear _ _ 16 6 ha rfl
  rw [← hn] at g0 g1 c0 z0
  show decodeAccessNat w.toNat = _
  delta decodeAccessNat
  rw [c0]
  show row w.toNat [(16, 6, .imm)] (.aloop (fld w.toNat 22 4) (fld w.toNat 0 16)) = _
  rw [g0, g1]
  exact row_ok _ _ _ hw (List.forall_mem_cons.2 ⟨z0, fun _ h => nomatch h⟩)

theorem atsig : ∀ vk, Statement (.atsig vk) := by
  intro vk
  refine encodes_of _ .access [⟨22, 4, vk⟩] 0x60000000 rfl rfl rfl rfl rfl fun hw w hn => ?_
  have ha : apart [⟨22, 4, vk⟩] 0x60000000 = true := rfl
  have g0 := fld_val _ _ 0 22 4 vk ha rfl
  have c0 : _ / 2 ^ 26 % 2 ^ 6 = 0x18 := val_clear _ _ 26 6 ha rfl
  have z0 : _ / 2 ^ 0 % 2 ^ 22 = 0 := val_clear _ _ 0 22 ha rfl
  rw [← hn] at g0 c0 z0
  show decodeAccessNat w.toNat = _
  delta decodeAccessNat
  rw [c0]
  show row w.toNat [(0, 22, .imm)] (.atsig (fld w.toNat 22 4)) = _
  rw [g0]
  exact row_ok _ _ _ hw (List.forall_mem_cons.2 ⟨z0, fun _ h => nomatch h⟩)

theorem atwait : ∀ vk, Statement (.atwait vk) := by
  intro vk
  refine encodes_of _ .access [⟨22, 4, vk⟩] 0x64000000 rfl rfl rfl rfl rfl fun hw w hn => ?_
  have ha : apart [⟨22, 4, vk⟩] 0x64000000 = true := rfl
  have g0 := fld_val _ _ 0 22 4 vk ha rfl
  have c0 : _ / 2 ^ 26 % 2 ^ 6 = 0x19 := val_clear _ _ 26 6 ha rfl
  have z0 : _ / 2 ^ 0 % 2 ^ 22 = 0 := val_clear _ _ 0 22 ha rfl
  rw [← hn] at g0 c0 z0
  show decodeAccessNat w.toNat = _
  delta decodeAccessNat
  rw [c0]
  show row w.toNat [(0, 22, .imm)] (.atwait (fld w.toNat 22 4)) = _
  rw [g0]
  exact row_ok _ _ _ hw (List.forall_mem_cons.2 ⟨z0, fun _ h => nomatch h⟩)

theorem ahalt : Statement .ahalt := by
  refine encodes_of _ .access [] 0x68000000 rfl rfl rfl rfl rfl fun hw w hn => ?_
  have ha : apart [] 0x68000000 = true := rfl
  have c0 : _ / 2 ^ 26 % 2 ^ 6 = 0x1a := val_clear _ _ 26 6 ha rfl
  have z0 : _ / 2 ^ 22 % 2 ^ 4 = 0 := val_clear _ _ 22 4 ha rfl
  have z1 : _ / 2 ^ 18 % 2 ^ 4 = 0 := val_clear _ _ 18 4 ha rfl
  have z2 : _ / 2 ^ 0 % 2 ^ 18 = 0 := val_clear _ _ 0 18 ha rfl
  rw [← hn] at c0 z0 z1 z2
  show decodeAccessNat w.toNat = _
  delta decodeAccessNat
  rw [c0]
  show row w.toNat [(22, 4, .d), (18, 4, .b), (0, 18, .imm)] .ahalt = _
  exact row_ok _ _ _ hw (List.forall_mem_cons.2 ⟨z0, List.forall_mem_cons.2 ⟨z1, List.forall_mem_cons.2 ⟨z2, fun _ h => nomatch h⟩⟩⟩)

theorem afenceRel : ∀ vo, Statement (.afenceRel vo) := by
  intro vo
  refine encodes_of _ .access [⟨0, 5, vo⟩] 0x6c000000 rfl rfl rfl rfl rfl fun hw w hn => ?_
  have ha : apart [⟨0, 5, vo⟩] 0x6c000000 = true := rfl
  have g0 := fld_val _ _ 0 0 5 vo ha rfl
  have c0 : _ / 2 ^ 26 % 2 ^ 6 = 0x1b := val_clear _ _ 26 6 ha rfl
  have c1 : _ / 2 ^ 5 % 2 ^ 2 = 0x0 := val_clear _ _ 5 2 ha rfl
  have z0 : _ / 2 ^ 22 % 2 ^ 4 = 0 := val_clear _ _ 22 4 ha rfl
  have z1 : _ / 2 ^ 18 % 2 ^ 4 = 0 := val_clear _ _ 18 4 ha rfl
  have z2 : _ / 2 ^ 7 % 2 ^ 11 = 0 := val_clear _ _ 7 11 ha rfl
  rw [← hn] at g0 c0 c1 z0 z1 z2
  show decodeAccessNat w.toNat = _
  delta decodeAccessNat
  rw [c0, c1]
  show row w.toNat [(22, 4, .d), (18, 4, .b), (7, 11, .imm)] (.afenceRel (fld w.toNat 0 5)) = _
  rw [g0]
  exact row_ok _ _ _ hw (List.forall_mem_cons.2 ⟨z0, List.forall_mem_cons.2 ⟨z1, List.forall_mem_cons.2 ⟨z2, fun _ h => nomatch h⟩⟩⟩)

theorem afenceAcq : ∀ vo, Statement (.afenceAcq vo) := by
  intro vo
  refine encodes_of _ .access [⟨0, 5, vo⟩] 0x6c000020 rfl rfl rfl rfl rfl fun hw w hn => ?_
  have ha : apart [⟨0, 5, vo⟩] 0x6c000020 = true := rfl
  have g0 := fld_val _ _ 0 0 5 vo ha rfl
  have c0 : _ / 2 ^ 26 % 2 ^ 6 = 0x1b := val_clear _ _ 26 6 ha rfl
  have c1 : _ / 2 ^ 5 % 2 ^ 2 = 0x1 := val_clear _ _ 5 2 ha rfl
  have z0 : _ / 2 ^ 22 % 2 ^ 4 = 0 := val_clear _ _ 22 4 ha rfl
  have z1 : _ / 2 ^ 18 % 2 ^ 4 = 0 := val_clear _ _ 18 4 ha rfl
  have z2 : _ / 2 ^ 7 % 2 ^ 11 = 0 := val_clear _ _ 7 11 ha rfl
  rw [← hn] at g0 c0 c1 z0 z1 z2
  show decodeAccessNat w.toNat = _
  delta decodeAccessNat
  rw [c0, c1]
  show row w.toNat [(22, 4, .d), (18, 4, .b), (7, 11, .imm)] (.afenceAcq (fld w.toNat 0 5)) = _
  rw [g0]
  exact row_ok _ _ _ hw (List.forall_mem_cons.2 ⟨z0, List.forall_mem_cons.2 ⟨z1, List.forall_mem_cons.2 ⟨z2, fun _ h => nomatch h⟩⟩⟩)

theorem afenceFull : ∀ vo, Statement (.afenceFull vo) := by
  intro vo
  refine encodes_of _ .access [⟨0, 5, vo⟩] 0x6c000040 rfl rfl rfl rfl rfl fun hw w hn => ?_
  have ha : apart [⟨0, 5, vo⟩] 0x6c000040 = true := rfl
  have g0 := fld_val _ _ 0 0 5 vo ha rfl
  have c0 : _ / 2 ^ 26 % 2 ^ 6 = 0x1b := val_clear _ _ 26 6 ha rfl
  have c1 : _ / 2 ^ 5 % 2 ^ 2 = 0x2 := val_clear _ _ 5 2 ha rfl
  have z0 : _ / 2 ^ 22 % 2 ^ 4 = 0 := val_clear _ _ 22 4 ha rfl
  have z1 : _ / 2 ^ 18 % 2 ^ 4 = 0 := val_clear _ _ 18 4 ha rfl
  have z2 : _ / 2 ^ 7 % 2 ^ 11 = 0 := val_clear _ _ 7 11 ha rfl
  rw [← hn] at g0 c0 c1 z0 z1 z2
  show decodeAccessNat w.toNat = _
  delta decodeAccessNat
  rw [c0, c1]
  show row w.toNat [(22, 4, .d), (18, 4, .b), (7, 11, .imm)] (.afenceFull (fld w.toNat 0 5)) = _
  rw [g0]
  exact row_ok _ _ _ hw (List.forall_mem_cons.2 ⟨z0, List.forall_mem_cons.2 ⟨z1, List.forall_mem_cons.2 ⟨z2, fun _ h => nomatch h⟩⟩⟩)

theorem afenceX : Statement .afenceX := by
  refine encodes_of _ .access [] 0x6c000060 rfl rfl rfl rfl rfl fun hw w hn => ?_
  have ha : apart [] 0x6c000060 = true := rfl
  have c0 : _ / 2 ^ 26 % 2 ^ 6 = 0x1b := val_clear _ _ 26 6 ha rfl
  have c1 : _ / 2 ^ 5 % 2 ^ 2 = 0x3 := val_clear _ _ 5 2 ha rfl
  have z0 : _ / 2 ^ 22 % 2 ^ 4 = 0 := val_clear _ _ 22 4 ha rfl
  have z1 : _ / 2 ^ 18 % 2 ^ 4 = 0 := val_clear _ _ 18 4 ha rfl
  have z2 : _ / 2 ^ 7 % 2 ^ 11 = 0 := val_clear _ _ 7 11 ha rfl
  have z3 : _ / 2 ^ 0 % 2 ^ 5 = 0 := val_clear _ _ 0 5 ha rfl
  rw [← hn] at c0 c1 z0 z1 z2 z3
  show decodeAccessNat w.toNat = _
  delta decodeAccessNat
  rw [c0, c1]
  show row w.toNat [(22, 4, .d), (18, 4, .b), (7, 11, .imm), (0, 5, .imm)] .afenceX = _
  exact row_ok _ _ _ hw (List.forall_mem_cons.2 ⟨z0, List.forall_mem_cons.2 ⟨z1, List.forall_mem_cons.2 ⟨z2, List.forall_mem_cons.2 ⟨z3, fun _ h => nomatch h⟩⟩⟩⟩)

theorem amfsr : ∀ vd vn vr, Statement (.amfsr vd vn vr) := by
  intro vd vn vr
  refine encodes_of _ .access [⟨22, 4, vd⟩, ⟨12, 1, vn⟩, ⟨0, 12, vr⟩] 0x70000000 rfl rfl rfl rfl rfl fun hw w hn => ?_
  have ha : apart [⟨22, 4, vd⟩, ⟨12, 1, vn⟩, ⟨0, 12, vr⟩] 0x70000000 = true := rfl
  have g0 := fld_val _ _ 0 22 4 vd ha rfl
  have g1 := fld_val _ _ 1 12 1 vn ha rfl
  have g2 := fld_val _ _ 2 0 12 vr ha rfl
  have c0 : _ / 2 ^ 26 % 2 ^ 6 = 0x1c := val_clear _ _ 26 6 ha rfl
  have z0 : _ / 2 ^ 18 % 2 ^ 4 = 0 := val_clear _ _ 18 4 ha rfl
  have z1 : _ / 2 ^ 13 % 2 ^ 5 = 0 := val_clear _ _ 13 5 ha rfl
  rw [← hn] at g0 g1 g2 c0 z0 z1
  show decodeAccessNat w.toNat = _
  delta decodeAccessNat
  rw [if_neg (fun h => ne_lit c0 (by decide) h), if_neg (fun h => ne_lit c0 (by decide) h), if_neg (fun h => ne_lit c0 (by decide) h), if_neg (fun h => ne_lit c0 (by decide) h), if_neg (fun h => ne_lit c0 (by decide) h), if_neg (fun h => ne_lit c0 (by decide) h), if_neg (fun h => ne_lit c0 (by decide) h), if_neg (fun h => ne_lit c0 (by decide) h), if_neg (fun h => ne_lit c0 (by decide) h), if_neg (fun h => ne_lit c0 (by decide) h), if_neg (fun h => ne_lit c0 (by decide) h), if_neg (fun h => ne_lit c0 (by decide) h), if_neg (fun h => ne_lit c0 (by decide) h), if_neg (fun h => ne_lit c0 (by decide) h), if_neg (fun h => ne_lit c0 (by decide) h), if_neg (fun h => ne_lit c0 (by decide) h), if_neg (fun h => ne_lit c0 (by decide) h), if_neg (fun h => ne_lit c0 (by decide) h.1), if_neg (fun h => ne_lit c0 (by decide) h.1), if_neg (fun h => ne_lit c0 (by decide) h.1), if_neg (fun h => ne_lit c0 (by decide) h.1)]
  rw [c0]
  show row w.toNat [(18, 4, .b), (13, 5, .imm)] (.amfsr (fld w.toNat 22 4) (fld w.toNat 12 1) (fld w.toNat 0 12)) = _
  rw [g0, g1, g2]
  exact row_ok _ _ _ hw (List.forall_mem_cons.2 ⟨z0, List.forall_mem_cons.2 ⟨z1, fun _ h => nomatch h⟩⟩)

theorem amtsr : ∀ vd vb vn vr, Statement (.amtsr vd vb vn vr) := by
  intro vd vb vn vr
  refine encodes_of _ .access [⟨22, 4, vd⟩, ⟨18, 4, vb⟩, ⟨12, 1, vn⟩, ⟨0, 12, vr⟩] 0x74000000 rfl rfl rfl rfl rfl fun hw w hn => ?_
  have ha : apart [⟨22, 4, vd⟩, ⟨18, 4, vb⟩, ⟨12, 1, vn⟩, ⟨0, 12, vr⟩] 0x74000000 = true := rfl
  have g0 := fld_val _ _ 0 22 4 vd ha rfl
  have g1 := fld_val _ _ 1 18 4 vb ha rfl
  have g2 := fld_val _ _ 2 12 1 vn ha rfl
  have g3 := fld_val _ _ 3 0 12 vr ha rfl
  have c0 : _ / 2 ^ 26 % 2 ^ 6 = 0x1d := val_clear _ _ 26 6 ha rfl
  have z0 : _ / 2 ^ 13 % 2 ^ 5 = 0 := val_clear _ _ 13 5 ha rfl
  rw [← hn] at g0 g1 g2 g3 c0 z0
  show decodeAccessNat w.toNat = _
  delta decodeAccessNat
  rw [if_neg (fun h => ne_lit c0 (by decide) h), if_neg (fun h => ne_lit c0 (by decide) h), if_neg (fun h => ne_lit c0 (by decide) h), if_neg (fun h => ne_lit c0 (by decide) h), if_neg (fun h => ne_lit c0 (by decide) h), if_neg (fun h => ne_lit c0 (by decide) h), if_neg (fun h => ne_lit c0 (by decide) h), if_neg (fun h => ne_lit c0 (by decide) h), if_neg (fun h => ne_lit c0 (by decide) h), if_neg (fun h => ne_lit c0 (by decide) h), if_neg (fun h => ne_lit c0 (by decide) h), if_neg (fun h => ne_lit c0 (by decide) h), if_neg (fun h => ne_lit c0 (by decide) h), if_neg (fun h => ne_lit c0 (by decide) h), if_neg (fun h => ne_lit c0 (by decide) h), if_neg (fun h => ne_lit c0 (by decide) h), if_neg (fun h => ne_lit c0 (by decide) h), if_neg (fun h => ne_lit c0 (by decide) h.1), if_neg (fun h => ne_lit c0 (by decide) h.1), if_neg (fun h => ne_lit c0 (by decide) h.1), if_neg (fun h => ne_lit c0 (by decide) h.1), if_neg (fun h => ne_lit c0 (by decide) h)]
  rw [c0]
  show row w.toNat [(13, 5, .imm)] (.amtsr (fld w.toNat 22 4) (fld w.toNat 18 4) (fld w.toNat 12 1) (fld w.toNat 0 12)) = _
  rw [g0, g1, g2, g3]
  exact row_ok _ _ _ hw (List.forall_mem_cons.2 ⟨z0, fun _ h => nomatch h⟩)

theorem arprod : ∀ vd vb, Statement (.arprod vd vb) := by
  intro vd vb
  refine encodes_of _ .access [⟨22, 4, vd⟩, ⟨18, 4, vb⟩] 0x80000000 rfl rfl rfl rfl rfl fun hw w hn => ?_
  have ha : apart [⟨22, 4, vd⟩, ⟨18, 4, vb⟩] 0x80000000 = true := rfl
  have g0 := fld_val _ _ 0 22 4 vd ha rfl
  have g1 := fld_val _ _ 1 18 4 vb ha rfl
  have c0 : _ / 2 ^ 26 % 2 ^ 6 = 0x20 := val_clear _ _ 26 6 ha rfl
  have c1 : _ / 2 ^ 5 % 2 ^ 2 = 0x0 := val_clear _ _ 5 2 ha rfl
  have z0 : _ / 2 ^ 0 % 2 ^ 18 = 0 := val_clear _ _ 0 18 ha rfl
  rw [← hn] at g0 g1 c0 c1 z0
  show decodeAccessNat w.toNat = _
  delta decodeAccessNat
  rw [c0, c1]
  show row w.toNat [(0, 18, .imm)] (.arprod (fld w.toNat 22 4) (fld w.toNat 18 4)) = _
  rw [g0, g1]
  exact row_ok _ _ _ hw (List.forall_mem_cons.2 ⟨z0, fun _ h => nomatch h⟩)

theorem arpub : ∀ vd vb, Statement (.arpub vd vb) := by
  intro vd vb
  refine encodes_of _ .access [⟨22, 4, vd⟩, ⟨18, 4, vb⟩] 0x84000000 rfl rfl rfl rfl rfl fun hw w hn => ?_
  have ha : apart [⟨22, 4, vd⟩, ⟨18, 4, vb⟩] 0x84000000 = true := rfl
  have g0 := fld_val _ _ 0 22 4 vd ha rfl
  have g1 := fld_val _ _ 1 18 4 vb ha rfl
  have c0 : _ / 2 ^ 26 % 2 ^ 6 = 0x21 := val_clear _ _ 26 6 ha rfl
  have c1 : _ / 2 ^ 5 % 2 ^ 2 = 0x0 := val_clear _ _ 5 2 ha rfl
  have z0 : _ / 2 ^ 0 % 2 ^ 18 = 0 := val_clear _ _ 0 18 ha rfl
  rw [← hn] at g0 g1 c0 c1 z0
  show decodeAccessNat w.toNat = _
  delta decodeAccessNat
  rw [c0, c1]
  show row w.toNat [(0, 18, .imm)] (.arpub (fld w.toNat 22 4) (fld w.toNat 18 4)) = _
  rw [g0, g1]
  exact row_ok _ _ _ hw (List.forall_mem_cons.2 ⟨z0, fun _ h => nomatch h⟩)

theorem arcons : ∀ vd vb, Statement (.arcons vd vb) := by
  intro vd vb
  refine encodes_of _ .access [⟨22, 4, vd⟩, ⟨18, 4, vb⟩] 0x88000000 rfl rfl rfl rfl rfl fun hw w hn => ?_
  have ha : apart [⟨22, 4, vd⟩, ⟨18, 4, vb⟩] 0x88000000 = true := rfl
  have g0 := fld_val _ _ 0 22 4 vd ha rfl
  have g1 := fld_val _ _ 1 18 4 vb ha rfl
  have c0 : _ / 2 ^ 26 % 2 ^ 6 = 0x22 := val_clear _ _ 26 6 ha rfl
  have c1 : _ / 2 ^ 5 % 2 ^ 2 = 0x0 := val_clear _ _ 5 2 ha rfl
  have z0 : _ / 2 ^ 0 % 2 ^ 18 = 0 := val_clear _ _ 0 18 ha rfl
  rw [← hn] at g0 g1 c0 c1 z0
  show decodeAccessNat w.toNat = _
  delta decodeAccessNat
  rw [c0, c1]
  show row w.toNat [(0, 18, .imm)] (.arcons (fld w.toNat 22 4) (fld w.toNat 18 4)) = _
  rw [g0, g1]
  exact row_ok _ _ _ hw (List.forall_mem_cons.2 ⟨z0, fun _ h => nomatch h⟩)

theorem arrel : ∀ vd vb, Statement (.arrel vd vb) := by
  intro vd vb
  refine encodes_of _ .access [⟨22, 4, vd⟩, ⟨18, 4, vb⟩] 0x8c000000 rfl rfl rfl rfl rfl fun hw w hn => ?_
  have ha : apart [⟨22, 4, vd⟩, ⟨18, 4, vb⟩] 0x8c000000 = true := rfl
  have g0 := fld_val _ _ 0 22 4 vd ha rfl
  have g1 := fld_val _ _ 1 18 4 vb ha rfl
  have c0 : _ / 2 ^ 26 % 2 ^ 6 = 0x23 := val_clear _ _ 26 6 ha rfl
  have c1 : _ / 2 ^ 5 % 2 ^ 2 = 0x0 := val_clear _ _ 5 2 ha rfl
  have z0 : _ / 2 ^ 0 % 2 ^ 18 = 0 := val_clear _ _ 0 18 ha rfl
  rw [← hn] at g0 g1 c0 c1 z0
  show decodeAccessNat w.toNat = _
  delta decodeAccessNat
  rw [c0, c1]
  show row w.toNat [(0, 18, .imm)] (.arrel (fld w.toNat 22 4) (fld w.toNat 18 4)) = _
  rw [g0, g1]
  exact row_ok _ _ _ hw (List.forall_mem_cons.2 ⟨z0, fun _ h => nomatch h⟩)

theorem muleNop : Statement .muleNop := by
  refine encodes_of _ .mule [] 0x0 rfl rfl rfl rfl rfl fun hw w hn => ?_
  have ha : apart [] 0x0 = true := rfl
  have c0 : _ / 2 ^ 27 % 2 ^ 5 = 0x0 := val_clear _ _ 27 5 ha rfl
  have z0 : _ / 2 ^ 24 % 2 ^ 3 = 0 := val_clear _ _ 24 3 ha rfl
  have z1 : _ / 2 ^ 21 % 2 ^ 3 = 0 := val_clear _ _ 21 3 ha rfl
  have z2 : _ / 2 ^ 18 % 2 ^ 3 = 0 := val_clear _ _ 18 3 ha rfl
  have z3 : _ / 2 ^ 0 % 2 ^ 18 = 0 := val_clear _ _ 0 18 ha rfl
  rw [← hn] at c0 z0 z1 z2 z3
  show decodeMuleNat w.toNat = _
  delta decodeMuleNat
  rw [c0]
  show row w.toNat [(24, 3, .d), (21, 3, .a), (18, 3, .b), (0, 18, .imm)] .muleNop = _
  exact row_ok _ _ _ hw (List.forall_mem_cons.2 ⟨z0, List.forall_mem_cons.2 ⟨z1, List.forall_mem_cons.2 ⟨z2, List.forall_mem_cons.2 ⟨z3, fun _ h => nomatch h⟩⟩⟩⟩)

theorem muleHalt : Statement .muleHalt := by
  refine encodes_of _ .mule [] 0x8000000 rfl rfl rfl rfl rfl fun hw w hn => ?_
  have ha : apart [] 0x8000000 = true := rfl
  have c0 : _ / 2 ^ 27 % 2 ^ 5 = 0x1 := val_clear _ _ 27 5 ha rfl
  have z0 : _ / 2 ^ 24 % 2 ^ 3 = 0 := val_clear _ _ 24 3 ha rfl
  have z1 : _ / 2 ^ 21 % 2 ^ 3 = 0 := val_clear _ _ 21 3 ha rfl
  have z2 : _ / 2 ^ 18 % 2 ^ 3 = 0 := val_clear _ _ 18 3 ha rfl
  have z3 : _ / 2 ^ 0 % 2 ^ 18 = 0 := val_clear _ _ 0 18 ha rfl
  rw [← hn] at c0 z0 z1 z2 z3
  show decodeMuleNat w.toNat = _
  delta decodeMuleNat
  rw [c0]
  show row w.toNat [(24, 3, .d), (21, 3, .a), (18, 3, .b), (0, 18, .imm)] .muleHalt = _
  exact row_ok _ _ _ hw (List.forall_mem_cons.2 ⟨z0, List.forall_mem_cons.2 ⟨z1, List.forall_mem_cons.2 ⟨z2, List.forall_mem_cons.2 ⟨z3, fun _ h => nomatch h⟩⟩⟩⟩)

theorem mulePost : ∀ va vn, Statement (.mulePost va vn) := by
  intro va vn
  refine encodes_of _ .mule [⟨21, 3, va⟩, ⟨0, 10, vn⟩] 0x10000000 rfl rfl rfl rfl rfl fun hw w hn => ?_
  have ha : apart [⟨21, 3, va⟩, ⟨0, 10, vn⟩] 0x10000000 = true := rfl
  have g0 := fld_val _ _ 0 21 3 va ha rfl
  have g1 := fld_val _ _ 1 0 10 vn ha rfl
  have c0 : _ / 2 ^ 27 % 2 ^ 5 = 0x2 := val_clear _ _ 27 5 ha rfl
  have z0 : _ / 2 ^ 24 % 2 ^ 3 = 0 := val_clear _ _ 24 3 ha rfl
  have z1 : _ / 2 ^ 18 % 2 ^ 3 = 0 := val_clear _ _ 18 3 ha rfl
  have z2 : _ / 2 ^ 10 % 2 ^ 8 = 0 := val_clear _ _ 10 8 ha rfl
  rw [← hn] at g0 g1 c0 z0 z1 z2
  show decodeMuleNat w.toNat = _
  delta decodeMuleNat
  rw [c0]
  show row w.toNat [(24, 3, .d), (18, 3, .b), (10, 8, .imm)] (.mulePost (fld w.toNat 21 3) (fld w.toNat 0 10)) = _
  rw [g0, g1]
  exact row_ok _ _ _ hw (List.forall_mem_cons.2 ⟨z0, List.forall_mem_cons.2 ⟨z1, List.forall_mem_cons.2 ⟨z2, fun _ h => nomatch h⟩⟩⟩)

theorem muleJmp : ∀ vt, Statement (.muleJmp vt) := by
  intro vt
  refine encodes_of _ .mule [⟨0, 10, vt⟩] 0x18000000 rfl rfl rfl rfl rfl fun hw w hn => ?_
  have ha : apart [⟨0, 10, vt⟩] 0x18000000 = true := rfl
  have g0 := fld_val _ _ 0 0 10 vt ha rfl
  have c0 : _ / 2 ^ 27 % 2 ^ 5 = 0x3 := val_clear _ _ 27 5 ha rfl
  have z0 : _ / 2 ^ 24 % 2 ^ 3 = 0 := val_clear _ _ 24 3 ha rfl
  have z1 : _ / 2 ^ 21 % 2 ^ 3 = 0 := val_clear _ _ 21 3 ha rfl
  have z2 : _ / 2 ^ 18 % 2 ^ 3 = 0 := val_clear _ _ 18 3 ha rfl
  have z3 : _ / 2 ^ 10 % 2 ^ 8 = 0 := val_clear _ _ 10 8 ha rfl
  rw [← hn] at g0 c0 z0 z1 z2 z3
  show decodeMuleNat w.toNat = _
  delta decodeMuleNat
  rw [c0]
  show row w.toNat [(24, 3, .d), (21, 3, .a), (18, 3, .b), (10, 8, .imm)] (.muleJmp (fld w.toNat 0 10)) = _
  rw [g0]
  exact row_ok _ _ _ hw (List.forall_mem_cons.2 ⟨z0, List.forall_mem_cons.2 ⟨z1, List.forall_mem_cons.2 ⟨z2, List.forall_mem_cons.2 ⟨z3, fun _ h => nomatch h⟩⟩⟩⟩)

theorem muleLoop : ∀ vd vt, Statement (.muleLoop vd vt) := by
  intro vd vt
  refine encodes_of _ .mule [⟨24, 3, vd⟩, ⟨0, 10, vt⟩] 0x20000000 rfl rfl rfl rfl rfl fun hw w hn => ?_
  have ha : apart [⟨24, 3, vd⟩, ⟨0, 10, vt⟩] 0x20000000 = true := rfl
  have g0 := fld_val _ _ 0 24 3 vd ha rfl
  have g1 := fld_val _ _ 1 0 10 vt ha rfl
  have c0 : _ / 2 ^ 27 % 2 ^ 5 = 0x4 := val_clear _ _ 27 5 ha rfl
  have z0 : _ / 2 ^ 21 % 2 ^ 3 = 0 := val_clear _ _ 21 3 ha rfl
  have z1 : _ / 2 ^ 18 % 2 ^ 3 = 0 := val_clear _ _ 18 3 ha rfl
  have z2 : _ / 2 ^ 10 % 2 ^ 8 = 0 := val_clear _ _ 10 8 ha rfl
  rw [← hn] at g0 g1 c0 z0 z1 z2
  show decodeMuleNat w.toNat = _
  delta decodeMuleNat
  rw [c0]
  show row w.toNat [(21, 3, .a), (18, 3, .b), (10, 8, .imm)] (.muleLoop (fld w.toNat 24 3) (fld w.toNat 0 10)) = _
  rw [g0, g1]
  exact row_ok _ _ _ hw (List.forall_mem_cons.2 ⟨z0, List.forall_mem_cons.2 ⟨z1, List.forall_mem_cons.2 ⟨z2, fun _ h => nomatch h⟩⟩⟩)

theorem muleBnz : ∀ va vt, Statement (.muleBnz va vt) := by
  intro va vt
  refine encodes_of _ .mule [⟨21, 3, va⟩, ⟨0, 10, vt⟩] 0x28000000 rfl rfl rfl rfl rfl fun hw w hn => ?_
  have ha : apart [⟨21, 3, va⟩, ⟨0, 10, vt⟩] 0x28000000 = true := rfl
  have g0 := fld_val _ _ 0 21 3 va ha rfl
  have g1 := fld_val _ _ 1 0 10 vt ha rfl
  have c0 : _ / 2 ^ 27 % 2 ^ 5 = 0x5 := val_clear _ _ 27 5 ha rfl
  have z0 : _ / 2 ^ 24 % 2 ^ 3 = 0 := val_clear _ _ 24 3 ha rfl
  have z1 : _ / 2 ^ 18 % 2 ^ 3 = 0 := val_clear _ _ 18 3 ha rfl
  have z2 : _ / 2 ^ 10 % 2 ^ 8 = 0 := val_clear _ _ 10 8 ha rfl
  rw [← hn] at g0 g1 c0 z0 z1 z2
  show decodeMuleNat w.toNat = _
  delta decodeMuleNat
  rw [c0]
  show row w.toNat [(24, 3, .d), (18, 3, .b), (10, 8, .imm)] (.muleBnz (fld w.toNat 21 3) (fld w.toNat 0 10)) = _
  rw [g0, g1]
  exact row_ok _ _ _ hw (List.forall_mem_cons.2 ⟨z0, List.forall_mem_cons.2 ⟨z1, List.forall_mem_cons.2 ⟨z2, fun _ h => nomatch h⟩⟩⟩)

theorem muleSeti : ∀ vd vi, Statement (.muleSeti vd vi) := by
  intro vd vi
  refine encodes_of _ .mule [⟨24, 3, vd⟩, ⟨0, 18, vi⟩] 0x30000000 rfl rfl rfl rfl rfl fun hw w hn => ?_
  have ha : apart [⟨24, 3, vd⟩, ⟨0, 18, vi⟩] 0x30000000 = true := rfl
  have g0 := fld_val _ _ 0 24 3 vd ha rfl
  have g1 := fld_val _ _ 1 0 18 vi ha rfl
  have c0 : _ / 2 ^ 27 % 2 ^ 5 = 0x6 := val_clear _ _ 27 5 ha rfl
  have z0 : _ / 2 ^ 21 % 2 ^ 3 = 0 := val_clear _ _ 21 3 ha rfl
  have z1 : _ / 2 ^ 18 % 2 ^ 3 = 0 := val_clear _ _ 18 3 ha rfl
  rw [← hn] at g0 g1 c0 z0 z1
  show decodeMuleNat w.toNat = _
  delta decodeMuleNat
  rw [c0]
  show row w.toNat [(21, 3, .a), (18, 3, .b)] (.muleSeti (fld w.toNat 24 3) (fld w.toNat 0 18)) = _
  rw [g0, g1]
  exact row_ok _ _ _ hw (List.forall_mem_cons.2 ⟨z0, List.forall_mem_cons.2 ⟨z1, fun _ h => nomatch h⟩⟩)

theorem muleAddi : ∀ vd va vi, Statement (.muleAddi vd va vi) := by
  intro vd va vi
  refine encodes_of _ .mule [⟨24, 3, vd⟩, ⟨21, 3, va⟩, ⟨0, 18, vi⟩] 0x38000000 rfl rfl rfl rfl rfl fun hw w hn => ?_
  have ha : apart [⟨24, 3, vd⟩, ⟨21, 3, va⟩, ⟨0, 18, vi⟩] 0x38000000 = true := rfl
  have g0 := fld_val _ _ 0 24 3 vd ha rfl
  have g1 := fld_val _ _ 1 21 3 va ha rfl
  have g2 := fld_val _ _ 2 0 18 vi ha rfl
  have c0 : _ / 2 ^ 27 % 2 ^ 5 = 0x7 := val_clear _ _ 27 5 ha rfl
  have z0 : _ / 2 ^ 18 % 2 ^ 3 = 0 := val_clear _ _ 18 3 ha rfl
  rw [← hn] at g0 g1 g2 c0 z0
  show decodeMuleNat w.toNat = _
  delta decodeMuleNat
  rw [c0]
  show row w.toNat [(18, 3, .b)] (.muleAddi (fld w.toNat 24 3) (fld w.toNat 21 3) (fld w.toNat 0 18)) = _
  rw [g0, g1, g2]
  exact row_ok _ _ _ hw (List.forall_mem_cons.2 ⟨z0, fun _ h => nomatch h⟩)

theorem muleAdd : ∀ vd va vb, Statement (.muleAdd vd va vb) := by
  intro vd va vb
  refine encodes_of _ .mule [⟨24, 3, vd⟩, ⟨21, 3, va⟩, ⟨18, 3, vb⟩] 0x40000000 rfl rfl rfl rfl rfl fun hw w hn => ?_
  have ha : apart [⟨24, 3, vd⟩, ⟨21, 3, va⟩, ⟨18, 3, vb⟩] 0x40000000 = true := rfl
  have g0 := fld_val _ _ 0 24 3 vd ha rfl
  have g1 := fld_val _ _ 1 21 3 va ha rfl
  have g2 := fld_val _ _ 2 18 3 vb ha rfl
  have c0 : _ / 2 ^ 27 % 2 ^ 5 = 0x8 := val_clear _ _ 27 5 ha rfl
  have z0 : _ / 2 ^ 0 % 2 ^ 18 = 0 := val_clear _ _ 0 18 ha rfl
  rw [← hn] at g0 g1 g2 c0 z0
  show decodeMuleNat w.toNat = _
  delta decodeMuleNat
  rw [c0]
  show row w.toNat [(0, 18, .imm)] (.muleAdd (fld w.toNat 24 3) (fld w.toNat 21 3) (fld w.toNat 18 3)) = _
  rw [g0, g1, g2]
  exact row_ok _ _ _ hw (List.forall_mem_cons.2 ⟨z0, fun _ h => nomatch h⟩)

theorem muleAgdim : ∀ va vb vf ve, Statement (.muleAgdim va vb vf ve) := by
  intro va vb vf ve
  refine encodes_of _ .mule [⟨21, 3, va⟩, ⟨18, 3, vb⟩, ⟨2, 1, vf⟩, ⟨0, 2, ve⟩] 0x48000000 rfl rfl rfl rfl rfl fun hw w hn => ?_
  have ha : apart [⟨21, 3, va⟩, ⟨18, 3, vb⟩, ⟨2, 1, vf⟩, ⟨0, 2, ve⟩] 0x48000000 = true := rfl
  have g0 := fld_val _ _ 0 21 3 va ha rfl
  have g1 := fld_val _ _ 1 18 3 vb ha rfl
  have g2 := fld_val _ _ 2 2 1 vf ha rfl
  have g3 := fld_val _ _ 3 0 2 ve ha rfl
  have c0 : _ / 2 ^ 27 % 2 ^ 5 = 0x9 := val_clear _ _ 27 5 ha rfl
  have z0 : _ / 2 ^ 24 % 2 ^ 3 = 0 := val_clear _ _ 24 3 ha rfl
  have z1 : _ / 2 ^ 3 % 2 ^ 15 = 0 := val_clear _ _ 3 15 ha rfl
  rw [← hn] at g0 g1 g2 g3 c0 z0 z1
  show decodeMuleNat w.toNat = _
  delta decodeMuleNat
  rw [c0]
  show row w.toNat [(24, 3, .d), (3, 15, .imm)] (.muleAgdim (fld w.toNat 21 3) (fld w.toNat 18 3) (fld w.toNat 2 1) (fld w.toNat 0 2)) = _
  rw [g0, g1, g2, g3]
  exact row_ok _ _ _ hw (List.forall_mem_cons.2 ⟨z0, List.forall_mem_cons.2 ⟨z1, fun _ h => nomatch h⟩⟩)

theorem muleAgind : ∀ va vf ve, Statement (.muleAgind va vf ve) := by
  intro va vf ve
  refine encodes_of _ .mule [⟨21, 3, va⟩, ⟨2, 1, vf⟩, ⟨0, 2, ve⟩] 0x50000000 rfl rfl rfl rfl rfl fun hw w hn => ?_
  have ha : apart [⟨21, 3, va⟩, ⟨2, 1, vf⟩, ⟨0, 2, ve⟩] 0x50000000 = true := rfl
  have g0 := fld_val _ _ 0 21 3 va ha rfl
  have g1 := fld_val _ _ 1 2 1 vf ha rfl
  have g2 := fld_val _ _ 2 0 2 ve ha rfl
  have c0 : _ / 2 ^ 27 % 2 ^ 5 = 0xa := val_clear _ _ 27 5 ha rfl
  have z0 : _ / 2 ^ 24 % 2 ^ 3 = 0 := val_clear _ _ 24 3 ha rfl
  have z1 : _ / 2 ^ 18 % 2 ^ 3 = 0 := val_clear _ _ 18 3 ha rfl
  have z2 : _ / 2 ^ 3 % 2 ^ 15 = 0 := val_clear _ _ 3 15 ha rfl
  rw [← hn] at g0 g1 g2 c0 z0 z1 z2
  show decodeMuleNat w.toNat = _
  delta decodeMuleNat
  rw [c0]
  show row w.toNat [(24, 3, .d), (18, 3, .b), (3, 15, .imm)] (.muleAgind (fld w.toNat 21 3) (fld w.toNat 2 1) (fld w.toNat 0 2)) = _
  rw [g0, g1, g2]
  exact row_ok _ _ _ hw (List.forall_mem_cons.2 ⟨z0, List.forall_mem_cons.2 ⟨z1, List.forall_mem_cons.2 ⟨z2, fun _ h => nomatch h⟩⟩⟩)

theorem muleAgrun : ∀ vd, Statement (.muleAgrun vd) := by
  intro vd
  refine encodes_of _ .mule [⟨24, 3, vd⟩] 0x58000000 rfl rfl rfl rfl rfl fun hw w hn => ?_
  have ha : apart [⟨24, 3, vd⟩] 0x58000000 = true := rfl
  have g0 := fld_val _ _ 0 24 3 vd ha rfl
  have c0 : _ / 2 ^ 27 % 2 ^ 5 = 0xb := val_clear _ _ 27 5 ha rfl
  have z0 : _ / 2 ^ 21 % 2 ^ 3 = 0 := val_clear _ _ 21 3 ha rfl
  have z1 : _ / 2 ^ 18 % 2 ^ 3 = 0 := val_clear _ _ 18 3 ha rfl
  have z2 : _ / 2 ^ 0 % 2 ^ 18 = 0 := val_clear _ _ 0 18 ha rfl
  rw [← hn] at g0 c0 z0 z1 z2
  show decodeMuleNat w.toNat = _
  delta decodeMuleNat
  rw [c0]
  show row w.toNat [(21, 3, .a), (18, 3, .b), (0, 18, .imm)] (.muleAgrun (fld w.toNat 24 3)) = _
  rw [g0]
  exact row_ok _ _ _ hw (List.forall_mem_cons.2 ⟨z0, List.forall_mem_cons.2 ⟨z1, List.forall_mem_cons.2 ⟨z2, fun _ h => nomatch h⟩⟩⟩)

theorem muleMx : ∀ va vb vo, Statement (.muleMx va vb vo) := by
  intro va vb vo
  refine encodes_of _ .mule [⟨21, 3, va⟩, ⟨18, 3, vb⟩, ⟨0, 2, vo⟩] 0x60000000 rfl rfl rfl rfl rfl fun hw w hn => ?_
  have ha : apart [⟨21, 3, va⟩, ⟨18, 3, vb⟩, ⟨0, 2, vo⟩] 0x60000000 = true := rfl
  have g0 := fld_val _ _ 0 21 3 va ha rfl
  have g1 := fld_val _ _ 1 18 3 vb ha rfl
  have g2 := fld_val _ _ 2 0 2 vo ha rfl
  have c0 : _ / 2 ^ 27 % 2 ^ 5 = 0xc := val_clear _ _ 27 5 ha rfl
  have z0 : _ / 2 ^ 24 % 2 ^ 3 = 0 := val_clear _ _ 24 3 ha rfl
  have z1 : _ / 2 ^ 2 % 2 ^ 16 = 0 := val_clear _ _ 2 16 ha rfl
  rw [← hn] at g0 g1 g2 c0 z0 z1
  show decodeMuleNat w.toNat = _
  delta decodeMuleNat
  rw [c0]
  show row w.toNat [(24, 3, .d), (2, 16, .imm)] (.muleMx (fld w.toNat 21 3) (fld w.toNat 18 3) (fld w.toNat 0 2)) = _
  rw [g0, g1, g2]
  exact row_ok _ _ _ hw (List.forall_mem_cons.2 ⟨z0, List.forall_mem_cons.2 ⟨z1, fun _ h => nomatch h⟩⟩)

theorem muleMxw : Statement .muleMxw := by
  refine encodes_of _ .mule [] 0x68000000 rfl rfl rfl rfl rfl fun hw w hn => ?_
  have ha : apart [] 0x68000000 = true := rfl
  have c0 : _ / 2 ^ 27 % 2 ^ 5 = 0xd := val_clear _ _ 27 5 ha rfl
  have z0 : _ / 2 ^ 24 % 2 ^ 3 = 0 := val_clear _ _ 24 3 ha rfl
  have z1 : _ / 2 ^ 21 % 2 ^ 3 = 0 := val_clear _ _ 21 3 ha rfl
  have z2 : _ / 2 ^ 18 % 2 ^ 3 = 0 := val_clear _ _ 18 3 ha rfl
  have z3 : _ / 2 ^ 0 % 2 ^ 18 = 0 := val_clear _ _ 0 18 ha rfl
  rw [← hn] at c0 z0 z1 z2 z3
  show decodeMuleNat w.toNat = _
  delta decodeMuleNat
  rw [c0]
  show row w.toNat [(24, 3, .d), (21, 3, .a), (18, 3, .b), (0, 18, .imm)] .muleMxw = _
  exact row_ok _ _ _ hw (List.forall_mem_cons.2 ⟨z0, List.forall_mem_cons.2 ⟨z1, List.forall_mem_cons.2 ⟨z2, List.forall_mem_cons.2 ⟨z3, fun _ h => nomatch h⟩⟩⟩⟩)

theorem muleEx : ∀ va vb vt vf, Statement (.muleEx va vb vt vf) := by
  intro va vb vt vf
  refine encodes_of _ .mule [⟨21, 3, va⟩, ⟨18, 3, vb⟩, ⟨2, 2, vt⟩, ⟨0, 2, vf⟩] 0x70000000 rfl rfl rfl rfl rfl fun hw w hn => ?_
  have ha : apart [⟨21, 3, va⟩, ⟨18, 3, vb⟩, ⟨2, 2, vt⟩, ⟨0, 2, vf⟩] 0x70000000 = true := rfl
  have g0 := fld_val _ _ 0 21 3 va ha rfl
  have g1 := fld_val _ _ 1 18 3 vb ha rfl
  have g2 := fld_val _ _ 2 2 2 vt ha rfl
  have g3 := fld_val _ _ 3 0 2 vf ha rfl
  have c0 : _ / 2 ^ 27 % 2 ^ 5 = 0xe := val_clear _ _ 27 5 ha rfl
  have z0 : _ / 2 ^ 24 % 2 ^ 3 = 0 := val_clear _ _ 24 3 ha rfl
  have z1 : _ / 2 ^ 4 % 2 ^ 14 = 0 := val_clear _ _ 4 14 ha rfl
  rw [← hn] at g0 g1 g2 g3 c0 z0 z1
  show decodeMuleNat w.toNat = _
  delta decodeMuleNat
  rw [c0]
  show row w.toNat [(24, 3, .d), (4, 14, .imm)] (.muleEx (fld w.toNat 21 3) (fld w.toNat 18 3) (fld w.toNat 2 2) (fld w.toNat 0 2)) = _
  rw [g0, g1, g2, g3]
  exact row_ok _ _ _ hw (List.forall_mem_cons.2 ⟨z0, List.forall_mem_cons.2 ⟨z1, fun _ h => nomatch h⟩⟩)

theorem muleCp : ∀ va vb vd vs vg, Statement (.muleCp va vb vd vs vg) := by
  intro va vb vd vs vg
  refine encodes_of _ .mule [⟨21, 3, va⟩, ⟨18, 3, vb⟩, ⟨7, 1, vd⟩, ⟨6, 1, vs⟩, ⟨0, 6, vg⟩] 0x78000000 rfl rfl rfl rfl rfl fun hw w hn => ?_
  have ha : apart [⟨21, 3, va⟩, ⟨18, 3, vb⟩, ⟨7, 1, vd⟩, ⟨6, 1, vs⟩, ⟨0, 6, vg⟩] 0x78000000 = true := rfl
  have g0 := fld_val _ _ 0 21 3 va ha rfl
  have g1 := fld_val _ _ 1 18 3 vb ha rfl
  have g2 := fld_val _ _ 2 7 1 vd ha rfl
  have g3 := fld_val _ _ 3 6 1 vs ha rfl
  have g4 := fld_val _ _ 4 0 6 vg ha rfl
  have c0 : _ / 2 ^ 27 % 2 ^ 5 = 0xf := val_clear _ _ 27 5 ha rfl
  have z0 : _ / 2 ^ 24 % 2 ^ 3 = 0 := val_clear _ _ 24 3 ha rfl
  have z1 : _ / 2 ^ 8 % 2 ^ 10 = 0 := val_clear _ _ 8 10 ha rfl
  rw [← hn] at g0 g1 g2 g3 g4 c0 z0 z1
  show decodeMuleNat w.toNat = _
  delta decodeMuleNat
  rw [c0]
  show row w.toNat [(24, 3, .d), (8, 10, .imm)] (.muleCp (fld w.toNat 21 3) (fld w.toNat 18 3) (fld w.toNat 7 1) (fld w.toNat 6 1) (fld w.toNat 0 6)) = _
  rw [g0, g1, g2, g3, g4]
  exact row_ok _ _ _ hw (List.forall_mem_cons.2 ⟨z0, List.forall_mem_cons.2 ⟨z1, fun _ h => nomatch h⟩⟩)

theorem muleTagw : ∀ va vb, Statement (.muleTagw va vb) := by
  intro va vb
  refine encodes_of _ .mule [⟨21, 3, va⟩, ⟨18, 3, vb⟩] 0x80000000 rfl rfl rfl rfl rfl fun hw w hn => ?_
  have ha : apart [⟨21, 3, va⟩, ⟨18, 3, vb⟩] 0x80000000 = true := rfl
  have g0 := fld_val _ _ 0 21 3 va ha rfl
  have g1 := fld_val _ _ 1 18 3 vb ha rfl
  have c0 : _ / 2 ^ 27 % 2 ^ 5 = 0x10 := val_clear _ _ 27 5 ha rfl
  have z0 : _ / 2 ^ 24 % 2 ^ 3 = 0 := val_clear _ _ 24 3 ha rfl
  have z1 : _ / 2 ^ 0 % 2 ^ 18 = 0 := val_clear _ _ 0 18 ha rfl
  rw [← hn] at g0 g1 c0 z0 z1
  show decodeMuleNat w.toNat = _
  delta decodeMuleNat
  rw [c0]
  show row w.toNat [(24, 3, .d), (0, 18, .imm)] (.muleTagw (fld w.toNat 21 3) (fld w.toNat 18 3)) = _
  rw [g0, g1]
  exact row_ok _ _ _ hw (List.forall_mem_cons.2 ⟨z0, List.forall_mem_cons.2 ⟨z1, fun _ h => nomatch h⟩⟩)

theorem muleFwait : ∀ va vo vf, Statement (.muleFwait va vo vf) := by
  intro va vo vf
  refine encodes_of _ .mule [⟨21, 3, va⟩, ⟨5, 5, vo⟩, ⟨0, 5, vf⟩] 0x88000000 rfl rfl rfl rfl rfl fun hw w hn => ?_
  have ha : apart [⟨21, 3, va⟩, ⟨5, 5, vo⟩, ⟨0, 5, vf⟩] 0x88000000 = true := rfl
  have g0 := fld_val _ _ 0 21 3 va ha rfl
  have g1 := fld_val _ _ 1 5 5 vo ha rfl
  have g2 := fld_val _ _ 2 0 5 vf ha rfl
  have c0 : _ / 2 ^ 27 % 2 ^ 5 = 0x11 := val_clear _ _ 27 5 ha rfl
  have z0 : _ / 2 ^ 24 % 2 ^ 3 = 0 := val_clear _ _ 24 3 ha rfl
  have z1 : _ / 2 ^ 18 % 2 ^ 3 = 0 := val_clear _ _ 18 3 ha rfl
  have z2 : _ / 2 ^ 10 % 2 ^ 8 = 0 := val_clear _ _ 10 8 ha rfl
  rw [← hn] at g0 g1 g2 c0 z0 z1 z2
  show decodeMuleNat w.toNat = _
  delta decodeMuleNat
  rw [c0]
  show row w.toNat [(24, 3, .d), (18, 3, .b), (10, 8, .imm)] (.muleFwait (fld w.toNat 21 3) (fld w.toNat 5 5) (fld w.toNat 0 5)) = _
  rw [g0, g1, g2]
  exact row_ok _ _ _ hw (List.forall_mem_cons.2 ⟨z0, List.forall_mem_cons.2 ⟨z1, List.forall_mem_cons.2 ⟨z2, fun _ h => nomatch h⟩⟩⟩)

theorem muleFset : ∀ va vo vf, Statement (.muleFset va vo vf) := by
  intro va vo vf
  refine encodes_of _ .mule [⟨21, 3, va⟩, ⟨5, 5, vo⟩, ⟨0, 5, vf⟩] 0x90000000 rfl rfl rfl rfl rfl fun hw w hn => ?_
  have ha : apart [⟨21, 3, va⟩, ⟨5, 5, vo⟩, ⟨0, 5, vf⟩] 0x90000000 = true := rfl
  have g0 := fld_val _ _ 0 21 3 va ha rfl
  have g1 := fld_val _ _ 1 5 5 vo ha rfl
  have g2 := fld_val _ _ 2 0 5 vf ha rfl
  have c0 : _ / 2 ^ 27 % 2 ^ 5 = 0x12 := val_clear _ _ 27 5 ha rfl
  have z0 : _ / 2 ^ 24 % 2 ^ 3 = 0 := val_clear _ _ 24 3 ha rfl
  have z1 : _ / 2 ^ 18 % 2 ^ 3 = 0 := val_clear _ _ 18 3 ha rfl
  have z2 : _ / 2 ^ 10 % 2 ^ 8 = 0 := val_clear _ _ 10 8 ha rfl
  rw [← hn] at g0 g1 g2 c0 z0 z1 z2
  show decodeMuleNat w.toNat = _
  delta decodeMuleNat
  rw [c0]
  show row w.toNat [(24, 3, .d), (18, 3, .b), (10, 8, .imm)] (.muleFset (fld w.toNat 21 3) (fld w.toNat 5 5) (fld w.toNat 0 5)) = _
  rw [g0, g1, g2]
  exact row_ok _ _ _ hw (List.forall_mem_cons.2 ⟨z0, List.forall_mem_cons.2 ⟨z1, List.forall_mem_cons.2 ⟨z2, fun _ h => nomatch h⟩⟩⟩)

theorem muleFence : ∀ vo vk, Statement (.muleFence vo vk) := by
  intro vo vk
  refine encodes_of _ .mule [⟨2, 5, vo⟩, ⟨0, 2, vk⟩] 0x98000000 rfl rfl rfl rfl rfl fun hw w hn => ?_
  have ha : apart [⟨2, 5, vo⟩, ⟨0, 2, vk⟩] 0x98000000 = true := rfl
  have g0 := fld_val _ _ 0 2 5 vo ha rfl
  have g1 := fld_val _ _ 1 0 2 vk ha rfl
  have c0 : _ / 2 ^ 27 % 2 ^ 5 = 0x13 := val_clear _ _ 27 5 ha rfl
  have z0 : _ / 2 ^ 24 % 2 ^ 3 = 0 := val_clear _ _ 24 3 ha rfl
  have z1 : _ / 2 ^ 21 % 2 ^ 3 = 0 := val_clear _ _ 21 3 ha rfl
  have z2 : _ / 2 ^ 18 % 2 ^ 3 = 0 := val_clear _ _ 18 3 ha rfl
  have z3 : _ / 2 ^ 7 % 2 ^ 11 = 0 := val_clear _ _ 7 11 ha rfl
  rw [← hn] at g0 g1 c0 z0 z1 z2 z3
  show decodeMuleNat w.toNat = _
  delta decodeMuleNat
  rw [c0]
  show row w.toNat [(24, 3, .d), (21, 3, .a), (18, 3, .b), (7, 11, .imm)] (.muleFence (fld w.toNat 2 5) (fld w.toNat 0 2)) = _
  rw [g0, g1]
  exact row_ok _ _ _ hw (List.forall_mem_cons.2 ⟨z0, List.forall_mem_cons.2 ⟨z1, List.forall_mem_cons.2 ⟨z2, List.forall_mem_cons.2 ⟨z3, fun _ h => nomatch h⟩⟩⟩⟩)

theorem muleLd : ∀ vd va vi, Statement (.muleLd vd va vi) := by
  intro vd va vi
  refine encodes_of _ .mule [⟨24, 3, vd⟩, ⟨21, 3, va⟩, ⟨0, 18, vi⟩] 0xa0000000 rfl rfl rfl rfl rfl fun hw w hn => ?_
  have ha : apart [⟨24, 3, vd⟩, ⟨21, 3, va⟩, ⟨0, 18, vi⟩] 0xa0000000 = true := rfl
  have g0 := fld_val _ _ 0 24 3 vd ha rfl
  have g1 := fld_val _ _ 1 21 3 va ha rfl
  have g2 := fld_val _ _ 2 0 18 vi ha rfl
  have c0 : _ / 2 ^ 27 % 2 ^ 5 = 0x14 := val_clear _ _ 27 5 ha rfl
  have z0 : _ / 2 ^ 18 % 2 ^ 3 = 0 := val_clear _ _ 18 3 ha rfl
  rw [← hn] at g0 g1 g2 c0 z0
  show decodeMuleNat w.toNat = _
  delta decodeMuleNat
  rw [c0]
  show row w.toNat [(18, 3, .b)] (.muleLd (fld w.toNat 24 3) (fld w.toNat 21 3) (fld w.toNat 0 18)) = _
  rw [g0, g1, g2]
  exact row_ok _ _ _ hw (List.forall_mem_cons.2 ⟨z0, fun _ h => nomatch h⟩)

theorem muleSt : ∀ va vb vi, Statement (.muleSt va vb vi) := by
  intro va vb vi
  refine encodes_of _ .mule [⟨21, 3, va⟩, ⟨18, 3, vb⟩, ⟨0, 18, vi⟩] 0xa8000000 rfl rfl rfl rfl rfl fun hw w hn => ?_
  have ha : apart [⟨21, 3, va⟩, ⟨18, 3, vb⟩, ⟨0, 18, vi⟩] 0xa8000000 = true := rfl
  have g0 := fld_val _ _ 0 21 3 va ha rfl
  have g1 := fld_val _ _ 1 18 3 vb ha rfl
  have g2 := fld_val _ _ 2 0 18 vi ha rfl
  have c0 : _ / 2 ^ 27 % 2 ^ 5 = 0x15 := val_clear _ _ 27 5 ha rfl
  have z0 : _ / 2 ^ 24 % 2 ^ 3 = 0 := val_clear _ _ 24 3 ha rfl
  rw [← hn] at g0 g1 g2 c0 z0
  show decodeMuleNat w.toNat = _
  delta decodeMuleNat
  rw [c0]
  show row w.toNat [(24, 3, .d)] (.muleSt (fld w.toNat 21 3) (fld w.toNat 18 3) (fld w.toNat 0 18)) = _
  rw [g0, g1, g2]
  exact row_ok _ _ _ hw (List.forall_mem_cons.2 ⟨z0, fun _ h => nomatch h⟩)

theorem muleMfsr : ∀ vd vn, Statement (.muleMfsr vd vn) := by
  intro vd vn
  refine encodes_of _ .mule [⟨24, 3, vd⟩, ⟨0, 12, vn⟩] 0xb0000000 rfl rfl rfl rfl rfl fun hw w hn => ?_
  have ha : apart [⟨24, 3, vd⟩, ⟨0, 12, vn⟩] 0xb0000000 = true := rfl
  have g0 := fld_val _ _ 0 24 3 vd ha rfl
  have g1 := fld_val _ _ 1 0 12 vn ha rfl
  have c0 : _ / 2 ^ 27 % 2 ^ 5 = 0x16 := val_clear _ _ 27 5 ha rfl
  have z0 : _ / 2 ^ 21 % 2 ^ 3 = 0 := val_clear _ _ 21 3 ha rfl
  have z1 : _ / 2 ^ 18 % 2 ^ 3 = 0 := val_clear _ _ 18 3 ha rfl
  have z2 : _ / 2 ^ 12 % 2 ^ 6 = 0 := val_clear _ _ 12 6 ha rfl
  rw [← hn] at g0 g1 c0 z0 z1 z2
  show decodeMuleNat w.toNat = _
  delta decodeMuleNat
  rw [c0]
  show row w.toNat [(21, 3, .a), (18, 3, .b), (12, 6, .imm)] (.muleMfsr (fld w.toNat 24 3) (fld w.toNat 0 12)) = _
  rw [g0, g1]
  exact row_ok _ _ _ hw (List.forall_mem_cons.2 ⟨z0, List.forall_mem_cons.2 ⟨z1, List.forall_mem_cons.2 ⟨z2, fun _ h => nomatch h⟩⟩⟩)

theorem muleMtsr : ∀ va vn, Statement (.muleMtsr va vn) := by
  intro va vn
  refine encodes_of _ .mule [⟨21, 3, va⟩, ⟨0, 12, vn⟩] 0xb8000000 rfl rfl rfl rfl rfl fun hw w hn => ?_
  have ha : apart [⟨21, 3, va⟩, ⟨0, 12, vn⟩] 0xb8000000 = true := rfl
  have g0 := fld_val _ _ 0 21 3 va ha rfl
  have g1 := fld_val _ _ 1 0 12 vn ha rfl
  have c0 : _ / 2 ^ 27 % 2 ^ 5 = 0x17 := val_clear _ _ 27 5 ha rfl
  have z0 : _ / 2 ^ 24 % 2 ^ 3 = 0 := val_clear _ _ 24 3 ha rfl
  have z1 : _ / 2 ^ 18 % 2 ^ 3 = 0 := val_clear _ _ 18 3 ha rfl
  have z2 : _ / 2 ^ 12 % 2 ^ 6 = 0 := val_clear _ _ 12 6 ha rfl
  rw [← hn] at g0 g1 c0 z0 z1 z2
  show decodeMuleNat w.toNat = _
  delta decodeMuleNat
  rw [c0]
  show row w.toNat [(24, 3, .d), (18, 3, .b), (12, 6, .imm)] (.muleMtsr (fld w.toNat 21 3) (fld w.toNat 0 12)) = _
  rw [g0, g1]
  exact row_ok _ _ _ hw (List.forall_mem_cons.2 ⟨z0, List.forall_mem_cons.2 ⟨z1, List.forall_mem_cons.2 ⟨z2, fun _ h => nomatch h⟩⟩⟩)

theorem nest : ∀ x0, Statement (.nest x0) := by
  intros; intro sp hs; cases hs

theorem fmtld : ∀ x0, Statement (.fmtld x0) := by
  intros; intro sp hs; cases hs

theorem cstld : ∀ x0, Statement (.cstld x0) := by
  intros; intro sp hs; cases hs

theorem copy : ∀ x0, Statement (.copy x0) := by
  intros; intro sp hs; cases hs

theorem copyr : ∀ x0, Statement (.copyr x0) := by
  intros; intro sp hs; cases hs

theorem tmove : ∀ x0, Statement (.tmove x0) := by
  intros; intro sp hs; cases hs

theorem coll : ∀ x0, Statement (.coll x0) := by
  intros; intro sp hs; cases hs

theorem join : ∀ x0, Statement (.join x0) := by
  intros; intro sp hs; cases hs

theorem rstore : ∀ x0, Statement (.rstore x0) := by
  intros; intro sp hs; cases hs

theorem spred : ∀ x0, Statement (.spred x0) := by
  intros; intro sp hs; cases hs

theorem dispx : ∀ x0, Statement (.dispx x0) := by
  intros; intro sp hs; cases hs

theorem abort : ∀ x0, Statement (.abort x0) := by
  intros; intro sp hs; cases hs

theorem accreg : ∀ x0, Statement (.accreg x0) := by
  intros; intro sp hs; cases hs

theorem accfree : ∀ x0, Statement (.accfree x0) := by
  intros; intro sp hs; cases hs

theorem xbreg : ∀ x0, Statement (.xbreg x0) := by
  intros; intro sp hs; cases hs

theorem mrun : ∀ x0, Statement (.mrun x0) := by
  intros; intro sp hs; cases hs

theorem mload : ∀ x0, Statement (.mload x0) := by
  intros; intro sp hs; cases hs

theorem inputFifoAppend : ∀ x0 x1, Statement (.inputFifoAppend x0 x1) := by
  intros; intro sp hs; cases hs

theorem outputFifoPop : ∀ x0 x1, Statement (.outputFifoPop x0 x1) := by
  intros; intro sp hs; cases hs

theorem mxgo : ∀ x0, Statement (.mxgo x0) := by
  intros; intro sp hs; cases hs

theorem mlgo : ∀ x0, Statement (.mlgo x0) := by
  intros; intro sp hs; cases hs

theorem fstatWrite : ∀ x0, Statement (.fstatWrite x0) := by
  intros; intro sp hs; cases hs

theorem pshareWrite : ∀ x0 x1, Statement (.pshareWrite x0 x1) := by
  intros; intro sp hs; cases hs

theorem paceWrite : ∀ x0 x1, Statement (.paceWrite x0 x1) := by
  intros; intro sp hs; cases hs

theorem preempt : ∀ x0, Statement (.preempt x0) := by
  intros; intro sp hs; cases hs

theorem endtask : ∀ x0, Statement (.endtask x0) := by
  intros; intro sp hs; cases hs

theorem registerWrite : ∀ x0 x1, Statement (.registerWrite x0 x1) := by
  intros; intro sp hs; cases hs

theorem ringRegisterWrite : ∀ x0 x1 x2, Statement (.ringRegisterWrite x0 x1 x2) := by
  intros; intro sp hs; cases hs

theorem secondStageEntryWrite : ∀ x0 x1, Statement (.secondStageEntryWrite x0 x1) := by
  intros; intro sp hs; cases hs

theorem packetConsume : ∀ x0 x1, Statement (.packetConsume x0 x1) := by
  intros; intro sp hs; cases hs

theorem operatorChain : ∀ x0 x1 x2, Statement (.operatorChain x0 x1 x2) := by
  intros; intro sp hs; cases hs

theorem accountOpen : ∀ x0 x1 x2, Statement (.accountOpen x0 x1 x2) := by
  intros; intro sp hs; cases hs

theorem accountCredit : ∀ x0 x1 x2, Statement (.accountCredit x0 x1 x2) := by
  intros; intro sp hs; cases hs

theorem accountWithdraw : ∀ x0 x1 x2, Statement (.accountWithdraw x0 x1 x2) := by
  intros; intro sp hs; cases hs

theorem accountFreeze : ∀ x0 x1 x2, Statement (.accountFreeze x0 x1 x2) := by
  intros; intro sp hs; cases hs

theorem accountThaw : ∀ x0 x1 x2, Statement (.accountThaw x0 x1 x2) := by
  intros; intro sp hs; cases hs

theorem accountSetlow : ∀ x0 x1 x2, Statement (.accountSetlow x0 x1 x2) := by
  intros; intro sp hs; cases hs

theorem accountClose : ∀ x0 x1 x2, Statement (.accountClose x0 x1 x2) := by
  intros; intro sp hs; cases hs

theorem accountRead : ∀ x0 x1 x2, Statement (.accountRead x0 x1 x2) := by
  intros; intro sp hs; cases hs

theorem prefixExport : ∀ x0 x1 x2, Statement (.prefixExport x0 x1 x2) := by
  intros; intro sp hs; cases hs

theorem prefixImport : ∀ x0 x1 x2, Statement (.prefixImport x0 x1 x2) := by
  intros; intro sp hs; cases hs

theorem noOpPacket : ∀ x0 x1 x2, Statement (.noOpPacket x0 x1 x2) := by
  intros; intro sp hs; cases hs

theorem pageInvalidation : ∀ x0 x1 x2, Statement (.pageInvalidation x0 x1 x2) := by
  intros; intro sp hs; cases hs

theorem attestationRequest : ∀ x0 x1 x2, Statement (.attestationRequest x0 x1 x2) := by
  intros; intro sp hs; cases hs

theorem recordExpansion : ∀ x0 x1 x2, Statement (.recordExpansion x0 x1 x2) := by
  intros; intro sp hs; cases hs

theorem functionLevelReset : ∀ x0, Statement (.functionLevelReset x0) := by
  intros; intro sp hs; cases hs

theorem powerOn : ∀ x0, Statement (.powerOn x0) := by
  intros; intro sp hs; cases hs

theorem hostWrite : ∀ x0 x1 x2, Statement (.hostWrite x0 x1 x2) := by
  intros; intro sp hs; cases hs

theorem hostRead : ∀ x0 x1 x2, Statement (.hostRead x0 x1 x2) := by
  intros; intro sp hs; cases hs

theorem pcieCompletion : ∀ x0 x1, Statement (.pcieCompletion x0 x1) := by
  intros; intro sp hs; cases hs

theorem pcieCompletionTimeout : ∀ x0, Statement (.pcieCompletionTimeout x0) := by
  intros; intro sp hs; cases hs

theorem pageWalk : ∀ x0, Statement (.pageWalk x0) := by
  intros; intro sp hs; cases hs

theorem migrationStoreRetry : ∀ x0, Statement (.migrationStoreRetry x0) := by
  intros; intro sp hs; cases hs

theorem invalidationComplete : ∀ x0, Statement (.invalidationComplete x0) := by
  intros; intro sp hs; cases hs

theorem dataAccessPerform : ∀ x0, Statement (.dataAccessPerform x0) := by
  intros; intro sp hs; cases hs

theorem slotWriteApply : ∀ x0 x1, Statement (.slotWriteApply x0 x1) := by
  intros; intro sp hs; cases hs

theorem expiryMark : ∀ x0 x1, Statement (.expiryMark x0 x1) := by
  intros; intro sp hs; cases hs

theorem codeRegionCrossing : ∀ x0 x1, Statement (.codeRegionCrossing x0 x1) := by
  intros; intro sp hs; cases hs

theorem messageQueueAppend : ∀ x0, Statement (.messageQueueAppend x0) := by
  intros; intro sp hs; cases hs

theorem mqAcknowledgement : ∀ x0, Statement (.mqAcknowledgement x0) := by
  intros; intro sp hs; cases hs

theorem resumeNotice : ∀ x0, Statement (.resumeNotice x0) := by
  intros; intro sp hs; cases hs

theorem mqPollResend : ∀ x0 x1, Statement (.mqPollResend x0 x1) := by
  intros; intro sp hs; cases hs

theorem ringClaimGrant : ∀ x0 x1, Statement (.ringClaimGrant x0 x1) := by
  intros; intro sp hs; cases hs

theorem accumulateWrite : ∀ x0 x1, Statement (.accumulateWrite x0 x1) := by
  intros; intro sp hs; cases hs

theorem waitaPoll : ∀ x0, Statement (.waitaPoll x0) := by
  intros; intro sp hs; cases hs

theorem tickBoundary : ∀ x0 x1, Statement (.tickBoundary x0 x1) := by
  intros; intro sp hs; cases hs

theorem leaseExpiry : ∀ x0 x1, Statement (.leaseExpiry x0 x1) := by
  intros; intro sp hs; cases hs

theorem hubDebit : ∀ x0, Statement (.hubDebit x0) := by
  intros; intro sp hs; cases hs

theorem rentDebitGrant : ∀ x0, Statement (.rentDebitGrant x0) := by
  intros; intro sp hs; cases hs

theorem deferredDebitRefusal : ∀ x0 x1, Statement (.deferredDebitRefusal x0 x1) := by
  intros; intro sp hs; cases hs

theorem meterRefusal : ∀ x0, Statement (.meterRefusal x0) := by
  intros; intro sp hs; cases hs

theorem scrubComplete : ∀ x0 x1, Statement (.scrubComplete x0 x1) := by
  intros; intro sp hs; cases hs

theorem tokenSignalApply : ∀ x0 x1, Statement (.tokenSignalApply x0 x1) := by
  intros; intro sp hs; cases hs

theorem sequencerUnblock : ∀ x0 x1, Statement (.sequencerUnblock x0 x1) := by
  intros; intro sp hs; cases hs

theorem lossOfDecoupling : ∀ x0 x1, Statement (.lossOfDecoupling x0 x1) := by
  intros; intro sp hs; cases hs

theorem commandDequeue : ∀ x0 x1, Statement (.commandDequeue x0 x1) := by
  intros; intro sp hs; cases hs

theorem commandCompletion : ∀ x0 x1 x2, Statement (.commandCompletion x0 x1 x2) := by
  intros; intro sp hs; cases hs

theorem matrixKstep : ∀ x0, Statement (.matrixKstep x0) := by
  intros; intro sp hs; cases hs

theorem hadamardPrepass : ∀ x0, Statement (.hadamardPrepass x0) := by
  intros; intro sp hs; cases hs

theorem drainRowWrite : ∀ x0, Statement (.drainRowWrite x0) := by
  intros; intro sp hs; cases hs

theorem copyBeat : ∀ x0 x1, Statement (.copyBeat x0 x1) := by
  intros; intro sp hs; cases hs

theorem ballastKstep : ∀ x0, Statement (.ballastKstep x0) := by
  intros; intro sp hs; cases hs

theorem crossDieWriteApply : ∀ x0 x1, Statement (.crossDieWriteApply x0 x1) := by
  intros; intro sp hs; cases hs

theorem appliedVectorUpdate : ∀ x0, Statement (.appliedVectorUpdate x0) := by
  intros; intro sp hs; cases hs

theorem remoteFlagOperation : ∀ x0, Statement (.remoteFlagOperation x0) := by
  intros; intro sp hs; cases hs

theorem oxVectorExamine : ∀ x0 x1, Statement (.oxVectorExamine x0 x1) := by
  intros; intro sp hs; cases hs

theorem launchSelection : ∀ x0, Statement (.launchSelection x0) := by
  intros; intro sp hs; cases hs

theorem taskStart : ∀ x0, Statement (.taskStart x0) := by
  intros; intro sp hs; cases hs

theorem imageStore : ∀ x0, Statement (.imageStore x0) := by
  intros; intro sp hs; cases hs

theorem taskRetirement : ∀ x0, Statement (.taskRetirement x0) := by
  intros; intro sp hs; cases hs

theorem launchCompletion : ∀ x0 x1, Statement (.launchCompletion x0 x1) := by
  intros; intro sp hs; cases hs

theorem preemptionRequest : ∀ x0 x1, Statement (.preemptionRequest x0 x1) := by
  intros; intro sp hs; cases hs

theorem taskSaveComplete : ∀ x0, Statement (.taskSaveComplete x0) := by
  intros; intro sp hs; cases hs

theorem taskRestore : ∀ x0, Statement (.taskRestore x0) := by
  intros; intro sp hs; cases hs

theorem trapEntry : ∀ x0, Statement (.trapEntry x0) := by
  intros; intro sp hs; cases hs

theorem deferredFault : ∀ x0 x1, Statement (.deferredFault x0 x1) := by
  intros; intro sp hs; cases hs

theorem firmwareContextFault : ∀ x0 x1 x2, Statement (.firmwareContextFault x0 x1 x2) := by
  intros; intro sp hs; cases hs

theorem watchdog : ∀ x0, Statement (.watchdog x0) := by
  intros; intro sp hs; cases hs

theorem joinArrival : ∀ x0 x1 x2 x3, Statement (.joinArrival x0 x1 x2 x3) := by
  intros; intro sp hs; cases hs

theorem ready : ∀ x0 x1 x2, Statement (.ready x0 x1 x2) := by
  intros; intro sp hs; cases hs

theorem windowAbort : ∀ x0 x1 x2, Statement (.windowAbort x0 x1 x2) := by
  intros; intro sp hs; cases hs

theorem denseContribution : ∀ x0 x1 x2 x3 x4 x5 x6 x7, Statement (.denseContribution x0 x1 x2 x3 x4 x5 x6 x7) := by
  intros; intro sp hs; cases hs

theorem ganderInputWord : ∀ x0 x1 x2 x3 x4, Statement (.ganderInputWord x0 x1 x2 x3 x4) := by
  intros; intro sp hs; cases hs

theorem ganderBlockEmit : ∀ x0 x1 x2, Statement (.ganderBlockEmit x0 x1 x2) := by
  intros; intro sp hs; cases hs

theorem windowResultWrite : ∀ x0 x1 x2 x3 x4, Statement (.windowResultWrite x0 x1 x2 x3 x4) := by
  intros; intro sp hs; cases hs

theorem windowCompletion : ∀ x0 x1 x2 x3, Statement (.windowCompletion x0 x1 x2 x3) := by
  intros; intro sp hs; cases hs

theorem dispatchRowArrival : ∀ x0 x1, Statement (.dispatchRowArrival x0 x1) := by
  intros; intro sp hs; cases hs

theorem linkFailure : ∀ x0, Statement (.linkFailure x0) := by
  intros; intro sp hs; cases hs

theorem controlIntervalBoundary : ∀ x0 x1, Statement (.controlIntervalBoundary x0 x1) := by
  intros; intro sp hs; cases hs

theorem clockRelock : Statement .clockRelock := by
  intro sp hs; cases hs

theorem collectiveSend : ∀ x0 x1, Statement (.collectiveSend x0 x1) := by
  intros; intro sp hs; cases hs

theorem linkTrained : ∀ x0 x1 x2 x3, Statement (.linkTrained x0 x1 x2 x3) := by
  intros; intro sp hs; cases hs


end Sys2Proof.Laws.Encodes
end

