-- ==== Sys2Proof/Tests/Slice0.lean ====
section
/-! SUPPORT. The tests of the model: ill-formed terms that the check refuses, words written out from the manual's encodings, and, for the
statements with hypotheses, small states that meet them. -/

namespace Sys2Proof.Tests

set_option maxRecDepth 100000
set_option exponentiation.threshold 4096

open Sys2Proof Sys2Proof.Machine

/-! ### Small states -/

/-- A descriptor of slot `v`, kind, tier, permission bits [13:8], base and bound (R16). -/
def desc (kind tier flags base bound : Nat) : BitVec 256 :=
  BitVec.ofNat 256 (1 + kind * 2 + tier * 16 + flags * 2 ^ 8 + base * 2 ^ 32 + bound * 2 ^ 96)

/-- Core 0's segment table: its near store, a tier-3 segment, a sync segment of its near store, a message queue, a host segment, a pageable
segment and a cluster-store segment. -/
def labTable : SMap (BitVec 256) :=
  [(0, desc 0 1 0x0F 0 0x180000), (1, desc 0 3 0x0F 0x40000 0x10000), (2, desc 0 1 0x23 0x1000 0x1000), (3, desc 2 1 2 0x2000 64),
   (4, desc 0 4 0x03 0 0x10000), (5, desc 1 3 0x03 0x10000 0x10000), (6, desc 0 2 0x03 0 0x10000)]

/-- Core 0 with a task of 144 slots whose sequencers all stand in RUN. -/
def labTask : TaskCtx :=
  { id := { nslot := 144 }, load := { st := .run }, compute := { st := .run }, store := { st := .run }, mule := { st := .run } }

/-- A state of core 0 with a task given, its segment table and the lease of its near store, for an agent that issues. -/
def lab (a : Agent := .control) (t : TaskCtx := labTask) : State :=
  { cores := [(0, { residency := .resident, task := t, table := labTable })]
    units := [(0, { leases := [(0, { st := .active, paid := 1, ngran := 0x6000, base := nearPlace 0 0, tier := 1 })] })]
    hub := { accounts := [(0, { ast := 1, allow := 1000 })]
             functions := [(0, { sstage := BitVec.ofNat 128 (2 ^ 64 + 0x100 * 2 ^ 80), enabled := true })] }
    cur := { core := 0, agent := a } }

/-- `lab` with registers x of the task. -/
def labX (x : SMap DWord) : State := lab .control { labTask with regs := { x := x } }

/-- The parts of `SegmentOk`, to be evaluated. -/
theorem segmentOk_of {s : State} {va : DWord} {n : Nat} {mode : Mode}
    (h : (s.core s.cur.core).expired.get (vaSlot va) false = false ∧ (s.seg va).v = true ∧ (s.seg va).bad = false ∧
      (match mode with | .load => (s.seg va).r | .store => (s.seg va).w | .fetch => (s.seg va).x) = true ∧
      vaOff va + n ≤ (s.seg va).bound) : SegmentOk s va n mode := ⟨h.1, h.2.1, h.2.2.1, h.2.2.2.1, h.2.2.2.2⟩

/-- The parts of `OwnNear`, to be evaluated. -/
theorem ownNear_of {s : State} {va : DWord} {n : Nat} {k : Bool} {mode : Mode} (g : SegmentOk s va n mode)
    (h : (s.seg va).tier = 1 ∧ (s.seg va).kind = 0 ∧ (s.seg va).homeCore = s.cur.core ∧ s.liveIds = [] ∧
      s.unitReady ((s.seg va).hdie * 32 + (s.seg va).hcl) = true ∧
      s.leaseOk ((s.seg va).hdie * 32 + (s.seg va).hcl) (s.seg va).lease (BitVec.ofNat 8 (s.seg va).lgen) (s.nearBytes va n k) [] = true) :
    OwnNear s va n k mode := ⟨g, h.1, h.2.1, h.2.2.1, h.2.2.2.1, h.2.2.2.2.1, h.2.2.2.2.2⟩

/-- The parts of `LeavesCore`, to be evaluated. -/
theorem leavesCore_of {s : State} {va : DWord} {n : Nat} {mode : Mode} (g : SegmentOk s va n mode)
    (h : ((s.seg va).tier ≠ 1 ∨ (s.seg va).kind ≠ 0) ∧ (s.seg va).kind ≠ 2 ∧ s.liveIds = []) : LeavesCore s va n mode :=
  ⟨g, h.1, h.2.1, h.2.2⟩

/-- The parts of `AtHome`, to be evaluated. -/
theorem atHome_of {s : State} {a : Access}
    (h : s.access a.id = some a ∧ a.held = false ∧ a.lag = 0 ∧ a.walk = false ∧ a.migWait = false ∧ s.anyLive a.after = false ∧
      s.transit.any (fun x => s.sameLocation x a) = false ∧ a.bad = none ∧ a.isFence = false ∧ a.ofTransfer = false ∧
      s.unitReady a.unit = true ∧ s.meets a [] = none) : AtHome s a := by
  obtain ⟨h1, h2, h3, h4, h5, h6, h7, h8, h9, h10, h11, h12⟩ := h
  exact ⟨h1, h2, h3, h4, h5, h6, h7, h8, h9, h10, h11, h12⟩

/-- The parts of `VReady`, to be evaluated. -/
theorem vReady_of {s : State} {o : VOp}
    (h : (o.gate = true → s.stageOn = true) ∧ s.rowBreach o.d = false ∧ s.rowBreach o.a = false ∧ s.rowBreach o.b = false ∧
      s.rowOwned o.d = false ∧ (o.rowA = true → s.rowOwned o.a = false) ∧ s.queuesReady o false = true ∧ s.queuesReady o true = true ∧
      s.rowBad o.a = false ∧ s.rowBad o.b = false ∧ (o.dsrc = true → s.rowBad o.d = false)) :
    VReady s o := ⟨h.1, h.2.1, h.2.2.1, h.2.2.2.1, h.2.2.2.2.1, h.2.2.2.2.2.1, h.2.2.2.2.2.2.1, h.2.2.2.2.2.2.2.1, h.2.2.2.2.2.2.2.2.1,
      h.2.2.2.2.2.2.2.2.2.1, h.2.2.2.2.2.2.2.2.2.2⟩

/-- A value that an `Except` answers. -/
theorem ok_of {ε α : Type} {e : Except ε α} {p : α → Bool} (h : (match e with | .ok a => p a | .error _ => false) = true) :
    ∃ a, e = .ok a ∧ p a = true := by
  cases e with
  | ok a => exact ⟨a, rfl, h⟩
  | error f => simp at h

/-- A value that an `Option` answers. -/
theorem some_of {α : Type} {e : Option α} {p : α → Bool} (h : (match e with | some a => p a | none => false) = true) :
    ∃ a, e = some a ∧ p a = true := by
  cases e with
  | some a => exact ⟨a, rfl, h⟩
  | none => simp at h

/-! ### Ill-formed terms, one for each check (R222 to R239) -/

/-- Each check of `Instr.check` refuses a term that breaks it, and names the field. -/
theorem test_wf_control :
    (Instr.ldn 1 2 0 3 0 0).check = some .width ∧ (Instr.ld 1 2 0 2 2 0).check = some .strength ∧ (Instr.st 1 2 0 2 1 0).check = some .strength ∧
    (Instr.atomAdd 1 2 3 0 1 0).check = some .obs ∧ (Instr.br 0 1 2).check = some .imm ∧ (Instr.call 0 1 2).check = some .imm ∧
    (Instr.loop 0 4).check = some .d ∧ (Instr.loop 1 2).check = some .imm ∧ (Instr.mfsr 1 0 0 0x3F).check = some .imm ∧
    (Instr.mfsr 1 0 1 6).check = some .pred ∧ (Instr.mfsr 1 1 1 6).check = some .imm ∧ (Instr.mtsr 1 1 1 6).check = some .imm ∧
    (Instr.dset 0 1 0x023).check = some .opcode ∧ (Instr.dget 1 0 0x10D).check = some .opcode ∧ (Instr.sqstart 1 0).check = some .opcode ∧
    (Instr.sublet 1 2 31).check = some .b ∧ (Instr.lstat 31 1).check = some .d ∧ (Instr.pinval 1 2 31).check = some .b ∧
    (Instr.dispMx 0 0 0 0 0 0 0).check = some .imm := by decide

/-- The same for micro-orders and Mule's words. -/
theorem test_wf_micro :
    (Instr.vmov 0 0 1 0 0 0).check = some .hold ∧ (Instr.vmov 0 48 0 1 0 0).check = some .hold ∧ (Instr.vrd 32 48 0 0 0 0 0).check = some .d ∧
    (Instr.vrd 0 0 0 0 0 0 0).check = some .a ∧ (Instr.vrd 0 48 1 1 0 0 0).check = some .hold ∧ (Instr.vwr 0 0 0 0 0 0 0).check = some .d ∧
    (Instr.vwr 48 32 0 0 0 0 0).check = some .a ∧ (Instr.vsel 0 0 0 0 1 0 0).check = some .hold ∧ (Instr.vceqI 0 8 0 0 0 0 0 0).check = some .d ∧
    (Instr.vaddF 3 0 0 0 0 0 0 0 0).check = some .opcode ∧ (Instr.vfma 0 0 32 0 0 0 0 0 0).check = some .d ∧
    (Instr.vcvt 1 0 0 0 0 1 0 0 0 0).check = some .b ∧ (Instr.vcvt 0 0 0 0 0 1 0 0 0 0).check = some .b ∧
    (Instr.vpack 32 0 0 0 0 0 0 0 0).check = some .d ∧ (Instr.vexp2 3 0 0 0 0 0).check = some .opcode ∧ (Instr.vsnap 0 0 0 0 0).check = some .a ∧
    (Instr.vrot 15).check = some .a ∧ (Instr.vmfsr 0 0 5).check = some .imm ∧ (Instr.vmfsr 1 0 6).check = some .d ∧
    (Instr.vmtsr 0 0 0).check = some .imm ∧ (Instr.vloop 15 0).check = some .d ∧ (Instr.ldq 8 0 0 0 0 0).check = some .d ∧
    (Instr.stq 7 0 0 0 0 0).check = some .d ∧ (Instr.amfsr 0 0 5).check = some .imm ∧ (Instr.amtsr 0 0 0 6).check = some .imm ∧
    (Instr.muleAgdim 0 0 1 1).check = some .imm ∧ (Instr.muleAgind 1 1 0).check = some .a ∧ (Instr.muleMx 0 0 3).check = some .imm ∧
    (Instr.muleEx 0 0 3 0).check = some .imm ∧ (Instr.muleFence 1 3).check = some .imm ∧ (Instr.muleMfsr 0 2).check = some .imm ∧
    (Instr.muleMtsr 0 1).check = some .imm := by decide

/-! ### Words written out from the manual's encodings -/

/-- Format R (R223): `add x5, x6, x7` has group 0, function 0, d 5, a 6, b 7. -/
theorem test_decode_add : (decodeIn .control 0x00A63800).toOption = some (.add 5 6 7) := by decide
/-- Format M (R224): `ld.b32.acq.oyc x8, 4(x9)`. -/
theorem test_decode_ld : (decodeIn .control 0x31094004).toOption = some (.ld 8 9 0 2 0 4) := by decide
/-- Format M with a strength and a mask (R224, R229). -/
theorem test_decode_ld_acquire : (decodeIn .control 0x308948C2).toOption = some (.ld 4 9 0 2 1 0x0C2) := by decide
/-- An atomic (R229). -/
theorem test_decode_atomAdd : (decodeIn .control 0x3CA63C18).toOption = some (.atomAdd 5 6 7 2 1 1) := by decide
/-- A dispatch (R227). -/
theorem test_decode_dispCp : (decodeIn .control 0x819D4860).toOption = some (.dispCp 1 3 1 5 1 0 12) := by decide
/-- A dispatch without tokens (R227). -/
theorem test_decode_dispCp_plain : (decodeIn .control 0x81000860).toOption = some (.dispCp 0 0 0 0 1 0 12) := by decide
/-- The status of a sequencer (R264). -/
theorem test_decode_sqstat : (decodeIn .control 0x5CE0000F).toOption = some (.sqstat 7 3) := by decide
/-- A vector micro-order (R231). -/
theorem test_decode_vaddF : (decodeIn .vector 0x40C70DA0).toOption = some (.vaddF 0 0 0x31 0x30 0x36 1 0 0 0) := by decide
/-- A fused multiply-add (R231, R235). -/
theorem test_decode_vfma : (decodeIn .vector 0x5FD05E56).toOption = some (.vfma 1 3 0x34 5 0x39 0 1 3 0) := by decide
/-- A load micro-order (R303). -/
theorem test_decode_ldq : (decodeIn .access 0x048D2008).toOption = some (.ldq 2 3 4 1 0 8) := by decide
/-- Words of Mule's control store (R317, R318). -/
theorem test_decode_mule :
    (decodeIn .mule 0x32000060).toOption = some (.muleSeti 2 0x60) ∧ (decodeIn .mule 0x60800002).toOption = some (.muleMx 4 0 2) ∧
    (decodeIn .mule 0x22000003).toOption = some (.muleLoop 2 3) ∧ (decodeIn .mule 0x5B000000).toOption = some (.muleAgrun 3) ∧
    (decodeIn .mule 0x70B80000).toOption = some (.muleEx 5 6 0 0) ∧ (decodeIn .mule 0x08000000).toOption = some .muleHalt := by decide

/-! ### The manual's worked examples -/

/-- The address of R12's example names slot 3 at offset 0x1_2340. -/
theorem test_slot_of_address : vaSlot 0x0C00000000012340 = 3 ∧ vaOff 0x0C00000000012340 = 0x12340 := by decide

/-- The two rent costs worked under R7. -/
theorem test_rent_costs : roundUp 40 (granule 1 false) * 100 * tierRate 1 = 204800 ∧ granule 0 false * 1 * tierRate 0 = 1048576 := by decide

/-- The bank of R39's example. -/
theorem test_near_store_bank : bankOf false 0x0C1238 = 7 := by decide

/-- Worked roundings to e4m3 and bf16 (chapter 6). -/
theorem test_roundings_small :
    convert .f32 .e4m3 .nearestEven false 0x3E99999A = (0x2A, fstNX) ∧ convert .f32 .e4m3 .towardZero false 0x3E99999A = (0x29, fstNX) ∧
    convert .f32 .bf16 .nearestEven false 0x3EAAAAAB = (0x3EAB, fstNX) ∧ convert .f32 .e4m3 .nearestEven false 0x43E60000 = (0x7E, fstNX) := by decide

/-- Worked roundings that overflow (chapter 6). -/
theorem test_roundings_overflow :
    convert .f32 .e4m3 .nearestEven true 0x43FA0000 = (0x7E, fstOF ||| fstSAT ||| fstNX) ∧
    convert .f32 .e4m3 .nearestEven false 0x43FA0000 = (0x7F, fstOF ||| fstNX) ∧
    convert .f32 .f16 .nearestEven false 0x4788B800 = (0x7C00, fstOF ||| fstNX) ∧
    convert .f32 .e4m3 .nearestEven true 0x7F800000 = (0x7E, fstSAT) ∧ convert .f32 .e4m3 .nearestEven false 0x7F800000 = (0x7F, fstNV) := by decide

/-- Worked roundings to integers (chapter 6). -/
theorem test_roundings_integer :
    convert .f32 .i8 .nearestEven false 0xC0200000 = (0xFE, fstNX) ∧ convert .f32 .i8 .nearestEven false 0x43960000 = (0x7F, fstSAT ||| fstNX) ∧
    convert .f32 .i16 .nearestEven false 0xFF800000 = (0x8000, fstNV) := by decide

/-- The i4g example under R136: q = −3, s = 1.5 and z = 1.0 give −6.0. -/
theorem test_group_weight : expandWeight (-3) 0x3E 0x3F80 = 0xC0C0 := by decide

/-- The four k-steps worked under R138: 2 ^ 24, 1, 1, −2 ^ 24 end at +0, and in the other order at 2.0. -/
theorem test_ksteps_order :
    let k (c : Nat) (a b : Nat) : Nat := (accumulate .f32 .nearestEven c (Num.ofBits .bf16 a) (Num.ofBits .bf16 b)).1
    k (k (k (k 0 0x4580 0x4580) 0x3F80 0x3F80) 0x3F80 0x3F80) 0xC580 0x4580 = 0 ∧
    k (k (k (k 0 0x3F80 0x3F80) 0x3F80 0x3F80) 0x4580 0x4580) 0xC580 0x4580 = 0x40000000 := by decide

/-- The two examples under R284. -/
theorem test_exponent_unit : expUnit 0 .f32 0x43480000 = (0x7F800000, fstOF ||| fstNX) ∧ expUnit 1 .f32 0x40800000 = (0x3E800000, 0) := by decide

/-- The launch of the worked group (chapter 8), with the row strides of the worked images. -/
def gramLaunch : Launch :=
  let r : LaunchRec := { symw := 0x0002000040800080, order := 0, rdim := 0, cdim := 1, ext := [4, 4], ots := [65536, 256], ors := 1024, rank := 2 }
  let g := r.group.getD ([], [])
  { id := 1, fn := 0, lrec := r, elems := g.1, chi := g.2 }

/-- The worked group: four elements, the six canonical vectors, and their stabilisers (R172). -/
theorem test_worked_group :
    gramLaunch.elems.length = 4 ∧ gramLaunch.elems.map (fun e => gramLaunch.lrec.apply e [0, 1]) = [[0, 1], [1, 0], [3, 2], [2, 3]] ∧
    ((List.range 16).map (fun n => [n / 4, n % 4])).filter gramLaunch.canonical = [[0, 0], [0, 1], [0, 2], [0, 3], [1, 1], [1, 2]] ∧
    [[0, 0], [0, 1], [0, 3], [1, 2]].map gramLaunch.stabiliser = [3, 1, 9, 9] := by decide

/-- The worked image of element 2: row 5 of tile (0, 1) lands in row 58 of tile (3, 2), element (5, 9) at offset 0x3_EAD8 (R175). -/
theorem test_worked_image :
    ((gramLaunch.elems[2]?.map (fun e => gramLaunch.imageIndex e 0 5 9)) = some 58) ∧
    (gramLaunch.elems[2]?.map (fun e => gramLaunch.imageIndex e 1 5 9)) = some 54 ∧
    (gramLaunch.elems[1]?.map (fun e => (gramLaunch.imageIndex e 0 5 9, gramLaunch.imageIndex e 1 5 9))) = some (9, 5) := by decide

/-- The worked encodings of chapter 12. -/
theorem test_worked_encodings :
    (decodeIn .control 0x48010000).toOption = some (.jr 0 1) ∧ (decodeIn .control 0x4CE0FFFC).toOption = some (.loop 7 0xFFFC) ∧
    (decodeIn .control 0x403FFFF4).toOption = some (.br 0 0 0x3FFFF4) ∧ (decodeIn .control 0x24650000).toOption = some (.ceqi 3 5 0) ∧
    (decodeIn .control 0x04A5000A).toOption = some (.pxor 5 5 0) ∧ (decodeIn .control 0x54050082).toOption = some (.mtsr 5 0 0 0x82) := by decide

/-! ### A word of every encoded instruction, from the match and the fields that the opcode table gives (R223 to R238) -/

theorem test_words_control_1 : ([
    (0x01139000, .add 8 0x13 0x12), (0x02627001, .sub 0x13 2 0xE), (0x022ED002, .and 0x11 0xE 0x1A),
    (0x02EDD803, .or 0x17 0xD 0x1B), (0x00302004, .xor 1 0x10 4), (0x02AE7005, .andn 0x15 0xE 0xE),
    (0x012E8006, .sll 9 0xE 0x10), (0x0122E807, .srl 9 2 0x1D), (0x0103F008, .sra 8 3 0x1E),
    (0x006A7009, .mul 3 0xA 0xE), (0x0124880A, .mulh 9 4 0x11), (0x012D900B, .mulhn 9 0xD 0x12),
    (0x00B8380C, .min 5 0x18 7), (0x0246200D, .max 0x12 6 4), (0x027C380E, .minn 0x13 0x1C 7),
    (0x00B7D80F, .maxn 5 0x17 0x1B)] : List (Word × Instr)).all (fun e => decide ((decodeIn .control e.1).toOption = some e.2)) = true := by decide

theorem test_words_control_2 : ([
    (0x03AA0010, .clz 0x1D 0xA), (0x02270011, .popc 0x11 7), (0x04BCD000, .ceq 5 0x1C 0x1A),
    (0x04AE8801, .cne 5 0xE 0x11), (0x045CF802, .clt 2 0x1C 0x1F), (0x04EBE803, .cge 7 0xB 0x1D),
    (0x04B04004, .cltn 5 0x10 8), (0x04385005, .cgen 1 0x18 0xA), (0x04E72808, .pand 7 7 5),
    (0x04252009, .por 1 5 4), (0x04E7080A, .pxor 7 7 1), (0x0467180B, .pandn 3 7 3),
    (0x099864AA, .addi 0xC 0x18 0x64AA), (0x0C234E1B, .andi 1 3 0x4E1B), (0x10AE3873, .ori 5 0xE 0x3873),
    (0x17193BA7, .xori 0x18 0x19 0x3BA7)] : List (Word × Instr)).all (fun e => decide ((decodeIn .control e.1).toOption = some e.2)) = true := by decide

theorem test_words_control_3 : ([
    (0x19BE0035, .slli 0xD 0x1E 0x35), (0x1D690038, .srli 0xB 9 0x38), (0x22F20031, .srai 0x17 0x12 0x31),
    (0x24EEB964, .ceqi 7 0xE 0xB964), (0x282BA3F8, .clti 1 0xB 0xA3F8), (0x2C7988CB, .cltni 3 0x19 0x88CB),
    (0x304167C6, .ld 2 1 0 3 0 0x7C6), (0x3583423C, .ldn 0xC 3 0 2 0 0x23C), (0x3B0167C0, .st 0x18 1 0 3 0 0x7C0),
    (0x3E5F5D30, .atomAdd 0x12 0x1F 0xB 2 0x13 0), (0x3E2CC429, .atomSwap 0x11 0xC 0x18 2 2 1), (0x3CA777CA, .atomCas 5 7 0xE 3 0x1C 1),
    (0x3F694E3B, .atomAnd 0x1B 9 9 3 3 1), (0x3EF514DC, .atomOr 0x17 0x15 2 2 0xD 1), (0x3E5C2E45, .atomXor 0x12 0x1C 5 3 4 0),
    (0x3D118EEE, .atomMin 8 0x11 0x11 3 0xE 1)] : List (Word × Instr)).all (fun e => decide ((decodeIn .control e.1).toOption = some e.2)) = true := by decide

theorem test_words_control_4 : ([
    (0x3CBBDE5F, .atomMax 5 0x1B 0x1B 3 5 1), (0x42E6E7C0, .br 5 1 0x26E7C0), (0x44982494, .call 1 0 0x182494),
    (0x4BC80000, .jr 0x1E 8), (0x4C40F208, .loop 2 0xF208), (0x51600042, .mfsr 0xB 0 0 0x42),
    (0x54100088, .mtsr 0x10 0 0 0x88), (0x58FE0010, .dset 7 0x1E 0x10), (0x59830416, .dget 0xC 3 0x16),
    (0x5C1B0008, .sqstart 0x1B 2), (0x5C00000D, .sqstop 3), (0x5C090006, .sqbase 9 1),
    (0x5D600007, .sqstat 0xB 1), (0x60002800, .tsig 5), (0x60004801, .twait 9),
    (0x60602802, .twaitnb 3 5)] : List (Word × Instr)).all (fun e => decide ((decodeIn .control e.1).toOption = some e.2)) = true := by decide

theorem test_words_control_5 : ([
    (0x60029944, .fset 2 0x13 5), (0x6003A445, .fadd 3 0x14 0x11), (0x60FF4086, .fawait 7 0x1F 8 2),
    (0x63A5F9C7, .fradd 0x1D 5 0x1F 7), (0x63DAEB88, .fmcast 0x1E 0x1A 0x1D 0xE), (0x60C03009, .fread 6 6),
    (0x63A0480C, .tagwany 0x1D 9), (0x6340780D, .tagwall 0x1A 0xF), (0x6200E80E, .tagffr 0x10 0x1D),
    (0x6000600F, .tagclr 0xC), (0x60800F10, .rgprod 4 1 0x1C), (0x601A16D1, .rgpub 0x1A 2 0x1B),
    (0x60A0E392, .rgcons 5 0x1C 0xE), (0x60102193, .rgrel 0x10 4 6), (0x601EA9D8, .barinit 0x1E 0x15 7),
    (0x601781D9, .barinitf 0x17 0x10 7)] : List (Word × Instr)).all (fun e => decide ((decodeIn .control e.1).toOption = some e.2)) = true := by decide

theorem test_words_control_6 : ([
    (0x6238E69A, .baradd 0x11 0x18 0x1C 0x1A), (0x60670ADB, .barcast 3 7 1 0xB), (0x60000360, .fenceRel 0xD),
    (0x60000521, .fenceAcq 0x14), (0x600004A2, .fenceFull 0x12), (0x60000023, .fenceX),
    (0x60DD9FA4, .waita 6 0x1D 0x13 0x1E), (0x637C41E5, .waitanb 0x1B 0x1C 8 7), (0x663E0800, .rent 0x11 0x1E 1),
    (0x65992001, .renew 0xC 0x19 4), (0x644CF002, .prepay 2 0xC 0x1E), (0x64367803, .sublet 1 0x16 0xF),
    (0x67B69004, .adopt 0x1D 0x16 0x12), (0x66D30005, .vacate 0x16 0x13), (0x67C60006, .lstat 0x1E 6),
    (0x68000000, .exit)] : List (Word × Instr)).all (fun e => decide ((decodeIn .control e.1).toOption = some e.2)) = true := by decide

theorem test_words_control_7 : ([
    (0x68000001, .exitAbandon), (0x68110002, .fcall 0x11), (0x68143003, .eret 0x14 6),
    (0x68DB4004, .pinval 6 0x1B 8), (0x80323270, .dispMx 0 6 0 8 6 2 0xE), (0x81DF1450, .dispCp 1 0xB 1 0xC 2 4 0xA),
    (0x825BFD40, .dispCl 0 0xB 0 0xF 7 5 8), (0x83EB0E50, .dispMl 1 0xD 0 0xC 1 6 0xA), (0xF800B8D6, .xpfx 0xB8D6)] : List (Word × Instr)).all (fun e => decide ((decodeIn .control e.1).toOption = some e.2)) = true := by decide

theorem test_words_vector_1 : ([
    (0x0057502A, .vmov 0x15 0x35 1 0 5 0), (0x0157502A, .vrd 0x15 0x35 0 1 0 5 0), (0x02CD400A, .vwr 0x33 0x14 0 0 0 5 0),
    (0x03575EB6, .vsel 0x15 0x35 0x3A 1 1 3 0), (0x040C71C0, .mand 3 7 7 0), (0x05084181, .mor 2 4 6 1),
    (0x060861C1, .mxor 2 6 7 1), (0x070C4181, .mandn 3 4 6 1), (0x30575EBA, .vaddI 1 0x15 0x35 0x3A 1 1 5 0),
    (0x21575EBA, .vaddSat 0 0x15 0x35 0x3A 1 1 5 0), (0x32575EBA, .vsubI 1 0x15 0x35 0x3A 1 1 5 0), (0x23575EBA, .vsubSat 0 0x15 0x35 0x3A 1 1 5 0),
    (0x24575EBA, .vmulI 0 0x15 0x35 0x3A 1 1 5 0), (0x25575EBA, .vmulSat 0 0x15 0x35 0x3A 1 1 5 0), (0x36575EBA, .vminI 1 0x15 0x35 0x3A 1 1 5 0),
    (0x27575EBA, .vmaxI 0 0x15 0x35 0x3A 1 1 5 0)] : List (Word × Instr)).all (fun e => decide ((decodeIn .vector e.1).toOption = some e.2)) = true := by decide

theorem test_words_vector_2 : ([
    (0x38575EBA, .vand 1 0x15 0x35 0x3A 1 1 5 0), (0x39575EBA, .vor 1 0x15 0x35 0x3A 1 1 5 0), (0x3A575EBA, .vxor 1 0x15 0x35 0x3A 1 1 5 0),
    (0x3B575EBA, .vshl 1 0x15 0x35 0x3A 1 1 5 0), (0x3C575EBA, .vshr 1 0x15 0x35 0x3A 1 1 5 0), (0x3D575EBA, .vsra 1 0x15 0x35 0x3A 1 1 5 0),
    (0x2E1B5EBA, .vceqI 0 6 0x35 0x3A 1 1 5 0), (0x2F1B5EBA, .vcltI 0 6 0x35 0x3A 1 1 5 0), (0x51575EBA, .vaddF 1 1 0x15 0x35 0x3A 1 1 5 0),
    (0x55575EBA, .vsubF 1 1 0x15 0x35 0x3A 1 1 5 0), (0x59575EBA, .vmulF 1 1 0x15 0x35 0x3A 1 1 5 0), (0x5C575EBA, .vfma 1 0 0x15 0x35 0x3A 1 1 5 0),
    (0x84575EBA, .vminF 1 0x15 0x35 0x3A 1 1 5 0), (0x85575EBA, .vmaxF 1 0x15 0x35 0x3A 1 1 5 0), (0x861B5EBA, .vcltF 1 6 0x35 0x3A 1 1 5 0),
    (0x871B5EBA, .vceqF 1 6 0x35 0x3A 1 1 5 0)] : List (Word × Instr)).all (fun e => decide ((decodeIn .vector e.1).toOption = some e.2)) = true := by decide

theorem test_words_vector_3 : ([
    (0x915750AA, .vcvt 1 0x15 0x35 0 0 2 1 0 5 0), (0x985756EA, .vpack 0x15 0x35 1 1 3 1 0 5 0), (0x995754EA, .vunpk 0x15 0x35 2 3 1 0 5 0),
    (0xA157502A, .vexp2 1 0x15 0x35 1 5 0), (0xA557502A, .vrcp 1 0x15 0x35 1 5 0), (0xA957502A, .vrsq 1 0x15 0x35 1 5 0),
    (0xB157502A, .vrsum 1 0x15 0x35 1 5 0), (0xB557502A, .vrmax 1 0x15 0x35 1 5 0), (0xB957502A, .vrmin 1 0x15 0x35 1 5 0),
    (0xC03B4045, .vsnap 0xE 0x34 1 2 1), (0xC4070000, .vrot 7), (0xC500000B, .vstg 0xB),
    (0xD0227D01, .vlane 8 0x27 0x68 1), (0xD1C58007, .vbcast 0x31 6 3 1), (0xD204332A, .vsetwb 4 0x332A),
    (0xD3000001, .vsetacc 1)] : List (Word × Instr)).all (fun e => decide ((decodeIn .vector e.1).toOption = some e.2)) = true := by decide

theorem test_words_vector_4 : ([
    (0xD4DB61AD, .saddi 0xD 0xB 0x61AD), (0xD58D5000, .sadd 8 0xD 5), (0xD690A827, .smovi 9 0xA827),
    (0xD648F5E4, .smoviHi 4 0xF5E4), (0xD7000000, .vhalt), (0xD8070000, .vtsig 7),
    (0xD90D0000, .vtwait 0xD), (0xDA090000, .vfenceRel 9), (0xDA520000, .vfenceAcq 0x12),
    (0xDA8D0000, .vfenceFull 0xD), (0xDAC00000, .vfenceX), (0xDB300080, .vmfsr 3 0 0x80),
    (0xDC0D8080, .vmtsr 0xD 1 0x80), (0xE0E0F065, .vloop 0xE 0xF065), (0xE109C067, .vbnz 9 0xC067),
    (0xE20091D6, .vjmp 0x91D6)] : List (Word × Instr)).all (fun e => decide ((decodeIn .vector e.1).toOption = some e.2)) = true := by decide

theorem test_words_access_1 : ([
    (0x00000000, .anop), (0x056AB803, .ldq 5 0xA 0xA 1 1 0x803), (0x0A698328, .stq 9 0xA 6 0 0 0x328),
    (0x0C32CD34, .pref 0xC 0xB 0 0 0xD34), (0x116C9A74, .ald 5 0xB 2 0 1 0xA74), (0x205F4995, .aaddi 1 7 0x34995),
    (0x2498C000, .aadd 2 6 3), (0x2BF1C000, .asub 0xF 0xC 7), (0x2CA40015, .aslli 2 9 0x15),
    (0x3240EBB9, .aseth 9 0xEBB9), (0x364873EB, .aandi 9 2 0x73EB), (0x4000F778, .ajmp 0xF778),
    (0x4680D56B, .abnz 0xA 0xD56B), (0x4900A657, .aloop 4 0xA657), (0x62000000, .atsig 8),
    (0x66800000, .atwait 0xA)] : List (Word × Instr)).all (fun e => decide ((decodeIn .access e.1).toOption = some e.2)) = true := by decide

theorem test_words_access_2 : ([
    (0x68000000, .ahalt), (0x6C000006, .afenceRel 6), (0x6C000032, .afenceAcq 0x12),
    (0x6C00004D, .afenceFull 0xD), (0x6C000060, .afenceX), (0x72000080, .amfsr 8 0 0x80),
    (0x75B80080, .amtsr 6 0xE 0 0x80), (0x82300000, .arprod 8 0xC), (0x867C0000, .arpub 9 0xF),
    (0x88940000, .arcons 2 5), (0x8D100000, .arrel 4 4)] : List (Word × Instr)).all (fun e => decide ((decodeIn .access e.1).toOption = some e.2)) = true := by decide

theorem test_words_mule_1 : ([
    (0x00000000, .muleNop), (0x08000000, .muleHalt), (0x10200324, .mulePost 1 0x324),
    (0x1800004B, .muleJmp 0x4B), (0x230001CC, .muleLoop 3 0x1CC), (0x286003A9, .muleBnz 3 0x3A9),
    (0x3303A6E6, .muleSeti 3 0x3A6E6), (0x39820045, .muleAddi 1 4 0x20045), (0x454C0000, .muleAdd 5 2 3),
    (0x48980001, .muleAgdim 4 6 0 1), (0x50400003, .muleAgind 2 0 3), (0x5B000000, .muleAgrun 3),
    (0x60840002, .muleMx 4 1 2), (0x68000000, .muleMxw), (0x70380006, .muleEx 1 6 1 2),
    (0x78D80061, .muleCp 6 6 0 1 0x21)] : List (Word × Instr)).all (fun e => decide ((decodeIn .mule e.1).toOption = some e.2)) = true := by decide

theorem test_words_mule_2 : ([
    (0x80E80000, .muleTagw 7 2), (0x8840004A, .muleFwait 2 2 0xA), (0x90C0010E, .muleFset 6 8 0xE),
    (0x98000029, .muleFence 0xA 1), (0xA7E2EB71, .muleLd 7 7 0x2EB71), (0xA8AA597F, .muleSt 5 2 0x2597F),
    (0xB3000080, .muleMfsr 3 0x80), (0xB8200080, .muleMtsr 1 0x80)] : List (Word × Instr)).all (fun e => decide ((decodeIn .mule e.1).toOption = some e.2)) = true := by decide

/-- The memory of the state after reset keeps its form. -/
theorem reset_inv : MemInv State.reset := rfl

/-! ### States that meet the hypotheses of the statements -/

/-- `ImmediateFunctions` and `ComparesAndPredicates`: a word with no prefix, and one with one. -/
theorem test_met_ImmediateFunctions :
    (lab).cur.pfx = none ∧ ({ lab with cur := { core := 0, pfx := some 7 } } : State).cur.pfx = some 7 := by decide

/-- `Transfers`: predicates that hold the branch back and let it go, an aligned and a misaligned target, and a loop that ends and one that goes
on, without and with a prefix. -/
theorem test_met_Transfers :
    (lab).p 1 = ((0 : BitVec 1) == 1) ∧ (lab).p 1 ≠ ((1 : BitVec 1) == 1) ∧ ((labX [(2, 16)]).x 2).extractLsb' 0 4 = 0 ∧
    ((labX [(2, 15)]).x 2).extractLsb' 0 4 ≠ 0 ∧ (0 : BitVec 5) = 0 ∧ (2 : BitVec 5) ≠ 0 ∧ (4 : DWord).extractLsb' 0 2 = 0 ∧
    (labX [(2, 1)]).x 2 - 1 = 0 ∧ (labX []).x 2 - 1 ≠ 0 := by decide

/-- `DescriptorFields`: a value at each side of the end of a field of 16 bits. -/
theorem test_met_DescriptorFields :
    isSelector 0x000 = true ∧ ((labX [(1, BitVec.ofNat 64 (2 ^ (selField 0x001).1 - 1))]).x 1).toNat < 2 ^ (selField 0x001).1 ∧
    2 ^ (selField 0x001).1 ≤ ((labX [(1, BitVec.ofNat 64 (2 ^ (selField 0x001).1))]).x 1).toNat ∧ (lab).isFw = false ∧
    (lab .firmware).isFw = true ∧ ((lab .firmware).x 1).toNat < 2 ^ (selField 0x001).1 := by decide

/-- `SequencerControl`: a sequencer in IDLE, in RUN without and with a stop pending, and steps at each side of the limit. -/
theorem test_met_SequencerControl :
    ((lab .control {}).me.seq (seqTarget 1)).st = .idle ∧ ((lab).me.seq (seqTarget 1)).st = .run ∧
    ((lab).me.seq (seqTarget 1)).stopPending = false ∧
    ((lab .control { labTask with load := { st := .run, stopPending := true } }).me.seq (seqTarget 1)).stopPending = true ∧
    ((labX [(1, 0xFFFF)]).x 1).toNat ≤ 0xFFFF ∧ 0xFFFF < ((labX [(1, 0x10000)]).x 1).toNat ∧ ((labX [(1, 4)]).x 1).toNat % 4 = 0 ∧
    ((labX [(1, 3)]).x 1).toNat % 4 ≠ 0 ∧ (lab).isFw = false := by decide

/-- `NearLoadsAndStores`: the last aligned doubleword of the near store, for a load and a store, plain and skewed. -/
theorem test_met_NearLoadsAndStores :
    OwnNear (labX [(1, 0x17FFF8)]) 0x17FFF8 8 false .load ∧ OwnNear (labX [(1, 0x17FFF8)]) 0x17FFF8 8 true .load ∧
    (labX [(1, 0x17FFF8)]).poisoned ((labX [(1, 0x17FFF8)]).nearBytes 0x17FFF8 8 true) = false ∧
    OwnNear (labX [(1, 0x17FFF8)]) 0x17FFF8 8 false .store ∧ (0x17FFF8 : DWord).toNat % 8 = 0 ∧
    (0x17FFF8 : DWord) = (labX [(1, 0x17FFF8)]).x 1 + (0 : BitVec 11).signExtend 64 * 8 :=
  ⟨ownNear_of (segmentOk_of (by decide)) (by decide), ownNear_of (segmentOk_of (by decide)) (by decide), by decide,
   ownNear_of (segmentOk_of (by decide)) (by decide), by decide, by decide⟩

/-- `NearLoadsAndStores`, its last clause: the one store of the agent to its near store, whose cycles are still to come. -/
theorem test_met_NearStorePerforms :
    let a : Access := { id := 4, va := 0x17FFF8, tier := 1, lag := 2, offs := List.range 8, places := fromTo (nearPlace 0 0x17FFF8) 8,
                        data := List.replicate 8 1 }
    let s : State := { lab with transit := [a] }
    s.nearStores = [a] ∧ s.anyLive a.after = false ∧ a.held = false ∧ s.unitReady a.unit = true ∧
    s.leaseOk a.unit a.lease a.lgen a.places [] = true := by decide

/-- `NearAtomics`: an aligned word, with a comparand that matches it and one that does not. -/
theorem test_met_NearAtomics :
    OwnNear (labX [(1, 0x17FFF8)]) ((labX [(1, 0x17FFF8)]).x 1) 8 false .store ∧
    (labX [(1, 0x17FFF8)]).poisoned ((labX [(1, 0x17FFF8)]).nearBytes 0x17FFF8 8 false) = false ∧
    BitVec.ofNat 64 (ofBytes (readPlaces (lab).mem ((lab).nearBytes 0x17FFF8 8 false))) = (labX [(1, 0x17FFF8)]).x 2 ∧
    BitVec.ofNat 64 (ofBytes (readPlaces (lab).mem ((lab).nearBytes 0x17FFF8 8 false))) ≠ (labX [(2, 1)]).x 2 :=
  ⟨ownNear_of (segmentOk_of (by decide)) (by decide), by decide, by decide, by decide⟩

/-- `AccessesLeave`: an aligned word of the tier-3 segment, for a load, a store and an atomic. -/
theorem test_met_AccessesLeave :
    LeavesCore (labX [(1, 0x40000000000FFF8)]) 0x40000000000FFF8 8 .load ∧ LeavesCore (labX [(1, 0x40000000000FFF8)]) 0x40000000000FFF8 8 .store ∧
    (0x40000000000FFF8 : DWord).toNat % 8 = 0 ∧ ((lab).seg 0x40000000000FFF8).tier ≠ 4 :=
  ⟨leavesCore_of (segmentOk_of (by decide)) (by decide), leavesCore_of (segmentOk_of (by decide)) (by decide), by decide, by decide⟩

/-- `MisalignedAccesses`: an address one above an aligned one. -/
theorem test_met_MisalignedAccesses :
    ((labX [(1, 9)]).x 1 + (0 : BitVec 11).signExtend 64 * BitVec.ofNat 64 8).toNat % 8 ≠ 0 ∧ ((labX [(1, 9)]).x 1).toNat % 4 ≠ 0 := by decide

/-- `StoredBytes`: two places, one of them of a poisoned unit that is not wholly written. -/
theorem test_met_StoredBytes :
    Memory.wf (lab).mem = true ∧ [8, 9].Nodup ∧ [8, 9].length = ([1, 2] : List Byte).length ∧ 1 ∈ ({ lab with poison := [1] } : State).poison ∧
    (∃ i < 8, 8 * 1 + i ∉ [8, 9]) ∧ (7 ∉ [8, 9]) := by decide

/-- `ResultsLand`: an empty pipeline of a region that does not use the scoreboard, and a latency of 3. -/
theorem test_met_ResultsLand :
    (lab).cur.agent = .control ∧ (lab).pipe 0 .control = [] ∧ 1 ≤ 3 ∧ 1 + 1 < 3 ∧ (lab).scoreboard = false := by decide

/-- `lab` with the firmware context issuing and registers x of it. -/
def labFw (x : SMap DWord := []) (t : TaskCtx := labTask) : State :=
  { lab with cores := [(0, { residency := .resident, task := t, table := labTable, fw := { x := x } })]
             cur := { core := 0, agent := .firmware } }

/-- The clauses about the firmware context in `SequencerControl`, `SystemRegisterWrites`, `FifoAppends`, `FifoPops`, `GoRegisters`, `Dispatches` and
`Exits`. -/
theorem test_met_firmware :
    (labFw).isFw = true ∧ ((labFw [] {}).me.seq (seqTarget 1)).st = .idle ∧ ((labFw [(1, 4)]).x 1).toNat ≤ 0xFFFF ∧
    ((labFw [(1, 4)]).x 1).toNat % 4 = 0 ∧ ((labFw).me.seq (seqTarget 1)).st = .run ∧ ((labFw).me.seq (seqTarget 1)).stopPending = false ∧
    (let s := labFw [(28, 0x07000000)]
     (s.x 28).extractLsb' 0 32 = 0x07000000 ∧ s.badParty none none = none) ∧
    ((labFw [] { labTask with cp := { out := [7] } }).me.engine .copy).out = 7 :: [] ∧
    (labFw [] { labTask with cp := { out := [7] } }).outSeen .copy = true := by decide

/-- A plain nest command of one word. -/
def nestCmd (id : Nat := 5) : Cmd := { id := id, words := [0] }

/-- `SystemWritesLand`: tags that a retirement set in the ac at hand, and in an earlier one. -/
theorem test_met_SystemWritesLand :
    let s (n : Nat) : State := { lab .control { labTask with shared := { tags := 1, retired := (n, 1) } } with ac := 5 }
    ((s 5).task 0).shared.retired.1 = (s 5).ac ∧ ((s 4).task 0).shared.retired.1 ≠ (s 4).ac := by decide

/-- `SystemRegisterReads` and `SystemWritesLand`: no word of the bundle has stopped, the agent is no firmware, and a core of each side of the first
control core's number. -/
theorem test_met_SystemRegisterReads :
    (lab).cur.sig = .none ∧ (lab).isFw = false ∧ 0x800 ≤ (0x800 : BitVec 12).toNat ∧ (lab).cur.core < 4096 ∧
    ¬ ({ lab with cur := { core := 4096 } } : State).cur.core < 4096 ∧ (0xFFFF : DWord).toNat < 2 ^ 16 ∧ ¬ (0x10000 : DWord).toNat < 2 ^ 16 := by decide

/-- `SystemRegisterWrites`: values at each side of a field's end and of an alignment, for a program and for the firmware context. -/
theorem test_met_SystemRegisterWrites :
    (lab).cur.sig = .none ∧ (lab).isFw = false ∧ (labFw).isFw = true ∧ (labX [(1, 0xFFFF)]).x 1 = 0xFFFF ∧
    (0xFFFF : DWord).toNat < 2 ^ 16 ∧ 2 ^ 16 ≤ (0x10000 : DWord).toNat ∧ (labFw [(1, 15)]).x 1 = 15 ∧ (15 : DWord).toNat < 16 ∧
    (labFw [(1, 16)]).x 1 = 16 ∧ (16 : DWord).toNat % 16 = 0 ∧ (15 : DWord).toNat % 16 ≠ 0 := by decide

/-- `FifoAppends`: a word that leaves a command unfinished, one that completes a command while its queue has room, and one while it is full. -/
theorem test_met_FifoAppends :
    (lab).cur.agent ≠ .mule ∧ (lab).cur.sig = .none ∧ (lab).farLoads = false ∧
    ((lab).me.engine .copy).asm.get (seqCode (lab).pusher).toNat [] ++ [(0x01000000 : Word)] = [0x01000000] ∧
    [(0x01000000 : Word)].length < headCount 0x01000000 ∧ headCount 0 ≤ [(0 : Word)].length ∧
    (lab).badParty (headWait 0) (headSignal 0) = none ∧ (lab).queueFull .copy = false ∧ (lab).acqIds (engineClass .copy) = [] ∧
    (lab .control { labTask with cp := { queue := List.replicate 8 (nestCmd) } }).queueFull .copy = true := by decide

/-- `FifoPops`: a FIFO with an element, an empty one, and one whose element came in the ac at hand. -/
theorem test_met_FifoPops :
    ((lab .control { labTask with cp := { out := [7, 8] } }).me.engine .copy).out = 7 :: [8] ∧
    (lab .control { labTask with cp := { out := [7, 8] } }).outSeen .copy = true ∧ ((lab).me.engine .copy).out = [] ∧
    ({ lab .control { labTask with cp := { out := [7] } } with acCores := [(0, { task := labTask })] } : State).outSeen .copy = false ∧
    (lab).cur.sig = .none ∧ (lab).farLoads = false ∧ (lab .load).cur.agent = .load ∧ (lab .control).cur.agent = .control := by decide

/-- `GoRegisters`: a plain nest while its queue has room and while it is full, heads that the go register refuses, and Mule's queue with room and
full. -/
theorem test_met_GoRegisters :
    (0 : Word).extractLsb' 27 5 = 0 ∧ (0 : Word).extractLsb' 24 3 = 0 ∧ ¬ ((0 : Word).getLsbD 12 = true ∧ (0 : Word).getLsbD 6 = true) ∧
    (lab).badParty (headWait 0) (headSignal 0) = none ∧ (lab).queueFull .matrix = false ∧ (lab).acqIds 4 = [] ∧
    (lab .control { labTask with mx := { queue := List.replicate 16 (nestCmd) } }).queueFull .matrix = true ∧
    ((0x08000000 : Word).extractLsb' 27 5 ≠ 0) ∧ ((0x01000000 : Word).extractLsb' 24 3 ≠ 0) ∧
    ((0x1040 : Word).getLsbD 12 = true ∧ (0x1040 : Word).getLsbD 6 = true) ∧ (lab).queueFull .mule = false ∧
    (lab .control { labTask with ml := { queue := List.replicate 4 (nestCmd) } }).queueFull .mule = true := by decide

/-- `FirmwareEndsTask`: a program, and the firmware context of a core that holds a task of a unit of one, outside a handler and in one. -/
theorem test_met_FirmwareEndsTask :
    let r : FaultRec := { cls := 7 }
    let u : State := { labFw with cores := [(0, { residency := .resident, task := { labTask with suspended := true, pending := [(r.seq.toNat, r)] } })] }
    (lab).isFw = false ∧ (labFw).isFw = true ∧ ((labFw).core 0).residency = .resident ∧ (labFw).unitCores 0 = [0] ∧
    ((labFw).core 0).task.suspended = false ∧ ((labFw).core 0).task.pending.find 0 = none ∧ ((labFw).core 0).residency ≠ .free ∧
    u.isFw = true ∧ (u.core 0).residency = .resident ∧ u.unitCores 0 = [0] ∧ (u.core 0).task.suspended = true ∧
    (u.core 0).task.heldFaults = [] ∧ (u.core 0).task.pending = [(r.seq.toNat, r)] := by decide

/-- `lab` with token 3 given. -/
def labTok (t : Token) : State := lab .control { labTask with shared := { token := [(3, t)] } }

/-- `Tokens`: the producer with the count at 254 and at 255, another party, the consumer with the count at 1 and at 0, and another party; and a
token that is as it was when the ac began. -/
theorem test_met_Tokens :
    (labTok { used := true, prod := 0, cons := 1, count := 254 }).producer 3 = true ∧
    (labTok { used := true, prod := 0, cons := 1, count := 254 }).tokenRoom 0 3 = true ∧
    (labTok { used := true, prod := 0, cons := 1, count := 255 }).tokenRoom 0 3 = false ∧
    ((labTok {}).was 0).shared.token.get 3 {} = (labTok {}).token 3 ∧ (labTok { used := true, prod := 1, cons := 0 }).producer 3 = false ∧
    (labTok { used := true, prod := 1, cons := 0, count := 1 }).consumer 3 = true ∧
    (labTok { used := true, prod := 1, cons := 0, count := 1 }).tokenSeen 0 3 ≠ 0 ∧
    (labTok { used := true, prod := 1, cons := 0 }).tokenSeen 0 3 = 0 ∧ (labTok { used := true, prod := 0, cons := 1 }).consumer 3 = false ∧
    (labTok {}).cur.sig = .none ∧ (labTok {}).farLoads = false := by decide

/-- A task with a signal of token 3 and its count. -/
def signalled (n : BitVec 8) : State :=
  lab .control { labTask with shared := { token := [(3, { used := true, cons := 1, count := n })], signals := [{ token := 3 }] } }

/-- `TokenSignalsApply`: the only signal of a token whose count stands at 254, and of one whose count stands at 255; and a producer that is frozen. -/
theorem test_met_TokenSignalsApply :
    ((signalled 254).task 0).shared.signals[0]? = some { token := 3 } ∧ (signalled 254).tokenRoom 0 3 = true ∧
    (signalled 254).anyLive [] = false ∧ (∀ x ∈ ((signalled 254).task 0).shared.signals.take 0, x.token ≠ 3) ∧
    (signalled 254).still 0 (partyAgent 0) = false ∧
    (lab .control { labTask with ctl := { st := .blocked } }).still 0 (partyAgent 0) = true ∧
    (((signalled 255).task 0).shared.token.get 3 {}).count = 255 := by decide

/-- A state with one access of the control sequencer in transit. -/
def labBusy : State := { lab with transit := [{ id := 9, tier := 3 }], nextId := 10 }

/-- `OwnFlags`: a release with nothing to follow and one with an access to follow, a flag with a waiter and one without, differences at each side
of 2 ^ 31, a wait that an update has woken, and a grant that has come and one that has not. -/
theorem test_met_OwnFlags :
    (lab).anyLive ((lab).flagIds 1) = false ∧ labBusy.cur.since = none ∧ labBusy.anyLive (labBusy.flagIds 1) = true ∧
    (lab).me.flagWaiters 2 = false ∧ (lab .control { labTask with shared := { awaiting := [{ agent := .load, word := 0, flag := 2, value := 5 }] } }).me.flagWaiters 2 = true ∧
    (let t : FlagWait := { agent := .control, word := 0, flag := 2, value := 5, woken := true }
     let s := lab .control { labTask with shared := { awaiting := [t] } }
     t ∈ s.me.shared.awaiting ∧ t.woken = true ∧ t.agent = s.cur.agent ∧ t.word = s.cur.word ∧ s.takeGrant = none) ∧
    (lab).me.shared.awaiting.any (fun e => e.woken && e.agent == (lab).cur.agent && e.flag == 2) = false ∧
    (lab).takeGrant = none ∧ ((lab).flag 2 - (0x80000001 : Word)).toNat < 2 ^ 31 ∧ 2 ^ 31 ≤ ((lab).flag 2 - (0x80000000 : Word)).toNat ∧
    (({ lab with granted := [{ core := 0, agent := .control, word := 0, value := 5 }] } : State).takeGrant.map (·.1)) = some 5 := by decide

/-- `BarrierFailure`: a flag that the load sequencer awaits. -/
theorem test_met_BarrierFailure :
    let s := lab .control { labTask with shared := { awaiting := [{ agent := .load, word := 0, flag := 2, value := 5 }] } }
    s.anyLive (s.flagIds 1) = false ∧ (s.abortWaiters 2).anyLive ((s.abortWaiters 2).flagIds 1) = false ∧
    (s.me.shared.awaiting.any (fun e => e.flag == 2 && e.agent == .mule)) = false := by decide

/-- `lab` with the launch of its task, whose unit 0 has one member. -/
def labUnit : State := { lab with dies := [(0, { launches := [{ id := 0, fn := 0, lrec := {}, unitSizes := [(0, [1])] }] })] }

/-- `RemoteFlagOperations`: targets at the ends of each layout, and ones that break it. -/
theorem test_met_RemoteFlagOperations :
    (lab).anyLive ((lab).flagIds 0) = false ∧ (lab).anyLive ((lab).flagIds 0 true) = false ∧ labUnit.anyLive (labUnit.flagIds 0) = false ∧ (0xFFF < 2 ^ 12 ∧ 0xFFF ∉ (lab).cfg.disabled) ∧
    ((5 * 2 ^ 48 + 0x2003) / 2 ^ 14 % 2 ^ 34 = 0 ∧ (5 * 2 ^ 48 + 0x2003) / 2 ^ 12 % 4 = 2) ∧
    ((2 ^ 63 + 2 ^ 31 + 7) / 2 ^ 3 % 2 ^ 13 = 0 ∧ (lab).cfg.disabled = []) ∧ ((0 : Nat) < 2 ^ 9 ∧ labUnit.hasMember (0 / 16) (0 % 16) = true) ∧
    ((0 : Nat) < 2 ^ 48 ∧ (labUnit.ofGangs = true → (0 : Nat) < 2 ^ 17)) ∧ 2 ^ 14 / 2 ^ 14 % 2 ^ 34 ≠ 0 ∧ 0x1000 / 2 ^ 12 % 2 = 1 ∧
    8 / 2 ^ 3 % 2 ^ 13 ≠ 0 ∧ 2 ^ 9 ≤ 512 ∧ 2 ^ 48 ≤ 281474976710656 := by decide

/-- `RemoteFlagApplies`: a flag operation from core 1 for the task of core 0, and a peer's for the launch of that task. -/
theorem test_met_RemoteFlagApplies :
    let r : RemoteFlag := { source := 1, launch := 0, target := 0, flag := 2, value := 1, add := true }
    let s : State := { lab with remote := [r] }
    s.remote[0]? = some r ∧ r.peer = none ∧ r.byRank = none ∧ r.source < 4096 ∧ coreDie r.source = coreDie r.target ∧
    s.anyLive r.after = false ∧ s.remoteBefore r.source r.agent r.id (some r.target) = false ∧ (s.core r.target).residency = .resident ∧
    (s.task r.target).id.launch = r.launch ∧
    (let l : Launch := { id := 0, fn := 0, lrec := { lid := 9 } }
     let u : State := { lab with dies := [(0, { launches := [l] })] }
     (u.die (coreDie 0)).launches.find? (fun l => l.lrec.lid == 9) = some l ∧ (u.core 0).residency = .resident ∧ (u.task 0).id.launch = l.id ∧
     u.causalOk (coreDie 0) 8 (u.stampFrom 8).1 = true) := by decide

/-- `TagWaits`: masks whose tags are set, partly set and clear, and the empty mask. -/
theorem test_met_TagWaits :
    let s := lab .control { labTask with shared := { tags := 1 }, regs := { x := [(1, 1), (2, 2), (3, 3)] } }
    s.x 0 = 0 ∧ s.me.shared.tags &&& s.x 1 ≠ 0 ∧ s.x 2 ≠ 0 ∧ s.me.shared.tags &&& s.x 2 = 0 ∧ s.me.shared.tags &&& s.x 1 = s.x 1 ∧
    s.me.shared.tags &&& s.x 3 ≠ s.x 3 := by decide

/-- The state of `Rings`: the ring's address, of slot 2, in x1 and a1, and a count in x2 and a2. -/
def labRing (a : Agent) : State :=
  lab a { labTask with regs := { x := [(1, 0x800000000000000), (2, 4)], aLoad := [(1, 0x800000000000000), (2, 4)] } }

/-- `Rings`: a ring of the own cluster, for the control and the load sequencer. -/
theorem test_met_Rings :
    SegmentOk (labRing .control) ((labRing .control).x 1) 64 .store ∧ ((labRing .control).x 1).toNat % 64 = 0 ∧
    ((labRing .control).seg 0x800000000000000).tier = 1 ∧ ((labRing .control).seg 0x800000000000000).kind = 0 ∧
    ((labRing .control).seg 0x800000000000000).sync = true ∧ ((labRing .control).seg 0x800000000000000).homeCore / 16 = 0 / 16 ∧
    (labRing .control).liveIds = [] ∧ (labRing .control).farLoads = false ∧ (labRing .load).a 1 = 0x800000000000000 ∧
    (labRing .load).farLoads = false ∧ (labRing .control).takeGrant = none ∧ (labRing .control).outstanding = false :=
  ⟨segmentOk_of (by decide), by decide⟩

/-- A bundle that its claim holds, while the claim is parked and once it has its grant (`Rings`, `AddressWaits`). -/
theorem test_met_outstanding :
    ({ lab with waiters := [{ access := { id := 3, kind := .ring 0 0 } }] } : State).outstanding = true ∧
    (({ lab with granted := [{ core := 0, agent := .control, word := 0, value := 5 }] } : State).takeGrant.map (·.1)) = some 5 := by decide

/-- The bits of a ring descriptor with 4 slots of 64 B and its counts (R49). -/
def ringBits (head tail clp clc : Nat) (mq : Bool) : Nat :=
  head + tail * 2 ^ 32 + clp * 2 ^ 64 + clc * 2 ^ 96 + 0x3000 * 2 ^ 128 + 2 * 2 ^ 168 + (if mq then 2 ^ 175 else 0)

/-- A state with such a descriptor at byte 4096 of core 0's near store. -/
def withRing (head tail clp clc : Nat) (mq : Bool) : State :=
  { lab with mem := Memory.writeNat [] (nearPlace 0 4096) 64 (ringBits head tail clp clc mq) }

/-- `RingGrants`: a claim of each side parked at a ring of which one slot is free; a consumer's with no producer's beside it, and beside a producer's
at a ring that is full. -/
theorem test_met_RingGrants :
    let w (n : Nat) : Waiter := { access := { id := 3, kind := .ring n 0, places := [nearPlace 0 4096] } }
    let s (clp : Nat) (ws : List Waiter) : State := { withRing 0 3 clp 0 false with waiters := ws }
    let r (clp : Nat) : RingDesc := (s clp []).ringAt (nearPlace 0 4096)
    0 < 4096 ∧ 4096 < 0x180000 ∧ (s 3 [w 0]).parkedClaim (nearPlace 0 4096) 0 = some (w 0) ∧ (r 3).bad = false ∧ (r 3).mq = false ∧
    (s 3 [w 0]).poisonedIn (nearPlace 0 4096) 64 = false ∧ sub32 (r 3).clp (r 3).head ≠ (r 3).slots ∧ Memory.wf (s 3 [w 0]).mem = true ∧
    (s 3 [w 2]).parkedClaim (nearPlace 0 4096) 0 = none ∧ (s 3 [w 2]).parkedClaim (nearPlace 0 4096) 2 = some (w 2) ∧ (r 3).clc ≠ (r 3).tail ∧
    (r 4).bad = false ∧ sub32 (r 4).clp (r 4).head = (r 4).slots ∧ (s 4 [w 0, w 2]).parkedClaim (nearPlace 0 4096) 2 = some (w 2) ∧
    (r 4).clc ≠ (r 4).tail := by decide

/-- `AddressWaits`: a word of the sync segment, with and without an outstanding wait; a polling waiter that is due and one that is not; and a word that
is as it was, and one that has changed. -/
theorem test_met_AddressWaits :
    SegmentOk (labRing .control) ((labRing .control).x 1) 8 .load ∧
    (let s := labRing .control
     (s.x 1).toNat % 8 = 0 ∧ (s.seg (s.x 1)).kind = 0 ∧ ((s.seg (s.x 1)).tier ≤ 3 → (s.seg (s.x 1)).sync = true) ∧
     ((s.seg (s.x 1)).tier = 1 → (s.seg (s.x 1)).homeCore = s.cur.core) ∧ s.liveIds = [] ∧ s.takeGrant = none ∧ s.outstanding = false) ∧
    (let w : Waiter := { access := { kind := .waita 0 true true, places := [nearPlace 0 4096] }, poll := some 1024 }
     let s (rc : Nat) : State := { lab with waiters := [w], rc := rc }
     (s 1024).waiters[0]? = some w ∧ 1024 ≤ (s 1024).rc ∧ (s 1023).rc < 1024 ∧ (s 1024).word8 (w.access.places.headD 0) = 0 ∧
     ({ s 1024 with mem := [(nearPlace 0 4096, 1)] } : State).word8 (w.access.places.headD 0) ≠ 0) :=
  ⟨segmentOk_of (by decide), by decide, by decide⟩

/-- `Fences`: a fence with nothing to follow, and one with an access in transit. -/
theorem test_met_Fences :
    (lab).cur.sig = .none ∧ (lab).anyLive ((lab).fenceIds 0 1) = false ∧ labBusy.cur.since = none ∧
    labBusy.anyLive (labBusy.fenceIds 0 1) = true ∧ (lab).anyLive ((lab).fenceIds 3 0) = false ∧
    (let s : State := { lab with transit := [{ id := 9, collective := true, cmd := 3 }] }
     s.cur.since = none ∧ s.anyLive (s.fenceIds 3 0) = true) ∧ (lab).farLoads = false ∧ (0 : BitVec 5).getLsbD 4 = false := by decide

/-- `lab` with x1 to x4 given, and an agent's task. -/
def labAB (a b c d : DWord) : State := labX [(1, a), (2, b), (3, c), (4, d)]

/-- `RentRequests` and `RentRefusals`: operands that pass and operands that fail, at the ends of their ranges. -/
theorem test_met_RentRequests :
    (let s := labAB (BitVec.ofNat 64 (2 ^ 44 - 4096)) (BitVec.ofNat 64 (2 ^ 32 + 63 * 256 + 3 * 16 + 7)) 0 0
     s.acqIds 1 = [] ∧ (s.x 1).toNat ≠ 0 ∧ (s.x 1).toNat < 2 ^ 58 ∧ (s.x 2).toNat / 16 % 8 = 3 ∧ (s.x 2).toNat / 2 ^ 32 ≠ 0 ∧
     (s.x 2).toNat / 256 % 64 = 63 ∧ (s.x 2).toNat / 2 ^ 14 % 2 ^ 18 = 0 ∧ (s.x 2).toNat / 8 % 2 = 0) ∧
    (let s := labAB (BitVec.ofNat 64 (2 ^ 48 - 65536)) (BitVec.ofNat 64 (2 ^ 17)) (BitVec.ofNat 64 (2 ^ 32 + 3 * 16 + 8)) 0
     s.acqIds 1 = [] ∧ (1 : BitVec 5) ≠ 31 ∧ (s.x 3).toNat / 2 ^ 32 ≠ 0 ∧ (s.x 1).toNat ≠ 0 ∧ (s.x 1).toNat < 2 ^ 58 ∧
     ((s.x 1).toNat + 65535) / 65536 < 2 ^ 32 ∧ (s.x 3).toNat / 2 ^ 14 % 2 ^ 18 = 0 ∧ (s.x 3).toNat / 16 % 8 = 3 ∧ (s.x 3).toNat / 8 % 2 = 1 ∧
     (s.x 3).toNat % 8 = 0 ∧ (s.x (1 + 1)).toNat % 2 ^ 17 = 0 ∧ (s.x (1 + 1)).toNat < 2 ^ 58) ∧
    (let s := labAB (BitVec.ofNat 64 (2 ^ 32)) 1 0 0
     (s.x 1).toNat / 64 % 2 ^ 10 = 0 ∧ (s.slotDesc 0 ((s.x 1).toNat % 64)).v = true) ∧
    (let s := labAB 0 (BitVec.ofNat 64 (2 ^ 32 - 1)) 0 0
     (s.x 1).toNat < 64 ∧ (s.slotDesc 0 0).v = true ∧ (s.core 0).expired.get 0 false = false ∧ (s.x 2).toNat ≠ 0 ∧ (s.x 2).toNat < 2 ^ 32 ∧
     (s.slotDesc 0 0).acct = s.me.id.acct) ∧
    (let s := labAB 0x10000 5 0 0
     (s.x 1).toNat / 64 % 2 ^ 10 = 0 ∧ (s.x 1).toNat < 2 ^ 32 ∧ (s.x 1).toNat / 2 ^ 16 ≠ 0) ∧
    (let s := labAB (BitVec.ofNat 64 (2 ^ 32)) 0 4096 0
     (s.x 1).toNat / 2 ^ 8 % 2 ^ 8 = 0 ∧ (s.x 1).toNat / 2 ^ 28 % 2 ^ 4 = 0 ∧ (s.x 1).toNat / 2 ^ 32 ≠ 0) ∧
    (let s := labAB (BitVec.ofNat 64 (264 * 2 ^ 23)) 63 0 0
     (s.x 1).toNat < 2 ^ 32 ∧ (s.x 2).toNat < 64 ∧ (s.x 1).toNat / 2 ^ 23 < 265) := by decide

/-- `RentRefusals`: `SYNC` in tier 4, a pageable lease in tier 1 and of xa = x31, a slot whose expiry mark is set, and operands outside their layouts. -/
theorem test_met_RentRefusals_kinds :
    (let s := labAB 1 (BitVec.ofNat 64 (2 ^ 32 + 4 * 16 + 128)) 0 0
     (s.x 2).toNat / 16 % 8 = 4 ∧ (s.x 2).toNat / 128 % 2 = 1 ∧ (s.x 2).toNat / 8 % 2 = 0 ∧ (s.x 2).toNat % 8 = 0 ∧
     (s.x 2).toNat / 2 ^ 14 % 2 ^ 18 = 0 ∧ (s.x 2).toNat / 2 ^ 32 ≠ 0 ∧ (s.x 1).toNat ≠ 0 ∧ (s.x 1).toNat < 2 ^ 58) ∧
    (let s := labAB 1 (BitVec.ofNat 64 (2 ^ 32 + 16 + 8)) 0 0
     (s.x 2).toNat / 8 % 2 = 1 ∧ (1 : BitVec 5) ≠ 31 ∧ (s.x 2).toNat / 16 % 8 ≠ 3 ∧ (31 : BitVec 5) = 31) ∧
    (let s : State := { lab with cores := [(0, { residency := .resident, task := labTask, table := labTable, expired := [(63, true)] })] }
     (s.core 0).expired.get 63 false = true) ∧
    ((labAB 0 0 0 0).slotDesc 0 0).v = true ∧ ((labAB 0 0 0 0).core 0).expired.get 0 false = false ∧ ((labAB 0 0 0 0).x 2).toNat = 0 ∧
    0x1000 / 2 ^ 8 % 2 ^ 8 ≠ 0 ∧ 0x40 / 2 ^ 6 % 2 ^ 10 ≠ 0 ∧ 2 ^ 32 ≤ 4294967296 := by decide

/-- `RentRefusals`: a length of 0, a slot of 64, an empty slot, a slot of another account, and a handle of unit 265. -/
theorem test_met_RentRefusals :
    ((labAB 0 0 0 0).x 2).toNat / 8 % 2 = 0 ∧ ((labAB 0 0 0 0).x 1).toNat = 0 ∧ 64 ≤ ((labAB 64 0 0 0).x 1).toNat ∧
    ((labAB 63 0 0 0).x 1).toNat < 64 ∧ ((labAB 63 0 0 0).slotDesc 0 63).v = false ∧
    ((lab .control { labTask with id := { acct := 1 } }).slotDesc 0 0).v = true ∧
    ((lab .control { labTask with id := { acct := 1 } }).slotDesc 0 0).acct ≠ (lab .control { labTask with id := { acct := 1 } }).me.id.acct ∧
    265 ≤ ((labAB (BitVec.ofNat 64 (265 * 2 ^ 23)) 0 0 0).x 1).toNat / 2 ^ 23 % 2 ^ 9 := by decide

/-- A rent operation whose debit waits at the hub, or is answered. -/
def labDebit (k : RentOp) (amount : Nat) (g : Option Bool) : State :=
  { lab with debits := [{ acct := 0, amount := amount, granted := g, purpose := .op { id := 3, kind := .rent k, dest := .x 5, lgen := 0 } 0 0 }] }

/-- `HubDebits`: an amount equal to the allowance, one above it, and a closed account. -/
theorem test_met_HubDebits :
    ((labDebit .lstat 1000 none).account 0).ast = 1 ∧ 1000 ≤ ((labDebit .lstat 1000 none).account 0).allow ∧
    ((labDebit .lstat 1001 none).account 0).allow < 1001 ∧ ((labDebit .lstat 0 none).account 1).ast ≠ 1 := by decide

/-- `AnsweredDebits`: a refused and a granted debit of each operation, the longest term that PAID can hold and one tick more, the largest escrow, and
an active lease. -/
theorem test_met_AnsweredDebits :
    (∀ s ∈ [labDebit .lstat 0 (some false), labDebit (.renew (2 ^ 48 - 2)) 0 (some true), labDebit (.renew (2 ^ 48 - 1)) 0 (some true),
      labDebit (.prepay 1 (2 ^ 64 - 1)) 0 (some true), labDebit (.rent 1 1 1 9 false false 0 0) 0 (some true)],
      s.debits[0]?.isSome = true ∧ s.unitReady 0 = true ∧ s.anyLive [] = false ∧ s.slotWrites = [] ∧ (s.lease 0 0).st = .active ∧
      (s.lease 0 0).lgen = 0) ∧
    ((lab).lease 0 0).paid + (2 ^ 48 - 2) < 2 ^ 48 ∧ 2 ^ 48 ≤ ((lab).lease 0 0).paid + (2 ^ 48 - 1) ∧
    ((lab).lease 0 0).esc + (2 ^ 64 - 1) < 2 ^ 64 := by decide

/-- `AnsweredDebits`: an escrow that the units would overflow, and a lease that has ended since the operation's first step. -/
theorem test_met_AnsweredDebits_credited :
    let s (l : Lease) (k : RentOp) : State := { labDebit k 7 (some true) with units := [(0, { leases := [(0, l)] })] }
    ((s { st := .active, esc := 1 } (.prepay 1 (2 ^ 64 - 1))).lease 0 0).st = .active ∧
    2 ^ 64 ≤ ((s { st := .active, esc := 1 } (.prepay 1 (2 ^ 64 - 1))).lease 0 0).esc + (2 ^ 64 - 1) ∧
    ((s { st := .scrub } (.renew 1)).lease 0 0).st ≠ .active ∧ (s { st := .scrub } (.renew 1)).unitReady 0 = true ∧
    ((s { st := .active, lgen := 1 } (.prepay 1 1)).lease 0 0).lgen ≠ 0 := by decide

/-- `TickBoundaries`: the first tick at a cluster's unit and at a stack's, each with a lease that is paid beyond it. -/
theorem test_met_TickBoundaries :
    let s : State := { lab with rc := 1024, units := [(0, { leases := [(0, { st := .active, paid := 2 })] })] }
    0 < 265 ∧ 1 = ((s.unit 0).ticked + 1) % 2 ^ 48 ∧ (s.unit 0).ticked ≠ s.tick ∧ (∀ e ∈ (s.unit 0).leases, e.2.st ≠ .deferred ∧ (e.2.st = .active → e.2.paid ≠ 1)) ∧
    0 < 256 ∧ 256 ≤ 263 ∧ 263 < 264 ∧ (s.unit 263).ticked + 1 = 1 ∧ (s.unit 263).leases = [] := by decide

/-- `LeaseEnds`: a lease at PAID with an escrow that covers one more period, and one without. -/
theorem test_met_LeaseEnds :
    let s (q e : Nat) : State := { lab with units := [(0, { ticked := 1, leases := [(0,
      { st := .active, paid := 1, tier := 1, ngran := 1, quant := q, esc := e })] })] }
    (s 1 2048).lease 0 0 = { st := .active, paid := 1, tier := 1, ngran := 1, quant := 1, esc := 2048 } ∧
    ((s 1 2048).lease 0 0).paid ≤ ((s 1 2048).unit 0).ticked ∧
    ((s 1 2048).lease 0 0).bytes * tierRate 1 * 1 ≤ 2048 ∧ ((s 1 2048).unit 0).ticked < 1 + 1 ∧ (s 0 9).hasSublets 0 0 = false := by decide

/-- `RentConsequences`: a refused deferred tick of a record that is still deferred and of one that was issued again, a refused meter of the task on a
core and of another, and a contiguous lease to scrub. -/
theorem test_met_RentConsequences :
    let d : Debit := { acct := 0, amount := 1, purpose := .deferredTick 0 0 0, granted := some false }
    let m (t : TaskId) : Debit := { acct := 0, amount := 1, purpose := .meter 0 t, granted := some false }
    let s (t : TaskId) (st : LeaseSt) (g : BitVec 8) : State := { lab with
      debits := [d, m t], units := [(0, { leases := [(0, { st := st, base := nearPlace 0 0, ngran := 1, tier := 1, lgen := g })] })] }
    (∀ g ∈ [(0 : BitVec 8), 1], (s {} .deferred g).debits.find? (fun d => d.granted == some false &&
        (match d.purpose with | .deferredTick a b _ => a == 0 && b == 0 | _ => false)) = some d) ∧
    ((s {} .deferred 0).lease 0 0).lgen = 0 ∧ ((s {} .deferred 0).lease 0 0).st = .deferred ∧ ((s {} .deferred 1).lease 0 0).lgen ≠ 0 ∧
    (∀ t ∈ [{ nslot := 144 }, ({ nslot := 1 } : TaskId)], (s t .scrub 0).debits.find? (fun d => d.granted == some false &&
        (match d.purpose with | .meter b _ => b == 0 | _ => false)) = some (m t)) ∧
    ((lab).task 0).id = { nslot := 144 } ∧ ((lab).task 0).id ≠ { nslot := 1 } ∧ (lab).unitCores 0 = [0] ∧
    ((lab).core 0).residency = .resident ∧ ((lab).task 0).suspended = false ∧ ((lab).task 0).pending.find 0 = none ∧
    ((s {} .scrub 0).lease 0 0).st = .scrub ∧ ((s {} .scrub 0).lease 0 0).pg = false ∧ Memory.wf (lab).mem = true := by decide

/-- `SlotWritesAndMarks`: a slot write, a mark that still names its lease, and one whose slot was rewritten. -/
theorem test_met_SlotWritesAndMarks :
    let w : SlotWrite := { core := 0, slot := 63, desc := 1, op := 3 }
    let m : Mark := { core := 0, slot := 0, unit := 0, lease := 0, lgen := 0 }
    let n : Mark := { core := 0, slot := 0, unit := 0, lease := 0, lgen := 1 }
    let s : State := { lab with slotWrites := [w], marks := [m] }
    let t : State := { lab with marks := [n] }
    s.slotWrites.find? (fun w => w.core == 0 && w.slot == 63) = some w ∧ s.anyLive w.after = false ∧ s.marks.find? (fun m => m.core == 0 && m.slot == 0) = some m ∧
    s.names 0 m.unit m.lease m.lgen 0 = true ∧ t.marks.find? (fun m => m.core == 0 && m.slot == 0) = some n ∧
    t.names 0 n.unit n.lease n.lgen 0 = false := by decide

/-- `Dispatches`: a command of eight words in x28 to x31 while its queue has room and while it is full, and the breaches. -/
theorem test_met_Dispatches :
    let s := labX [(28, 0x07000000)]
    let h : Word := (s.x 28).extractLsb' 0 32
    h = 0x07000000 ∧ (28 : BitVec 5) ≠ 0 ∧ 1 + (h.extractLsb' 24 3).toNat + (if h.getLsbD 12 then 1 else 0) + (if h.getLsbD 6 then 1 else 0) = 8 ∧
    (28 : BitVec 5).toNat + (8 - 1) / 2 ≤ 31 ∧ h.getLsbD 22 = false ∧ h.extractLsb' 18 4 = 0 ∧ h.getLsbD 17 = false ∧ h.extractLsb' 13 4 = 0 ∧
    s.badParty none none = none ∧ s.queueFull .copy = false ∧ (s.was 0).engine .copy = s.me.engine .copy ∧ s.acqIds (engineClass .copy) = [] ∧
    (lab .control { labTask with cp := { queue := List.replicate 8 (nestCmd) } }).queueFull .copy = true ∧
    (31 < (29 : BitVec 5).toNat + (8 - 1) / 2) ∧ 8 < 1 + 7 + 1 ∧ (0x400000 : Word).getLsbD 22 = true ∧ (0x20000 : Word).getLsbD 17 = true := by
  decide

/-- `FirmwareCalls`: numbers at each side of the limit, and a bundle that has made the call. -/
theorem test_met_FirmwareCalls :
    2 ^ 16 ≤ ((labX [(1, 0x10000)]).x 1).toNat ∧ ((labX [(1, 0xFFFF)]).x 1).toNat < 2 ^ 16 ∧ (lab).cur.agent = .control ∧ (lab).cur.late = [] ∧
    (lab).cur.leave = .none ∧ (lab).me.pending.find 0 = none ∧ (lab).me.suspended = false := by decide

/-- `FirmwareCalls`: the call answers a next state. -/
theorem test_met_FirmwareCalls_next : ∃ t, exec (.fcall 1) (labX [(1, 7)]) = .next t := ⟨_, rfl⟩

/-- `TrapReturns`: a program; the firmware context that returns to a suspended control sequencer, and to a faulted compute sequencer; and one
whose task is not suspended. -/
theorem test_met_TrapReturns :
    let f (x : SMap DWord) (t : TaskCtx) : State :=
      { lab with cores := [(0, { residency := .resident, task := t, table := labTable, fw := { x := x } })], cur := { agent := .firmware } }
    let s := f [(1, 16)] { labTask with suspended := true }
    let u := f [(2, 0x102)] { labTask with compute := { st := .faulted } }
    (lab).isFw = false ∧ s.isFw = true ∧ (s.x 2).toNat = 0 ∧ s.me.suspended = true ∧ (s.x 1).toNat % 16 = 0 ∧ s.me.heldFaults = [] ∧
    s.me.ctl.snapRaw = [] ∧ (s.core 0).preempt = none ∧ u.isFw = true ∧ (u.x 2).toNat % 256 = 2 ∧ (u.x 2).toNat < 2 ^ 9 ∧
    u.me.compute.st = .faulted ∧ u.me.compute.snapRaw = [] ∧ 256 ≤ (u.x 2).toNat ∧ u.me.suspended = false := by decide

/-- `PageInvalidations`: a range of one page of slot 63, a core that holds the launch's table, a launch that no core has, and an invalidation whose accesses have performed. -/
theorem test_met_PageInvalidations :
    let s : State := { lab with
      cores := [(0, { residency := .resident, task := labTask, table := labTable, fw := { x := [(1, 63), (2, 0x10000), (3, 0x10000)] } })]
      cur := { agent := .firmware }
      invals := [{ fn := 0, lid := 0, slot := 63, first := 1, length := 1, reply := some (0, .fwx 5) }] }
    (lab).isFw = false ∧ s.isFw = true ∧ s.cur.core < 4096 ∧
    (∀ e ∈ s.cores, e.2.task.id.lid ≠ BitVec.ofNat 32 ((2 ^ 32 + 63) / 2 ^ 32)) ∧ (s.x 1).toNat / 2 ^ 6 % 2 ^ 26 = 0 ∧ (s.x 2).toNat % 65536 = 0 ∧ (s.x 3).toNat % 65536 = 0 ∧
    (∃ e ∈ s.cores, e.2.residency ≠ .free ∧ e.2.task.id.vf = s.me.id.vf ∧ e.2.task.id.lid = BitVec.ofNat 32 ((s.x 1).toNat / 2 ^ 32)) ∧
    (s.core 0).holdsTable 0 0 = true ∧
    s.invals[0]? = some { fn := 0, lid := 0, slot := 63, first := 1, length := 1, reply := some (0, .fwx 5) } ∧ s.anyLive [] = false := by decide

/-- `lab` for the compute sequencer, with the mode, s registers and a window base given. -/
def labV (mode : BitVec 2 := 0) (sreg : SMap Word := []) (vwb : Nat := 0) : State :=
  lab .compute { labTask with regs := { mode := mode, sreg := sreg, vwb := vwb } }

/-- `VectorIssue`, the conditions of its forms: integer and floating-point lanes of each width, parts, and lanes below VL. -/
theorem test_met_VectorForms :
    ((labV 1).laneBytes == 4) = true ∧ ((labV 2).laneBytes == 2) = true ∧ ((labV).laneBytes == (laneType 0).bytes) = true ∧
    ((labV 3).laneBytes == (laneType 2).bytes) = true ∧ (fmtOf 3).bytes < (labV).laneFmt.bytes ∧ (labV).laneFmt.isInt = (fmtOf 3).isInt ∧
    (3 : BitVec 3).toNat < (labV).laneFmt.bytes / (fmtOf 3).bytes ∧ (63 : BitVec 7).toNat < (labV).vl := by decide

/-- `VectorIssue`: a gate that is off and one that is on, a row above the held slots, a slot that a nest owns, a queue operand with and without an
entry. -/
theorem test_met_VectorIssue :
    (labV).stageOn = false ∧ (labV 0 [(15, 1)]).stageOn = true ∧
    (let s := lab .compute { labTask with id := { nslot := 1 }, regs := { vwb := 63 } }
     s.rowBreach (some 48) = false ∧ s.rowBreach (some 49) = true) ∧
    (let s := lab .compute { labTask with mx := { running := [{ cmd := { words := [0], nt := [] }, st := .nest {} }] } }
     s.rowBreach (some 48) = false ∧ s.rowOwned (some 48) = true ∧ s.rowOwned (some 0) = false) ∧
    (labV).queuesReady (op2 0 32 1 0 0 0 0) false = false ∧ (labV).queuesReady (op2 0 40 1 0 0 0 0) false = true ∧
    (labV).queuesReady (op2 0 40 1 0 0 0 0) true = false := by decide

/-- `VectorMoves`: a register and a window row, and the lanes at the ends. -/
theorem test_met_VectorMoves :
    VReady (labV) (op1 3 48 0 0 0) ∧ VReady (labV) { op1 3 48 0 0 0 with rowA := true } ∧ VReady (labV) (op2 3 48 2 0 0 0 0) ∧
    VReady (labV) { d := some 3, mask := 1, gate := false } ∧ VReady (labV) { a := some 48, gate := false } ∧ (63 : BitVec 7).toNat < (labV).vl ∧
    (127 : BitVec 7).toNat < (labV 2).vl ∧ VReady (labV) (op1 3 48 0 0 0) ∧ (labV).me.mx.running = [] :=
  ⟨vReady_of (by decide), vReady_of (by decide), vReady_of (by decide), vReady_of (by decide), vReady_of (by decide), by decide, by decide,
   vReady_of (by decide), by decide⟩

/-- `VectorMoves`, its last clause: a nest in flight. -/
theorem test_met_VectorMoves_nest :
    let s := lab .compute { labTask with mx := { running := [{ cmd := nestCmd, st := .nest {} }] } }
    (s.was 0).nestHeld = some (nestCmd, {}) ∧ ntOwns nestCmd.nt 0 = true ∧ ntOwns nestCmd.nt 143 = false ∧
    s.rowOwned (some 48) = true ∧ VReady s (op1 3 2 0 0 0) := ⟨by decide, by decide, by decide, by decide, vReady_of (by decide)⟩

/-- `MaskOperations`: with and without the gate. -/
theorem test_met_MaskOperations : ((1 : BitVec 1) = 1 → (labV 0 [(15, 1)]).stageOn = true) ∧ ((0 : BitVec 1) = 1 → (labV).stageOn = true) := by decide

/-- `VectorIntegers`, `VectorSaturation` and `VectorCompares`: 32-bit and 16-bit lanes. -/
theorem test_met_VectorIntegers :
    8 * (labV 1).laneBytes = 32 ∧ 8 * (labV 2).laneBytes = 16 ∧ VReady (labV 1) (op2 3 48 2 0 0 0 0) ∧ VReady (labV 2) (op2 3 48 2 0 0 0 0) ∧
    VReady (labV 1) { op2 3 48 2 0 0 0 0 with d := none } ∧ (laneType 0).bytes = (labV 0).laneBytes ∧ (laneType 1).bytes = (labV 2).laneBytes ∧
    (63 < (labV 1).vl) ∧ (labV 1).vl ≤ 64 ∧ ((0x7FFFFFFF : BitVec 32).toInt + 1 ≥ 2 ^ 31) ∧ ((0x80000000 : BitVec 32).toInt - 1 < -(2 ^ 31)) :=
  ⟨by decide, by decide, vReady_of (by decide), vReady_of (by decide), vReady_of (by decide), by decide, by decide, by decide, by decide, by decide,
   by decide⟩

/-- `VectorFloats`: f32, bf16 and f16 lanes, and the destination as a source. -/
theorem test_met_VectorFloats :
    (laneType 0).bytes = (labV 0).laneBytes ∧ (laneType 1).bytes = (labV 2).laneBytes ∧ (laneType 2).bytes = (labV 3).laneBytes ∧
    VReady (labV 0) (op2 3 48 2 0 0 0 0) ∧ VReady (labV 3) (op2 3 48 2 0 0 0 0) ∧ VReady (labV 0) { op2 3 48 2 0 0 0 0 with dsrc := true } :=
  ⟨by decide, by decide, by decide, vReady_of (by decide), vReady_of (by decide), vReady_of (by decide)⟩

/-- `VectorConversions`: formats of 2 and of 1 byte, lanes narrowed, formats that do not narrow, and lanes widened from the last part. -/
theorem test_met_VectorConversions :
    (fmtOf 1).bytes = (fmtOf 2).bytes ∧ 2 ≤ (fmtOf 1).bytes ∧ (fmtOf 3).bytes = 1 ∧ (fmtOf 4).bytes = 1 ∧ VReady (labV 0) (op1 3 48 0 0 0) ∧
    (fmtOf 1).bytes < (labV 0).laneFmt.bytes ∧ VReady (labV 0) { op1 3 48 0 0 0 with dsrc := true } ∧ (labV 2).laneFmt.bytes ≤ (fmtOf 1).bytes ∧
    (fmtOf 3).bytes < (labV 0).laneFmt.bytes ∧ (fmtOf 3).isInt = (labV 0).laneFmt.isInt ∧
    (3 : BitVec 3).toNat < (labV 0).laneFmt.bytes / (fmtOf 3).bytes :=
  ⟨by decide, by decide, by decide, by decide, vReady_of (by decide), by decide, vReady_of (by decide), by decide, by decide, by decide, by decide⟩

/-- `VectorSpecials`: a 4-byte and a 2-byte lane type. -/
theorem test_met_VectorSpecials :
    (laneType 0).bytes = 4 ∧ (laneType 0).bytes = (labV 0).laneBytes ∧ VReady (labV 0) (op1 3 48 0 0 0) ∧ (laneType 2).bytes = 2 ∧
    (laneType 2).bytes = (labV 3).laneBytes ∧ VReady (labV 3) (op1 3 48 0 0 0) :=
  ⟨by decide, by decide, vReady_of (by decide), by decide, by decide, vReady_of (by decide)⟩

/-- `VectorControl`: window bases at the ends of the range and outside it, and counters that end and that go on. -/
theorem test_met_VectorControl :
    (let v := ((labV 0 [(1, 9200)]).sreg 1 + (0 : BitVec 16).signExtend 32).toNat
     v % 16 = 0 ∧ v ≤ 9200 ∧ v / 64 < (labV).me.id.nslot ∧ (v + 15) / 64 < (labV).me.id.nslot) ∧
    ((labV 0 [(1, 9201)]).sreg 1 + (0 : BitVec 16).signExtend 32).toNat % 16 ≠ 0 ∧
    9200 < ((labV 0 [(1, 9216)]).sreg 1 + (0 : BitVec 16).signExtend 32).toNat ∧ (labV 0 [(1, 1)]).sreg 1 = 1 ∧ (labV).sreg 1 ≠ 1 := by decide

/-- `AccessArithmetic`: counters that end and that go on, the two access sequencers, and a load sequencer with a far load on its way. -/
theorem test_met_AccessArithmetic :
    (lab .load { labTask with regs := { aLoad := [(1, 1)] } }).a 1 = 1 ∧ (lab .load).a 1 ≠ 1 ∧ (lab .load).cur.agent = .load ∧
    (lab .store).cur.agent = .store ∧ (lab .load).farLoads = false ∧
    ({ lab .load with transit := [{ id := 4, agent := .load, kind := .load false, tier := 3 }] } : State).farLoads = true := by decide

/-- `QueueLoads`: the last block of the near store while the queue has room and while it is full, a misaligned address, a prefetch through the
tier-3 segment and one through an empty slot. -/
theorem test_met_QueueLoads :
    OwnNear (lab .load) 0x17FF00 256 false .load ∧ OwnNear (lab .load) 0x17FFF8 8 true .load ∧ SegmentOk (lab .load) 0x17FF00 256 .load ∧
    SegmentOk (lab .load) 0x40000000000FF00 256 .load ∧
    (let s := lab .load { labTask with regs := { aLoad := [(1, 0x17FF00)] } }
     s.cur.agent = .load ∧ s.a 1 + (0 : BitVec 12).signExtend 64 * 8 = 0x17FF00 ∧ (0x17FF00 : DWord).toNat < 0xFFFFFFFFFFC00000 ∧
     (0x17FF00 : DWord).toNat % 8 = 0 ∧ s.poisoned (s.nearBytes 0x17FF00 256 false) = false ∧ (s.seg 0x17FF00).cd = false ∧
     s.canPush 7 = true ∧ s.was 0 = s.me ∧ s.farLoads = false ∧ (0x17FF04 : DWord).toNat % 8 ≠ 0 ∧ (s.seg 0x40000000000FF00).tier ≠ 1 ∧
     (s.seg 0xFC00000000000000).v = false) ∧
    (lab .load { labTask with shared := { queue := [(7, List.replicate 16 { id := 0 })] } }).canPush 7 = false :=
  ⟨ownNear_of (segmentOk_of (by decide)) (by decide), ownNear_of (segmentOk_of (by decide)) (by decide), segmentOk_of (by decide),
   segmentOk_of (by decide), by decide, by decide⟩

/-- `QueueLoads`: a block of the own near store that holds an uncorrectable error, and a block of a segment elsewhere. -/
theorem test_met_QueueLoads_leaving :
    (let s : State := { lab .load with poison := [nearPlace 0 0x17FF00 / 8] }
     OwnNear s 0x17FF00 256 false .load ∧ s.poisoned (s.nearBytes 0x17FF00 256 false) = true) ∧
    LeavesCore (lab .load) 0x40000000000FF00 256 .load ∧ (0x40000000000FF00 : DWord).toNat % 8 = 0 :=
  ⟨⟨ownNear_of (segmentOk_of (by decide)) (by decide), by decide⟩, leavesCore_of (segmentOk_of (by decide)) (by decide), by decide⟩

/-- `QueueLoads` and `QueueStores`, of the tier-0 window: the last block of the held slots, the one after it, one that holds an error, a misaligned
address, and a queue with room and without. -/
theorem test_met_QueueLoads_window :
    let v (n : Nat) : DWord := BitVec.ofNat 64 (0xFFFFFFFFFFC00000 + n)
    let s : State := lab .load
    let u : State := { s with poison := [filePlace 0 (144 * 16384 - 256) / 8] }
    0xFFFFFFFFFFC00000 ≤ (v (144 * 16384 - 256)).toNat ∧ (v (144 * 16384 - 256)).toNat % 8 = 0 ∧
    ((v (144 * 16384 - 256)).toNat % 2 ^ 22 + 255) / 256 / 64 < s.me.id.nslot ∧ s.me.id.nslot ≤ ((v (144 * 16384 - 248)).toNat % 2 ^ 22 + 255) / 256 / 64 ∧
    (v 4).toNat % 8 ≠ 0 ∧ s.canPush 7 = true ∧ s.poisonedIn (filePlace 0 ((v (144 * 16384 - 256)).toNat % 2 ^ 22)) 256 = false ∧
    (s.was 0).nestHeld = none ∧ s.liveIds = [] ∧ s.farLoads = false ∧
    u.poisonedIn (filePlace 0 ((v (144 * 16384 - 256)).toNat % 2 ^ 22)) 256 = true ∧ u.canPush 7 = true := by decide

/-- `QueueStores`: a store that the sequencer passes again; one elsewhere; a partial mask; and of the window, a store in the held slots and one in a
slot that a nest owns. -/
theorem test_met_QueueStores_forms :
    let e (m : Mask) : QEntry := { id := 1, mask := m, ready := true }
    let t (m : Mask) : TaskCtx := { labTask with shared := { queue := [(8, [e m])] } }
    let s (m : Mask) : State := lab .store (t m)
    let o (m : Mask) : List Nat := (List.range 256).filter (fun x => (e m).mask.getLsbD (x / (s m).laneBytes))
    (lab .store { labTask with stqs := 0, stqsDone := 1 }).me.stqs < (lab .store { labTask with stqs := 0, stqsDone := 1 }).me.stqsDone ∧
    o 1 = [0, 1, 2, 3] ∧ o 0 = [] ∧ (s 1).canPop 8 = true ∧ LeavesCore (s 1) 0x40000000000FF00 256 .store ∧
    ((255 : Nat) / 256 / 64 < (s 1).me.id.nslot) ∧ (∀ x ∈ o 1, (s 1).me.owned ((0 + x) / 16384) = false) ∧ (s 1).queue 8 = [e 1] ∧
    (let u : State := lab .store { t 1 with mx := { running := [{ cmd := nestCmd, st := .nest {} }] } }
     u.queue 8 = [e 1] ∧ (∃ x ∈ o 1, u.me.owned ((0 + x) / 16384) = true)) ∧
    (lab .store { labTask with shared := { queue := [(8, [{ e 1 with ready := false }])] } }).canPop 8 = false ∧
    OwnNear (lab .store) 0x17FFF8 8 false .load :=
  ⟨by decide, by decide, by decide, by decide, leavesCore_of (segmentOk_of (by decide)) (by decide), by decide, by decide, by decide, by decide,
   by decide, ownNear_of (segmentOk_of (by decide)) (by decide)⟩

/-- `QueueStores`: a filled entry of queue 8 with every lane enabled and with none, an empty queue, and a misaligned address. -/
theorem test_met_QueueStores :
    OwnNear (lab .store) 0x17FF00 256 true .store ∧ SegmentOk (lab .store) 0x17FF00 256 .store ∧
    (let e (m : Mask) : QEntry := { id := 1, mask := m, ready := true }
     let s (m : Mask) := lab .store { labTask with shared := { queue := [(8, [e m])] }, regs := { aStore := [(1, 0x17FF00)] } }
     (s 0).cur.agent = .store ∧ (s 0).me.stqs = (s 0).me.stqsDone ∧ (s 0).a 1 + (0 : BitVec 12).signExtend 64 * 8 = 0x17FF00 ∧
     (s (BitVec.allOnes 128)).queue 8 = [e (BitVec.allOnes 128)] ∧ (s 0).queue 8 = [e 0] ∧ (s 0).canPop 8 = true ∧ (s 0).was 0 = (s 0).me ∧
     (s (BitVec.allOnes 128)).canPop 8 = true ∧ (lab .store).canPop 8 = false ∧ ((s 0).seg 0x17FF00).tier = 1 ∧ (lab .store).queue 8 = [] ∧ (0x17FF01 : DWord).toNat % 8 ≠ 0) :=
  ⟨ownNear_of (segmentOk_of (by decide)) (by decide), segmentOk_of (by decide), by decide⟩

/-- `lab` for Mule, with g registers and the address generator given. -/
def labG (g : SMap Word := []) (gen : AddrGen := {}) : State :=
  lab .mule { labTask with mule := { st := .run, g := g, gen := gen } }

/-- `MuleControl`: counters that end and that go on, commands of Mule that remain, a FIFO with room and a full one, and counts and tables at the
ends of their ranges. -/
theorem test_met_MuleControl :
    (labG [(2, 1)]).g 2 = 1 ∧ (2 : BitVec 3) ≠ 0 ∧ (labG).g 2 ≠ 1 ∧ (labG).me.muleCmds = [] ∧
    (lab .mule { labTask with mx := { queue := [{ id := 1, pusher := .mule }] } }).me.muleCmds ≠ [] ∧ (labG).me.ml.out.length < 16 ∧
    (labG).outFull 0 .mule = false ∧ (labG).was 0 = (labG).me ∧ (labG).liveIds = [] ∧
    16 ≤ (lab .mule { labTask with ml := { out := List.replicate 16 0 } }).me.ml.out.length ∧
    (lab .mule { labTask with ml := { out := List.replicate 16 0 } }).outFull 0 .mule = true ∧ (labG [(2, 1)]).g 2 ≠ 0 ∧
    (labG).g 2 = 0 ∧ ((labG [(2, 4)]).g 2).toNat % 4 = 0 := by decide

/-- `AddressGenerator`: a generator that has ended, one with a counter that goes on, one at its last values, and one with a table in Mule's
segment. -/
theorem test_met_AddressGenerator :
    (labG [] { exhausted := true }).me.mule.gen.exhausted = true ∧
    (let g := (labG [] { count := [(0, 2)] }).me.mule.gen
     g.exhausted = false ∧ g.ind = none ∧ g.counter.get 0 0 + 1 < g.count.get 0 1) ∧
    (let g := (labG).me.mule.gen
     g.exhausted = false ∧ ∀ n < 4, g.count.get n 1 ≤ g.counter.get n 0 + 1) ∧
    OwnNear (labG [] { ind := some 3, table := 0x100 }) (BitVec.ofNat 64 0x100) 4 false .load ∧
    (let s := labG [] { ind := some 3, table := 0x100 }
     s.me.mule.gen.ind = some 3 ∧ s.me.mule.mslot * 2 ^ 58 + (s.me.mule.gen.table + BitVec.ofNat 32 (4 * s.me.mule.gen.counter.get 3 0)).toNat = 0x100 ∧
     s.poisoned (s.nearBytes 0x100 4 false) = false) :=
  ⟨by decide, by decide, by decide, ownNear_of (segmentOk_of (by decide)) (by decide), by decide⟩

/-- `MuleCommands`: a nest and a copy while their queues have room, a full queue, nests that are done and that are not, and tags that are set and
that are not. -/
theorem test_met_MuleCommands :
    (OwnNear (labG [(2, 0x100)]) 0x100 96 false .load ∧ OwnNear (labG [(2, 0x100)]) 0x160 96 false .load) ∧
    (let s := labG
     let h : Word := s.g 1
     (h.extractLsb' 27 5 = 0 ∧ h.extractLsb' 24 3 = 0 ∧ h.getLsbD 22 = false ∧ h.getLsbD 17 = false ∧ h.getLsbD 12 = false ∧
      h.getLsbD 6 = false) ∧ s.queueFull .matrix = false ∧ s.acqIds 4 = [] ∧ s.me.mx.queue = [] ∧ s.me.mx.running = [] ∧
     (∀ c ∈ s.me.mx.queue, c.id ≠ s.nextId) ∧
     s.me.shared.tags &&& 0 = 0 ∧ s.me.shared.tags &&& 1 ≠ 1) ∧
    (let c : Cmd := { nestCmd with pusher := .mule }
     (lab .mule { labTask with mx := { queue := List.replicate 16 c } }).queueFull .matrix = true ∧
     c ∈ (lab .mule { labTask with mx := { queue := [c] } }).me.mx.queue ∧ c.pusher = .mule ∧ headCmd c.head = 0) ∧
    (let s := labG [(2, 0x100)]
     (s.me.mule.mslot * 2 ^ 58 + (s.g 2).toNat = 0x100 ∧ (s.g 2 + 96).toNat = 0x160 ∧ (s.g 2).toNat % 32 = 0) ∧ s.queueFull .copy = false ∧
     s.acqIds 2 = [] ∧ s.poisoned (s.nearBytes 0x100 96 false) = false ∧ s.poisoned (s.nearBytes 0x160 96 false) = false) :=
  ⟨⟨ownNear_of (segmentOk_of (by decide)) (by decide), ownNear_of (segmentOk_of (by decide)) (by decide)⟩, by decide, by decide, by decide⟩

/-- `MuleMemory`: the last word of Mule's segment, a misaligned one, flags at each side of a wait, a wait that an update has woken, and rows of held
slots. -/
theorem test_met_MuleMemory :
    (OwnNear (labG [(1, 0x17FFFC)]) 0x17FFFC 4 false .load ∧ OwnNear (labG [(1, 0x17FFFC)]) 0x17FFFC 4 false .store) ∧
    (let s := labG [(1, 0x17FFFC)]
     (s.g 1 + (0 : BitVec 18).signExtend 32).toNat = 0x17FFFC ∧ 0x17FFFC % 4 = 0 ∧ s.poisoned (s.nearBytes 0x17FFFC 4 false) = false ∧
     (s.g 1 + (1 : BitVec 18).signExtend 32).toNat % 4 ≠ 0) ∧
    (let s (v : Word) := labG [(1, v)]
     ((s 0x80000001).flag 2 - (s 0x80000001).g 1).toNat < 2 ^ 31 ∧ 2 ^ 31 ≤ ((s 0x80000000).flag 2 - (s 0x80000000).g 1).toNat ∧
     (s 0x80000001).awaitMet 2 ((s 0x80000001).g 1) = true ∧ (s 0x80000000).awaitMet 2 ((s 0x80000000).g 1) = false ∧
     (s 0).me.shared.awaiting = [] ∧ (s 0).anyLive ((s 0).flagIds 1) = false ∧ (s 0).anyLive ((s 0).fenceIds 2 1) = false) ∧
    (let s := labG [(1, 0x01000000)]
     s.cur.agent = .mule ∧ (s.me.engine .copy).asm.get 4 [] ++ [s.g 1] = [0x01000000] ∧
     [(0x01000000 : Word)].length < headCount 0x01000000 ∧ headCount 0x01000000 ≤ 8) ∧
    (((labG [(1, 9215)]).g 1).toNat / 64 < (labG).me.id.nslot ∧ (labG).me.id.nslot ≤ ((labG [(1, 9216)]).g 1).toNat / 64 ∧
     (labG).me.owned (9215 / 64) = false ∧ (labG).poisonedIn (rowPlace 0 9215) 256 = false ∧ ((labG).was 0).nestHeld = none ∧
     (lab .mule { labTask with mx := { running := [{ cmd := nestCmd, st := .nest {} }] } }).me.owned 0 = true) :=
  ⟨⟨ownNear_of (segmentOk_of (by decide)) (by decide), ownNear_of (segmentOk_of (by decide)) (by decide)⟩, by decide⟩

/-- `CommandStarts`: a nest at the head of an idle engine's queue whose token stands at 1, one whose token stands at 0, and one that entered the queue
in the ac at hand. -/
theorem test_met_CommandStarts :
    let k : Cmd := { id := 5, words := [0], waitTok := some 3 }
    let s (n : BitVec 8) := lab .control { labTask with mx := { queue := [k] }, shared := { token := [(3, { used := true, count := n })] } }
    ((s 1).task 0 |>.engine .matrix).queue = [k] ∧ (s 1).enginesRun 0 = true ∧ ((s 1).task 0 |>.engine .matrix).busyTill ≤ (s 1).ac ∧
    (s 1).anyLive k.after = false ∧
    EngineSt.paced { ((s 1).task 0).engine .matrix with gap := (((s 1).was 0).engine .matrix).gap } (s 1).hub.paceFloor (s 1).ac = true ∧
    (s 1).engineBusy 0 .matrix k = false ∧ (∃ o ∈ (((s 1).was 0).engine .matrix).queue, o.id = k.id) ∧
    (∀ o ∈ ((({ s 1 with acCores := [(0, { task := labTask })] } : State).was 0).engine .matrix).queue, o.id ≠ k.id) ∧
    (s 1).mayStart 0 k = true ∧ (s 0).mayStart 0 k = false ∧ headCmd k.head = 0 ∧ (s 1).cur.struck = none ∧
    ({ s 1 with cur := { struck := some 1 } } : State).cur.struck.isSome = true ∧ ({ s 1 with cur := { struck := some 1 } } : State).mayStart 0 k = true := by
  decide

/-- A layout record of one i8 element at an address, plain or in the main file (R309). -/
def recordAt (base bim : Nat) : DReg :=
  BitVec.ofNat 768 (base * 2 ^ 704 + 2 ^ 400 + 2 ^ 208 + 2 ^ 64 + bim * 2 ^ 7 + 2 ^ 4 + 3)

/-- A copy of one byte from the near store to an address. -/
def copyCmd (base bim : Nat) : Cmd := { id := 7, words := [0x01000000, 3], recA := recordAt 0x40 0, recB := recordAt base bim }

/-- A nest of one k-step on slot 2 in i8 with ZERO; with the drain bits given it drains to row 0 of slot 0 or to memory (R293 to R296). -/
def nestOf (bits : Nat) : Cmd :=
  { id := 5, words := [0], fmt := [(0, 0x333)],
    nt := [(0, BitVec.ofNat 32 (1 + bits)), (1, 2), (4, 0xC0000), (6, 0), (8, 256), (10, 1), (13, 1), (16, 1), (19, 1), (22, 1), (25, 1)] }

/-- A state in which a command runs. -/
def running (e : Engine) (r : Running) : State := lab .control (labTask.setEngine e { running := [r] })

/-- `CommandsSetUp`: a nest and a transfer that pass their checks, an `MRUN`, and a kind that no engine has. -/
theorem test_met_CommandsSetUp :
    headCmd (nestOf 0).head = 0 ∧ headLen (nestOf 0).head = 0 ∧ ntBad (nestOf 0).nt (headXb (nestOf 0).head) = false ∧
    (∃ p, (lab).startCopy 0 (copyCmd 0x80 0) = .ok p ∧ (p.2 == ({} : CopySt)) = true) ∧
    (∀ r ∈ ((lab).task 0).cp.running, r.cmd.id ≠ (copyCmd 0x80 0).id → r.inFlight = true → r.cmd.tag ≠ (copyCmd 0x80 0).tag) ∧
    (let k : Cmd := { id := 5, words := [0x02000000, 0xFFFF, 7] }
     headCmd k.head = 0 ∧ headLen k.head = 2 ∧ headXb k.head = false ∧ (k.word 1).toNat < 2 ^ 16) ∧
    3 ≤ headCmd 0x18000000 ∧ ((lab).die (coreDie 0)).log.length < 4096 :=
  ⟨by decide, by decide, by decide, ok_of (by decide), by decide, by decide, by decide, by decide⟩

/-- `CommandsComplete`: an ended transfer with NTF and a token, whose output FIFO has room; a token at 255; and a full FIFO. -/
theorem test_met_CommandsComplete :
    let r : Running := { cmd := { copyCmd 0x80 0 with words := [0x01800000, 3], sigTok := some 2 }, st := .ended 1 4 }
    let s (n : BitVec 8) (o : List DWord) :=
      lab .control { labTask with cp := { running := [r], out := o }, shared := { token := [(2, { used := true, count := n })] } }
    ((s 0 []).task 0 |>.engine .copy).running[0]? = some r ∧ ((s 0 []).core 0).enginesComplete = true ∧ (s 0 []).hub.relocking = false ∧ r.tagged = false ∧
    r.acted = false ∧ (s 0 []).outcome 0 r = some (1, 4) ∧ (∀ x ∈ ((s 0 []).task 0 |>.engine .copy).running, x.cmd.id ≠ r.cmd.id → x.tagged = false ∧ x.acted = false) ∧
    isTransfer .copy r.cmd = true ∧ r.actions = true ∧ headNtf r.cmd.head = true ∧ isTransfer .matrix (nestOf 0) = false ∧ (s 0 []).tokenHeld 0 r.cmd = false ∧
    (s 255 []).tokenHeld 0 r.cmd = true ∧ (s 0 (List.replicate 15 0)).outFull 0 .copy = false ∧
    (s 0 (List.replicate 16 0)).outFull 0 .copy = true := by decide

/-- A check of a k-step that passes. -/
theorem stepOk_of {r : StepCheck} (h : (match r with | .ok .. => true | _ => false) = true) : ∃ a b x y, r = .ok a b x y := by
  cases r with
  | ok a b x y => exact ⟨a, b, x, y, rfl⟩
  | wait => simp at h
  | fault f => simp at h

/-- A check of a k-step that faults. -/
theorem stepFault_of {r : StepCheck} (h : (match r with | .fault _ => true | _ => false) = true) : ∃ f, r = .fault f := by
  cases r with
  | fault f => exact ⟨f, rfl⟩
  | wait => simp at h
  | ok a b x y => simp at h

/-- `KSteps`: a step that passes its checks on a slot that it clears, one on a slot already touched whose accumulator holds no error or one, and a
step on a slot that the task does not hold. -/
theorem test_met_KSteps :
    let s := running .matrix { cmd := nestOf 0, st := .nest {} }
    let cs := ntCounters (nestOf 0).nt 0
    let n : NestSt := { touched := [2] }
    let u : State := { running .matrix { cmd := nestOf 0, st := .nest n } with struck := [rowPlace 0 128 / 8] }
    let acc := accFmt (FmtEntry.ofBits ((nestOf 0).fmt.get (ntIndex (nestOf 0).nt cs) 0)).acc
    ((∃ a b x y, s.checkStep 0 (nestOf 0) cs = .ok a b x y) ∧ (∃ a b x y, u.checkStep 0 (nestOf 0) cs = .ok a b x y) ∧
     ∃ f, (lab .control { labTask with id := { nslot := 2 } }).checkStep 0 (nestOf 0) cs = .fault f) ∧
    (s.nest 0 = some (nestOf 0, {}) ∧ s.enginesRun 0 = true ∧ 0 < ntK (nestOf 0).nt ∧ (s.task 0).mx.lastDequeue ≠ some s.ac ∧
     (ntSlot (nestOf 0).nt cs).toNat = 2 ∧ Memory.wf s.mem = true ∧ ntBit (nestOf 0).nt 0 = true ∧ 2 ∉ ([] : List Nat)) ∧
    u.nest 0 = some (nestOf 0, n) ∧ u.enginesRun 0 = true ∧ 2 ∈ n.touched ∧ u.accBad 0 2 acc = true ∧ s.accBad 0 2 acc = false :=
  ⟨⟨stepOk_of (by decide), stepOk_of (by decide), stepFault_of (by decide)⟩, by decide, by decide⟩

/-- `DrainsAndBallast`: an idle engine; a nest that has run its k-steps and rotates, in i32 and in f32; and one that drains to the main file and to
memory. -/
theorem test_met_DrainsAndBallast :
    let n : NestSt := { done := 1, touched := [2] }
    let s (b : Nat) := running .matrix { cmd := nestOf b, st := .nest n }
    (let q : Request := { kind := .store, va := drainVa (nestOf 4) n, offs := List.range (64 * 4), mode := .store, data := toBytes 0 (64 * 4),
                          opf := opfMatrix 2, cmd := 5, agent := .matrixEngine }
     ∃ a, (s 4).engineAccess 0 q = .ok a ∧ (a.kind == .store) = true) ∧
    (0 < 4096 ∧ (lab).enginesRun 0 = true ∧ ((lab).task 0).mx.running = [] ∧ ((lab).task 0).mx.busyTill ≤ (lab).ac ∧
     (lab).hub.slew < (lab).hub.slew + 1 ∧ (lab).hub.slew ≤ (lab).hub.slew) ∧
    ((s 12).nest 0 = some (nestOf 12, n) ∧ (s 12).enginesRun 0 = true ∧ n.done = ntK (nestOf 12).nt ∧ ntBit (nestOf 12).nt 2 = true ∧
     (s 12).cmdBusy (nestOf 12).id = false ∧ ntBit (nestOf 12).nt 3 = true ∧ n.rotated = false ∧ (lastEntry (nestOf 12)).2.acc = 3 ∧
     (lastEntry { nestOf 12 with fmt := [(0, 0)] }).2.acc ≠ 3 ∧ (s 12).accBad 0 2 (accFmt (lastEntry (nestOf 12)).2.acc) = false) ∧
    (ntBit (nestOf 20).nt 4 = true ∧ ntBit (nestOf 20).nt 3 = false ∧ ((s 20).task 0).holdsRow 0 = true ∧ ntOwns (nestOf 20).nt (0 / 64) = false) ∧
    ntBit (nestOf 4).nt 4 = false ∧ (s 4).imaged 0 (nestOf 4) = false ∧ (s 4).accBad 0 2 (accFmt (lastEntry (nestOf 4)).2.acc) = false :=
  ⟨ok_of (by decide), by decide, by decide⟩

/-- A state with one access on its way to its home, and the leases of the three segments of core 0's table. -/
def inTransit (a : Access) : State :=
  { lab with transit := [a], nextId := a.id + 1
             units := [(0, { leases := [(0, { st := .active, paid := 1, ngran := 0x6000, base := nearPlace 0 0, tier := 1 })] }),
                       (256, { leases := [(0, { st := .active, paid := 1, ngran := 0x1000, base := 0, tier := 3 })] }),
                       (257, { leases := [(0, { st := .active, paid := 1, ngran := 0x1000, base := 2 ^ 36, tier := 3 })] }),
                       (264, { leases := [(0, { st := .active, paid := 1, ngran := 0x1000, base := hostPlace 0, tier := 4 })] })] }

/-- A running copy that moves one byte of the near store. -/
def copying (base bim : Nat) (c : CopySt) (holds : List (Nat × Nat) := []) : Running :=
  { cmd := copyCmd base bim, st := .copy c, holds := holds }

/-- `TransferBeats`: a transfer whose lease was cancelled, one whose turn it is not, one with no point left, one whose next beat is found and whose
sources are sent, one that resumes, one whose unit has written a beat in this ac, and one with its sources in hand, for the near store and for the main
file. -/
theorem test_met_TransferBeats :
    let k := copyCmd 0x80 0
    let x := copyCmd 0x80 2
    let held : CopySt := { forming := true, next := 1, va := 0x80, elems := [(0, 7)] }
    let m := beatBytes 1 [(0, 7)]
    let s := running .copy (copying 0x80 0 {})
    let u := running .copy (copying 0x80 0 held)
    let v := running .copy (copying 0x80 2 held)
    (∃ p, State.formBeat 0 (k.layout false) (k.layout true) k.perm true (opfTag k.tag) 1 (s.takeTurn 0 (copying 0x80 0 {})) { next := 0 } [] = .ok p ∧
       (decide (p.1.elems ≠ []) && (match (p.2.1.setHolds 0 .copy k.id p.2.2).sendSources 0 k.id k.mover (k.layout false) (opfTag k.tag)
         (sourceRuns (elemBytes (k.layout false).fmt) 0 p.1.elems) (p.1.elems.map (fun e => ((e.1 - lowest p.1.elems).toNat, 0))) with
         | .ok _ => true | .error _ => false)) = true) ∧
    (let q : Request := { kind := .store, va := 0x80, offs := m.map (·.1), mode := .store, data := m.map (·.2), opf := opfTag k.tag, cmd := k.id,
                          agent := k.mover }
     ∃ a, (u.takeBeat 0 (copying 0x80 0 held)).engineAccess 0 q = .ok a ∧ (a.kind == .store) = true) ∧
    (let r := copying 0x80 0 {} [(0, 0)]
     let t : State := { running .copy r with units := [(0, { leases := [(0, { st := .deferred, cancelled := true })] })] }
     (t.task 0).cp.running[0]? = some r ∧ t.enginesRun 0 = true ∧ t.cmdBusy r.cmd.id = false ∧ t.cancelledHold r.holds = true) ∧
    (s.cancelledHold [] = false ∧ s.nextTransfer 0 k.unit = some 0 ∧ s.nextTransfer 0 k.unit ≠ some 1 ∧
     (running .copy (copying 0x80 0 { point := 1 })).nextTransfer 0 k.unit = some 0 ∧ (k.layout true).points ≤ 1) ∧
    (({ skip := 1 } : CopySt).beat < 1 ∧ (0 : Nat) ≤ ({} : CopySt).beat ∧ (u.task 0).cp.beatAc.find k.unit ≠ some u.ac ∧
     ((u.takeBeat 0 (copying 0x80 0 held)).task 0).cp.beatAc.find k.unit = some u.ac) ∧
    ((k.layout true).bim ≠ 2 ∧ elemBytes (k.layout true).fmt = 1) ∧
    (x.layout true).bim = 2 ∧ (0x80 : DWord).toNat < 2 ^ 22 ∧ Memory.wf v.mem = true ∧ (v.task 0).holdsBytes 0x80 1 = true ∧
    (v.task 0).ownsBytes [0x80] = false :=
  ⟨ok_of (by decide), ok_of (by decide), by decide⟩

/-- The bits of a window record: id 1, root 0, `npart` participants, `op`, `dlen` lines from guest byte 0x40000, with DV. -/
def windowBits (npart op dlen : Nat) : BitVec 256 :=
  BitVec.ofNat 256 (2 ^ 224 + npart * 2 ^ 192 + 0x40000 * 2 ^ 128 + dlen * 2 ^ 104 + op * 2 ^ 92 + 2 ^ 91)

/-- A registrant of window 1. -/
def registrant (op : Nat) (status : Option Nat := some 0) : Registrant :=
  { num := 3, wid := 1, tag := 0, core := 0, launch := 0, unit := 0, gang := 0, crew := 0, lid := 0, vf := 0, wrec := windowBits 1 op 4, ntf := true,
    cmd := 9, status := status }

/-- A slot of window 1 with one port. -/
def winSlot (op : Nat) (st : SlotSt) (npart : Nat := 1) (weight : Nat := 1) : WinSlot :=
  { wid := 1, tag := 0, wrec := windowBits npart op 4, st := st, ports := [{ port := 0, weight := weight }] }

/-- A reduction store of one f32 element to the first lane of window 1. -/
def rstoreCmd : Cmd :=
  { id := 9, words := [0x11000000, 0], recA := recordAt 0x40 0,
    recB := BitVec.ofNat 768 (0x400000000040000 * 2 ^ 704 + 2 ^ 400 + 4 * 2 ^ 208 + 2 ^ 64 + 2 ^ 4) }

/-- `CollectiveSends`: a reduction store with no beat left, whose beats are taken and are not; one with a beat for its window, opened and not; and an
exchange that has ended and one with words still to come. -/
theorem test_met_CollectiveSends :
    (let r : Running := { cmd := rstoreCmd, st := .coll { point := 1 } }
     let s := running .collective r
     (s.task 0).cl.running[0]? = some r ∧ s.enginesRun 0 = true ∧ s.cmdBusy 9 = false ∧ headCmd rstoreCmd.head = 2 ∧ rstoreCmd.target.points ≤ 1 ∧
     s.unaccepted 9 = false ∧ ({ s with flits := [.dense 1 0 0 0 0 1 0 9] } : State).unaccepted 9 = true) ∧
    (let cs : CollSt := { forming := true, next := 1, va := 0x400000000000000, width := 4, elems := [(0, 7)] }
     let s (st : SlotSt) : State :=
       { running .collective { cmd := rstoreCmd, st := .coll cs } with registrants := [registrant 0], winSlots := [winSlot 0 st] }
     (s .opened).guestAddr 0 cs.va = some 0x40000 ∧
     (s .opened).guestAddr 0 (cs.va + BitVec.ofNat 64 (0 + elemBytes (rstoreCmd.layout true).fmt - 1)) = some 0x40003 ∧
     (s .opened).windowAt 0 0x40000 = some (registrant 0) ∧ (s .opened).windowAt 0 0x40003 = some (registrant 0) ∧
     (WinRec.ofBits (registrant 0).wrec).sparse = false ∧ windowFmt 0 = (rstoreCmd.layout true).fmt ∧ (rstoreCmd.layout true).bim ≠ 2 ∧
     (s .opened).slot? 1 0 = some (winSlot 0 .opened) ∧ (s .joining).slot? 1 0 = some (winSlot 0 .joining) ∧
     (winSlot 0 .joining).st ≠ .opened ∧ (winSlot 0 .opened).st = .opened ∧ (registrant 0).status = some 0 ∧ (s .opened).cut cs = false ∧
     ((s .opened).slotDesc 0 (vaSlot cs.va)).kind = 0) ∧
    (let s : State := { lab with winSlots := [winSlot 0 .aborted] }
     s.cut { forming := true, into := some (1, 0) } = true) ∧
    (∃ d, (lab).lookup 0 0x400000000000000 4 .store 3 = .ok d ∧ d.v = true) ∧
    (let k (mesh : Nat) : Cmd :=
       { id := 9, words := [0x02000000, 0, 0], recA := BitVec.ofNat 768 (mesh * 2 ^ 352 + 4 * 2 ^ 256 + 2 ^ 232 + 2 ^ 221),
         recB := BitVec.ofNat 768 (mesh * 2 ^ 352 + 4 * 2 ^ 256 + 2 ^ 221) }
     headCmd (k 1).head = 0 ∧ (k 1).shards.1.size ≤ 1 ∧
     (let e (b : Bool) : AccEntry := { port := 256, flagged := false, cmd := 9, ready := b }
      let l (b : Bool) : List AccEntry := ({ lab with accEntries := [e b] } : State).accEntries.filter (fun e => e.cmd == 9 && !e.flagged)
      (l true).length = 1 ∧ (∀ e ∈ l true, e.ready = true) ∧ (∃ e ∈ l false, e.ready = false) ∧ (l true).length ≠ 0) ∧
     exchangeExpected (k 1).shards.1 (k 1).shards.2 ≤ 0 ∧ 0 < exchangeExpected (k 2).shards.1 (k 2).shards.2 ∧ 0 < (k 1).shards.1.size ∧
     (lab).peer 0 (k 1).shards.1 0 = some (0, 0) ∧ (lab).secondStage 0 0 ((k 1).shards.1.bytes 0) = some 0 ∧ (lab).cfg.fabricId = 0 ∧
     ∃ u, (lab).exchangeStep 0 (k 1) 0 0 none 0 0 0 = .ok u ∧ (u.nextId == 2) = true) :=
  ⟨by decide, by decide, by decide, ok_of (by decide),
   ⟨by decide, by decide, by decide, by decide, by decide, by decide, by decide, by decide, by decide, ok_of (by decide)⟩⟩

/-- `CollectiveSends`, through a pageable segment: a page whose frame lies in an open window, with its A and DT set. -/
theorem test_met_CollectiveSends_pageable :
    let va : DWord := 0x1400000000000100
    let w : Registrant := { registrant 0 with wrec := BitVec.ofNat 256 (2 ^ 224 + 2 ^ 192 + 0x80000 * 2 ^ 128 + 4 * 2 ^ 104 + 2 ^ 91) }
    let s : State := { running .collective { cmd := rstoreCmd, st := .coll { forming := true, next := 1, va := va, width := 4, elems := [(0, 7)] } } with
      mem := [(0x10000, 1), (0x10002, 4), (0x40000, 1), (0x40002, 6), (0x60000, 0x39), (0x60002, 8)],
      registrants := [w], winSlots := [winSlot 0 .opened] }
    (s.slotDesc 0 (vaSlot va)).kind ≠ 0 ∧ s.guestAddr 0 va = some 0x80100 ∧ s.windowAt 0 0x80100 = some w ∧ s.windowAt 0 0x80103 = some w ∧
    s.openTo w = true ∧ (match s.windowPage 0 va 4 with | .at _ u => u.openTo w && u.guestAddr 0 va == some 0x80100 | _ => false) = true := by decide

/-- `ExpertBuffers`: a buffer with one entry left for a row that fills it, a full one, and a row that is too large; and a `DISPX` of this module. -/
theorem test_met_ExpertBuffers :
    let b (n : Nat) : XBuf := { addr := 0, unit := 256, lease := 0, lgen := 0, esz := 1, count := 2, next := n }
    let s (n : Nat) : State := { lab with hub := { xbufs := [(255, b n)] } }
    (s 1).hub.xbufs.find 255 = some (b 1) ∧ (b 1).live = true ∧ (lab).hub.xbufs.find 0 = none ∧
    ({ lab with hub := { xbufs := [(0, { b 1 with live := false })] } } : State).hub.xbufs.find 0 = some { b 1 with live := false } ∧ 255 < 256 ∧ (List.replicate 256 (0 : Byte)).length ≤ 16384 ∧ (b 1).next < (b 1).count ∧
    (List.replicate 256 (0 : Byte)).length ≤ (b 1).esz * 256 ∧ (b 2).count ≤ (b 2).next ∧
    (b 1).esz * 256 < (List.replicate 257 (0 : Byte)).length ∧
    (let k : Cmd := { id := 9, words := [0x21000000, 0], recA := recordAt 0x40 0, recB := 255 }
     headCmd k.head = 4 ∧ k.target.points ≤ 1 ∧ k.dests = [(0, 255)] ∧ (lab).cfg.fabricId = 0 ∧
     (beatBytes 1 [(0, 7)]).map (·.2) = [7]) := by decide

/-- An access of core 0 to 8 B of its near store or of a stack of die `d`. -/
def accessOf (kind : AccKind) (dest : Target := .none) (data : List Byte := []) : Access :=
  { id := 4, kind := kind, va := 0x100, tier := 1, offs := List.range 8, places := fromTo (nearPlace 0 0x100) 8, data := data, dest := dest }

/-- The same to 8 B of stack 1, whose home is another die. -/
def farAccess (kind : AccKind) (dest : Target := .none) (stamp : Option (List Nat) := none) : Access :=
  { id := 4, kind := kind, va := 0x400000000000000, slot := 1, unit := 257, tier := 3, offs := List.range 8, places := fromTo (2 ^ 36) 8,
    data := List.replicate 8 1, dest := dest, stamp := stamp }

/-- `AccessesPerform`: a store, an atomic whose comparand matches and one whose does not, and a load from its own die and from another. -/
theorem test_met_AccessesPerform :
    AtHome (inTransit (accessOf .store .none (List.replicate 8 1))) (accessOf .store .none (List.replicate 8 1)) ∧
    AtHome (inTransit (accessOf (.atomic 2 0) (.x 5) (List.replicate 8 1))) (accessOf (.atomic 2 0) (.x 5) (List.replicate 8 1)) ∧
    AtHome (inTransit (accessOf (.load true) (.x 5))) (accessOf (.load true) (.x 5)) ∧
    AtHome (inTransit (farAccess (.load false) (.x 5))) (farAccess (.load false) (.x 5)) ∧
    ((accessOf .store).from = (accessOf .store).home ∧ (accessOf .store).agent = .control ∧ (accessOf .store).exec = false ∧
     ofBytes (readPlaces [] (accessOf .store).places) = (0 : DWord).toNat % 2 ^ (8 * 8) ∧
     ofBytes (readPlaces [] (accessOf .store).places) ≠ (1 : DWord).toNat % 2 ^ (8 * 8) ∧ (accessOf (.load true)).home ≠ 8 ∧
     (accessOf (.load true)).places.length ≤ 8 ∧ (farAccess (.load false)).from ≠ (farAccess (.load false)).home ∧
     (inTransit (farAccess (.load false))).causalLoadOk 1 0 [] = true ∧ (inTransit (farAccess (.load false) (.x 5))).foreign (farAccess (.load false) (.x 5)) = []) :=
  ⟨atHome_of (by decide), atHome_of (by decide), atHome_of (by decide), atHome_of (by decide), by decide⟩

/-- `FailedChecks`: a load, a store and an atomic of the own near store whose lease has ended. -/
theorem test_met_FailedChecks :
    let s (k : AccKind) : State := { inTransit (accessOf k (.x 5)) with units := [] }
    let a (k : AccKind) : Access := accessOf k (.x 5)
    (∀ k ∈ [AccKind.load true, .store, .atomic 0 0], (s k).access 4 = some (a k) ∧ (s k).mayArrive (a k) = true ∧ (a k).isFence = false ∧ (a k).bad = none ∧
      (a k).ofTransfer = false ∧ (s k).unitReady (a k).unit = true ∧ (s k).meets (a k) [] = some (2, 2) ∧ (a k).from = (a k).home ∧ (a k).home ≠ 8 ∧
      (a k).agent = .control) := by decide

/-- `KeysOfAccounts`: a load and a store of 8 B of a data unit that was written under key id 7, by an account of key id 0. -/
theorem test_met_KeysOfAccounts :
    let a (k : AccKind) : Access := { farAccess k (.x 5) with unit := 256, places := fromTo 0 8 }
    let s (k : AccKind) : State := { inTransit (a k) with keyed := [(0, 7)] }
    AtHome (s (.load false)) (a (.load false)) ∧ AtHome (s .store) (a .store) ∧
    (Memory.wf (s .store).mem = true ∧ (a .store).agent = .control ∧ (a .store).from = (a .store).home ∧ (a .store).slot ≠ 64 ∧ (a .store).places ≠ [] ∧
     (a .store).places.Nodup ∧ (∀ p ∈ (a .store).places, placeTier p = 3 ∧ p / 256 = 0) ∧ (s .store).keyed.find 0 = some 7 ∧
     7 ≠ ((s .store).account ((s .store).lease 256 ((s .store).lease 256 0).headl).acct).keyid ∧ (a (.load false)).places.length ≤ 8 ∧
     (a .store).exec = false ∧ (a .store).data.length = (a .store).places.length) :=
  ⟨atHome_of (by decide), atHome_of (by decide), by decide⟩

/-- `CrossDieWrites`: a store that has not left, one whose cause its home has applied, and one whose cause it has not; and a die with an APPLIED to
take. -/
theorem test_met_CrossDieWrites :
    AtHome (inTransit (farAccess .store)) (farAccess .store) ∧
    AtHome (inTransit (farAccess .store .none (some [1, 0, 0, 0, 0, 0, 0, 0, 0]))) (farAccess .store .none (some [1, 0, 0, 0, 0, 0, 0, 0, 0])) ∧
    AtHome (inTransit (farAccess .store .none (some [2, 0, 0, 0, 0, 0, 0, 0, 0]))) (farAccess .store .none (some [2, 0, 0, 0, 0, 0, 0, 0, 0])) ∧
    ((inTransit (farAccess .store)).causalOk 1 0 [1, 0, 0, 0, 0, 0, 0, 0, 0] = true ∧
     (inTransit (farAccess .store)).causalOk 1 0 [2, 0, 0, 0, 0, 0, 0, 0, 0] = false ∧ (farAccess .store).from ≠ (farAccess .store).home ∧
     (inTransit (farAccess .store)).foreign (farAccess .store) = [] ∧
     (farAccess .store).from < 8 ∧ (farAccess .store).home < 8 ∧ (farAccess .store).exec = false ∧ (farAccess .store).agent = .control ∧
     (farAccess .store).stamp = none ∧ (inTransit (farAccess .store)).waiters = [] ∧ (inTransit (farAccess .store)).hub.done = [] ∧
     clk [1, 0, 0, 0, 0, 0, 0, 0, 0] 0 = clk (inTransit (farAccess .store)).hub.applied 0 + 1 ∧
     0 < (inTransit (farAccess .store)).hub.applied.length ∧ clk [1, 0, 0, 0, 0, 0, 0, 0, 0] 0 ≠ clk ({ applied := [5] } : Hub).applied 0 + 1 ∧
     (({ lab with dies := [(7, { appliedMail := [[1]] })] } : State).die 7).appliedMail = [1] :: [] ∧ 7 < 8) :=
  ⟨atHome_of (by decide), atHome_of (by decide), atHome_of (by decide), by decide⟩

/-- `AccumulateWrites`: the last word that an entry waits for, one before it, and a key that the entry has not recorded; a word that no entry covers; and
an entry of another operation. -/
theorem test_met_AccumulateWrites :
    let a : Access := { id := 4, agent := .collectiveEngine, kind := .accumulate 0 5, slot := 1, unit := 256, tier := 3, offs := List.range 4,
                        places := fromTo 0 4, data := List.replicate 4 0 }
    let e (n : Nat) : AccEntry := { port := 256, tlen := 1, tbase := 0, expect := n }
    let s (n : Nat) : State := { inTransit a with accEntries := [e n] }
    AtHome (s 1) a ∧ AtHome (inTransit a) a ∧ (inTransit a).accEntries = [] ∧ { e 1 with op := 1 }.op ≠ 0 ∧ (s 1).foreign a = [] ∧ a.from = a.home ∧ (s 1).accEntries.find? (fun e => a.places.all e.covers && e.port == portOf (a.places.headD 0)) = some (e 1) ∧
    (e 1).op = 0 ∧ (∀ k ∈ (e 1).keys, k.1 ≠ 5) ∧ (e 1).keys.length < 64 ∧ (e 1).ready = false ∧ (e 1).expect ≤ min (0 + 4 / 4) 0xFFFFFFFF ∧
    (e 1).flagged = true ∧ min (0 + 4 / 4) 0xFFFFFFFF < (e 2).expect ∧ (s 1).poisoned a.places = false :=
  ⟨atHome_of (by decide), atHome_of (by decide), by decide⟩

/-- A message for the queue at byte 4096 of core 0's near store. -/
def message : Access :=
  { id := 4, kind := .message, va := 0xC00000000000000, slot := 3, unit := 0, tier := 1, offs := List.range 8, places := [nearPlace 0 4096],
    data := List.replicate 8 1 }

/-- `MessagesAppend`: a queue with one entry free, and a full one. -/
theorem test_met_MessagesAppend :
    let s (head : Nat) : State := { inTransit message with mem := (withRing head 4 4 head true).mem }
    AtHome (s 1) message ∧ AtHome (s 0) message ∧
    (message.from = message.home ∧ (s 1).foreign message = [] ∧ (s 1).remoteBefore 0 .control 4 (some message.queueCore) = false ∧ (s 1).behindKept message = false ∧
     ((s 1).ringAt (nearPlace 0 4096)).mq = true ∧ ((s 1).ringAt (nearPlace 0 4096)).bad = false ∧
     ((s 1).ringAt (nearPlace 0 4096)).freeEntries ≠ 0 ∧ ((s 0).ringAt (nearPlace 0 4096)).freeEntries = 0 ∧
     ((s 0).ringAt (nearPlace 0 4096)).bad = false ∧ Memory.wf (s 1).mem = true ∧ nearPlace 0 4096 % 8 = 0 ∧
     nearPlace 0 4096 + 64 ≤ ((s 1).ringAt (nearPlace 0 4096)).slotPlace (nearPlace 0 4096) 4) :=
  ⟨atHome_of (by decide), atHome_of (by decide), by decide⟩

/-- `MessageNotices`: an acknowledgement, a refusal and a resume notice for the task of core 0, and a writer whose poll is due. -/
theorem test_met_MessageNotices :
    let n (r : Option Access) (p : Bool) : MqNotice := { core := 0, slot := 3, who := { nslot := 144 }, free := 0, refused := r, poll := p }
    let s (r : Option Access) (p : Bool) : State := { lab with mqNotices := [n r p] }
    (s none false).mqNotices[0]? = some (n none false) ∧ (s (some message) true).mqNotices[0]? = some (n (some message) true) ∧
    (s none true).mqNotices[0]? = some (n none true) ∧ (s none true).coreOfMember 0 0 0 0 0 = some 0 ∧ ((s none true).core 0).residency = .resident ∧
    (let t : State := { lab .control { labTask with shared := { mq := [(3, { pollAt := some 0 })] } } with rc := 0 }
     ((t.task 0).writer 3).pollAt = some 0 ∧ 0 ≤ t.rc ∧ (t.core 0).residency = .resident) := by decide

/-- A fault that an `Except` answers. -/
theorem err_of {ε α : Type} {e : Except ε α} {p : ε → Bool} (h : (match e with | .ok _ => false | .error f => p f) = true) :
    ∃ f, e = .error f ∧ p f = true := by
  cases e with
  | ok a => simp at h
  | error f => exact ⟨f, rfl, h⟩

/-- A page table at byte 0x20000 of the carve-out whose page 0 has the leaf entry 0x80000 + `low`. -/
def pageMem (low : Nat) : List Host.Cell :=
  [(0x20000, 1), (0x20002, 4), (0x40000, 1), (0x40002, 6), (0x60000, BitVec.ofNat 8 low), (0x60002, 8)]

/-- An access of the pageable segment of slot 5 that still has its walk to make. -/
def paged (kind : AccKind) (wait go : Bool := false) : Access :=
  { id := 4, kind := kind, va := 0x1400000000000100, slot := 5, tier := 3, pageable := true, table := 0x20000, walk := true, migWait := wait,
    migGo := go, offs := List.range 8, data := List.replicate 8 1, stage := BitVec.ofNat 128 (2 ^ 64 + 0x100 * 2 ^ 80) }

/-- A load of host memory. -/
def hostLoad : Access :=
  { id := 4, kind := .load false, va := 0x1000000000000100, slot := 4, unit := 264, tier := 4, offs := List.range 8,
    places := fromTo (hostPlace 0x100) 8, dest := .x 5 }

/-- `PageWalks` and `HostReads`: a walk that finds its frame, one that finds a page in migration, one that finds a page it may not write, a walk made
again after a migration, and a load of host memory, with its lease and without. -/
theorem test_met_WalksAndHostReads :
    (let s (low : Nat) (a : Access) : State := { inTransit a with mem := pageMem low }
     let walk (low : Nat) (a : Access) := (s low a).pagePlaces a.core a.stage a.slot a.lgen a.table a.va.toNat (!a.kind.reads)
       (a.kind == .prefetch) false (a.offs.map (fun o => vaOff a.va + o))
     ((paged .store).walk = true ∧ (paged .store).held = false ∧ (paged .store).migWait = false ∧ (paged .store true true).migWait = true ∧
       (paged .store true true).migGo = true ∧ (s 9 (paged .store)).access 4 = some (paged .store) ∧ AccKind.store ≠ AccKind.prefetch ∧
       AccKind.store ≠ AccKind.message) ∧
     (∃ r, walk 9 (paged .store) = .ok r ∧ (r.1 == fromTo 0x80100 8) = true) ∧
     (∃ r, walk 9 (paged .store true true) = .ok r ∧ (r.1 == fromTo 0x80100 8) = true) ∧
     (∃ f, walk 11 (paged .store) = .error f ∧ (f == none) = true) ∧
     (∃ f, walk 1 (paged .store) = .error f ∧ (f == some (1, 1, 0x1400000000000100)) = true)) ∧
    AtHome (inTransit hostLoad) hostLoad ∧
    ((inTransit hostLoad).foreign hostLoad = [] ∧ hostLoad.kind = .load false ∧ hostLoad.home = 8 ∧ hostLoad.agent = .control ∧ hostLoad.from < 8 ∧
     (inTransit hostLoad).causalLoadOk 8 hostLoad.from (hostLoad.stamp.getD []) = true ∧ hostLoad.dest = .x 5 ∧ 5 ≠ 0) ∧
    (let s : State := { inTransit hostLoad with units := [] }
     s.hostReadOf 4 = some hostLoad ∧ hostLoad.ofTransfer = false ∧ s.unitReady hostLoad.unit = true ∧ s.meets hostLoad [] = some (2, 2) ∧
     s.waiters.length = (s.accessFaultVa hostLoad 2 2).waiters.length) :=
  ⟨⟨by decide, ok_of (by decide), ok_of (by decide), err_of (by decide), err_of (by decide)⟩, atHome_of (by decide), by decide, by decide⟩

/-- `SequencersGoOn`: a BLOCKED sequencer whose causes have cleared, one whose cause stands and one another word of whose bundle waits, one that has not run yet, one that passes to code of the other LM value with its engines drained, and a
queue entry whose load a loss of decoupling makes again. -/
theorem test_met_SequencersGoOn :
    (let s : State := lab .control { labTask with load := { st := .blocked, cause := .farLoads, more := [.push 7] }
                                                  compute := { st := .blocked, cause := .tokenEmpty 3 }
                                                  store := { st := .blocked, cause := .farLoads, more := [.push 8, .tokenEmpty 3] }
                                                  mule := { st := .blocked, cause := .nests } }
     let at' (a : Agent) : State := { s with cur := { core := 0, agent := a } }
     ((s.task 0).seq .load).st = .blocked ∧ (at' .load).stands ((s.task 0).seq .load).cause = false ∧
     (∀ w ∈ ((s.task 0).seq .load).more, (at' .load).stands w = false) ∧ (∃ w ∈ ((s.task 0).seq .store).more, (at' .store).stands w = true) ∧
     (at' .compute).stands ((s.task 0).seq .compute).cause = true ∧ (at' .mule).stands (s.task 0).mule.cause = false ∧ (s.task 0).mule.st = .blocked ∧ ((s.task 0).seq .load).lm = none ∧ (s.core 0).residency = .resident) ∧
    (let s : State := lab .control { labTask with ctl := { st := .run, lm := some false } }
     ((s.task 0).seq .control).lm = some (!s.nextLm 0 .control) ∧ ((s.task 0).seq .control).pipe = [] ∧ (s.task 0).drained = true) ∧
    (let e : QEntry := { id := 1, blocks := [64], va := some 0x400000000000000 }
     let s : State := lab .control { labTask with shared := { queue := [(0, [{ e with marked := true }])] } }
     (s.task 0).watches 64 = true ∧ (s.task 0).load.st ≠ .faulted ∧ s.deferred = [] ∧ (s.task 0).nextDue = some (0, { e with marked := true }) ∧
     s.transit = [] ∧ inWindow 0x400000000000000 = false) ∧
    ∃ d, (lab).lookup 0 0x400000000000000 256 .load 3 = .ok d ∧ d.v = true :=
  ⟨by decide, by decide, by decide, ok_of (by decide)⟩

/-- A packet of TYPE `type` with the bits of its body given. -/
def packetBits (type body : Nat) : Packet := { count := 5, body := BitVec.ofNat 2048 (body + type * 2 ^ 2016) }

/-- `lab` with ring 0 of the physical function on, in host memory, and the packets given. -/
def labRing0 (ps : List Packet := []) (chains : List Chain := []) : State :=
  { lab with hub := { accounts := [(0, { ast := 1, allow := 1000 })]
                      functions := [(0, { sstage := BitVec.ofNat 128 (2 ^ 64 + 0x100 * 2 ^ 80), enabled := true
                                          rings := [(0, { reg := 0x1001, head := 5, packets := ps, chains := chains })] })] } }

/-- `HostRegisters`: functions that are enabled and that are not, whole and broken second-stage entries, and rings that are off and on. -/
theorem test_met_HostRegisters :
    (lab).fnEnabled 0 = true ∧ (lab).boundaryDue = false ∧ (lab).fnEnabled 3 = false ∧
    (let e : BitVec 128 := (0x0000000000010001 : DWord) ++ ((lab).fn 3).staged
     stageBad e.toNat = false) ∧
    (let e : BitVec 128 := (0x0000000000010002 : DWord) ++ ((lab).fn 3).staged
     stageBad e.toNat = true) ∧
    (labRing0.ring 0 0).on = true ∧ (0x1000 : DWord) + 1 = (labRing0.ring 0 0).reg ∧ (0x1000 : DWord).extractLsb' 1 3 = 0 ∧
    (labRing0.ring 0 15).on = false ∧ (0x1001 : DWord).getLsbD 0 = true ∧ (0x1001 : DWord).getLsbD 11 = false ∧
    (0x1001 : DWord).extractLsb' 1 3 = 0 := by decide

/-- `HostAccesses`: words of BAR0 at the ends of its windows, and HBM that is there. -/
theorem test_met_HostAccesses_words :
    0x7FF8 < 0x8000 ∧ 0x7FF8 % 8 = 0 ∧ ([1, 2, 3, 4] : List Byte).length = 4 ∧ 0x8000 ≤ 0xBFF8 ∧ 0xBFF8 < 0xC000 ∧ 0xBFF8 % 8 = 0 ∧
    0xC000 ≤ 0xFFFC ∧ 0xFFFC < 0x10000 ∧ 0xFFFC % 4 = 0 ∧ (lab).absent ((List.range ([7] : List Byte).length).map (fun i => 0xFFFFFF + i)) = false ∧
    (lab).absentIn 0xFFFFFF 1 = false ∧ (lab).causalOk (0xFFFFFF / 2 ^ 36) 8 (lab).hub.clock = true := by decide

/-- `HostAccesses`: a write and a read within the carve-out, a write whose cause the home has not applied, and one past the carve-out's end. -/
theorem test_met_HostAccesses :
    (lab).fnEnabled 0 = true ∧ (lab).secondStage 0 0xFFFFFF ([7] : List Byte).length = some 0xFFFFFF ∧ 0xFFFFFF + 1 ≤ 2 ^ 39 ∧
    (lab).secondStage 0 0x1000000 ([7] : List Byte).length = none ∧
    (lab).causalOk (0xFFFFFF / 2 ^ 36) 8 (((lab).hub.clock).set 8 (clk (lab).hub.clock 8 + 1)) = true ∧
    (lab).causalLoadOk (0xFFFFFF / 2 ^ 36) 8 (lab).hub.clock = true ∧
    (let s : State := { lab with hub := { clock := [0, 0, 0, 0, 0, 0, 0, 0, 1] } }
     s.causalOk (0xFFFFFF / 2 ^ 36) 8 ((s.hub.clock).set 8 (clk s.hub.clock 8 + 1)) = false) ∧ (lab).waiters = [] := by decide

/-- `s` with a no-op packet published in slot 5 of ring 0. -/
def putPacket (s : State) : State :=
  let m := Memory.writeNat [] (hostPlace 0x1000) 8 6
  { s with mem := Memory.writeNat m (hostPlace (0x1000 + 256 * 6)) 256 (0x5A * 2 ^ 2040 + 5 * 2 ^ 2016) }

/-- `PacketsRun`: a published packet of a ring in host memory, a no-op, an attestation request, a page invalidation that a task's core must make, and
packets that write a completion record and that do not. -/
theorem test_met_PacketsRun :
    (let s : State := putPacket labRing0
     s.fnEnabled 0 = true ∧ (s.ring 0 0).packets = [] ∧
     s.nextPacket 0 0 = some (BitVec.ofNat 2048 (0x5A * 2 ^ 2040 + 5 * 2 ^ 2016)) ∧
     s.mustWait (BitVec.ofNat 2048 (0x5A * 2 ^ 2040 + 5 * 2 ^ 2016)) = false ∧
     s.ringPlace 0 0 ((s.ring 0 0).base + 256 * (1 + (s.ring 0 0).head % (s.ring 0 0).size) + 255) 1 = some (hostPlace (0x1000 + 256 * 6 + 255)) ∧
     s.ringPlace 0 0 ((s.ring 0 0).base + 8) 8 = some (hostPlace 0x1008) ∧
     (s.hubWrite (hostPlace (0x1000 + 256 * 6 + 255) :: fromTo (hostPlace 0x1008) 8) (0 :: toBytes 6 8)).isSome = true) ∧
    (∀ type ∈ [5, 6, 7], (let p := packetBits type (if type = 6 then 2 ^ 64 * 65536 + 2 ^ 128 * 65536 + 5 * 2 ^ 32 else 0)
       ((labRing0 [p]).ring 0 0).packet 5 = some p ∧ p.bad 0 = false ∧ p.result = none ∧ ((labRing0 [p]).ring 0 0).mayStart p = true ∧
       p.type = type)) ∧
    ((packetBits 5 0).body.extractLsb' 0 1856 = 0 ∧ (packetBits 5 1).body.extractLsb' 0 1856 ≠ 0 ∧
     (packetBits 7 0).body.extractLsb' 448 1408 = 0 ∧ (packetBits 7 0).field 384 64 % 64 = 0) ∧
    (∀ n, ((labRing0 [packetBits 7 0]).startPacket 0 0 5).ringPlace 0 0 ((packetBits 7 0).field 384 64) n = some (hostPlace 0)) ∧
    2 ^ 64 ≤ hostPlace 0 ∧
    (let p := packetBits 6 (2 ^ 64 * 65536 + 2 ^ 128 * 65536 + 5 * 2 ^ 32)
     p.field 192 1664 = 0 ∧ p.field 38 26 = 0 ∧ p.field 128 64 ≠ 0 ∧ p.field 128 64 % 65536 = 0 ∧ p.field 64 64 % 65536 = 0 ∧
     (((labRing0 [p]).startPacket 0 0 5).startInval { fn := 0, lid := 0, slot := 5, first := 1, length := 1, packet := some (0, 0, 5) }).isSome = true) ∧
    ((packetBits 5 0).field 2003 2 = 0 ∧ (packetBits 5 (2 ^ 2003 + 64 * 2 ^ 1856)).field 2003 2 = 1 ∧
     (packetBits 5 (2 ^ 2003 + 64 * 2 ^ 1856)).field 1856 64 ≠ 0 ∧ ((labRing0 []).ring 0 0).reg.getLsbD 11 = false ∧
     Memory.wf (labRing0).mem = true) :=
  ⟨by decide, by decide, by decide, fun _ => rfl, by decide, by decide, by decide⟩

/-- `PacketsRun`, a bad packet: a type that is none, an account command of another function, an operator record with a reserved bit, and a reserved bit of the
trailer. -/
theorem test_met_PacketsRun_bad :
    (∀ p ∈ [packetBits 0 0, packetBits 8 0, packetBits 1 (2 ^ 1024), packetBits 5 (2 ^ 2029), packetBits 5 (3 * 2 ^ 2022)],
      ((labRing0 [packetBits 5 0, p]).ring 0 0).packets.find? (fun q => q.bad 0) = some p ∧ p.bad 0 = true ∧ p.field 2003 2 = 0 ∧
      ((labRing0 [p]).completePacket 0 0 p 4 0 0 0).isSome = true) ∧
    (packetBits 2 0).bad 1 = true ∧ (packetBits 2 0).bad 0 = false ∧ recBad (packetBits 1 (2 ^ 1024)).body = true := by decide

/-- `AccountCommands`: each command on an account that allows it, and on one that does not. -/
theorem test_met_AccountCommands :
    (∀ k < 8, (let p := packetBits 2 (k + 3 * 2 ^ 64)
       ((labRing0 [p]).ring 0 0).packet 5 = some p ∧ p.bad 0 = false ∧ p.result = none ∧ ((labRing0 [p]).ring 0 0).mayStart p = true ∧ p.type = 2 ∧
       p.accountBad = false ∧ p.field 0 8 = k ∧ p.field 8 12 = 0 ∧ p.field 64 64 = 3)) ∧
    ((labRing0).account 0).ast = 1 ∧ ((labRing0).account 1).ast = 0 ∧ ((labRing0).account 0).nlease = 0 ∧ ((labRing0).account 0).ntask = 0 ∧
    (3 : Nat) ≤ ((labRing0).account 0).allow ∧ ((labRing0).account 1).allow < 3 := by decide

/-- `SavedPrefixes`: an export and an import of one line; whether the import's record passes rests on the group key, and both answers are among the
statement's cases. -/
theorem test_met_SavedPrefixes :
    (∀ type ∈ [3, 4], (let p := packetBits type (2 ^ 64 + 0x1000 * 2 ^ 96)
       ((labRing0 [p]).ring 0 0).packet 5 = some p ∧ p.bad 0 = false ∧ p.result = none ∧ ((labRing0 [p]).ring 0 0).mayStart p = true ∧
       p.prefixBad = false ∧ p.field 64 32 = 1 ∧ p.type = type ∧ (labRing0 [p]).secondStage 0 (p.field 0 64) (256 * 1) = some 0 ∧
       (labRing0 [p]).secondStage 0 (p.field 96 64) (256 * 1) = some 0x1000 ∧ ((labRing0 [p]).ring 0 0).reg.getLsbD 11 = false)) ∧
    (∀ v t l h b, importOk v t l h b = true ∨ importOk v t l h b = false) ∧
    ((labRing0 [packetBits 4 (2 ^ 64 + 0x1000 * 2 ^ 96)]).startPacket 0 0 5).hubWrite (fromTo 0x1000 256) (List.replicate 256 0) ≠ none :=
  ⟨by decide, fun v t l h b => by cases importOk v t l h b <;> simp, by decide⟩

/-- A launch record of one level of extent 1, for core 0 of cluster 0, with one slot. -/
def launchBits : Nat := 2 ^ 128 + 2 ^ 140 + 2 ^ 240 + 2 ^ 320 + 2 ^ 512

/-- `OperatorRecords`: a launch record that is admitted, one whose account is not open, and a chain whose next record is read while a launch runs and
after it. -/
theorem test_met_OperatorRecords :
    (let p := packetBits 1 launchBits
     ((labRing0 [p]).ring 0 0).packet 5 = some p ∧ ((labRing0 [p]).ring 0 0).mayStart p = true ∧ p.type = 1 ∧ p.bad 0 = false ∧
     ((labRing0 [p]).ring 0 0).chain 5 = none ∧ recBad p.body = false ∧ recKind p.body = 0 ∧
     (labRing0 [p]).enrol 0 (LaunchRec.ofBits p.body.toNat) = some ([], []) ∧ (LaunchRec.ofBits p.body.toNat).group = some ([], []) ∧
     (labRing0 [p]).dieFull (LaunchRec.ofBits p.body.toNat).die = false) ∧
    (let p := packetBits 1 launchBits
     let s : State := { labRing0 [p] with hub := { (labRing0 [p]).hub with accounts := [] } }
     s.enrol 0 (LaunchRec.ofBits p.body.toNat) = none ∧ p.field 2003 2 = 0 ∧ (s.ring 0 0).packet 5 = some p ∧ (s.ring 0 0).mayStart p = true ∧
     (s.ring 0 0).chain 5 = none) ∧
    (let y : BitVec 2048 := BitVec.ofNat 2048 (launchBits + 0x2000 * 2 ^ 1792 + 2 ^ 2016)
     let k (pend : Option Nat) : Chain := { count := 5, packet := y, active := if pend = none then some (0x1600, y, 1) else none, pendingNext := pend }
     let s (pend : Option Nat) : State := { labRing0 [] [k pend] with mem := Memory.writeNat [] 0x2000 256 launchBits }
     ((s none).ring 0 0).chain 5 = some (k none) ∧ (s none).readRecord 0 0x2000 = some (BitVec.ofNat 2048 launchBits) ∧
     (s none).dieFull 0 = false ∧ (k none).shadow = none ∧ (k none).ending = none ∧ recNext y = 0x2000 ∧ (k none).active = some (0x1600, y, 1) ∧
     ((s (some 0x2000)).ring 0 0).chain 5 = some (k (some 0x2000)) ∧ (k (some 0x2000)).pendingNext = some 0x2000 ∧
     (s (some 0x2000)).readRecord 0 0x2000 = some (BitVec.ofNat 2048 launchBits)) ∧
    ({ lab with dies := [(0, { launches := List.replicate 1024 { id := 1, fn := 0, lrec := LaunchRec.ofBits launchBits, elems := [], chi := [], cls := 0, chain := (0, 0, 0) } })] } : State).dieFull 0 = true := by decide

/-- `ResetAndPowerOn`: a resident task of the function that is reset, and memory in its form. -/
theorem test_met_ResetAndPowerOn :
    (let s : State := lab .control { labTask with id := { nslot := 144, vf := 1 } }
     (∃ e ∈ s.cores, e.2.residency ≠ .free ∧ e.2.task.id.vf = 1) ∧ ∀ e ∈ s.cores, e.1 = 5 → e.2.residency = .free ∨ e.2.task.id.vf ≠ 1) ∧
    Memory.wf (lab).mem = true := by decide

/-- `lab` with the slot, traffic and registrants of a window. -/
def labWin (w : List WinSlot) (f : List Flit := []) (r : List Registrant := []) : State := { lab with winSlots := w, flits := f, registrants := r }

/-- A word of a sparse stream at port 0 of window 1. -/
def wordFlit (v : Nat) : Flit := .word 1 0 0 (BitVec.ofNat 64 v) 0 9

/-- `DenseWindows`: joins that take a slot, add to one and fail; slots that may open and that may not; a slot below another switch; an abort at
each of its stages; and lines that are stale, that wait for
more and that fill their sum. -/
theorem test_met_DenseWindows :
    (lab).cfg.fabricId.toNat = 0 ∧
    (let r := windowBits 2 0 4
     let f : Flit := .join 0 r 0 3 false
     (WinRec.ofBits r).wid = 1 ∧ (labWin []).isRoot (WinRec.ofBits r) = true ∧
     (labWin [] [f]).flits.find? (fun f => match f with | .join p x t _ _ => p == 0 && x == r && t == 0 | _ => false) = some f ∧
     (labWin [] [f]).joinStatus 0 r 0 false = 0 ∧ (labWin [] [f]).slot? 1 0 = none ∧
     (labWin [winSlot 0 .joining 2] [f]).joinStatus 0 r 0 false = 0 ∧ (labWin [winSlot 0 .joining 2] [f]).slot? 1 0 = some (winSlot 0 .joining 2) ∧
     (labWin [winSlot 0 .opened 2] [f] [registrant 0]).joinStatus 0 r 0 false ≠ 0 ∧
     (labWin [winSlot 0 .opened 2] [f] [registrant 0]).registrants.find? (fun x => x.num == 3) = some (registrant 0)) ∧
    ((winSlot 0 .joining).st = .joining ∧ (labWin []).isRoot (winSlot 0 .joining).fields = true ∧
     (winSlot 0 .joining).fields.npart ≤ (winSlot 0 .joining).weight ∧ (winSlot 0 .joining 2).weight < (winSlot 0 .joining 2).fields.npart) ∧
    (let w : WinSlot := { winSlot 0 .joining with wrec := windowBits 2 0 4 + BitVec.ofNat 256 (3 * 2 ^ 208), ports := [{ port := 0 }, { port := 9 }] }
     let s : State := labWin [w] [] [registrant 0 none]
     s.slot? 1 0 = some w ∧ w.st = .joining ∧ s.isRoot w.fields = false ∧ (∃ p ∈ w.ports, p.port = 9) ∧ (∃ p ∈ w.ports, p.port = 0) ∧
     (s.registrantsOf 1 0).find? (fun x => x.num == 3 && x.status.isNone && coreDie x.core == 0) = some (registrant 0 none)) ∧
    ((labWin [winSlot 0 .opened] [.abort 1 0] [registrant 0]).flits.contains (.abort 1 0) = true ∧
     (labWin [winSlot 0 .opened] [.abort 1 0] [registrant 0]).slot? 1 0 = some (winSlot 0 .opened) ∧ (winSlot 0 .opened).st ≠ .aborted ∧
     (labWin [winSlot 0 .aborted]).slot? 1 0 = some (winSlot 0 .aborted) ∧ (labWin [winSlot 0 .aborted]).flits = []) ∧
    (let w := winSlot 0 .opened 2 2
     w.fields.sparse = false ∧ 3 < w.fields.dlen ∧ ¬ 4 < w.fields.dlen ∧ (∃ p ∈ w.ports, p.port = 0) ∧
     (1 : DWord).toNat % 256 ≠ w.fields.epoch ∧ (256 : DWord).toNat % 256 = w.fields.epoch ∧ ((256 : DWord), 3) ∉ w.keys ∧
     w.lines.find 3 = none ∧ 1 < w.weight ∧ w.weight ≤ 0 + 2 ∧ w.links = []) ∧
    (∀ (k : DWord) (v : VReg), (labWin [winSlot 0 .opened 2 2] [.dense 1 0 0 3 k 1 v 9]).flits.find? (fun f => match f with
        | .dense a b p l x n d _ => a == 1 && b == 0 && p == 0 && l == 3 && x == k && n == 1 && d == v
        | _ => false) = some (.dense 1 0 0 3 k 1 v 9)) :=
  ⟨by decide, by decide, by decide, by decide, by decide, by decide, fun k v => by simp [labWin]⟩

/-- `DenseWindows`: a join that finds no free slot, in the cycle in which a join to a module of a higher fabric id took the last; and a window whose slot here
is free while its registrants wait for their root elsewhere, joined and not. -/
theorem test_met_DenseWindows_ties :
    (let r := windowBits 2 0 4
     let w : WinSlot := { winSlot 0 .joining 2 with tag := 7 }
     let gr : SlotGrant := { cycle := 0, origin := 5, wid := 1, tag := 7, port := 0, num := 4 }
     let s : State := { labWin (w :: List.replicate 255 { winSlot 0 .opened with wid := 2 }) [.join 0 r 0 3 false]
       [{ registrant 0 none with num := 4, tag := 7 }] with
       hub := { (lab).hub with granted := some gr } }
     s.joinStatus 0 r 0 false = 1 ∧ s.hub.granted = some gr ∧ gr.cycle = s.rc ∧ s.cfg.fabricId.toNat < gr.origin.toNat ∧ gr.tag ≠ 0 ∧
     s.slot? gr.wid gr.tag = some w ∧ w.st = .joining ∧ w.weight = 1 ∧ s.isRoot w.fields = true ∧
     (State.deny { s with flits := s.flits.erase (.join 0 r 0 3 false) } gr).joinStatus 0 r 0 false = 0) ∧
    (let g : Registrant := { registrant 0 with wrec := windowBits 2 0 4 + BitVec.ofNat 256 (3 * 2 ^ 208) }
     (labWin [] [] [g]).slot? 1 0 = none ∧ (labWin [] [] [g]).outliving 1 0 = [g] ∧ (labWin []).outliving 1 0 = [] ∧
     (labWin [] [.join 0 g.wrec 0 3 false] [{ g with status := none }]).joining { g with status := none } = true) := by decide

/-- `SparseWindows`: a header that is taken and one too far ahead; a body word; a block that is done; a result within the carve-out and one outside it;
and a window that has ended. -/
theorem test_met_SparseWindows :
    (let w := winSlot 4 .opened
     w.fields.sparse = true ∧ (∃ p ∈ w.ports, p.port = 0) ∧
     (∀ v ∈ [31 * 2 ^ 13 + 1, 32 * 2 ^ 13 + 1], (labWin [w] [wordFlit v]).flits.find? (fun f => match f with
        | .word a b p _ _ _ => a == 1 && b == 0 && p == 0 | _ => false) = some (wordFlit v)) ∧
     (w.takeWord 0 0 (BitVec.ofNat 64 (31 * 2 ^ 13 + 1))).isSome = true ∧ w.takeWord 0 0 (BitVec.ofNat 64 (32 * 2 ^ 13 + 1)) = none) ∧
    (let p : WinPort := { port := 0, weight := 1, left := 1 }
     let v : DWord := 0x700000FFF
     let w : WinSlot := { winSlot 4 .opened with ports := [p], blocks := [{ num := 0 }] }
     p.dropping = false ∧ p.dense = false ∧ w.block? p.block = some { num := 0 } ∧ (v.extractLsb' 0 32).toNat / 4096 = p.block ∧ p.lastIdx = none ∧
     w.fields.vt ≠ 1 ∧ w.units w.fields.vt < 65536) ∧
    (let w : WinSlot := { winSlot 4 .opened with ports := [{ port := 0, last := some 1 }], blocks := [{ num := 0 }, { num := 1 }] }
     { num := 0 } ∈ w.blocks ∧ (∀ x ∈ w.blocks, x = { num := 0 } ∨ 0 < x.num) ∧ w.frontier = some 1 ∧ w.trailerOut = false ∧ w.fields.vt < 3) ∧
    (let s : State := labWin [winSlot 4 .opened] [.result 1 0 3 0 [7]] [registrant 4]
     (s.registrantsOf 1 0).find? (fun x => x.num == (registrant 4).num) = some (registrant 4) ∧ s.absent (fromTo 0x40000 1) = false ∧
     s.isRoot (WinRec.ofBits (registrant 4).wrec) = true ∧ s.flits.contains (.result 1 0 3 0 [7]) = true ∧ ([7] : List Byte) ≠ [] ∧
     s.secondStage 0 ((WinRec.ofBits (registrant 4).wrec).dbase + 0) 1 = some 0x40000 ∧ 0x40000 + 1 ≤ 2 ^ 39 ∧
     s.causalOk (0x40000 / 2 ^ 36) 8 (s.hub.clock.set 8 (clk s.hub.clock 8 + 1)) = true ∧
     s.secondStage 0 ((WinRec.ofBits (registrant 4).wrec).dbase + 2 ^ 24) 1 = none ∧ (registrant 4).failed = false) ∧
    ((labWin [winSlot 4 .opened]).slot? 1 0 = some (winSlot 4 .opened) ∧
     (let b : MergeBlock := { num := 0, values := [(7, [(0, 5)])] }
      b.values ≠ [] ∧ b.dense = false ∧ ({ num := 0 } : MergeBlock).values = [] ∧ ({ num := 0 } : MergeBlock).dense = false)) :=
  ⟨by decide, by decide, by decide, by decide, by decide⟩

/-- `WindowEnds`: a merged window at its root; a window whose root is elsewhere, whose result has come and has not; and a registrant whose flag add has
been applied and has not, while its output FIFO has room and while it is full. -/
theorem test_met_WindowEnds :
    (let w : WinSlot := { winSlot 4 .opened with trailerOut := true }
     let s : State := labWin [w] [] [registrant 4]
     s.slot? 1 0 = some w ∧ w.st = .opened ∧ s.isRoot w.fields = true ∧ w.merged = true ∧ w.links = [] ∧ s.flits = [] ∧
     s.registrantsOf 1 0 = [registrant 4] ∧ (∀ x ∈ s.registrants, x.fin = none)) ∧
    (let g (e : Bool) : Registrant := { registrant 4 with wrec := windowBits 2 4 4 + BitVec.ofNat 256 (3 * 2 ^ 208), ended := e }
     let s (e : Bool) : State := labWin [] [] [g e]
     (s true).slot? 1 0 = none ∧ (g true).status = some 0 ∧ (s true).isRoot (WinRec.ofBits (g true).wrec) = false ∧
     (WinRec.ofBits (g true).wrec).dv = true ∧ (g true).ended = true ∧ (g false).ended = false ∧ (s true).registrantsOf 1 0 = [g true] ∧
     (s false).registrantsOf 1 0 = [g false] ∧ (s false).slot? 1 0 = none) ∧
    (let g : Registrant := { registrant 4 with fin := some (1, 0), flagOp := 8 }
     let s (n : Nat) : State :=
       { labWin [] [] [g] with cores := [(0, { residency := .resident, task := { labTask with cl := { out := List.replicate n 0 } } })] }
     (s 15).slot? 1 0 = none ∧ (s 15).registrantsOf 1 0 = [] ∧ (∀ x ∈ ((s 15).task 0).cl.running, x.cmd.id ≠ g.cmd) ∧
     (let u : State := { s 15 with cores := [(0, { residency := .resident, task := { labTask with cl := { running := [{ cmd := rstoreCmd, st := .io }] } } })] }
      ∃ x ∈ (u.task 0).cl.running, x.cmd.id = g.cmd) ∧
     (s 15).registrants.filter (fun x => x.wid == 1 && x.tag == 0 && x.fin.isSome) = [g] ∧ g.ntf = true ∧
     (s 15).coreOfMember (coreDie g.core) g.launch g.unit g.crew g.gang = some 0 ∧ (s 15).remote = [] ∧ ((s 15).task 0).cl.out.length < 16 ∧
     16 ≤ ((s 16).task 0).cl.out.length ∧
     (∃ f ∈ ({ s 15 with remote := [{ id := 8, source := 8704, agent := .hub, launch := 0, target := 0, flag := 0, value := 1, add := true }] } : State).remote,
       f.id = g.flagOp)) := ⟨by decide, by decide, by decide⟩

/-- `LinksAndPower`: a link that is up and one that is not, a dispatch that has a row to send across it, boundaries that are due and that are not, and a clock that relocks and one that does not. -/
theorem test_met_LinksAndPower :
    (({ lab with hub := { links := [(15, { state := 2 })] } } : State).hub.links.get 15 {}).state = 2 ∧
    ((lab).hub.links.get 15 {}).state ≠ 2 ∧ ({ lab with rc := 65536 } : State).boundaryDue = true ∧ ({ lab with rc := 65535 } : State).boundaryDue = false ∧
    ({ lab with hub := { relocking := true } } : State).hub.relocking = true ∧ (lab).hub.relocking = false ∧
    (lab).hub.ilim < (lab).hub.ilim + 1 ∧
    (∃ d < 8, ∃ k, ({ lab with cfg := { thermal := [(7, 90)] } } : State).cfg.thermal.find d = some k ∧ k < [0, 0, 0, 0, 0, 0, 0, 91].getD d 0) ∧
    (∀ x ∈ (lab).tasks, (lab).crossing 15 x = []) ∧ (∃ e ∈ (lab).cores, e.2.residency ≠ .free) ∧
    (let r : Running := { cmd := { id := 9, words := [0x21000000, 0], recB := 5 * 2 ^ 16 + 255 }, st := .coll {} }
     let s : State := { running .collective r with hub := { links := [(15, { state := 2, peer := 5, lanes := 8 })] } }
     s.crosses 15 (s.task 0) r = true ∧ (s.task 0).cl.running = [r]) := by decide

/-- A launch of the record above, numbered 1, in the table of die 0. -/
def labLaunch : Launch := { id := 1, fn := 0, lrec := LaunchRec.ofBits launchBits }

/-- `lab` with the launches of die 0 and the residency of core 0, whose task belongs to launch 1. -/
def labDie (ls : List Launch) (r : Residency := .resident) (t : TaskCtx := labTask) : State :=
  { lab with
    cores := [(0, { residency := r, task := { t with id := { launch := 1, lid := 9, vf := 0, nslot := 1, entry := 0x100 } }, table := labTable })]
    dies := [(0, { launches := ls })]
    hub := { accounts := [(0, { ast := 1, allow := 10000000 })]
             functions := [(0, { sstage := BitVec.ofNat 128 (2 ^ 64 + 0x100 * 2 ^ 80), enabled := true, spsize := 4 })] } }

/-- `ResetAndPowerOn`, its launches: one of the function with no task placed, one with a saved task, and one of another function. -/
theorem test_met_ResetLaunches :
    (let l (fn : Nat) (saved : List SavedTask) : Launch := { labLaunch with fn := fn, saved := saved, live := saved.length }
     (labDie [l 1 []]).launch 0 1 = some (l 1 []) ∧ (l 1 []).fn = 1 ∧ (l 1 []).live = 0 ∧ (l 1 []).nextUnit = 0 ∧
     (labDie [l 1 [{ ctx := {}, core := 0, pinned := false }]]).launch 0 1 = some (l 1 [{ ctx := {}, core := 0, pinned := false }]) ∧
     (labDie [l 2 []]).launch 0 1 = some (l 2 []) ∧ (l 2 []).fn ≠ 1 ∧ ({ images := [{ core := 0, launch := 1, vector := [0], row := 0, data := 0, fmt := 0, num := 0 }] } : TaskCtx).unfinished = true ∧
     ({} : TaskCtx).unfinished = false) := by decide

/-- `UnitsForm`: a launch whose turn it is and one whose it is not, before and after an examination of the ac, one at a code outside its extents, one at a canonical vector that fills its unit and one that does not,
one at a vector that is not canonical, and one at its end. -/
theorem test_met_UnitsForm :
    (labDie [labLaunch]).launch 0 1 = some labLaunch ∧ labLaunch.oxWork = true ∧ ((labDie [labLaunch]).die 0).oxNext = some 1 ∧
    ((labDie [labLaunch]).die 0).oxNext ≠ some 2 ∧ ((labDie [labLaunch]).die 0).oxAc ≠ some (labDie [labLaunch]).ac ∧
    (let s : State := { labDie [] with ac := 7, dies := [(0, { oxAc := some 7 })] }
     (s.die 0).oxAc = some s.ac) ∧
    (let k (n : Nat) : Die := { launches := [labLaunch, { labLaunch with id := 2 }], oxLast := some n }
     (k 1).oxNext = some 2 ∧ (k 2).oxNext = some 1) ∧
    labLaunch.lrec.visit 0 = .vector [0] ∧ labLaunch.canonical [0] = true ∧ labLaunch.forming.length + 1 = labLaunch.lrec.unitSize ∧
    labLaunch.lrec.visit 1 = .done ∧
    (let l : Launch := { labLaunch with lrec := { labLaunch.lrec with gsize := 1, order := 2, ext := [3, 0, 0, 0, 0, 0] } }
     l.lrec.visit 3 = .passed ∧ l.forming.length + 1 ≠ l.lrec.unitSize) ∧
    (let l : Launch := { labLaunch with
       lrec := { labLaunch.lrec with rank := 2, ext := [2, 2, 0, 0, 0, 0] }
       elems := [SymElem.one, { SymElem.one with perm := [1, 0, 2, 3, 4, 5] }] }
     l.lrec.visit 2 = .vector [1, 0] ∧ l.canonical [1, 0] = false) := by decide

/-- `UnitsArePlaced`: a die whose cores are all disabled, and one launch with a unit of one that gets core 0. -/
theorem test_met_UnitsArePlaced :
    ({ lab with cfg := { disabled := List.range 512 } } : State).anyFree 0 = false ∧
    (let l : Launch := { labLaunch with formed := some { num := 0, members := [([0], 1)] } }
     let s : State := { labDie [l] with cores := [] }
     s.anyFree 0 = true ∧ (s.die 0).launches = [l] ∧ (s.die 0).requests = [] ∧ (s.die 0).reservation = none ∧ l.fn < 256 ∧ l.cls < 4 ∧
     ((s.die 0).lastServed + 1) % 256 = l.fn ∧ ((s.grantReservation 0).die 0).left l.fn ≠ 0 ∧ (s.grantReservation 0).launchReady 0 l = true ∧
     l.saved = [] ∧ bits ((s.grantReservation 0).fn l.fn).spsize.toNat 0 24 ≠ 0 ∧ (s.grantReservation 0).takeAreas l.fn (areaBytes l.lrec.nslot) 1 [] = some [0] ∧
     ((s.grantReservation 0).debit l.lrec.acct (meterUnits l.lrec.nslot)).isSome = true) ∧
    (let l : Launch := { labLaunch with formed := some { num := 0, members := [([0], 1)] } }
     let s : State := { labDie [l] with cores := [] }
     (s.grantReservation 0).fitUnit 0 l none [[.fresh [0] 1]] = some [[0]]) := by
  refine ⟨?_, by decide, by decide⟩
  simp only [State.anyFree, State.coreFree, State.coreEnabled, State.coreUsable, List.any_eq_false, List.mem_range]
  intro n hn
  simp [hn]

/-- `TasksStart`: a placing task with nothing at fault, and one whose image lies outside the carve-out. -/
theorem test_met_TasksStart :
    (let s := labDie [labLaunch] .placing
     let i := (s.core 0).task.id
     (s.core 0).residency = .placing ∧ s.launchOf 0 (s.core 0).task = some labLaunch ∧ (s.core 0).preempt = none ∧ Memory.wf s.mem = true ∧
     i.gangRank < 16 ∧ 1 ≤ i.gangCount ∧ i.gangCount ≤ 16 ∧ i.crewRank < 32 ∧ 1 ≤ i.crewCount ∧ i.crewCount ≤ 32 ∧ labLaunch.elems.length ≤ 16 ∧
     s.startFault i = none ∧ s.startFault { i with stimg := 2 ^ 13 } = some (progError 2 0 0x1000000)) := by decide

/-- `TokenTables`: entries that keep the table's rules and that break each of them, and tables inside and outside the carve-out. -/
theorem test_met_TokenTables :
    tokenBad 0 = false ∧ tokenBad 0x84 = false ∧ tokenBad 0x10084 = true ∧ tokenBad 0x94 = true ∧ tokenBad 0x85 = true ∧ tokenBad 0x100 = true ∧
    (let t : TaskId := { synct := 1, nslot := 1 }
     t.unit = 0 ∧ t.gangRank = 0 ∧ t.crewRank = 0 ∧ t.synct ≠ 0 ∧ (lab).secondStage t.vf (t.stimg * 2048) 2048 = some 0 ∧
     (lab).secondStage t.vf (t.synct * 64) 64 = some 64 ∧ (lab).poisoned (fromTo 64 64) = false ∧
     (lab).absent (fromTo 0 2048) = false ∧ (lab).absent (fromTo 64 64) = false ∧
     ({ lab with cfg := { channelsOff := [(0, BitVec.allOnes 256)] } } : State).absent (fromTo 0 1) = true ∧
     (∀ k < 16, tokenBad (Memory.readNat (lab).mem (64 + 4 * k) 4) = false) ∧ (lab).secondStage t.vf (2 ^ 13 * 2048) 2048 = none) ∧
    (lab).poisoned (fromTo 0 2048) = false := by
  refine ⟨by decide, by decide, by decide, by decide, by decide, by decide, by decide, ?_⟩
  simp [State.poisoned, lab]

/-- A row of launch 1 on core 0, in format `fmt`. -/
def labRow (fmt : Nat) : ImageRow := { core := 0, launch := 1, vector := [0, 1], row := 0, data := 0, fmt := fmt, num := 0 }

/-- The write of an image's first four bytes in slot 1. -/
def imageReq : Request :=
  { kind := .store, va := 0x400000000000000, offs := List.range 4, mode := .store, data := [0, 0, 0, 0], opf := 1, agent := .image }

/-- `ImagesAreStored`: a row with no image left, one whose image is a store or a message or fails its lookup, one in n8 under character −1, and one whose image lies below the
segment. -/
theorem test_met_ImagesAreStored :
    (let l (ots : List Int) (chi : Bool) : Launch := { labLaunch with
       lrec := { labLaunch.lrec with rank := 2, ext := [2, 2, 0, 0, 0, 0], rdim := 0, cdim := 1, oslot := 1, ots := ots, ors := 256 }
       elems := [SymElem.one, { SymElem.one with perm := [1, 0, 2, 3, 4, 5] }]
       chi := [false, chi] }
     let s (l : Launch) (r : ImageRow) : State := { labDie [l] with dies := [(0, { launches := [l], lamb := [r] })] }
     (∀ fmt ∈ [0, 6], ((s (l [0, 0] false) (labRow fmt)).die 0).lamb.find? ((s (l [0, 0] false) (labRow fmt)).rowReady 0) = some (labRow fmt)) ∧
     (∀ ots ∈ [[0, 0], [-1, 0]], ∀ chi ∈ [true, false], (s (l ots chi) (labRow 0)).launchOf 0 ((s (l ots chi) (labRow 0)).task 0) = some (l ots chi) ∧
       (labRow 0).next (l ots chi) = some 1 ∧ (l ots chi).chi.getD 1 false = chi) ∧
     ({ labRow 0 with elem := 2 } : ImageRow).next (l [0, 0] false) = none ∧ (labRow 6).fmt = 6 ∧ (labRow 0).fmt ≠ 6 ∧
     (({ labRow 0 with elem := 1 } : ImageRow).writeOf (l [0, 0] false) { SymElem.one with perm := [1, 0, 2, 3, 4, 5] } false).1 = 0 ∧
     (({ labRow 0 with elem := 1 } : ImageRow).writeOf (l [-1, 0] false) { SymElem.one with perm := [1, 0, 2, 3, 4, 5] } false).1 = -1) ∧
    (({ lab with hub := { relocking := true } } : State).hub.relocking = true ∧ (lab).hub.relocking = false) ∧
    (∃ a, (labDie [labLaunch]).engineAccess 0 imageReq = .ok a ∧ (a.kind == .store) = true) ∧
    (∃ a, (labDie [labLaunch]).engineAccess 0 { imageReq with va := 0xC00000000000000 } = .ok a ∧ (a.kind == .message) = true) ∧
    (∃ f, (labDie [labLaunch]).engineAccess 0 { imageReq with va := 0xFC00000000000000 } = .error f ∧ (f.cls == 1) = true) ∧
    (NumFmt.i32.isInt = true ∧ sext (2 ^ 31) (8 * NumFmt.i32.bytes) = NumFmt.i32.minInt ∧
     sext 5 (8 * NumFmt.i32.bytes) ≠ NumFmt.i32.minInt ∧ 2 ^ 31 < 2 ^ (8 * NumFmt.i32.bytes)) :=
  ⟨by decide, by decide, ok_of (by decide), ok_of (by decide), err_of (by decide), by decide⟩

/-- `TasksRetire`: a retiring task with nothing left to do, and one whose load sequencer still runs. -/
theorem test_met_TasksRetire :
    (let s := labDie [labLaunch] (.retiring false) {}
     s.mayRetire 0 = true ∧ s.slotWrites.any (fun w => w.core == 0) = false ∧ Memory.wf s.mem = true ∧ s.launch (coreDie 0) 1 = some labLaunch ∧
     (s.core 0).task.id.launch = 1 ∧ (s.core 0).faultStatus = none ∧ (s.core 0).residency = .retiring false) ∧
    (labDie [labLaunch] (.retiring false)).mayRetire 0 = false := by decide

/-- `LaunchesComplete`: launches of each code, with work left and without, and no chain in the way. -/
theorem test_met_LaunchesComplete :
    ({ labLaunch with refused := true } : Launch).refused = true ∧ ({ labLaunch with faulted := some {} } : Launch).faulted ≠ none ∧
    ({ labLaunch with aborted := true } : Launch).aborted = true ∧ labLaunch.aborted = false ∧ labLaunch.faulted = none ∧
    (let l : Launch := { labLaunch with exhausted := true }
     (labDie [l]).launch 0 1 = some l ∧ l.live = 0 ∧ l.saved = [] ∧ l.exhausted = true ∧ l.formed = none ∧ l.forming = [] ∧
     ((labDie [l]).ring l.chain.1 l.chain.2.1).chain l.chain.2.2 = none) ∧
    ({ labLaunch with live := 1 } : Launch).live ≠ 0 ∧ labLaunch.exhausted = false := by decide

/-- `TasksStop`: tasks that are resident, in a handler, placing, restoring, retiring and stopping. -/
theorem test_met_TasksStop :
    (∀ r ∈ [Residency.resident, .placing, .restoring, .retiring true, .stopping 1], (labDie [labLaunch] r).unitCores 0 = [0] ∧
      ((labDie [labLaunch] r).core 0).residency = r ∧ r ≠ .free) ∧
    ((labDie [labLaunch]).core 0).task.suspended = false ∧ ((labDie [labLaunch]).core 0).task.pending.find 0 = none ∧
    ((labDie [labLaunch] .resident { labTask with suspended := true }).core 0).task.suspended = true := by decide

/-- `TasksAreSaved`: a stopping task with nothing on its way, and one with a store on its way. -/
theorem test_met_TasksAreSaved :
    (let s := labDie [labLaunch] (.stopping 1)
     (s.core 0).residency = .stopping 1 ∧ s.secondStage 0 (s.task 0).area (areaBytes 1) = some 0 ∧ s.maySave 0 = true ∧
     s.launch (coreDie 0) 1 = some labLaunch ∧ s.pipe 0 .mule = [] ∧ Memory.wf (s.landAll 0 .mule (s.pipe 0 .mule)).mem = true ∧
     0 + areaBytes 1 ≤ 2 ^ 39 ∧ (s.task 0).cp.running = [] ∧ (s.task 0).cl.running = []) ∧
    ({ labDie [labLaunch] (.stopping 1) with transit := [accessOf .store] } : State).maySave 0 = false ∧
    (labDie [labLaunch] (.stopping 1)).absentIn 0 (areaBytes 1) = false ∧
    (let s : State := { labDie [labLaunch] (.stopping 1) with cfg := { channelsOff := [(0, BitVec.allOnes 256)] } }
     s.maySave 0 = true ∧ s.absentIn 0 (areaBytes 1) = true) := by decide

/-- `TasksAreRestored`: a restoring task whose save area lies in the carve-out; one that brings more rows than Lamb has room for; and one whose function was
reset. -/
theorem test_met_TasksAreRestored :
    (let s := labDie [labLaunch] .restoring
     (s.core 0).residency = .restoring ∧ s.secondStage 0 (s.task 0).area (areaBytes 1) = some 0 ∧ (s.core 0).preempt = none ∧
     Memory.wf s.mem = true ∧ s.poisonedIn 0 (areaBytes 1) = false ∧ s.absentIn 0 (areaBytes 1) = false ∧ (s.task 0).ends = none ∧
     s.lambRows (coreDie 0) + (s.task 0).images.length ≤ 512) ∧
    (let s := labDie [labLaunch] .restoring { labTask with images := List.replicate 513 (labRow 0) }
     512 < s.lambRows (coreDie 0) + (s.task 0).images.length) ∧
    ((labDie [labLaunch] .restoring { labTask with ends := some {} }).task 0).ends = some {} := by decide

/-- `FaultsTrap`: each agent, with no record pending, with one, and in a handler. -/
theorem test_met_FaultsTrap :
    (∀ a ∈ [Agent.control, .load, .compute, .store, .mule], (lab a).cur.agent = a ∧ ((lab a).task 0).pending.find (seqCode a).toNat = none) ∧
    ((lab).task 0).suspended = false ∧ ((lab .control { labTask with suspended := true }).task 0).suspended = true ∧
    ((lab .load { labTask with pending := [(1, {})] }).task 0).pending.find (seqCode .load).toNat = some {} := by decide

/-- `TrapsAreHandled`: pending records of a page that is not present, of a pre-emption event, of a call and of another class, at a task that is resident,
that retires and that stops. -/
theorem test_met_TrapsAreHandled :
    ∀ cls ∈ [1, 3, 6, 7], (let r : FaultRec := { cls := BitVec.ofNat 4 cls, kind := 1 }
      let at' (k : Residency) := labDie [labLaunch] k { labTask with pending := [(0, r)], suspended := true }
      let s := at' .resident
      (s.core 0).residency = .resident ∧ ((at' (.retiring false)).core 0).residency = .retiring false ∧ ((at' (.retiring false)).task 0).current = some r ∧
      ((at' (.stopping 1)).core 0).residency = .stopping 1 ∧ ((at' (.stopping 1)).task 0).current = some r ∧ (s.core 0).preempt = none ∧
      (s.core 0).fw.halted = false ∧ (s.task 0).suspended = true ∧ (s.task 0).current = some r ∧
      s.unitCores 0 = [0] ∧ (s.task 0).heldFaults = [] ∧ (s.task 0).ctl.snapRaw = [] ∧ r.cls = BitVec.ofNat 4 cls) := by decide

/-- `DeferredFaultsTrap`: faults that came back for the control, load and store sequencers. -/
theorem test_met_DeferredFaultsTrap :
    ∀ a ∈ [Agent.control, .load, .store], (let d : Deferred := { core := 0, agent := a, info := { seq := seqCode a }, ckpt := some ⟨[], 4, [], 0⟩ }
      let s : State := { lab a with deferred := [d] }
      (s.core 0).residency ≠ .free ∧ s.deferredOf 0 a = some d ∧ d.info.seq = seqCode a ∧ (s.task 0).pending.find (seqCode a).toNat = none ∧
      d.ckpt = some ⟨[], 4, [], 0⟩) := by decide

/-- `FirmwareFaults`: a firmware context with a vector, with none, and with a record. -/
theorem test_met_FirmwareFaults :
    (let k (v : DWord) (b : Bool) : Core := { fw := { fwvec := v, fwv := b } }
     (k 16 false).fw.halted = false ∧ (k 16 false).fw.fwv = false ∧ (k 16 false).fw.fwvec ≠ 0 ∧ (k 0 false).fw.fwvec = 0 ∧ (k 16 true).fw.fwv = true ∧
     ((lab).core 0).residency ≠ .free) := by decide

/-- `TheWatchdog`: a core that has been idle for WDLIM rc and one that has not, out of a handler and in one. -/
theorem test_met_TheWatchdog :
    (let s (rc : Nat) : State := { lab with rc := rc }
     ((s 0).core 0).residency = .resident ∧ ((s 0).task 0).suspended = false ∧ (s 0).hub.relocking = false ∧
     ({ s 0 with hub := { relocking := true } } : State).hub.relocking = true ∧
     ((s (2 ^ 30)).core 0).idleSince + ((s (2 ^ 30)).die (coreDie 0)).wdlim ≤ (s (2 ^ 30)).rc ∧
     (s (2 ^ 30 - 1)).rc < ((s (2 ^ 30 - 1)).core 0).idleSince + ((s (2 ^ 30 - 1)).die (coreDie 0)).wdlim ∧
     ((s 0).task 0).pending.find 0 = none) := by decide

/-- The state after one word of a bundle, when the word does not end its turn. -/
def after (j : Instr) (n : Nat) (y : State) : Option State :=
  match exec j { y with cur := { y.cur with word := BitVec.ofNat 2 n, sig := .none } } with
  | .next w => if w.cur.sig = .none then some (if isPfx j then w else { w with cur := { w.cur with pfx := none } }) else none
  | _ => none

/-- What each sequencer needs for its turn to run the word placed by `withFetchWord`. -/
def fetches (w : Nat) (a : Agent) (n : Nat) : Bool :=
  let u := (State.reset.withFetchWord 32 w).point 0 a
  u.mayIssue && (u.deferredOf 0 a).isNone && ((u.core 0).refill.get (slotCode a) 0 == 0) && (u.cross 0 a).2 && !(u.cross 0 a).1.signalStall &&
  (match u.fetch 0 (if a = .control then u.bundle else (u.me.seq a).epbase + 4 * (u.me.seq a).step) n with
   | .bytes bs => decide ((wordsOf bs).headD 0 = BitVec.ofNat 32 w) | _ => false)

/-- `DeclossCounts`: a placing task of a launch, and a block that a queue entry watches and one that none does. -/
theorem test_met_DeclossCounts :
    ((labDie [labLaunch] .placing).core 0).residency = .placing ∧
    (labDie [labLaunch] .placing).launchOf 0 ((labDie [labLaunch] .placing).core 0).task = some labLaunch ∧
    (let t : TaskCtx := { labTask with shared := { queue := [(0, [{ id := 1, blocks := [64] }])] } }
     t.watches 64 = true ∧ t.watches 65 = false) ∧ (lab).cur.sig = .none := by decide

/-- `StepRunsDecoded`: an event, and turns of a control, an access and a compute sequencer and of Mule that run the words placed for them. -/
theorem test_met_StepRunsDecoded :
    isEvent (.clockRelock) = true ∧ (State.reset.withFetchWord 32 0x00A63800).turns = [{}] ∧
    ({} : Turn).event = none ∧ ({} : Turn).insert = none ∧ ({} : Turn).regError = none ∧
    fetches 0x00A63800 .control 16 = true ∧ ((State.reset.withFetchWord 32 0x00A63800).point 0 .control).bundle.toNat % 16 = 0 ∧
    (decodeWords .control 0 [0x00A63800, 0, 0, 0]).toOption = some [(0, .add 5 6 7), (1, .add 0 0 0), (2, .add 0 0 0), (3, .add 0 0 0)] ∧
    bundleBreach [(0, .add 5 6 7), (1, .add 0 0 0), (2, .add 0 0 0), (3, .add 0 0 0)] = none ∧
    (let x := (((State.reset.withFetchWord 32 0x00A63800).point 0 .control).cross 0 .control).1
     x.interlocked (.add 5 6 7) = false ∧ x.interlocked (.add 0 0 0) = false ∧
     x.regErrors [(0, .add 5 6 7), (1, .add 0 0 0), (2, .add 0 0 0), (3, .add 0 0 0)] = none ∧
     ((((after (.add 5 6 7) 0 x).bind (after (.add 0 0 0) 1)).bind (after (.add 0 0 0) 2)).bind (after (.add 0 0 0) 3)).isSome = true) ∧
    fetches 0x048D2008 .load 4 = true ∧
    (let u := (State.reset.withFetchWord 32 0x048D2008).point 0 .load
     (u.me.seq .load).stopPending = false ∧ u.me.reloading = false ∧ (u.me.seq .load).step.toNat ≤ 0xFFFF ∧
     (u.cross 0 .load).1.interlocked (.ldq 2 3 4 1 0 8) = false ∧ u.oldestFault 0 .load = none ∧
     (u.cross 0 .load).1.regErrors [(0, .ldq 2 3 4 1 0 8)] = none) ∧
    fetches 0x5FD05E56 .compute 4 = true ∧
    (let u := (State.reset.withFetchWord 32 0x5FD05E56).point 0 .compute
     (u.me.seq .compute).stopPending = false ∧ (u.me.seq .compute).step.toNat ≤ 0xFFFF ∧
     (u.cross 0 .compute).1.interlocked (.vfma 1 3 0x34 5 0x39 0 1 3 0) = false ∧
     (u.cross 0 .compute).1.regErrors [(0, .vfma 1 3 0x34 5 0x39 0 1 3 0)] = none) ∧
    (let u := (State.reset.withFetchWord 32 0x32000060).point 0 .mule
     u.mayIssue = true ∧ u.regErrors [(0, .muleSeti 2 0x60)] = none ∧ u.deferredOf 0 .mule = none ∧ (u.core 0).refill.get (slotCode .mule) 0 = 0 ∧ (decodeIn .mule (u.me.mule.store.get u.me.mule.step 0)).toOption = some (.muleSeti 2 0x60)) := by decide

/-- `CodeNeverStops`: an instruction of each space, and states with turns and without (it has no hypotheses). -/
theorem test_met_CodeNeverStops :
    (Instr.add 5 6 7).space ≠ none ∧ (Instr.ldq 2 3 4 1 0 8).space ≠ none ∧ (Instr.muleHalt).space ≠ none ∧
    (Instr.vaddF 0 0 0x31 0x30 0x36 1 0 0 0).space ≠ none ∧ (State.reset.withFetchWord 32 0x00A63800).turns = [{}] ∧
    State.reset.turns = [] := by decide

/-- `RentInstructionsComplete`: operands of each instruction, at the ends of their ranges, and a slot that holds a segment. -/
theorem test_met_RentInstructionsComplete :
    (let s := labAB (BitVec.ofNat 64 (2 ^ 58 - 1)) (BitVec.ofNat 64 (2 ^ 32 + 63 * 256 + 4 * 16)) 0 0
     let x := (s.x 1).toNat
     let y := (s.x 2).toNat
     s.acqIds 1 = [] ∧ x ≠ 0 ∧ x < 2 ^ 58 ∧ y / 2 ^ 32 ≠ 0 ∧ y / 2 ^ 14 % 2 ^ 18 = 0 ∧ 1 ≤ y / 16 % 8 ∧ y / 16 % 8 ≤ 4 ∧ y % 16 = 0 ∧ y / 128 % 2 = 0) ∧
    (let s := labAB (BitVec.ofNat 64 (6 + 2 ^ 16)) (BitVec.ofNat 64 (2 ^ 32 - 1)) 0 0
     let x := (s.x 1).toNat
     (6 : Nat) < 64 ∧ (s.slotDesc 0 (x % 64)).v = true ∧ (s.core 0).expired.get (x % 64) false = false ∧ (s.x 2).toNat ≠ 0 ∧ (s.x 2).toNat < 2 ^ 32 ∧
     x < 2 ^ 32 ∧ x / 2 ^ 6 % 2 ^ 10 = 0 ∧ x / 2 ^ 16 ≠ 0 ∧ (s.slotDesc 0 6).acct = s.me.id.acct) ∧
    (let x := ((labAB (BitVec.ofNat 64 (2 ^ 32 + 0xFFF * 2 ^ 16)) 0 0 0).x 1).toNat
     x / 2 ^ 8 % 2 ^ 8 = 0 ∧ x / 2 ^ 28 % 2 ^ 4 = 0 ∧ x / 2 ^ 32 ≠ 0) ∧
    ((labAB (BitVec.ofNat 64 (264 * 2 ^ 23)) 63 0 0).x 1).toNat / 2 ^ 23 < 265 ∧ ((labAB (BitVec.ofNat 64 (264 * 2 ^ 23)) 63 0 0).x 2).toNat < 64 := by
  decide

/-- `EncodingsRoundTrip` and `WordsReadOneWay`: a well-formed instruction of each space, and its word. -/
theorem test_met_EncodingsRoundTrip :
    (Instr.add 31 31 31).wf = true ∧ (Instr.add 31 31 31).space = some .control ∧ (decodeIn .control (encode (.add 31 31 31))).toOption = some (.add 31 31 31) ∧
    (Instr.ldq 2 3 4 1 0 8).wf = true ∧ (decodeIn .access 0x048D2008).toOption = some (.ldq 2 3 4 1 0 8) ∧
    (Instr.vaddF 0 0 0x31 0x30 0x36 1 0 0 0).wf = true ∧ (decodeIn .vector 0x40C70DA0).toOption = some (.vaddF 0 0 0x31 0x30 0x36 1 0 0 0) ∧
    (Instr.muleHalt).wf = true ∧ (decodeIn .mule 0x08000000).toOption = some .muleHalt := by decide

/-- `StepKeepsMemoryForm`: a state whose memory has the form and whose step answers a next state. -/
theorem test_met_StepKeepsMemoryForm :
    Memory.wf (State.reset.withFetchWord 32 0x31094004).mem = true ∧
    (match core.step (State.reset.withFetchWord 32 0x31094004) with | .next t => Memory.wf t.mem | _ => false) = true := by decide

end Sys2Proof.Tests
end

section
/-! PROOFS. Rules of the state that the proofs of this family share: a core after an update, a result that lands, and clocks. -/

namespace Sys2Proof.Machine

open Sys2Proof

/-! ### A core after an update -/

@[simp] theorem State.core_setCore (s : State) (c : Nat) (k : Core) : (s.setCore c k).core c = k := by
  simp [State.core, State.setCore]

theorem State.core_setCore_of_ne (s : State) {c b : Nat} (k : Core) (h : b ≠ c) : (s.setCore c k).core b = s.core b :=
  SMap.get_set_ne _ _ _ _ _ h

@[simp] theorem State.core_updCore (s : State) (c : Nat) (f : Core → Core) : (s.updCore c f).core c = f (s.core c) :=
  State.core_setCore _ _ _

theorem State.core_updCore_of_ne (s : State) {c b : Nat} (f : Core → Core) (h : b ≠ c) : (s.updCore c f).core b = s.core b :=
  State.core_setCore_of_ne _ _ h

@[simp] theorem State.core_updTask (s : State) (c : Nat) (f : TaskCtx → TaskCtx) :
    (s.updTask c f).core c = { s.core c with task := f (s.task c) } :=
  State.core_updCore _ _ _

theorem State.core_updTask_of_ne (s : State) {c b : Nat} (f : TaskCtx → TaskCtx) (h : b ≠ c) : (s.updTask c f).core b = s.core b :=
  State.core_updCore_of_ne _ _ h

@[simp] theorem State.task_updTask (s : State) (c : Nat) (f : TaskCtx → TaskCtx) : (s.updTask c f).task c = f (s.task c) := by
  simp [State.task]

/-! ### A result that lands (R151) -/

/-- The loss of an error changes no more than cores. -/
theorem State.heal_only (s : State) (c : Nat) (f : InFlight) : ∃ k, s.heal c f = { s with cores := k } := by
  unfold State.heal
  split
  · exact ⟨_, rfl⟩
  · exact ⟨_, rfl⟩

/-- A result that lands changes no more than cores, memory and the errors of memory. -/
theorem State.land_only (s : State) (c : Nat) (f : InFlight) :
    ∃ m p e k, s.land c f = { s with mem := m, poison := p, struck := e, cores := k } := by
  obtain ⟨k, hk⟩ := s.heal_only c f
  unfold State.land
  simp only [hk]
  split <;> (repeat' split) <;> exact ⟨_, _, _, _, rfl⟩

section

variable (s : State) (c : Nat) (f : InFlight)

@[simp] theorem State.land_transit : (s.land c f).transit = s.transit := by
  obtain ⟨m, p, e, k, h⟩ := s.land_only c f
  rw [h]

@[simp] theorem State.land_waiters : (s.land c f).waiters = s.waiters := by
  obtain ⟨m, p, e, k, h⟩ := s.land_only c f
  rw [h]

@[simp] theorem State.land_hub : (s.land c f).hub = s.hub := by
  obtain ⟨m, p, e, k, h⟩ := s.land_only c f
  rw [h]

@[simp] theorem State.land_dies : (s.land c f).dies = s.dies := by
  obtain ⟨m, p, e, k, h⟩ := s.land_only c f
  rw [h]

end

/-- A result for a register xn, with n not 0, is what the register holds once it has landed. -/
theorem State.land_x (s : State) (c : Nat) {n : Nat} (v : VReg) (hn : n ≠ 0) :
    ((s.land c { target := .x n, data := v }).task c).regs.x.get n 0 = v.setWidth 64 := by
  simp [State.land, hn, State.updRegs]

/-- A whole row that lands is what the row holds. -/
theorem State.land_row_mem (s : State) (c n : Nat) (v : VReg) :
    (s.land c { target := .row n, data := v }).mem = Memory.writeNat s.mem (rowPlace c n) 256 v.toNat := by
  simp [State.land, mergeLanes]

/-! ### Clocks -/

/-- A clock depends on the hub and the dies alone. -/
theorem State.clock_congr {s t : State} (hhub : t.hub = s.hub) (hdies : t.dies = s.dies) (d : Nat) : t.clock d = s.clock d := by
  simp [State.clock, State.die, hhub, hdies]

@[simp] theorem State.land_clock (s : State) (c : Nat) (f : InFlight) (d : Nat) : (s.land c f).clock d = s.clock d :=
  State.clock_congr (s.land_hub c f) (s.land_dies c f) d

@[simp] theorem State.clock_setClock (s : State) (d : Nat) (v : List Nat) : (s.setClock d v).clock d = v := by
  unfold State.clock State.setClock
  split <;> simp [State.die, State.updDie]

@[simp] theorem State.setClock_transit (s : State) (d : Nat) (v : List Nat) : (s.setClock d v).transit = s.transit := by
  unfold State.setClock
  split <;> rfl

@[simp] theorem State.setClock_cores (s : State) (d : Nat) (v : List Nat) : (s.setClock d v).cores = s.cores := by
  unfold State.setClock
  split <;> rfl

/-- A load from another home than its own die brings that home's clock (R122 step 4). -/
theorem State.loadReturns_of_ne (s : State) {d h : Nat} (hne : d ≠ h) : s.loadReturns d h = s.setClock d (clkMax (s.clock d) (s.clock h)) :=
  if_neg hne

end Sys2Proof.Machine
end

section
/-! PROOFS. Page walks and reads of host memory (R21 to R26, R29, R57, R201). -/

namespace Sys2Proof.Machine

open Sys2Proof

/-! ### An access at its home -/

/-- Nothing holds an access that can perform at its home. -/
theorem AtHome.mayArrive {s : State} {a : Access} (h : AtHome s a) : s.mayArrive a = true := by
  simp [State.mayArrive, h.free, h.timely, h.known, h.still, h.ordered, h.alone]

/-- An access that belongs to no transfer, and comes with no fault, is checked at its home once its rent unit has processed the boundary. -/
theorem State.arrive_eq_checked {s : State} {a : Access} (err : Option Nat) (hreal : a.isFence = false) (hgood : a.bad = none)
    (hplain : a.ofTransfer = false) (hready : s.unitReady a.unit = true) (hkind : ∀ op, a.kind ≠ .rent op) :
    s.arrive a err = some (s.checked a [] err) := by
  unfold State.arrive
  simp only [hreal, hgood, hready, hplain]
  cases h : a.kind with
  | rent op => exact absurd h (hkind op)
  | _ => simp

/-- An access that finds no data unit under another key performs as its kind says, and its writes are under its own key. -/
theorem State.performKeyed_of_own (s : State) (a : Access) (hown : s.foreign a = []) :
    s.performKeyed a = if a.wrote s (s.performKind a) then (s.performKind a).sealed a (s.keyFor a) else s.performKind a := by
  simp [State.performKeyed, hown, State.decipher, State.cipherBack]

/-- A load of the control sequencer that passes its home's checks answers what its places hold. -/
theorem State.checked_load {s : State} {a : Access} {sg : Bool} (hown : s.foreign a = []) (hkind : a.kind = .load sg)
    (hagent : a.agent = .control) (hsound : s.meets a [] = none) : s.checked a [] none = s.performLoad a sg := by
  have hkeyed : s.performKeyed a = s.performLoad a sg := by
    simp [State.performKeyed_of_own s a hown, Access.wrote, hkind, State.performKind]
  simp [State.checked, hsound, State.messageBad, hkind, hkeyed, State.afterPerform, hagent]

/-- A fault that a load meets at its home returns to its agent. -/
theorem State.fail_load {s : State} {a : Access} {sg : Bool} (hkind : a.kind = .load sg) (cls kind : Nat) (addr : DWord) :
    s.fail a cls kind addr = s.accessFault a cls kind addr := by
  simp [State.fail, hkind]

/-- A load that its home's checks let pass meets the machine check of the host's answer (R29). -/
theorem State.checked_hostError {s : State} {a : Access} {sg : Bool} (hkind : a.kind = .load sg) (hsound : s.meets a [] = none) (err : Nat) :
    s.checked a [] (some err) = s.accessFaultVa a 9 err := by
  simp [State.checked, hsound, State.fail_load hkind, State.accessFaultVa]

/-- A load whose lease has ended meets the expiry fault, whatever the host has answered (R57). -/
theorem State.checked_expired {s : State} {a : Access} {sg : Bool} (hkind : a.kind = .load sg) (hmeets : s.meets a [] = some (2, 2))
    (err : Option Nat) : s.checked a [] err = s.accessFaultVa a 2 2 := by
  simp [State.checked, hmeets, State.fail_load hkind, State.accessFaultVa, State.messageGone, hkind]

/-- A fault that returns to a control sequencer wakes and parks nobody. -/
theorem State.accessFaultVa_control_waiters {s : State} {a : Access} (hagent : a.agent = .control) (cls kind : Nat) :
    (s.accessFaultVa a cls kind).waiters = s.waiters := by
  simp [State.accessFaultVa, State.accessFault, hagent]

/-- A load into a register performs. -/
theorem State.performLoad_x (s : State) (a : Access) (sg : Bool) {n : Nat} (hdest : a.dest = .x n) :
    s.performLoad a sg = (s.dropAccess a.id).land a.core { target := .x n, data := loadValue sg (readPlaces s.mem a.places) } := by
  simp [State.performLoad, hdest]

/-! ### Page walks (R21 to R26) -/

/-- What the walk of an access comes to: its places, a wait for a migration, or a fault. -/
def State.walkOutcome (s : State) (a : Access) : Except (Option WalkFault) (List Nat × State) :=
  s.pagePlaces a.core a.stage a.slot a.lgen a.table a.va.toNat (!a.kind.reads) (a.kind == .prefetch)
    (match a.kind with | .atomic _ _ => true | _ => false) (a.offs.map (fun o => vaOff a.va + o))

/-- The state after a walk of the given outcome. -/
def State.walked (s : State) (a : Access) : Except (Option WalkFault) (List Nat × State) → State
  | .ok (ps, u) => u.setAccess { a with places := ps, walk := false, migWait := false, migGo := false }
  | .error none => if a.kind == .prefetch then (s.dropAccess a.id).specMiss a.core else s.setAccess { a with migWait := true, migGo := false }
  | .error (some f) => s.fail a f.1 f.2.1 (BitVec.ofNat 64 f.2.2)

theorem State.walkAccess_eq (s : State) (a : Access) : s.walkAccess a = s.walked a (s.walkOutcome a) := rfl

/-- Each outcome of a walk is the outcome of the event, a first walk or the retry of a store after a migration. -/
theorem pageWalks : Claim.PageWalks := by
  intro s a i j r hi haccess hwalk hheld hj hr
  have hexec : exec j s = .next (s.walkAccess a) := by
    rcases hj with ⟨rfl, hmig⟩ | ⟨rfl, hmig, hgo⟩
    · change execPageWalk i s = _
      simp [execPageWalk, haccess, hwalk, hheld, hmig]
    · change execMigrationStoreRetry i s = _
      simp [execMigrationStoreRetry, haccess, hwalk, hheld, hmig, hgo]
  have houtcome : r = s.walkOutcome a := hr
  have hevent : exec j s = .next (s.walked a r) := by rw [hexec, State.walkAccess_eq, houtcome]
  rw [hevent]
  refine ⟨fun ps u hok => ?_, fun hprefetch hwait => ?_, fun f hprefetch hmessage hfault => ?_⟩
  · rw [hok]
    rfl
  · rw [hwait, State.walked, if_neg (by simp [hprefetch])]
  · rw [hfault, State.walked, State.fail, if_neg (by simp [hprefetch]), if_neg (by simp [hmessage])]

/-! ### Reads of host memory (R29, R57, R201) -/

/-- A load of host memory at its home is the host read of its number. -/
theorem State.hostReadOf_of_atHome {s : State} {a : Access} {sg : Bool} (h : AtHome s a) (hkind : a.kind = .load sg) (hhome : a.home = 8) :
    s.hostReadOf a.id = some a := by
  have hreads : a.kind.reads = true := by rw [hkind]; rfl
  simp [State.hostReadOf, h.listed, h.mayArrive, hreads, h.good, h.real, hhome]

/-- A host read comes with no fault of its own, and is no fence. -/
theorem State.of_hostReadOf {s : State} {a : Access} {i : Nat} (h : s.hostReadOf i = some a) : a.bad = none ∧ a.isFence = false := by
  unfold State.hostReadOf at h
  split at h
  · split at h
    · next hb =>
      cases h
      simp only [Bool.and_eq_true, Bool.not_eq_true', Option.isNone_iff_eq_none] at hb
      exact ⟨hb.1.1.2, hb.1.2⟩
    · cases h
  · cases h

/-- A completion of the host performs the read, and merges its clock (R29, R122). -/
theorem execPcieCompletion_of_arrive {s t : State} {a : Access} {i : Nat} {ok : Bool} (hread : s.hostReadOf i = some a)
    (hcausal : s.causalLoadOk 8 a.from (a.stamp.getD []) = true) (harrive : s.arrive a (if ok then none else some 3) = some t)
    (hwaiters : t.waiters.length = s.waiters.length) : exec (.pcieCompletion i ok) s = .next (t.loadReturns a.from 8) := by
  change execPcieCompletion i ok s = _
  simp [execPcieCompletion, hread, hcausal, harrive, hwaiters]

theorem execPcieCompletionTimeout_of_arrive {s t : State} {a : Access} {i : Nat} (hread : s.hostReadOf i = some a)
    (harrive : s.arrive a (some 4) = some t) : exec (.pcieCompletionTimeout i) s = .next t := by
  change execPcieCompletionTimeout i s = _
  simp [execPcieCompletionTimeout, hread, harrive]

/-- The answer of the host meets a sound load at the point where it may perform; an error takes the place of the data. -/
theorem hostReads : Claim.HostReads := by
  rintro s a i n rfl h hown hkind hhome hagent hfrom hcausal
  have hread := State.hostReadOf_of_atHome h hkind hhome
  have harrive (err : Option Nat) : s.arrive a err = some (s.checked a [] err) :=
    State.arrive_eq_checked err h.real h.good h.plain h.ready (by simp [hkind])
  have hfault (err : Nat) : s.arrive a (some err) = some (s.accessFaultVa a 9 err) := by
    rw [harrive, State.checked_hostError hkind h.sound]
  refine ⟨fun hdest hn => ?_, ?_, execPcieCompletionTimeout_of_arrive hread (hfault 4)⟩
  · have hload := harrive none
    rw [State.checked_load hown hkind hagent h.sound, State.performLoad_x s a false hdest] at hload
    have hne : a.from ≠ 8 := by omega
    refine ⟨_, execPcieCompletion_of_arrive (ok := true) hread hcausal hload (by simp [State.dropAccess]), ?_, ?_, ?_, ?_⟩
    · rw [State.loadReturns_memory, State.land_mem _ _ _ (by simp), State.dropAccess_mem]
    · rw [State.loadReturns_of_ne _ hne]
      simp
    · have hcore : ∀ u : State, (u.loadReturns a.from 8).task a.core = u.task a.core := fun u => by
        simp [State.task, State.core, State.loadReturns_cores]
      rw [hcore, State.land_x _ _ _ hn]
      simp [loadValue]
    · rw [State.loadReturns_of_ne _ hne, State.clock_setClock, State.land_clock, State.land_clock]
      rfl
  · exact execPcieCompletion_of_arrive (ok := false) hread hcausal (hfault 3) (by rw [State.accessFaultVa_control_waiters hagent])

/-- The check of the lease comes before the host's answer in `State.checked`, so every answer gives the expiry fault. -/
theorem hostReadsExpire : Claim.HostReadsExpire := by
  rintro s a i rfl hread hplain hready hmeets hkind
  obtain ⟨hgood, hreal⟩ := State.of_hostReadOf hread
  have harrive (err : Option Nat) : s.arrive a err = some (s.accessFaultVa a 2 2) := by
    rw [State.arrive_eq_checked err hreal hgood hplain hready (by simp [hkind]), State.checked_expired hkind hmeets]
  exact ⟨execPcieCompletionTimeout_of_arrive hread (harrive _),
    fun hcausal hwaiters => execPcieCompletion_of_arrive (ok := false) hread hcausal (harrive _) hwaiters.symm⟩

/-- Settles O35: walks by the three outcomes of the walk, host reads through the arrival of a load at its home. -/
theorem walksAndHostReads : Obligations.WalksAndHostReads := ⟨pageWalks, hostReads, hostReadsExpire⟩

end Sys2Proof.Machine
end

section
/-! PROOFS. How accesses of the control stream issue (R14, R84, R255, R328). -/

namespace Sys2Proof.Machine

open Sys2Proof

/-- The offsets 0 to n − 1 reach n bytes. -/
theorem Request.span_of_range {q : Request} {n : Nat} (hq : q.offs = List.range n) (hn : 0 < n) : q.span = n := by
  have hmax (k : Nat) : (List.range (k + 1)).foldl max 0 = k := by
    induction k with
    | zero => rfl
    | succ k ih => rw [List.range_succ, List.foldl_append, ih]; simp
  obtain ⟨k, rfl⟩ : ∃ k, n = k + 1 := ⟨n - 1, by omega⟩
  rw [Request.span, hq, hmax]

/-- An access of core `c` has the operands of the request that it came from. -/
structure Access.Carries (a : Access) (c : Nat) (q : Request) : Prop where
  kind : a.kind = q.kind
  va : a.va = q.va
  offs : a.offs = q.offs
  core : a.core = c
  agent : a.agent = q.agent
  dest : a.dest = q.dest
  data : a.data = q.data

/-- Whatever its lease and its walk come to, the access made of a request carries the request's operands. -/
theorem State.mkAccess_carries (s : State) (c : Nat) (q : Request) (d : Desc) : (s.mkAccess c q d).Carries c q := by
  unfold State.mkAccess
  dsimp only
  split
  · constructor <;> rfl
  · split <;> constructor <;> rfl

/-- A request of a segment that is not the own near store leaves the core as one access with its operands (R84). -/
theorem LeavesCore.request {s : State} {q : Request} {n : Nat} (hn : 0 < n) (hq : q.offs = List.range n)
    (h : LeavesCore s q.va n q.mode) : ∃ a : Access, s.request q = .sent (s.send a) ∧ a.Carries s.cur.core q := by
  have hown : (decide ((s.seg q.va).tier = 1) && decide ((s.seg q.va).kind = 0)) = false := by
    rcases h.away with h1 | h0
    · simp [h1]
    · simp [h0]
  have hlook : s.lookup s.cur.core q.va q.span q.mode q.opf = .ok (s.seg q.va) := by
    rw [Request.span_of_range hq hn]
    exact h.seg.lookup q.opf
  have hquiet (l : List Nat) : s.anyLive l = false := State.anyLive_of_quiet h.quiet l
  have hcarries := s.mkAccess_carries s.cur.core q (s.seg q.va)
  refine ⟨{ s.mkAccess s.cur.core q (s.seg q.va) with
      after := s.mustFollow q (s.seg q.va).tier false (s.likely (s.mkAccess s.cur.core q (s.seg q.va))) }, ?_, ?_⟩
  · simp [State.request, hlook, hown, State.requestAs, h.kind, hquiet]
  · obtain ⟨hkind, hva, hoffs, hcore, hagent, hdest, hdata⟩ := hcarries
    exact ⟨hkind, hva, hoffs, hcore, hagent, hdest, hdata⟩

theorem scalarLoad_leaves {s : State} {signed : Bool} {d b : BitVec 5} {k : BitVec 1} {z st : BitVec 2} {o : BitVec 11} {n : Nat} {va : DWord}
    (hn : n = 2 ^ z.toNat) (hva : va = s.x b + formatMOffset st o n) (haligned : va.toNat % n = 0) (h : LeavesCore s va n .load) :
    ∃ a : Access, scalarLoad signed d b k z st o s = .next (s.send a) ∧ a.kind = .load signed ∧ a.va = va ∧ a.offs = List.range n ∧
      a.core = s.cur.core ∧ a.agent = s.cur.agent ∧ a.dest = (if s.isFw then .fwx d.toNat else .x d.toNat) := by
  subst hn hva
  obtain ⟨a, hsent, ha⟩ := LeavesCore.request
    (q := { kind := .load signed, va := s.x b + formatMOffset st o (2 ^ z.toNat), offs := List.range (2 ^ z.toNat), mode := .load,
            skew := k == 1, dest := if s.isFw then .fwx d.toNat else .x d.toNat,
            acq := (strength st (formatMObs st o) true false).2.1, sc := (strength st (formatMObs st o) true false).2.2,
            opf := 2, agent := s.cur.agent }) (Nat.two_pow_pos _) rfl h
  refine ⟨a, ?_, ha.kind, ha.va, ha.offs, ha.core, ha.agent, ha.dest⟩
  simp only [scalarLoad, haligned, hsent]
  simp

theorem execSt_leaves {s : State} {d b : BitVec 5} {k : BitVec 1} {z st : BitVec 2} {o : BitVec 11} {n : Nat} {va : DWord}
    (hn : n = 2 ^ z.toNat) (hva : va = s.x b + formatMOffset st o n) (haligned : va.toNat % n = 0) (h : LeavesCore s va n .store) :
    ∃ a : Access, execSt d b k z st o s = .next (s.send a) ∧ a.kind = .store ∧ a.va = va ∧ a.offs = List.range n ∧
      a.core = s.cur.core ∧ a.agent = s.cur.agent ∧ a.data = toBytes (s.x d).toNat n := by
  subst hn hva
  obtain ⟨a, hsent, ha⟩ := LeavesCore.request
    (q := { kind := .store, va := s.x b + formatMOffset st o (2 ^ z.toNat), offs := List.range (2 ^ z.toNat), mode := .store, skew := k == 1,
            data := lowBytes (s.x d) (2 ^ z.toNat), rel := (strength st (formatMObs st o) false true).1,
            sc := (strength st (formatMObs st o) false true).2.2, opf := 2, agent := s.cur.agent }) (Nat.two_pow_pos _) rfl h
  refine ⟨a, ?_, ha.kind, ha.va, ha.offs, ha.core, ha.agent, ha.data⟩
  simp only [execSt, haligned, hsent]
  simp

theorem atomic_leaves {s : State} {op : Nat} {d a b : BitVec 5} {st : BitVec 2} {o : BitVec 5} {z : BitVec 1} {n : Nat}
    (hn : n = if z = 1 then 8 else 4) (haligned : (s.x a).toNat % n = 0) (h : LeavesCore s (s.x a) n .store)
    (htier : (s.seg (s.x a)).tier ≠ 4) :
    ∃ x : Access, atomic op d a b st o z s = .next (s.send x) ∧ x.kind = .atomic op (s.x d) ∧ x.va = s.x a ∧ x.offs = List.range n ∧
      x.core = s.cur.core ∧ x.agent = s.cur.agent ∧ x.data = toBytes (s.x b).toNat n ∧
      x.dest = (if s.isFw then .fwx d.toNat else .x d.toNat) := by
  have hpos : 0 < n := by subst hn; split <;> decide
  obtain ⟨x, hsent, hx⟩ := LeavesCore.request
    (q := { kind := .atomic op (s.x d), va := s.x a, offs := List.range n, mode := .store, data := lowBytes (s.x b) n,
            dest := if s.isFw then .fwx d.toNat else .x d.toNat, rel := (strength st o true true).1,
            acq := (strength st o true true).2.1, sc := (strength st o true true).2.2, opf := 2, agent := s.cur.agent }) hpos rfl h
  refine ⟨x, ?_, hx.kind, hx.va, hx.offs, hx.core, hx.agent, hx.data, hx.dest⟩
  simp only [atomic, ← hn, haligned, h.seg.lookup 2, h.kind, htier, hsent]
  simp

/-- The offset of a word of format M, signed and in units of the access size (R255). -/
theorem formatMOffset_eq (st : BitVec 2) (o : BitVec 11) (n : Nat) :
    formatMOffset st o n = (if st = 0 then o.signExtend 64 else (o.extractLsb' 0 6).signExtend 64) * BitVec.ofNat 64 n := by
  have hlow : o.setWidth 6 = o.extractLsb' 0 6 := by
    ext i hi; simp
  unfold formatMOffset
  split <;> simp [hlow]

theorem accessesLeave : Claim.AccessesLeave := by
  intro s d b y k z st o ob w n va hn hva haligned
  rw [← formatMOffset_eq] at hva
  refine ⟨fun h => ⟨scalarLoad_leaves hn hva haligned h, scalarLoad_leaves hn hva haligned h⟩, fun h => execSt_leaves hn hva haligned h,
    fun hal h htier p hp => ?_⟩
  simp only [List.mem_cons, List.not_mem_nil, or_false] at hp
  rcases hp with rfl | rfl | rfl | rfl | rfl | rfl | rfl | rfl <;> exact atomic_leaves rfl hal h htier

theorem atomic_misaligned {s : State} {op : Nat} {d a b : BitVec 5} {st : BitVec 2} {o : BitVec 5} {z : BitVec 1}
    (h : (s.x a).toNat % (if z = 1 then 8 else 4) ≠ 0) :
    atomic op d a b st o z s = raise (progError 2 2 (s.x a) (vaSlot (s.x a))) s :=
  if_pos h

theorem misalignedAccesses : Claim.MisalignedAccesses := by
  intro s d b y k z st o ob w n va hn hva
  rw [← formatMOffset_eq] at hva
  subst hn hva
  refine ⟨fun h i hi => ?_, fun h i hi => ?_⟩
  · simp only [List.mem_cons, List.not_mem_nil, or_false] at hi
    rcases hi with rfl | rfl | rfl
    · exact if_pos h
    · exact if_pos h
    · exact if_pos h
  · simp only [List.mem_cons, List.not_mem_nil, or_false] at hi
    rcases hi with rfl | rfl | rfl | rfl | rfl | rfl | rfl | rfl <;> exact atomic_misaligned h

/-- Settles O6: every form makes one request, and its alignment test comes first. -/
theorem accessIssue : Obligations.AccessIssue := ⟨accessesLeave, misalignedAccesses⟩

end Sys2Proof.Machine
end

section
/-! PROOFS. Taking a fault or a trap, and latched pre-emption requests (R187, R189, R191, R194). -/

namespace Sys2Proof.Machine

open Sys2Proof

/-! ### What a trap leaves of a task -/

/-- A change of a task that keeps its identity, its registers, its flags and tags, its step, and the record with which it is to end. -/
structure TaskCtx.Kept (t u : TaskCtx) : Prop where
  id : u.id = t.id
  regs : u.regs = t.regs
  flag : u.shared.flag = t.shared.flag
  tags : u.shared.tags = t.shared.tags
  step : u.ctl.step = t.ctl.step
  ends : u.ends = t.ends

theorem TaskCtx.Kept.refl (t : TaskCtx) : t.Kept t := ⟨rfl, rfl, rfl, rfl, rfl, rfl⟩

theorem TaskCtx.Kept.trans {t u v : TaskCtx} (h : t.Kept u) (k : u.Kept v) : t.Kept v :=
  ⟨k.id.trans h.id, k.regs.trans h.regs, k.flag.trans h.flag, k.tags.trans h.tags, k.step.trans h.step, k.ends.trans h.ends⟩

theorem TaskCtx.kept_faultAgent (t : TaskCtx) (a : Agent) : t.Kept (t.faultAgent a) := by
  cases a <;> exact ⟨rfl, rfl, rfl, rfl, rfl, rfl⟩

theorem TaskCtx.kept_replay (t : TaskCtx) (a : Agent) : t.Kept (t.replay a) := by
  unfold TaskCtx.replay TaskCtx.updSeq
  dsimp only
  split <;> cases a <;> exact ⟨rfl, rfl, rfl, rfl, rfl, rfl⟩

/-- A task whose agent `a` has met the fault of a record (R187, R189, R191). -/
def TaskCtx.faultMet (t : TaskCtx) (a : Agent) (r : FaultRec) : TaskCtx :=
  let t := t.faultAgent a
  match t.pending.find r.seq.toNat with
  | some old => { t with pending := t.pending.set r.seq.toNat { old with multi := true } }
  | none =>
    let t := { t with pending := t.pending.set r.seq.toNat r }
    if t.suspended then { t with heldFaults := t.heldFaults ++ [r] } else t.suspend

/-- A fault of a sequencer changes its task alone. -/
theorem State.takeFault_sequencer (s : State) (c : Nat) {a : Agent} (r : FaultRec)
    (ha : a = .control ∨ a = .load ∨ a = .compute ∨ a = .store) : s.takeFault c a r = s.updTask c (fun t => t.faultMet a r) := by
  rcases ha with rfl | rfl | rfl | rfl <;> rfl

theorem State.takeFault_control (s : State) (c : Nat) (r : FaultRec) :
    s.takeFault c .control r = s.updTask c (fun t => t.faultMet .control r) := rfl

theorem TaskCtx.kept_faultMet (t : TaskCtx) (a : Agent) (r : FaultRec) : t.Kept (t.faultMet a r) := by
  have hagent := t.kept_faultAgent a
  unfold TaskCtx.faultMet
  dsimp only
  split
  · exact hagent.trans ⟨rfl, rfl, rfl, rfl, rfl, rfl⟩
  · split
    · exact hagent.trans ⟨rfl, rfl, rfl, rfl, rfl, rfl⟩
    · exact hagent.trans ⟨rfl, rfl, rfl, rfl, rfl, rfl⟩

/-- A control sequencer that meets a fault is FAULTED, and a record of its is pending. -/
theorem TaskCtx.faultMet_control (t : TaskCtx) (r : FaultRec) :
    (t.faultMet .control r).ctl.st = .faulted ∧ (t.faultMet .control r).pending.find r.seq.toNat ≠ none := by
  unfold TaskCtx.faultMet
  dsimp only
  split
  · exact ⟨rfl, by simp⟩
  · split
    · exact ⟨rfl, by simp⟩
    · exact ⟨rfl, by simp [TaskCtx.suspend, TaskCtx.dropSignals, TaskCtx.updSeq, TaskCtx.setSeq]⟩

/-- The first fault of a control sequencer is pending as it was recorded, and the task is suspended. -/
theorem TaskCtx.faultMet_control_first {t : TaskCtx} {r : FaultRec} (h : t.pending.find r.seq.toNat = none) :
    (t.faultMet .control r).pending = t.pending.set r.seq.toNat r ∧ (t.faultMet .control r).suspended = true := by
  have hfind : (t.faultAgent .control).pending.find r.seq.toNat = none := h
  unfold TaskCtx.faultMet
  simp only [hfind]
  split
  · exact ⟨rfl, by assumption⟩
  · exact ⟨rfl, rfl⟩

/-- A record of a control sequencer, of any core, has SEQ 0 (R186). -/
@[simp] theorem State.mkRec_control_seq (s : State) (c : Nat) (f : FaultInfo) : (s.mkRec c .control f).seq = 0 := by
  simp [State.mkRec, seqCode]

/-! ### A latched request (R194) -/

theorem State.takeLatched_of_none {s : State} {c : Nat} (h : (s.core c).preempt = none) : s.takeLatched c = s := by
  simp [State.takeLatched, h]

/-- A latched request of a resident task that is in no handler traps. -/
theorem State.takeLatched_of_running {s : State} {c cause : Nat} (h : (s.core c).preempt = some cause)
    (hsuspended : (s.core c).task.suspended = false) (hresident : (s.core c).residency = .resident) :
    s.takeLatched c = s.takeFault c .control { s.mkRec c .control { cls := 6, kind := BitVec.ofNat 8 cause } with word := 0 } := by
  simp [State.takeLatched, h, hsuspended, hresident]

/-- A latched request stays where a handler runs, or where the task is not resident. -/
theorem State.takeLatched_of_waiting {s : State} {c : Nat} (h : (s.core c).task.suspended = true ∨ (s.core c).residency ≠ .resident) :
    s.takeLatched c = s := by
  unfold State.takeLatched
  dsimp only
  split
  · rw [if_pos h]
  · rfl

/-- A latched request is taken, if at all, as a fault of the control sequencer with SEQ 0. -/
theorem State.takeLatched_cases (s : State) (c : Nat) :
    s.takeLatched c = s ∨ ∃ r : FaultRec, r.seq = 0 ∧ s.takeLatched c = s.takeFault c .control r := by
  by_cases hwait : (s.core c).task.suspended = true ∨ (s.core c).residency ≠ .resident
  · exact .inl (State.takeLatched_of_waiting hwait)
  · simp only [not_or, Bool.not_eq_true, ne_eq, Classical.not_not] at hwait
    cases hlatch : (s.core c).preempt with
    | none => exact .inl (State.takeLatched_of_none hlatch)
    | some cause =>
      refine .inr ⟨_, ?_, State.takeLatched_of_running hlatch hwait.1 hwait.2⟩
      exact s.mkRec_control_seq c { cls := 6, kind := BitVec.ofNat 8 cause }

/-! ### A fault with a request latched -/

/-- After a fault of a control sequencer, and the trap of a request that may be latched there, the sequencer is FAULTED and a record is
pending; with none pending before, it is the fault's own, and the task is suspended. -/
theorem State.takeFault_takeLatched (s : State) (c : Nat) {r : FaultRec} (hseq : r.seq = 0) :
    (((s.takeFault c .control r).takeLatched c).task c).ctl.st = .faulted ∧
    (((s.takeFault c .control r).takeLatched c).task c).pending.find 0 ≠ none ∧
    ((s.task c).pending = [] → (((s.takeFault c .control r).takeLatched c).task c).pending = [(0, r)] ∧
      (((s.takeFault c .control r).takeLatched c).task c).suspended = true) := by
  have htask : (s.takeFault c .control r).task c = (s.task c).faultMet .control r := by
    rw [State.takeFault_control, State.task_updTask]
  have hzero : r.seq.toNat = 0 := by rw [hseq]; rfl
  have hmet := (s.task c).faultMet_control r
  rw [hzero] at hmet
  have hfirst (hnone : (s.task c).pending = []) : ((s.task c).faultMet .control r).pending = [(0, r)] ∧
      ((s.task c).faultMet .control r).suspended = true := by
    have h := TaskCtx.faultMet_control_first (t := s.task c) (r := r) (by rw [hnone]; rfl)
    rwa [hnone, hzero] at h
  rcases (s.takeFault c .control r).takeLatched_cases c with hsame | ⟨x, hx, htrap⟩
  · rw [hsame, htask]
    exact ⟨hmet.1, hmet.2, hfirst⟩
  · have hxzero : x.seq.toNat = 0 := by rw [hx]; rfl
    have hagain := ((s.task c).faultMet .control r).faultMet_control x
    rw [hxzero] at hagain
    have htwice : ((s.takeFault c .control r).takeLatched c).task c = ((s.task c).faultMet .control r).faultMet .control x := by
      rw [htrap, State.takeFault_control, State.task_updTask, htask]
    refine ⟨by rw [htwice]; exact hagain.1, by rw [htwice]; exact hagain.2, fun hnone => ?_⟩
    have hheld : ((s.takeFault c .control r).core c).task.suspended = true := by
      change ((s.takeFault c .control r).task c).suspended = true
      rw [htask]
      exact (hfirst hnone).2
    rw [State.takeLatched_of_waiting (.inl hheld), htask]
    exact hfirst hnone

end Sys2Proof.Machine
end

section
/-! PROOFS. The start of a task (R13, R90, R146, R161, R169, R246). -/

namespace Sys2Proof.Machine

open Sys2Proof

/-! ### The registers at the start (R146, R169) -/

/-- A field of a 64-bit word, from the digits of its number. -/
theorem extractLsb'_ofNat {n v lo len : Nat} (hn : n < 2 ^ 64) (h : n / 2 ^ lo % 2 ^ len = v) :
    (BitVec.ofNat 64 n).extractLsb' lo len = BitVec.ofNat len v := by
  apply BitVec.eq_of_toNat_eq
  rw [BitVec.extractLsb'_toNat, BitVec.toNat_ofNat, Nat.mod_eq_of_lt hn, Nat.shiftRight_eq_div_pow, BitVec.toNat_ofNat, ← h, Nat.mod_mod]

/-- The fields of R169, packed into one number, stand at their places. -/
theorem packed_fields {n gang gangs crew crews sub order orbit stab : Nat}
    (hn : n = gang + gangs * 2 ^ 4 + crew * 2 ^ 8 + crews * 2 ^ 13 + sub * 2 ^ 18 + order * 2 ^ 19 + orbit * 2 ^ 24 + stab * 2 ^ 32)
    (hgang : gang < 16) (hgangs : gangs < 16) (hcrew : crew < 32) (hcrews : crews < 32) (hsub : sub < 2) (horder : order < 32)
    (horbit : orbit < 256) (hstab : stab < 2 ^ 16) :
    n < 2 ^ 64 ∧ n / 2 ^ 0 % 2 ^ 4 = gang ∧ n / 2 ^ 4 % 2 ^ 4 = gangs ∧ n / 2 ^ 8 % 2 ^ 5 = crew ∧ n / 2 ^ 13 % 2 ^ 5 = crews ∧
      n / 2 ^ 18 % 2 = sub ∧ n / 2 ^ 19 % 2 ^ 5 = order ∧ n / 2 ^ 32 % 2 ^ 16 = stab ∧ n / 2 ^ 48 % 2 ^ 16 = 0 := by
  refine ⟨?_, ?_, ?_, ?_, ?_, ?_, ?_, ?_, ?_⟩ <;> omega

/-- Bit 18 of the task word says whether the stabiliser holds more than the identity (R169). -/
theorem decide_subgroup_bit (m : BitVec 16) : (m.extractLsb' 1 15 != 0) = decide ((if m.toNat / 2 = 0 then 0 else 1) = 1) := by
  have hzero : m.extractLsb' 1 15 = 0 ↔ m.toNat / 2 = 0 := by
    have hlt := m.isLt
    rw [← BitVec.toNat_inj, BitVec.extractLsb'_toNat, Nat.shiftRight_eq_div_pow, show (0 : BitVec 15).toNat = 0 from rfl]
    omega
  by_cases hhalf : m.toNat / 2 = 0
  · rw [if_pos hhalf, hzero.2 hhalf]
    rfl
  · rw [if_neg hhalf, bne_iff_ne.2 (mt hzero.1 hhalf)]
    rfl

/-- The fields of the task word, for ranks and counts in their ranges. -/
theorem taskWord_fields {l : Launch} {i : TaskId} (hgang : i.gangRank < 16) (hgangs : 1 ≤ i.gangCount ∧ i.gangCount ≤ 16)
    (hcrew : i.crewRank < 32) (hcrews : 1 ≤ i.crewCount ∧ i.crewCount ≤ 32) (helems : l.elems.length ≤ 16) :
    (taskWord l i).extractLsb' 0 4 = BitVec.ofNat 4 i.gangRank ∧ (taskWord l i).extractLsb' 4 4 = BitVec.ofNat 4 (i.gangCount - 1) ∧
    (taskWord l i).extractLsb' 8 5 = BitVec.ofNat 5 i.crewRank ∧ (taskWord l i).extractLsb' 13 5 = BitVec.ofNat 5 (i.crewCount - 1) ∧
    (taskWord l i).getLsbD 18 = (i.stab.extractLsb' 1 15 != 0) ∧
    (taskWord l i).extractLsb' 19 5 = BitVec.ofNat 5 (max l.elems.length 1) ∧ (taskWord l i).extractLsb' 32 16 = i.stab ∧
    (taskWord l i).extractLsb' 48 16 = 0 := by
  have horbit : max l.elems.length 1 / max (popBits i.stab.toNat 16) 1 ≤ max l.elems.length 1 := Nat.div_le_self _ _
  have hsub : (if i.stab.toNat / 2 = 0 then 0 else 2 ^ 18) = (if i.stab.toNat / 2 = 0 then 0 else 1) * 2 ^ 18 := by split <;> rfl
  obtain ⟨hlt, hgangF, hgangsF, hcrewF, hcrewsF, hsubF, horderF, hstabF, hhighF⟩ := packed_fields (n := _) rfl hgang
    (show i.gangCount - 1 < 16 by omega) hcrew (show i.crewCount - 1 < 32 by omega)
    (show (if i.stab.toNat / 2 = 0 then 0 else 1) < 2 by split <;> decide)
    (show max l.elems.length 1 < 32 by omega)
    (show max l.elems.length 1 / max (popBits i.stab.toNat 16) 1 < 256 by omega) i.stab.isLt
  rw [taskWord, hsub]
  refine ⟨extractLsb'_ofNat hlt hgangF, extractLsb'_ofNat hlt hgangsF, extractLsb'_ofNat hlt hcrewF, extractLsb'_ofNat hlt hcrewsF, ?_,
    extractLsb'_ofNat hlt horderF, ?_, extractLsb'_ofNat hlt hhighF⟩
  · rw [decide_subgroup_bit, BitVec.getLsbD_ofNat, Nat.testBit_eq_decide_div_mod_eq, hsubF]
    rfl
  · rw [extractLsb'_ofNat hlt hstabF, BitVec.ofNat_toNat, BitVec.setWidth_eq]

/-- Below x24 the registers start at zero (R146). -/
theorem startRegs_x_low (l : Launch) (i : TaskId) {k : Nat} (hk : k < 24) : (startRegs l i).x.get k 0 = 0 := by
  simp only [startRegs, SMap.get]
  repeat rw [if_neg (by omega)]

/-- x24 to x29 start as the vector of the launch (R146). -/
theorem startRegs_x_vector (l : Launch) (i : TaskId) {k : Nat} (hk : k < 6) :
    (startRegs l i).x.get (24 + k) 0 = BitVec.ofNat 64 (i.vector.getD k 0) := by
  obtain rfl | rfl | rfl | rfl | rfl | rfl : k = 0 ∨ k = 1 ∨ k = 2 ∨ k = 3 ∨ k = 4 ∨ k = 5 := by omega
  all_goals rfl

/-! ### The state in which a task starts -/

/-- The core on which a task starts: the task has the registers and the tokens of its launch, and the core has the table of its image. -/
def State.startCore (s : State) (c : Nat) (l : Launch) : Core :=
  let k := s.core c
  let id := k.task.id
  let tokens : SMap Token := ((s.loadTokens id.vf id.synct).zipIdx).map (fun (e : Nat × Nat) => (e.2, tokenOf e.1))
  { k with
    residency := .resident, table := s.loadTable id.vf id.stimg, idleSince := s.rc
    task := { k.task with regs := startRegs l id, shared := { token := tokens }, ctl := { st := .run, step := id.entry } } }

/-- The state in which a task starts, before a fault of its placement or a latched request is met. -/
def State.started (s : State) (c : Nat) (l : Launch) : State :=
  let len := 16384 * (s.core c).task.id.nslot
  let u := s.setCore c (s.startCore c l)
  (State.clean { u with mem := Memory.zero u.mem (filePlace c 0) len } (wholeIn (filePlace c 0) len)).newFile c len

section

variable {s : State} {c : Nat} {l : Launch}

theorem execTaskStart_of_sound (hplacing : (s.core c).residency = .placing) (hlaunch : s.launchOf c (s.core c).task = some l)
    (hsound : s.startFault (s.core c).task.id = none) : execTaskStart c s = .next ((s.started c l).takeLatched c) := by
  unfold execTaskStart
  simp only [hplacing, hlaunch, hsound]
  rfl

theorem execTaskStart_of_fault {f : FaultInfo} (hplacing : (s.core c).residency = .placing)
    (hlaunch : s.launchOf c (s.core c).task = some l) (hfault : s.startFault (s.core c).task.id = some f) :
    execTaskStart c s = .next
      (((s.started c l).takeFault c .control { (s.started c l).mkRec c .control f with word := 0 }).takeLatched c) := by
  unfold execTaskStart
  simp only [hplacing, hlaunch, hfault]
  rfl

variable (s c l)

theorem State.started_mem : (s.started c l).mem = Memory.zero s.mem (filePlace c 0) (16384 * (s.core c).task.id.nslot) := rfl

theorem State.started_core : (s.started c l).core c = s.startCore c l := s.core_setCore c _

end

theorem tasksStart : Claim.TasksStart := by
  rintro s c l i hplacing rfl hlaunch
  have hcore := s.started_core c l
  have hstart (hsound : s.startFault (s.core c).task.id = none) (hlatch : (s.core c).preempt = none) :
      exec (.taskStart c) s = .next (s.started c l) := by
    change execTaskStart c s = _
    rw [execTaskStart_of_sound hplacing hlaunch hsound, State.takeLatched_of_none (by rw [hcore]; exact hlatch)]
  refine ⟨fun hsound hlatch => ⟨_, hstart hsound hlatch, ?_⟩, fun hsound hlatch hmem => ⟨_, hstart hsound hlatch, ?_⟩, fun f hfault => ?_⟩
  · simp only [State.task, hcore]
    exact ⟨rfl, rfl, rfl, rfl, rfl⟩
  · simp only [State.task, hcore, s.started_mem c l]
    refine ⟨fun k hk => startRegs_x_vector l _ hk, rfl, fun k hk => startRegs_x_low l _ hk, ?_,
      fun k => ⟨rfl, rfl, rfl, rfl, rfl, rfl, rfl, rfl, rfl⟩, rfl, rfl, fun k hk => ?_, fun p hp => ?_⟩
    · intro hgang hgangs hgangs' hcrew hcrews hcrews' helems
      exact ⟨_, rfl, taskWord_fields hgang ⟨hgangs, hgangs'⟩ hcrew ⟨hcrews, hcrews'⟩ helems⟩
    · rw [Memory.read_zero _ _ _ _ hmem, if_neg]
      simp only [filePlace]
      omega
    · rw [Memory.read_zero _ _ _ _ hmem, if_pos hp]
  · have hseq : ((s.started c l).mkRec c .control f).seq = 0 := State.mkRec_control_seq ..
    obtain ⟨hst, hpending, hfirst⟩ := (s.started c l).takeFault_takeLatched c (r := { (s.started c l).mkRec c .control f with word := 0 }) hseq
    have htask : ((s.started c l).task c).pending = (s.task c).pending := by
      simp only [State.task, hcore]
      rfl
    rw [htask] at hfirst
    exact ⟨_, { (s.started c l).mkRec c .control f with word := 0 }, execTaskStart_of_fault hplacing hlaunch hfault, hpending, hst, rfl, rfl, hseq, hfirst⟩

/-! ### The synchronisation table (R90, R246) -/

/-- The fields of an entry, and the rules that it may break. -/
theorem tokenOf_fields (e : Nat) :
    (tokenOf e).count = BitVec.ofNat 8 (e / 2 ^ 8) ∧ (tokenOf e).prod = BitVec.ofNat 2 (e / 4) ∧ (tokenOf e).cons = BitVec.ofNat 2 e ∧
    ((tokenOf e).used = true ↔ e / 2 ^ 7 % 2 = 1) ∧
    (tokenBad e = true ↔ (e / 2 ^ 16 % 2 ^ 16 ≠ 0 ∨ e / 2 ^ 4 % 8 ≠ 0 ∨ (e / 2 ^ 7 % 2 = 1 ∧ e / 4 % 4 = e % 4) ∨
      (e / 2 ^ 7 % 2 = 0 ∧ (e / 2 ^ 8 % 2 ^ 8 ≠ 0 ∨ e % 16 ≠ 0)))) := by
  refine ⟨?_, ?_, ?_, by simp [tokenOf, bits], by simp [tokenBad, bits]⟩ <;>
  · apply BitVec.eq_of_toNat_eq
    simp [tokenOf, bits]

section

variable {s : State} {fn g n : Nat}

theorem State.placeFault_of_outside (h : s.secondStage fn g n = none) : s.placeFault fn g n = some (progError 2 0 (BitVec.ofNat 64 g)) := by
  simp [State.placeFault, h]

theorem State.placeFault_of_absent {p : Nat} (h : s.secondStage fn g n = some p) (habsent : s.absent (fromTo p n) = true) :
    s.placeFault fn g n = some { cls := 9, kind := 5, addr := BitVec.ofNat 64 g } := by
  simp [State.placeFault, h, habsent]

theorem State.placeFault_of_sound {p : Nat} (h : s.secondStage fn g n = some p) (habsent : s.absent (fromTo p n) = false)
    (hpoison : s.poisoned (fromTo p n) = false) : s.placeFault fn g n = none := by
  simp [State.placeFault, h, habsent, hpoison]

end

section

variable {s : State} {t : TaskId}

/-- A fault of the segment table's image belongs to the launch's first task. -/
theorem State.startFault_of_image (hfirst : t.unit = 0 ∧ t.gangRank = 0 ∧ t.crewRank = 0) {f : FaultInfo}
    (hfault : s.placeFault t.vf (t.stimg * 2048) 2048 = some f) : s.startFault t = some f := by
  simp [State.startFault, hfirst, hfault]

/-- With an image and a table that can be read, and no bad entry, a start meets no fault. -/
theorem State.startFault_of_sound (himage : s.placeFault t.vf (t.stimg * 2048) 2048 = none)
    (htable : s.placeFault t.vf (t.synct * 64) 64 = none) (hgood : ∀ e ∈ s.loadTokens t.vf t.synct, tokenBad e = false) :
    s.startFault t = none := by
  have hnone : (s.loadTokens t.vf t.synct).findIdx? tokenBad = none := by
    rw [List.findIdx?_eq_none_iff]
    exact hgood
  simp [State.startFault, himage, htable, hnone]

end

theorem tokenTables : Claim.TokenTables := by
  intro e s t p q
  obtain ⟨hcount, hprod, hcons, hused, hbad⟩ := tokenOf_fields e
  refine ⟨hcount, hprod, hcons, hused, hbad, ?_, ?_, ?_, ?_⟩
  · intro _ _ _ hsynct himage habsent hpoison htable htabsent htpoison hgood
    refine State.startFault_of_sound (State.placeFault_of_sound himage habsent hpoison)
      (State.placeFault_of_sound htable htabsent htpoison) ?_
    simpa [State.loadTokens, hsynct, htable, tableEntries] using hgood
  · intro hunit hgang hcrew houtside
    exact State.startFault_of_image ⟨hunit, hgang, hcrew⟩ (State.placeFault_of_outside houtside)
  · intro hunit hgang hcrew himage habsent
    exact State.startFault_of_image ⟨hunit, hgang, hcrew⟩ (State.placeFault_of_absent himage habsent)
  · intro hlater
    exact if_pos hlater

/-- Settles O46: the started core is written out once, and a fault of placement or a latched request only adds its trap. -/
theorem taskStarts : Obligations.TaskStarts := ⟨tasksStart, tokenTables⟩

end Sys2Proof.Machine
end

section
/-! PROOFS. Pre-emption, the saving of a task and its resumption (R13, R81, R161, R189, R193 to R198). -/

namespace Sys2Proof.Machine

open Sys2Proof

/-! ### Pre-emption requests (R161, R189, R194) -/

/-- What a pre-emption request with cause `cause` makes of the core `k` (R194): `u` is the core once it has come. -/
structure Core.Requested (cause : Nat) (k u : Core) : Prop where
  running : k.residency = .resident → k.task.suspended = false → k.task.pending.find 0 = none →
    u.residency = .resident ∧ u.preempt = some cause ∧ u.task.suspended = true ∧ u.task.regs = k.task.regs ∧ u.task.ctl.st = .faulted ∧
      ∃ r : FaultRec, u.task.pending = k.task.pending.set 0 r ∧ r.cls = 6 ∧ r.kind = BitVec.ofNat 8 cause ∧ r.seq = 0 ∧
        r.step = k.task.ctl.step
  handling : k.residency = .resident → k.task.suspended = true → u = { k with preempt := some cause }
  coming : k.residency = .placing ∨ k.residency = .restoring → u = { k with preempt := some cause }
  retiring : ∀ b, k.residency = .retiring b → u = k
  stopping : ∀ x, k.residency = .stopping x → u = k

/-- A second request leaves what the first one made: the task is suspended by then. -/
theorem Core.Requested.trans {cause : Nat} {k u v : Core} (h : k.Requested cause u) (g : u.Requested cause v) : k.Requested cause v where
  running hres hsus hnone := by
    obtain ⟨hres', hlatch, hsus', hrest⟩ := h.running hres hsus hnone
    rw [g.handling hres' hsus']
    exact ⟨hres', rfl, hsus', hrest⟩
  handling hres hsus := by
    obtain rfl := h.handling hres hsus
    exact g.handling hres hsus
  coming hres := by
    obtain rfl := h.coming hres
    exact g.coming hres
  retiring b hres := by
    obtain rfl := h.retiring b hres
    exact g.retiring b hres
  stopping x hres := by
    obtain rfl := h.stopping x hres
    exact g.stopping x hres

section

variable (s : State) {c : Nat} (cause : Nat)

/-- A request at a task that is on the core or on its way there is latched, and its trap taken if it can be. -/
theorem State.requestAt_of_present (h : (s.core c).residency = .resident ∨ (s.core c).residency = .placing ∨ (s.core c).residency = .restoring) :
    s.requestAt c cause = (s.updCore c (fun k => { k with preempt := some cause })).takeLatched c := by
  rcases h with h | h | h <;> simp only [State.requestAt, h]

theorem State.requestAt_of_waiting (h : (s.core c).residency = .resident ∧ (s.core c).task.suspended = true ∨
    (s.core c).residency = .placing ∨ (s.core c).residency = .restoring) :
    (s.requestAt c cause).core c = { s.core c with preempt := some cause } := by
  have hpresent : (s.core c).residency = .resident ∨ (s.core c).residency = .placing ∨ (s.core c).residency = .restoring :=
    h.imp_left (·.1)
  rw [s.requestAt_of_present cause hpresent, State.takeLatched_of_waiting, State.core_updCore]
  rw [State.core_updCore]
  rcases h with h | h | h
  · exact .inl h.2
  · exact .inr (by simp [h])
  · exact .inr (by simp [h])

theorem State.requestAt_of_running (hres : (s.core c).residency = .resident) (hsus : (s.core c).task.suspended = false) :
    ∃ r : FaultRec, r.cls = 6 ∧ r.kind = BitVec.ofNat 8 cause ∧ r.seq = 0 ∧ r.step = (s.task c).ctl.step ∧
      (s.requestAt c cause).core c = { s.core c with preempt := some cause, task := (s.task c).faultMet .control r } := by
  have hseq := (s.updCore c (fun k => { k with preempt := some cause })).mkRec_control_seq c { cls := 6, kind := BitVec.ofNat 8 cause }
  refine ⟨{ (s.updCore c (fun k => { k with preempt := some cause })).mkRec c .control { cls := 6, kind := BitVec.ofNat 8 cause } with word := 0 },
    rfl, rfl, hseq, ?_, ?_⟩
  · simp [State.mkRec, State.stepOf, State.task]
    rfl
  · rw [s.requestAt_of_present cause (.inl hres), State.takeLatched_of_running (cause := cause), State.takeFault_control, State.core_updTask]
    · simp [State.task]
    all_goals simp [hres, hsus]

/-- One request does to its core what R194 says, by the core's residency. -/
theorem State.requestAt_requested : (s.core c).Requested cause ((s.requestAt c cause).core c) where
  running hres hsus hnone := by
    obtain ⟨r, hcls, hkind, hseq, hstep, hcore⟩ := s.requestAt_of_running cause hres hsus
    have hfirst := TaskCtx.faultMet_control_first (t := s.task c) (r := r) (by rw [hseq]; exact hnone)
    rw [hseq] at hfirst
    rw [hcore]
    exact ⟨hres, rfl, hfirst.2, ((s.task c).kept_faultMet .control r).regs, ((s.task c).faultMet_control r).1, r, hfirst.1, hcls, hkind, hseq, hstep⟩
  handling hres hsus := s.requestAt_of_waiting cause (.inl ⟨hres, hsus⟩)
  coming hres := s.requestAt_of_waiting cause (.inr hres)
  retiring b hres := by simp only [State.requestAt, hres]
  stopping x hres := by simp only [State.requestAt, hres]

theorem State.takeLatched_core_of_ne {m : Nat} (h : m ≠ c) : (s.takeLatched c).core m = s.core m := by
  rcases s.takeLatched_cases c with hsame | ⟨r, -, htrap⟩
  · rw [hsame]
  · rw [htrap, State.takeFault_control, State.core_updTask_of_ne _ _ h]

theorem State.requestAt_core_of_ne {m : Nat} (h : m ≠ c) : (s.requestAt c cause).core m = s.core m := by
  cases hres : (s.core c).residency <;> simp [State.requestAt, hres, State.takeLatched_core_of_ne _ h, State.core_updCore_of_ne _ _ h]

end

/-- A request at each core of a list comes to each of them once or more, and to no other. -/
theorem State.foldl_requestAt (cause : Nat) (cores : List Nat) (s : State) (m : Nat) :
    (m ∉ cores → (cores.foldl (fun s m => s.requestAt m cause) s).core m = s.core m) ∧
    (m ∈ cores → (s.core m).Requested cause ((cores.foldl (fun s m => s.requestAt m cause) s).core m)) := by
  induction cores generalizing s with
  | nil => exact ⟨fun _ => rfl, fun h => absurd h List.not_mem_nil⟩
  | cons c rest ih =>
    obtain ⟨hout, hin⟩ := ih (s.requestAt c cause)
    rw [List.foldl_cons]
    by_cases hmc : m = c
    · subst hmc
      refine ⟨fun h => absurd List.mem_cons_self h, fun _ => ?_⟩
      by_cases hrest : m ∈ rest
      · exact (s.requestAt_requested cause).trans (hin hrest)
      · rw [hout hrest]
        exact s.requestAt_requested cause
    · rw [s.requestAt_core_of_ne cause hmc] at hout hin
      exact ⟨fun h => hout (fun hr => h (List.mem_cons_of_mem _ hr)), fun h => hin ((List.mem_cons.1 h).resolve_left hmc)⟩

/-- Each member of the unit gets the request, once or more, and no other core does. -/
theorem tasksStop : Claim.TasksStop := by
  intro s c cause hc hpos hle hbusy
  have hexec : exec (.preemptionRequest c cause) s = .next (s.requestPreempt c cause) := by
    change execPreemptionRequest c cause s = _
    rw [execPreemptionRequest, if_neg (by omega), if_neg]
    rintro (h | h | h)
    · omega
    · omega
    · exact hbusy h
  refine ⟨_, hexec, State.requestPreempt_mem .., fun m hm => (State.foldl_requestAt cause _ s m).1 hm, fun m hm => ?_⟩
  have h := (State.foldl_requestAt cause _ s m).2 hm
  exact ⟨h.running, h.handling, h.coming, h.retiring, h.stopping⟩

end Sys2Proof.Machine
end

section
/-! PROOFS. The saving of a task (R81, R118, R161, R195 to R197). -/

namespace Sys2Proof.Machine

open Sys2Proof

/-! ### Results that land when a task stops (R151) -/

/-- A change of a task by a result that lands: its identity, its control sequencer and the commands of its collective engines stay. -/
structure TaskCtx.Landed (t u : TaskCtx) : Prop where
  id : u.id = t.id
  ctl : u.ctl = t.ctl
  copies : u.cp.running = t.cp.running
  collectives : u.cl.running = t.cl.running

theorem TaskCtx.landed_writeSys (t : TaskCtx) (n : Nat) (v : DWord) : t.Landed (t.writeSys n v) := by
  unfold TaskCtx.writeSys
  repeat' split
  all_goals exact ⟨rfl, rfl, rfl, rfl⟩

theorem State.heal_task (s : State) (c : Nat) (f : InFlight) : (s.heal c f).task c = s.task c := by
  unfold State.heal
  split
  · rfl
  · simp [State.task]

section

variable {t : TaskCtx} {s : State} {c : Nat}

/-! A task that a state holds, after each kind of update that a landing result makes. -/

theorem TaskCtx.Landed.updTask (h : t.Landed (s.task c)) {f : TaskCtx → TaskCtx} (hf : ∀ u : TaskCtx, u.Landed (f u)) :
    t.Landed ((s.updTask c f).task c) := by
  have hu := hf (s.task c)
  rw [State.task_updTask]
  exact ⟨hu.id.trans h.id, hu.ctl.trans h.ctl, hu.copies.trans h.copies, hu.collectives.trans h.collectives⟩

theorem TaskCtx.Landed.updRegs (h : t.Landed (s.task c)) (f : Regs → Regs) : t.Landed ((s.updRegs c f).task c) :=
  h.updTask (fun _ => ⟨rfl, rfl, rfl, rfl⟩)

theorem TaskCtx.Landed.updShared (h : t.Landed (s.task c)) (f : Shared → Shared) : t.Landed ((s.updShared c f).task c) :=
  h.updTask (fun _ => ⟨rfl, rfl, rfl, rfl⟩)

theorem TaskCtx.Landed.updMule (h : t.Landed (s.task c)) (f : TaskCtx → Mule) :
    t.Landed ((s.updTask c (fun t => { t with mule := f t })).task c) :=
  h.updTask (fun _ => ⟨rfl, rfl, rfl, rfl⟩)

theorem TaskCtx.Landed.setFlag (h : t.Landed (s.task c)) (n : Nat) (v : TaskCtx → Word) :
    t.Landed ((s.updTask c (fun t => t.setFlag n (v t))).task c) :=
  h.updTask (fun _ => ⟨rfl, rfl, rfl, rfl⟩)

theorem TaskCtx.Landed.writeSys (h : t.Landed (s.task c)) (n : Nat) (v : TaskCtx → DWord) :
    t.Landed ((s.updTask c (fun t => t.writeSys n (v t))).task c) :=
  h.updTask (fun u => u.landed_writeSys n (v u))

theorem TaskCtx.Landed.updFw (h : t.Landed (s.task c)) (f : Core → Firmware) :
    t.Landed ((s.updCore c (fun k => { k with fw := f k })).task c) := by
  simpa [State.task] using h

theorem TaskCtx.Landed.writeMem (h : t.Landed (s.task c)) (m : List Host.Cell) (hit : Nat → Bool) :
    t.Landed ((State.clean { s with mem := m } hit).task c) := h

end

/-- A result that lands changes none of them (R151). -/
theorem State.land_landed (s : State) (c : Nat) (f : InFlight) : (s.task c).Landed ((s.land c f).task c) := by
  have hheal : (s.task c).Landed ((s.heal c f).task c) := by
    rw [State.heal_task]
    exact ⟨rfl, rfl, rfl, rfl⟩
  have hstatus : (s.task c).Landed
      ((if f.fst = 0 then s.heal c f else (s.heal c f).updShared c (fun h => { h with fstat := h.fstat ||| f.fst })).task c) := by
    split
    · exact hheal
    · exact hheal.updShared _
  unfold State.land
  dsimp only
  generalize (if f.fst = 0 then s.heal c f else _) = w at hstatus ⊢
  cases f.target <;> dsimp only <;> (try split) <;> simp only [hstatus, hstatus.updRegs, hstatus.updShared, hstatus.updMule, hstatus.setFlag, hstatus.writeSys,
    hstatus.updFw, hstatus.writeMem]

/-- Results of the Mule that land change no more than cores, memory and the errors of memory. -/
theorem State.landAll_only (s : State) (c : Nat) (l : List InFlight) :
    ∃ m p e k, s.landAll c .mule l = { s with mem := m, poison := p, struck := e, cores := k } := by
  induction l generalizing s with
  | nil => exact ⟨_, _, _, _, rfl⟩
  | cons f rest ih =>
    obtain ⟨m, p, e, k, hland⟩ := s.land_only c f
    obtain ⟨m', p', e', k', hrest⟩ := ih (s.land c f)
    refine ⟨m', p', e', k', ?_⟩
    rw [State.landAll]
    change (s.land c f).landAll c .mule rest = _
    rw [hrest, hland]

theorem State.landAll_landed (s : State) (c : Nat) (l : List InFlight) : (s.task c).Landed ((s.landAll c .mule l).task c) := by
  induction l generalizing s with
  | nil => exact ⟨rfl, rfl, rfl, rfl⟩
  | cons f rest ih =>
    have hland := s.land_landed c f
    have hrest := ih (s.land c f)
    exact ⟨hrest.id.trans hland.id, hrest.ctl.trans hland.ctl, hrest.copies.trans hland.copies, hrest.collectives.trans hland.collectives⟩

/-! ### What the end of a task's accesses leaves of the launches and accounts (R122, R159) -/

/-- A change that keeps the launches of every die and every account. -/
structure State.SameLaunches (s t : State) : Prop where
  launches : ∀ d, (t.die d).launches = (s.die d).launches
  accounts : t.hub.accounts = s.hub.accounts

theorem State.SameLaunches.refl (s : State) : s.SameLaunches s := ⟨fun _ => rfl, rfl⟩

theorem State.SameLaunches.trans {s t u : State} (h : s.SameLaunches t) (g : t.SameLaunches u) : s.SameLaunches u :=
  ⟨fun d => (g.launches d).trans (h.launches d), g.accounts.trans h.accounts⟩

theorem State.SameLaunches.launch {s t : State} (h : s.SameLaunches t) (d l : Nat) : t.launch d l = s.launch d l := by
  rw [State.launch, h.launches d, State.launch]

theorem State.SameLaunches.account {s t : State} (h : s.SameLaunches t) (a : Nat) : t.account a = s.account a := by
  rw [State.account, h.accounts, State.account]

theorem State.die_updDie (s : State) (d : Nat) (f : Die → Die) (e : Nat) : (s.updDie d f).die e = if e = d then f (s.die d) else s.die e := by
  split
  · next h => simp [State.die, State.updDie, h]
  · next h => exact SMap.get_set_ne _ _ _ _ _ h

theorem State.sameLaunches_updDie (s : State) (d : Nat) {f : Die → Die} (h : ∀ k, (f k).launches = k.launches) : s.SameLaunches (s.updDie d f) := by
  refine ⟨fun e => ?_, rfl⟩
  rw [State.die_updDie]
  split
  · next he => rw [h, he]
  · rfl

/-- A fold of changes that each keep them keeps them. -/
theorem State.sameLaunches_foldl {α : Type} {f : State → α → State} (h : ∀ (s : State) (x : α), s.SameLaunches (f s x)) (l : List α) (s : State) :
    s.SameLaunches (l.foldl f s) := by
  induction l generalizing s with
  | nil => exact .refl s
  | cons x rest ih => exact (h s x).trans (ih _)

theorem State.sameLaunches_setClock (s : State) (d : Nat) (v : List Nat) : s.SameLaunches (s.setClock d v) := by
  unfold State.setClock
  split
  · exact ⟨fun _ => rfl, rfl⟩
  · exact s.sameLaunches_updDie d (fun _ => rfl)

theorem State.sameLaunches_applied (s : State) (h src : Nat) (v : List Nat) : s.SameLaunches (s.applied h src v) := by
  have hclock := s.sameLaunches_setClock h (clkMax (s.clock h) v)
  have hhub (u : State) (ap : List Nat) (rest : List (Nat × Nat)) :
      u.SameLaunches { u with hub := { u.hub with applied := ap, done := rest } } := ⟨fun _ => rfl, rfl⟩
  have hsend (u : State) (ap : List Nat) :
      u.SameLaunches ((List.range 8).foldl (fun s d => s.updDie d (fun k => { k with appliedMail := k.appliedMail ++ [ap] })) u) := by
    refine State.sameLaunches_foldl (fun s d => ?_) _ u
    exact s.sameLaunches_updDie d (fun _ => rfl)
  unfold State.applied
  generalize s.setClock h (clkMax (s.clock h) v) = u at hclock ⊢
  generalize appliedUpTo src _ _ _ = n
  dsimp only
  split
  · exact hclock.trans (hhub u _ _)
  · exact (hclock.trans (hhub u _ _)).trans (hsend _ _)

theorem State.sameLaunches_voidStamp (s : State) (a : Access) : s.SameLaunches (s.voidStamp a) := by
  unfold State.voidStamp
  split
  · split
    · exact s.sameLaunches_applied ..
    · exact .refl s
  · exact .refl s

theorem State.sameLaunches_discard (s : State) (p : Access → Bool) : s.SameLaunches (s.discard p) := by
  have htransit : s.SameLaunches { s with transit := s.transit.filter (fun x => !p x) } := ⟨fun _ => rfl, rfl⟩
  exact htransit.trans (State.sameLaunches_foldl (fun s a => s.sameLaunches_voidStamp a) _ _)

theorem State.sameLaunches_clearTask (s : State) {c : Nat} (h : s.slotWrites.any (fun w => w.core == c) = false) :
    s.SameLaunches (s.clearTask c) := by
  unfold State.clearTask State.dropSlotWrites
  rw [if_neg (by simp [h])]
  exact (s.sameLaunches_discard _).trans ⟨fun _ => rfl, rfl⟩

theorem State.clearTask_mem (s : State) {c : Nat} (h : s.slotWrites.any (fun w => w.core == c) = false) : (s.clearTask c).mem = s.mem := by
  unfold State.clearTask State.dropSlotWrites
  rw [if_neg (by simp [h])]
  exact State.discard_mem ..

/-- A launch after a change that keeps its number. -/
theorem State.launch_updLaunch (s : State) (d l : Nat) {f : Launch → Launch} (h : ∀ x, (f x).id = x.id) :
    (s.updLaunch d l f).launch d l = (s.launch d l).map f := by
  have hpred : (fun x : Launch => x.id == l) ∘ (fun x => if x.id = l then f x else x) = fun x => x.id == l := by
    funext x
    simp only [Function.comp_apply]
    split
    · rw [h]
    · rfl
  rw [State.launch, State.updLaunch, State.die_updDie, if_pos rfl, List.find?_map, hpred, State.launch]
  cases hfind : (s.die d).launches.find? (fun x => x.id == l) with
  | none => rfl
  | some x =>
    have hx : x.id = l := by simpa using List.find?_some hfind
    simp [hx]

end Sys2Proof.Machine
end

section
/-! PROOFS. A stopping task enters SAVED (R161, R195 to R197). -/

namespace Sys2Proof.Machine

open Sys2Proof

/-- What is kept of a task that is saved (R195, R197; assumptions 51 and 60). -/
def State.savedTask (s : State) (c : Nat) : SavedTask :=
  { ctx := { (s.task c).stopped with
      images := (s.die (coreDie c)).lamb.filter (fun r => r.core == c)
      heldStores := s.transit.filter (fun a => a.of c .store)
      granted := s.granted.filter (fun g => g.core == c)
      share := (s.task c).share.stop s.ac }
    core := c
    pinned := (List.range 64).any (fun n =>
      let d := s.slotDesc c n
      let l := s.lease (d.unit 0) d.lease
      d.v && !d.bad && d.tier == 1 && d.kind == 0 && d.homeCore == c && l.st == .active && l.lgen.toNat == d.lgen) }

/-- The state with the rows of a task `i` in its save area at `p`, and the task kept with its launch (R195 to R197). -/
def State.spilled (s : State) (c p : Nat) (i : TaskId) : State :=
  let len := 16384 * i.nslot
  let moved : State := { s with
    mem := Memory.move s.mem (filePlace c 0) p len
    poison := movePoison (filePlace c 0) p len (s.poison.filter (fun u => !wholeIn p len u))
    struck := movePoison (filePlace c 0) p len (s.struck.filter (fun u => !wholeIn p len u)) }
  ((moved.updDie (coreDie c) (fun d => { d with lamb := d.lamb.filter (fun r => r.core != c) })).updAccount i.acct
    (fun a => { a with ntask := a.ntask - 1 })).updLaunch (coreDie c) i.launch (fun l => { l with saved := l.saved ++ [s.savedTask c] })

/-- The state once the results of a stopping task have landed and its transfers have let go of their leases. -/
def State.quiet (s : State) (c : Nat) : State :=
  ((s.landAll c .mule (s.pipe c .mule)).setPipe c .mule []).releaseAll c

section

variable {s : State} {c cause p : Nat} {i : TaskId}

theorem execTaskSaveComplete_of_maySave (hstop : (s.core c).residency = .stopping cause) (hid : i = (s.core c).task.id)
    (hplace : s.secondStage i.vf (s.task c).area (areaBytes i.nslot) = some p) (hmay : s.maySave c = true)
    (hpresent : s.absentIn p (areaBytes i.nslot) = false) :
    execTaskSaveComplete c s = .next ((((s.quiet c).spilled c p i).clearTask c).updCore c Core.freed) := by
  subst hid
  unfold execTaskSaveComplete
  simp only [State.task] at hplace ⊢
  simp only [hstop, hplace, hmay, hpresent]
  rfl

/-- A stop captures results and signals, and keeps the rest of what a task is resumed with (R191, R195). -/
theorem TaskCtx.kept_captureAt (t : TaskCtx) (a : Agent) : t.Kept (t.captureAt a) := by
  unfold TaskCtx.captureAt TaskCtx.updSeq
  generalize t.signalsOf a = l
  cases a <;> exact ⟨rfl, rfl, rfl, rfl, rfl, rfl⟩

theorem TaskCtx.kept_stopped (t : TaskCtx) : t.Kept t.stopped := by
  have h := (((t.kept_captureAt .control).trans (TaskCtx.kept_captureAt _ .load)).trans (TaskCtx.kept_captureAt _ .compute)).trans
    (TaskCtx.kept_captureAt _ .store)
  unfold TaskCtx.stopped
  exact h.trans ⟨rfl, rfl, rfl, rfl, rfl, rfl⟩

/-- A task with no transfers running holds no lease. -/
theorem State.releaseAll_of_idle (hcp : (s.task c).cp.running = []) (hcl : (s.task c).cl.running = []) : s.releaseAll c = s := by
  simp [State.releaseAll, hcp, hcl]

theorem State.quiet_of_idle (hcp : (s.task c).cp.running = []) (hcl : (s.task c).cl.running = []) :
    s.quiet c = (s.landAll c .mule (s.pipe c .mule)).setPipe c .mule [] := by
  have hland := s.landAll_landed c (s.pipe c .mule)
  apply State.releaseAll_of_idle
  · simpa [State.setPipe] using hland.copies.trans hcp
  · simpa [State.setPipe] using hland.collectives.trans hcl

theorem State.quiet_sameLaunches (hcp : (s.task c).cp.running = []) (hcl : (s.task c).cl.running = []) : s.SameLaunches (s.quiet c) := by
  obtain ⟨m, q, e, k, hland⟩ := s.landAll_only c (s.pipe c .mule)
  rw [State.quiet_of_idle hcp hcl, hland]
  exact ⟨fun _ => rfl, rfl⟩

theorem State.quiet_slotWrites (hcp : (s.task c).cp.running = []) (hcl : (s.task c).cl.running = []) :
    (s.quiet c).slotWrites = s.slotWrites := by
  obtain ⟨m, q, e, k, hland⟩ := s.landAll_only c (s.pipe c .mule)
  rw [State.quiet_of_idle hcp hcl, hland]
  rfl

theorem State.quiet_mem (s : State) (c : Nat) : (s.quiet c).mem = (s.landAll c .mule (s.pipe c .mule)).mem := by
  simp [State.quiet]

/-- A task is saved as it is once its results have landed. -/
theorem State.quiet_kept (hcp : (s.task c).cp.running = []) (hcl : (s.task c).cl.running = []) :
    ((s.landAll c .mule (s.pipe c .mule)).task c).Kept ((s.quiet c).savedTask c).ctx := by
  rw [State.quiet_of_idle hcp hcl]
  have hpipe : ((s.landAll c .mule (s.pipe c .mule)).task c).Kept (((s.landAll c .mule (s.pipe c .mule)).setPipe c .mule []).task c) := by
    rw [State.setPipe, State.task_updTask]
    exact ⟨rfl, rfl, rfl, rfl, rfl, rfl⟩
  exact hpipe.trans ((TaskCtx.kept_stopped _).trans ⟨rfl, rfl, rfl, rfl, rfl, rfl⟩)

/-! ### The launch, the account and memory of a task that is spilled -/

variable (s c p i)

theorem State.spilled_slotWrites : (s.spilled c p i).slotWrites = s.slotWrites := rfl

theorem State.launch_updCore (f : Core → Core) (d l : Nat) : (s.updCore c f).launch d l = s.launch d l := rfl

theorem State.account_updCore (f : Core → Core) (a : Nat) : (s.updCore c f).account a = s.account a := rfl

theorem State.spilled_launch : (s.spilled c p i).launch (coreDie c) i.launch =
    (s.launch (coreDie c) i.launch).map (fun l => { l with saved := l.saved ++ [s.savedTask c] }) := by
  refine (State.launch_updLaunch _ _ _ ?_).trans (congrArg _ ?_)
  · exact fun _ => rfl
  · refine State.SameLaunches.launch (State.sameLaunches_updDie s (coreDie c) (f := fun d => { d with lamb := _ }) ?_) ..
    exact fun _ => rfl

theorem State.spilled_ntask : ((s.spilled c p i).account i.acct).ntask = (s.account i.acct).ntask - 1 := by
  simp [State.spilled, State.account, State.updAccount]

theorem State.spilled_mem : (s.spilled c p i).mem = Memory.move s.mem (filePlace c 0) p (16384 * i.nslot) := rfl

end

/-- A moved range: the target holds what the source held, the source reads as zero, and every other byte stays. -/
theorem Memory.read_move (m : List Host.Cell) (src dst len a : Nat) (h : Memory.wf m = true) :
    Memory.read (Memory.move m src dst len) a = if src ≤ a ∧ a < src + len then 0
      else if dst ≤ a ∧ a < dst + len then Memory.read m (a - dst + src) else Memory.read m a := by
  rw [Memory.move, Memory.read_zero _ _ _ _ (Memory.wf_copy _ _ _ _ h), Memory.read_copy _ _ _ _ _ h]
  by_cases hsrc : src ≤ a ∧ a < src + len
  · rw [if_pos hsrc, if_neg (by omega)]
  · rw [if_neg hsrc, if_pos (by omega)]

/-- A save waits until no slot write is on its way to the core. -/
theorem State.maySave_slotWrites {s : State} {c : Nat} (h : s.maySave c = true) : s.slotWrites.any (fun w => w.core == c) = false := by
  simp only [State.maySave, Bool.and_eq_true, Bool.not_eq_true'] at h
  obtain ⟨⟨⟨⟨⟨-, hslots⟩, -⟩, -⟩, -⟩, -⟩ := h
  exact hslots

/-- The rows of a core are one run of bytes. -/
theorem filePlace_eq (c k : Nat) : filePlace c k = filePlace c 0 + k := by
  unfold filePlace
  rw [Nat.add_zero]

/-- The rows of core `c` lie above every byte of HBM. -/
theorem filePlace_above {c q : Nat} (h : q ≤ 2 ^ 39) : q < filePlace c 0 := by
  simp only [filePlace]
  omega

/-- The saved task is the task once its results have landed; the rest of the event is a move of memory, and an end of accesses that keeps
launches and accounts. -/
theorem tasksAreSaved : Claim.TasksAreSaved := by
  intro s u c cause p i l hstop hid hplace
  have hexec : exec (.taskSaveComplete c) s = execTaskSaveComplete c s := rfl
  rw [hexec]
  refine ⟨fun hmay => ?_, fun hmay habsent => ?_, fun hmay hpresent hu => ⟨?_, ?_⟩⟩
  · subst hid
    simp only [execTaskSaveComplete, State.task] at hplace ⊢
    simp only [hstop, hplace, hmay]
    rfl
  · subst hid
    simp only [execTaskSaveComplete, State.task] at hplace ⊢
    simp only [hstop, hplace, hmay, habsent]
    rfl
  · refine ⟨_, execTaskSaveComplete_of_maySave hstop hid hplace hmay hpresent, ?_⟩
    simp [Core.freed, State.task]
  · intro hlaunch hwf hin hcp hcl
    have hland := s.landAll_landed c (s.pipe c .mule)
    have hkept := State.quiet_kept hcp hcl
    have hsame := State.quiet_sameLaunches hcp hcl
    have hslots : ((s.quiet c).spilled c p i).slotWrites.any (fun w => w.core == c) = false := by
      rw [State.spilled_slotWrites, State.quiet_slotWrites hcp hcl]
      exact State.maySave_slotWrites hmay
    have hclear := ((s.quiet c).spilled c p i).sameLaunches_clearTask hslots
    have hmem : ((((s.quiet c).spilled c p i).clearTask c).updCore c Core.freed).mem = Memory.move u.mem (filePlace c 0) p (16384 * i.nslot) := by
      rw [State.updCore_mem, State.clearTask_mem _ hslots, State.spilled_mem, State.quiet_mem, hu]
    rw [← hu] at hland hkept
    refine ⟨_, (s.quiet c).savedTask c, execTaskSaveComplete_of_maySave hstop hid hplace hmay hpresent, ?_, rfl,
      (hkept.id.trans hland.id).trans hid.symm, hkept.regs, hkept.flag, hkept.tags, hkept.step.trans (congrArg Seq.step hland.ctl), ?_, ?_, ?_⟩
    · rw [State.launch_updCore, hclear.launch, State.spilled_launch, hsame.launch, hlaunch]
      rfl
    · rw [State.account_updCore, hclear.account, State.spilled_ntask, hsame.account]
    · intro k hk
      simp only [areaBytes] at hin
      have habove := filePlace_above (c := c) (q := p + 16384 * i.nslot) (by omega)
      constructor
      · rw [hmem, Memory.read_move _ _ _ _ _ hwf, if_neg (by omega), if_pos (by omega), Nat.add_sub_cancel_left, Nat.add_comm, ← filePlace_eq c k]
      · rw [hmem, filePlace_eq c k, Memory.read_move _ _ _ _ _ hwf, if_pos (by omega)]
    · intro q hrows harea
      rw [hmem, Memory.read_move _ _ _ _ _ hwf, if_neg (by omega), if_neg (by omega)]

end Sys2Proof.Machine
end

section
/-! PROOFS. The resumption of a task (R13, R161, R193, R198). -/

namespace Sys2Proof.Machine

open Sys2Proof

/-! ### A restored task goes on (R193, R198) -/

/-- A change of the task on core `c`, and of accesses on their way, that leaves what the task was saved with. -/
structure State.Resumes (c : Nat) (s t : State) : Prop where
  mem : t.mem = s.mem
  hub : t.hub = s.hub
  others : ∀ k, k ≠ c → t.core k = s.core k
  core : t.core c = { s.core c with task := t.task c }
  task : (s.task c).Kept (t.task c)

section

variable {c : Nat}

theorem State.Resumes.refl (s : State) : s.Resumes c s := ⟨rfl, rfl, fun _ _ => rfl, rfl, .refl _⟩

theorem State.Resumes.trans {s t u : State} (h : s.Resumes c t) (g : t.Resumes c u) : s.Resumes c u where
  mem := g.mem.trans h.mem
  hub := g.hub.trans h.hub
  others k hk := (g.others k hk).trans (h.others k hk)
  core := by rw [g.core, h.core]
  task := h.task.trans g.task

/-- Accesses that leave or enter transit change nothing of a core. -/
theorem State.resumes_transit (s : State) (l : List Access) : s.Resumes c { s with transit := l } :=
  ⟨rfl, rfl, fun _ _ => rfl, rfl, .refl _⟩

theorem State.resumes_updTask (s : State) {f : TaskCtx → TaskCtx} (h : ∀ t : TaskCtx, t.Kept (f t)) : s.Resumes c (s.updTask c f) where
  mem := rfl
  hub := rfl
  others _ hk := s.core_updTask_of_ne f hk
  core := by rw [State.task_updTask, State.core_updTask]
  task := by
    rw [State.task_updTask]
    exact h _

theorem State.resumes_resumeSeq (s : State) {a : Agent} (ha : a = .control ∨ a = .load ∨ a = .compute ∨ a = .store) :
    s.Resumes c (s.resumeSeq c a) := by
  unfold State.resumeSeq
  dsimp only
  split
  · exact .refl s
  · split
    · rw [State.takeFault_sequencer _ _ _ ha]
      exact s.resumes_updTask (fun t => t.kept_faultMet a _)
    · exact s.resumes_updTask (fun t => t.kept_replay a)

theorem State.resumes_resendKept (s : State) (slot : Nat) : s.Resumes c (s.resendKept c slot) := by
  unfold State.resendKept
  dsimp only
  split
  · exact .refl s
  · exact (s.resumes_transit _).trans (State.resumes_updTask _ (fun _ => ⟨rfl, rfl, rfl, rfl, rfl, rfl⟩))

theorem State.resumes_foldl {α : Type} {f : State → α → State} (h : ∀ (s : State) (x : α), s.Resumes c (f s x)) (l : List α) (s : State) :
    s.Resumes c (l.foldl f s) := by
  induction l generalizing s with
  | nil => exact .refl s
  | cons x rest ih => exact (h s x).trans (ih _)

end

/-- The sequencers of a restored task replay their buffers, its held stores go on unless their handler is still to run, and its kept
messages are sent again (R48, R193, R198, R199). -/
def State.resumed (s : State) (c : Nat) (held : Bool) (slots : List Nat) : State :=
  let s := (((s.resumeSeq c .control).resumeSeq c .load).resumeSeq c .compute).resumeSeq c .store
  let s := if held then s else s.release c .store
  slots.foldl (fun s n => s.resendKept c n) s

theorem State.resumes_resumed (s : State) (c : Nat) (held : Bool) (slots : List Nat) : s.Resumes c (s.resumed c held slots) := by
  have hcontrol := s.resumes_resumeSeq (c := c) (a := .control) (by simp)
  have hload := (s.resumeSeq c .control).resumes_resumeSeq (c := c) (a := .load) (by simp)
  have hcompute := ((s.resumeSeq c .control).resumeSeq c .load).resumes_resumeSeq (c := c) (a := .compute) (by simp)
  have hstore := (((s.resumeSeq c .control).resumeSeq c .load).resumeSeq c .compute).resumes_resumeSeq (c := c) (a := .store) (by simp)
  have hseqs := ((hcontrol.trans hload).trans hcompute).trans hstore
  unfold State.resumed
  dsimp only
  generalize (((s.resumeSeq c .control).resumeSeq c .load).resumeSeq c .compute).resumeSeq c .store = u at hseqs ⊢
  refine State.Resumes.trans ?_ (State.resumes_foldl (fun s n => s.resumes_resendKept n) slots _)
  split
  · exact hseqs
  · exact hseqs.trans (u.resumes_transit _)

/-! ### The state that is restored (R198) -/

/-- The state with a task's rows back from its save area at `p`, its table loaded again, and its core RESIDENT (R13, R198). -/
def State.rebuilt (s : State) (c p : Nat) : State :=
  let t := s.task c
  let len := 16384 * t.id.nslot
  let rows : List ImageRow := t.images.map (fun r => { r with core := c, held := r.held && (t.pending.find 9).isSome })
  let s := { s with
    mem := Memory.copy s.mem p (filePlace c 0) len
    poison := movePoison p (filePlace c 0) len s.poison
    struck := movePoison p (filePlace c 0) len s.struck
    transit := s.transit ++ t.heldStores.map (fun (a : Access) => a.restored c)
    granted := s.granted ++ t.granted.map (fun (g : Granted) => { g with core := c }) }
  let s := (s.newFile c len).updDie (coreDie c) (fun d => { d with lamb := d.lamb ++ rows })
  s.updCore c (fun k =>
    { k with residency := .resident, table := s.loadTable t.id.vf t.id.stimg, idleSince := s.rc,
             task := { t with heldStores := [], granted := [], images := [], waitPage := none, ends := none } })

/-- The state in which a restored task goes on, before a fault of its save area or a latched request is met. -/
def State.restored (s : State) (c p : Nat) : State :=
  let t := s.task c
  (s.rebuilt c p).resumed c (t.pending.find 3).isSome (t.shared.mq.map (fun e => e.1))

section

variable {s : State} {c p : Nat} {i : TaskId}

theorem execTaskRestore_of_ended {r : FaultRec} (hres : (s.core c).residency = .restoring) (hid : i = (s.core c).task.id)
    (hplace : s.secondStage i.vf (s.task c).area (areaBytes i.nslot) = some p)
    (hroom : s.lambRows (coreDie c) + (s.task c).images.length ≤ 512) (hends : (s.task c).ends = some r) :
    execTaskRestore c s = .next ((s.restored c p).endTask c 6 r) := by
  subst hid
  unfold execTaskRestore
  simp only [State.task] at hplace hroom hends ⊢
  simp only [hres, hplace, if_neg (Nat.not_lt.2 hroom), hends]
  rfl

theorem execTaskRestore_of_sound (hres : (s.core c).residency = .restoring) (hid : i = (s.core c).task.id)
    (hplace : s.secondStage i.vf (s.task c).area (areaBytes i.nslot) = some p)
    (hroom : s.lambRows (coreDie c) + (s.task c).images.length ≤ 512) (hends : (s.task c).ends = none)
    (hpresent : s.absentIn p (areaBytes i.nslot) = false) (hclean : s.poisonedIn p (areaBytes i.nslot) = false) :
    execTaskRestore c s = .next ((s.restored c p).takeLatched c) := by
  subst hid
  unfold execTaskRestore
  simp only [State.task] at hplace hroom hends hpresent hclean ⊢
  simp only [hres, hplace, if_neg (Nat.not_lt.2 hroom), hends, hpresent, hclean]
  rfl

variable (s c p)

theorem State.rebuilt_core : (s.rebuilt c p).core c = { s.core c with
    residency := .resident, table := (s.rebuilt c p).loadTable (s.task c).id.vf (s.task c).id.stimg, idleSince := s.rc
    task := { s.task c with heldStores := [], granted := [], images := [], waitPage := none, ends := none } } := by
  refine (State.core_updCore ..).trans ?_
  rfl

theorem State.rebuilt_core_of_ne {k : Nat} (h : k ≠ c) : (s.rebuilt c p).core k = s.core k :=
  State.core_updCore_of_ne _ _ h

theorem State.rebuilt_mem : (s.rebuilt c p).mem = Memory.copy s.mem p (filePlace c 0) (16384 * (s.task c).id.nslot) := rfl

end

theorem State.loadTable_congr {s t : State} (hmem : t.mem = s.mem) (hhub : t.hub = s.hub) (fn stimg : Nat) :
    t.loadTable fn stimg = s.loadTable fn stimg := by
  unfold State.loadTable State.secondStage State.fn
  rw [hmem, hhub]

theorem State.endTask_core (s : State) (c status : Nat) (r : FaultRec) :
    ((s.endTask c status r).core c).residency = .retiring true ∧ ((s.endTask c status r).core c).status = status ∧
      ((s.endTask c status r).core c).faultStatus = some r ∧ ((s.endTask c status r).task c).ends = (s.task c).ends := by
  have hcores (u : State) (f : Die → Die) : (u.updDie (coreDie c) f).core c = u.core c := rfl
  simp [State.endTask, State.abandon, State.task, hcores]

/-- The rebuilt core has what was saved, and what the sequencers do as they go on keeps it. -/
theorem tasksAreRestored : Claim.TasksAreRestored := by
  intro s c p i hres hid hplace
  have hexec : exec (.taskRestore c) s = execTaskRestore c s := rfl
  have hresumed := (s.rebuilt c p).resumes_resumed c ((s.task c).pending.find 3).isSome ((s.task c).shared.mq.map (fun e => e.1))
  have hcore := s.rebuilt_core c p
  rw [hexec]
  refine ⟨fun hfull => ?_, fun r hroom hends => ?_, fun hroom hends hlatch hwf hpresent hclean => ?_⟩
  · subst hid
    unfold execTaskRestore
    simp only [State.task] at hplace hfull ⊢
    simp only [hres, hplace]
    exact if_pos hfull
  · obtain ⟨hretiring, hstatus, hfault, hends'⟩ := (s.restored c p).endTask_core c 6 r
    refine ⟨_, execTaskRestore_of_ended hres hid hplace hroom hends, hretiring, hstatus, hfault, hends'.trans ?_⟩
    refine hresumed.task.ends.trans ?_
    rw [State.task, hcore]
  · have hnone : ((s.restored c p).core c).preempt = none := by
      rw [State.restored, hresumed.core, hcore]
      exact hlatch
    have htask := hresumed.task
    rw [State.task, hcore] at htask
    refine ⟨_, execTaskRestore_of_sound hres hid hplace hroom hends hpresent hclean, ?_⟩
    rw [State.takeLatched_of_none hnone]
    have hmem : (s.restored c p).mem = Memory.copy s.mem p (filePlace c 0) (16384 * i.nslot) := by
      rw [State.restored, hresumed.mem, State.rebuilt_mem, hid, State.task]
    refine ⟨?_, ?_, htask.id.trans hid.symm, htask.regs, htask.flag, htask.step, fun k hk => ?_, fun k hk => ?_, fun q hq => ?_⟩
    · rw [State.restored, hresumed.core, hcore]
    · rw [State.restored, State.loadTable_congr hresumed.mem hresumed.hub, hresumed.core, hcore, hid, State.task]
    · exact (hresumed.others k hk).trans (s.rebuilt_core_of_ne c p hk)
    · rw [hmem, filePlace_eq c k, Memory.read_copy _ _ _ _ _ hwf, if_pos (by omega), Nat.add_sub_cancel_left, Nat.add_comm]
    · rw [hmem, Memory.read_copy _ _ _ _ _ hwf, if_neg (by omega)]

/-- Settles O49, by its three parts: requests, saving and restoring. -/
theorem tasksSavedAndRestored : Obligations.TasksSavedAndRestored := ⟨tasksStop, tasksAreSaved, tasksAreRestored⟩

end Sys2Proof.Machine
end

section
/-! PROOFS. The registers of BAR0 (R28, R157, R202, R342, R343, R345, R365, R371). -/

namespace Sys2Proof.Machine

open Sys2Proof

/-! ### The window of the physical function (R343) -/

section

variable {s : State} {off : Nat} {v : DWord}

theorem State.writeBar0_pf (h : 0x8000 ≤ off) : s.writeBar0 0 off v = s.writePf off v := by
  unfold State.writeBar0
  rw [if_neg (by omega), if_neg (by omega), if_neg (by omega), if_neg (by omega), if_neg (by omega), if_neg (by omega), if_pos ⟨h, rfl⟩]

theorem registerWrite_pf (h : 0x8000 ≤ off) (h' : off < 0x10000) :
    exec (.registerWrite (.bar0 0 off) v) s = .next (s.writePf off v) := by
  change execRegisterWrite (.bar0 0 off) v s = _
  rw [execRegisterWrite, if_neg (by omega), State.writeBar0_pf h]
  rfl

/-- A register with a range takes a number within it, and reports another one (R343). -/
theorem State.setIf_decide (s : State) (p : Prop) [Decidable p] (f : State → State) : s.setIf (decide p) f = if p then f s else s.configError := by
  simp [State.setIf]

theorem State.writePf_pcap : s.writePf 0x8000 v =
    if 1000 ≤ v.toNat ∧ v.toNat ≤ 4800 then { s with hub := { s.hub with pcap := v.toNat } } else s.configError := by
  unfold State.writePf
  dsimp only
  rw [if_pos rfl, State.setIf_decide]
  rfl

theorem State.writePf_ilim : s.writePf 0x8008 v =
    if 100 ≤ v.toNat ∧ v.toNat ≤ 3000 then { s with hub := { s.hub with ilim := v.toNat } } else s.configError := by
  unfold State.writePf
  dsimp only
  rw [if_neg (by omega), if_pos rfl, State.setIf_decide]
  rfl

theorem State.writePf_slew : s.writePf 0x8010 v =
    if 10 ≤ v.toNat ∧ v.toNat ≤ 1000 then { s with hub := { s.hub with slew := v.toNat } } else s.configError := by
  unfold State.writePf
  dsimp only
  rw [if_neg (by omega), if_neg (by omega), if_pos rfl, State.setIf_decide]
  rfl

theorem State.writePf_wdlim {d : Nat} (h : d < 8) : s.writePf (0x8100 + 8 * d) v =
    if 1 ≤ v.toNat ∧ v.toNat < 2 ^ 32 then s.updDie d (fun k => { k with wdlim := v.toNat }) else s.configError := by
  unfold State.writePf
  dsimp only
  rw [if_neg (by omega), if_neg (by omega), if_neg (by omega), if_pos (by omega), State.setIf_decide, show (0x8100 + 8 * d - 0x8100) / 8 = d by omega]

end

/-! ### A function's own registers (R365) -/

theorem registerWrite_psreq {s : State} {fn : Nat} {v : DWord} (hon : s.fnEnabled fn = true) (hfn : fn < 256) (hv : v.toNat < 8)
    (hdue : s.boundaryDue = false) :
    exec (.registerWrite (.bar0 fn 0x2800) v) s = .next (s.updFn fn (fun f => { f with psreq := v.setWidth 3 })) := by
  change execRegisterWrite (.bar0 fn 0x2800) v s = _
  rw [execRegisterWrite, if_neg (by omega), if_neg (by simp [hon])]
  simp [State.writeBar0, State.writePsreq, hv, hdue]

theorem registerWrite_disabled {s : State} {fn : Nat} (v : DWord) (hoff : s.fnEnabled fn = false) (hfn : fn < 256) :
    exec (.registerWrite (.bar0 fn 0x2800) v) s = .next s := by
  change execRegisterWrite (.bar0 fn 0x2800) v s = _
  rw [execRegisterWrite, if_neg (by omega), if_pos (by simp [hoff])]
  rfl

/-- The shadow bank takes a write of the program alone (R263, assumption 122). -/
theorem registerWrite_shadow (s : State) {i : Nat} (v : DWord) (hi : i < 32) :
    exec (.registerWrite (.sys (0x100 + i)) v) s = .next (if s.isFw then s else s.putWord (.sys (0x100 + i)) 1 v) := by
  change writeReg (0x100 + i) v s = _
  rw [writeReg, if_neg (by omega), if_neg (by omega), if_neg (by omega), if_pos (by omega)]

/-! ### Second-stage entries (R28, R371) -/

@[simp] theorem State.fn_updFn (s : State) (n : Nat) (f : Function → Function) : (s.updFn n f).fn n = f (s.fn n) := by
  simp [State.fn, State.updFn]

theorem State.fn_updFn_of_ne (s : State) {n m : Nat} (f : Function → Function) (h : m ≠ n) : (s.updFn n f).fn m = s.fn m :=
  SMap.get_set_ne _ _ _ _ _ h

theorem secondStageEntryWrite_eq {s : State} {n : Nat} (v : DWord) (h : n < 256) : exec (.secondStageEntryWrite n v) s =
    .next (if stageBad (v ++ (s.fn n).staged).toNat = true then s.configError
      else s.updFn n (fun f => { f with sstage := v ++ (s.fn n).staged, enabled := true })) := by
  change execSecondStageEntryWrite n v s = _
  rw [execSecondStageEntryWrite, if_neg (by omega), State.writeStage]
  cases hbad : stageBad (v ++ (s.fn n).staged).toNat <;> simp [State.setIf]

/-! ### Ring registers (R345) -/

section

variable {s : State} {fn n : Nat} {v : DWord}

@[simp] theorem State.ring_updRing (s : State) (fn n : Nat) (f : Ring → Ring) : (s.updRing fn n f).ring fn n = f (s.ring fn n) := by
  simp [State.ring, State.updRing, Function.ring]

theorem ringRegisterWrite_eq (hfn : fn < 256) (hn : n < 16) (hon : s.fnEnabled fn = true) :
    exec (.ringRegisterWrite fn n v) s = .next (s.writeRing fn n v) := by
  change execRingRegisterWrite fn n v s = _
  rw [execRingRegisterWrite, if_neg (by omega), if_neg (by simp [hon])]

/-- Bits 3 to 1 of a ring register are reserved (R345). -/
theorem reserved_zero (h : v.extractLsb' 1 3 = 0) : v.toNat / 2 % 8 = 0 := by
  have hnat := congrArg BitVec.toNat h
  simpa [BitVec.extractLsb'_toNat, Nat.shiftRight_eq_div_pow] using hnat

theorem State.writeRing_on (hv : v.extractLsb' 1 3 = 0) (hring : (s.ring fn n).on = true) :
    s.writeRing fn n v = if v + 1 = (s.ring fn n).reg then s.updRing fn n (fun r => { r with reg := v }) else s := by
  unfold State.writeRing
  dsimp only
  rw [if_neg (by simp [reserved_zero hv]), if_pos hring]

theorem State.writeRing_stays_off (hv : v.extractLsb' 1 3 = 0) (hring : (s.ring fn n).on = false) (hen : v.getLsbD 0 = false) :
    s.writeRing fn n v = s.updRing fn n (fun r => { r with reg := v }) := by
  unfold State.writeRing
  dsimp only
  rw [if_neg (by simp [reserved_zero hv]), if_neg (by simp [hring]), hen]
  rfl

/-- A ring in host memory that is set on reads HEAD in its second word (R345). -/
theorem State.writeRing_sets_on (hv : v.extractLsb' 1 3 = 0) (hring : (s.ring fn n).on = false) (hen : v.getLsbD 0 = true)
    (hhost : v.getLsbD 11 = false) :
    s.writeRing fn n v = (s.updRing fn n (fun r => { r with reg := v })).updRing fn n
      (fun r => { r with head := Memory.readNat s.mem (hostPlace (v.toNat / 4096 * 4096 + 8)) 8 }) := by
  have hplace : (s.updRing fn n (fun r => { r with reg := v })).ringPlace fn n
      (((s.updRing fn n (fun r => { r with reg := v })).ring fn n).base + 8) 8 = some (hostPlace (v.toNat / 4096 * 4096 + 8)) := by
    rw [State.ringPlace, State.ring_updRing, hhost]
    rfl
  unfold State.writeRing
  dsimp only
  rw [if_neg (by simp [reserved_zero hv]), if_neg (by simp [hring]), hen, hplace]
  rfl

end

/-- The registers one by one, by the lemma on each register's write. -/
theorem hostRegisters : Claim.HostRegisters := by
  intro s fn n v e
  refine ⟨?_, ?_, ?_, fun d hd => ?_, fun hon hfn hv hdue => registerWrite_psreq hon hfn hv hdue,
    fun hoff hfn => registerWrite_disabled v hoff hfn, fun i hi => registerWrite_shadow s v hi, fun hn he => ⟨fun hok => ?_, fun hbad => ?_⟩,
    fun hfn hn hon hv => ⟨fun hring => ?_, fun hring hen => ?_, fun hring hen hhost => ?_⟩⟩
  · rw [registerWrite_pf (by omega) (by omega), State.writePf_pcap]
  · rw [registerWrite_pf (by omega) (by omega), State.writePf_ilim]
  · rw [registerWrite_pf (by omega) (by omega), State.writePf_slew]
  · rw [registerWrite_pf (by omega) (by omega), State.writePf_wdlim hd]
  · rw [secondStageEntryWrite_eq v hn, ← he, hok, if_neg Bool.false_ne_true]
    refine ⟨_, rfl, ?_, ?_, ?_, fun m hm => s.fn_updFn_of_ne _ hm, rfl, rfl⟩
    all_goals simp
  · rw [secondStageEntryWrite_eq v hn, ← he, hbad, if_pos rfl]
  · rw [ringRegisterWrite_eq hfn hn hon, State.writeRing_on hv hring]
  · rw [ringRegisterWrite_eq hfn hn hon, State.writeRing_stays_off hv hring hen]
  · rw [ringRegisterWrite_eq hfn hn hon, State.writeRing_sets_on hv hring hen hhost]
    refine ⟨_, rfl, ?_, ?_, ?_, rfl⟩
    all_goals simp

end Sys2Proof.Machine
end

section
/-! PROOFS. The host's reads and writes (R27, R125, R342). -/

namespace Sys2Proof.Machine

open Sys2Proof

/-! ### Runs of numbers and the bytes of a word -/

theorem fromTo_eq_map_range (a n : Nat) : fromTo a n = (List.range n).map (fun i => a + i) := by
  induction n generalizing a with
  | zero => rfl
  | succ n ih =>
    rw [fromTo, ih, List.range_succ_eq_map, List.map_cons, List.map_map]
    simp [Function.comp_def, Nat.add_assoc, Nat.add_comm 1]

theorem fromTo_add (a m n : Nat) : fromTo a (m + n) = fromTo a m ++ fromTo (a + m) n := by
  induction m generalizing a with
  | zero => simp [fromTo]
  | succ m ih => rw [Nat.add_right_comm, fromTo, fromTo, ih, List.cons_append, Nat.add_right_comm, Nat.add_assoc]

theorem mem_fromTo {a n o : Nat} : o ∈ fromTo a n ↔ a ≤ o ∧ o < a + n := by
  rw [fromTo_eq_map_range, List.mem_map]
  constructor
  · rintro ⟨i, hi, rfl⟩
    have hlt := List.mem_range.1 hi
    omega
  · rintro ⟨hle, hlt⟩
    exact ⟨o - a, List.mem_range.2 (by omega), by omega⟩

theorem toBytes_eq_map_range (v n : Nat) : toBytes v n = (List.range n).map (fun i => BitVec.ofNat 8 (v / 2 ^ (8 * i))) := by
  induction n generalizing v with
  | zero => rfl
  | succ n ih =>
    rw [toBytes, ih, List.range_succ_eq_map, List.map_cons, List.map_map]
    congr 1
    · simp
    · refine List.map_congr_left fun i _ => ?_
      rw [Function.comp_apply, Nat.div_div_eq_div_mul, Nat.mul_succ, Nat.pow_add, Nat.mul_comm]

/-- The distinct values of a run on which a function is constant. -/
theorem eraseDups_map_range {f : Nat → Nat} {n w : Nat} (hn : n ≠ 0) (h : ∀ i < n, f i = w) : ((List.range n).map f).eraseDups = [w] := by
  have hall : (List.range n).map f = List.replicate n w := by
    rw [List.eq_replicate_iff]
    exact ⟨by simp, fun x hx => by
      obtain ⟨i, hi, rfl⟩ := List.mem_map.1 hx
      exact h i (List.mem_range.1 hi)⟩
  obtain ⟨m, rfl⟩ := Nat.exists_eq_succ_of_ne_zero hn
  rw [hall, List.replicate_succ, List.eraseDups_cons]
  simp

/-- A byte of an aligned word of `n` bytes lies in that word. -/
theorem aligned_word {w n i : Nat} (halign : w % n = 0) (hi : i < n) : (w + i) / n * n = w := by
  obtain ⟨q, rfl⟩ := Nat.dvd_of_mod_eq_zero halign
  rw [Nat.mul_add_div (by omega), Nat.div_eq_of_lt hi, Nat.add_zero, Nat.mul_comm]

/-! ### The words of BAR0 that the host reads and writes (R342, R343) -/

section

variable {s : State} {fn w n : Nat}

/-- A byte of BAR0 is the byte of its word. -/
theorem State.bar0Byte_word {i : Nat} (hsize : bar0Size (w + i) = n) (halign : w % n = 0) (hi : i < n) (hin : w + i < 0x10000) :
    s.bar0Byte fn (w + i) = BitVec.ofNat 8 (s.readBar0 fn w / 2 ^ (8 * i)) := by
  have hn : 0 < n := by omega
  have hword := aligned_word halign hi
  have hrest : (w + i) % n = i := by rw [Nat.add_mod, halign, Nat.zero_add, Nat.mod_mod, Nat.mod_eq_of_lt hi]
  unfold State.bar0Byte
  dsimp only
  rw [if_neg (by omega), hsize, hword, hrest]

/-- The bytes of a word of BAR0 are those of what its register reads. -/
theorem State.bar0Bytes_word (hsize : ∀ i < n, bar0Size (w + i) = n) (halign : w % n = 0) (hin : w + n ≤ 0x10000) :
    (fromTo w n).map (s.bar0Byte fn) = toBytes (s.readBar0 fn w) n := by
  rw [fromTo_eq_map_range, List.map_map, toBytes_eq_map_range]
  refine List.map_congr_left fun i hi => ?_
  have hlt := List.mem_range.1 hi
  exact State.bar0Byte_word (hsize i hlt) halign hlt (by omega)

variable (s fn w)

/-- The bytes of the word at `w`, with those that a write of `data` from `off` on puts there. -/
def State.bar0Merged (off : Nat) (data : List Byte) : List Byte :=
  (fromTo w (bar0Size w)).map (fun o => if decide (off ≤ o ∧ o < off + data.length) then data.getD (o - off) 0 else s.bar0Byte fn o)

variable {off : Nat} {data : List Byte}

/-- A write within one word of BAR0. -/
theorem State.writeBar0Bytes_word (hdata : data.length ≠ 0)
    (hword : ∀ i < data.length, (off + i) / bar0Size (off + i) * bar0Size (off + i) = w) :
    s.writeBar0Bytes fn off data =
      if w < 0x8000 ∨ (fromTo w (bar0Size w)).all (fun o => decide (off ≤ o ∧ o < off + data.length)) then
        s.writeBar0 fn w (BitVec.ofNat 64 (ofBytes (s.bar0Merged fn w off data)))
      else s := by
  unfold State.writeBar0Bytes
  rw [eraseDups_map_range hdata hword]
  rfl

/-- Where the write covers a run of bytes of the word, its data stands. -/
theorem State.bar0Merged_covered : (fromTo off data.length).map
    (fun o => if decide (off ≤ o ∧ o < off + data.length) then data.getD (o - off) 0 else s.bar0Byte fn o) = data := by
  rw [fromTo_eq_map_range, List.map_map]
  apply List.ext_getElem
  · simp
  · intro i hi hi'
    simp [hi']

/-- Where the write does not reach, the bytes of the word stay. -/
theorem State.bar0Merged_kept {lo len : Nat} (h : lo + len ≤ off ∨ off + data.length ≤ lo) : (fromTo lo len).map
    (fun o => if decide (off ≤ o ∧ o < off + data.length) then data.getD (o - off) 0 else s.bar0Byte fn o) =
      (fromTo lo len).map (s.bar0Byte fn) := by
  refine List.map_congr_left fun o ho => ?_
  have hrange := mem_fromTo.1 ho
  rw [if_neg]
  simp only [decide_eq_true_eq]
  omega

end

/-! ### Words of 8 bytes, and of 4 in DLSHARE (R343) -/

theorem bar0Size_of_low {o : Nat} (h : o < 0xC000) : bar0Size o = 8 := by
  rw [bar0Size, if_neg (by omega)]

theorem bar0Size_of_high {o : Nat} (h : 0xC000 ≤ o) : bar0Size o = 4 := by
  rw [bar0Size, if_pos h]

section

variable {s : State} {fn a : Nat} {bs : List Byte}

theorem State.bar0Bytes_eight (ha : a < 0xC000) (halign : a % 8 = 0) : (fromTo a 8).map (s.bar0Byte fn) = toBytes (s.readBar0 fn a) 8 :=
  State.bar0Bytes_word (fun i hi => bar0Size_of_low (by omega)) halign (by omega)

theorem State.bar0Bytes_low_half (ha : a < 0xC000) (halign : a % 8 = 0) :
    (fromTo a 4).map (s.bar0Byte fn) = (toBytes (s.readBar0 fn a) 8).take 4 := by
  rw [← State.bar0Bytes_eight ha halign, fromTo_add a 4 4, List.map_append]
  exact (List.take_left' (by simp [fromTo])).symm

theorem State.bar0Bytes_high_half (ha : a < 0xC000) (halign : a % 8 = 0) :
    (fromTo (a + 4) 4).map (s.bar0Byte fn) = (toBytes (s.readBar0 fn a) 8).drop 4 := by
  rw [← State.bar0Bytes_eight ha halign, fromTo_add a 4 4, List.map_append]
  exact (List.drop_left' (by simp [fromTo])).symm

theorem State.bar0Bytes_four (ha : 0xC000 ≤ a) (hin : a < 0x10000) (halign : a % 4 = 0) :
    (fromTo a 4).map (s.bar0Byte fn) = toBytes (s.readBar0 fn a) 4 :=
  State.bar0Bytes_word (fun i hi => bar0Size_of_high (by omega)) halign (by omega)

/-- A write of a whole word of BAR0. -/
theorem State.writeBar0Bytes_whole (hlen : bs.length = bar0Size a) (hsize : ∀ i < bar0Size a, bar0Size (a + i) = bar0Size a)
    (hpos : bar0Size a ≠ 0) (halign : a % bar0Size a = 0) :
    s.writeBar0Bytes fn a bs = s.writeBar0 fn a (BitVec.ofNat 64 (ofBytes bs)) := by
  have hword (i : Nat) (hi : i < bs.length) : (a + i) / bar0Size (a + i) * bar0Size (a + i) = a := by
    rw [hlen] at hi
    rw [hsize i hi, aligned_word halign hi]
  rw [s.writeBar0Bytes_word fn a (by omega) hword, if_pos, State.bar0Merged, ← hlen, State.bar0Merged_covered]
  refine .inr (List.all_eq_true.2 fun o ho => ?_)
  rw [← hlen] at ho
  exact decide_eq_true (mem_fromTo.1 ho)

theorem State.writeBar0Bytes_low_half (ha : a < 0x8000) (halign : a % 8 = 0) (hlen : bs.length = 4) : s.writeBar0Bytes fn a bs =
    s.writeBar0 fn a (BitVec.ofNat 64 (ofBytes (bs ++ (toBytes (s.readBar0 fn a) 8).drop 4))) := by
  have hword (i : Nat) (hi : i < bs.length) : (a + i) / bar0Size (a + i) * bar0Size (a + i) = a := by
    rw [bar0Size_of_low (by omega)]
    omega
  have hmerged : s.bar0Merged fn a a bs = bs ++ (toBytes (s.readBar0 fn a) 8).drop 4 := by
    rw [State.bar0Merged, bar0Size_of_low (by omega), fromTo_add a 4 4, List.map_append, State.bar0Merged_kept (lo := a + 4) _ _ (by omega),
      State.bar0Bytes_high_half (by omega) halign, ← hlen, State.bar0Merged_covered]
  rw [s.writeBar0Bytes_word fn a (by omega) hword, if_pos (.inl ha), hmerged]

theorem State.writeBar0Bytes_high_half (ha : a < 0x8000) (halign : a % 8 = 0) (hlen : bs.length = 4) : s.writeBar0Bytes fn (a + 4) bs =
    s.writeBar0 fn a (BitVec.ofNat 64 (ofBytes ((toBytes (s.readBar0 fn a) 8).take 4 ++ bs))) := by
  have hword (i : Nat) (hi : i < bs.length) : (a + 4 + i) / bar0Size (a + 4 + i) * bar0Size (a + 4 + i) = a := by
    rw [bar0Size_of_low (by omega)]
    omega
  have hmerged : s.bar0Merged fn a (a + 4) bs = (toBytes (s.readBar0 fn a) 8).take 4 ++ bs := by
    rw [State.bar0Merged, bar0Size_of_low (by omega), fromTo_add a 4 4, List.map_append, State.bar0Merged_kept (lo := a) _ _ (by omega),
      State.bar0Bytes_low_half (by omega) halign, ← hlen, State.bar0Merged_covered]
  rw [s.writeBar0Bytes_word fn a (by omega) hword, if_pos (.inl ha), hmerged]

/-- Half a word of the physical function's window is not written. -/
theorem State.writeBar0Bytes_dropped (ha : 0x8000 ≤ a) (ha' : a < 0xC000) (halign : a % 8 = 0) (hlen : bs.length = 4) :
    s.writeBar0Bytes fn a bs = s := by
  have hword (i : Nat) (hi : i < bs.length) : (a + i) / bar0Size (a + i) * bar0Size (a + i) = a := by
    rw [bar0Size_of_low (by omega)]
    omega
  rw [s.writeBar0Bytes_word fn a (by omega) hword, if_neg]
  rintro (hlow | hall)
  · omega
  · have hlast := List.all_eq_true.1 hall (a + 7) (mem_fromTo.2 (by rw [bar0Size_of_low ha']; omega))
    simp only [decide_eq_true_eq] at hlast
    omega

end

/-! ### Where a host access goes (R27, R342, assumption 17) -/

section

variable {s : State} {fn a n : Nat} {bs : List Byte}

theorem hostTarget_own (ha : a < 2 ^ 64) : hostTarget (2 ^ 64 + a) = .own a := by
  rw [hostTarget, if_neg (by omega), if_pos (by omega), show 2 ^ 64 + a - 2 ^ 64 = a by omega]

theorem hostTarget_bar0 (a : Nat) : hostTarget (2 ^ 65 + a) = .bar0 a := by
  rw [hostTarget, if_neg (by omega), if_neg (by omega), show 2 ^ 65 + a - 2 ^ 65 = a by omega]

theorem hostTarget_carve (ha : a < 2 ^ 64) : hostTarget a = .carve a := by
  rw [hostTarget, if_pos ha]

theorem hostWrite_own (hon : s.fnEnabled fn = true) (ha : a < 2 ^ 64) : exec (.hostWrite fn (2 ^ 64 + a) bs) s =
    .next (s.storeAt ((List.range bs.length).map (fun i => hostPlace a + i)) bs) := by
  change execHostWrite fn (2 ^ 64 + a) bs s = _
  rw [execHostWrite, if_neg (by simp [hon]), hostTarget_own ha, ← fromTo_eq_map_range]

theorem hostRead_own (hon : s.fnEnabled fn = true) (ha : a < 2 ^ 64) : exec (.hostRead fn (2 ^ 64 + a) n) s =
    .next (s.hostGets (Memory.readBytes s.mem (hostPlace a) n)) := by
  change execHostRead fn (2 ^ 64 + a) n s = _
  rw [execHostRead, if_neg (by simp [hon]), hostTarget_own ha]

theorem hostWrite_bar0 (hon : s.fnEnabled fn = true) (ha : a < 0x10000) :
    exec (.hostWrite fn (2 ^ 65 + a) bs) s = .next (s.writeBar0Bytes fn a bs) := by
  change execHostWrite fn (2 ^ 65 + a) bs s = _
  rw [execHostWrite, if_neg (by simp [hon]), hostTarget_bar0]
  exact if_neg (by omega)

theorem hostRead_bar0 (hon : s.fnEnabled fn = true) :
    exec (.hostRead fn (2 ^ 65 + a) n) s = .next (s.hostGets ((fromTo a n).map (s.bar0Byte fn))) := by
  change execHostRead fn (2 ^ 65 + a) n s = _
  rw [execHostRead, if_neg (by simp [hon]), hostTarget_bar0]

theorem hostWrite_unmapped (hon : s.fnEnabled fn = true) (ha : a < 2 ^ 64) (hplace : s.secondStage fn a bs.length = none) :
    exec (.hostWrite fn a bs) s = .next s := by
  change execHostWrite fn a bs s = _
  rw [execHostWrite, if_neg (by simp [hon]), hostTarget_carve ha]
  dsimp only
  rw [hplace]
  rfl

/-! ### Writes and reads of the carve-out (R121, R122, R125) -/

theorem placeDie_hbm {p : Nat} (hp : p < 2 ^ 39) : placeDie p = p / 2 ^ 36 := by
  have htier : placeTier p = 3 := by
    rw [placeTier, if_neg (by omega), if_neg (by omega), if_neg (by omega), if_neg (by omega)]
  rw [placeDie, htier]
  rfl

variable {p : Nat}

/-- The stamp that the hub gives to a write of component 8 (R121). -/
def State.hubStamp (s : State) : List Nat := s.hub.clock.set 8 (clk s.hub.clock 8 + 1)

/-- A write of the carve-out leaves with the hub's stamp, and waits until its cause has been applied at its home (R122). -/
theorem hostWrite_mapped (hon : s.fnEnabled fn = true) (ha : a < 2 ^ 64) (hplace : s.secondStage fn a bs.length = some p)
    (hin : p + bs.length ≤ 2 ^ 39) (hbs : bs ≠ []) (habsent : s.absent ((List.range bs.length).map (fun i => p + i)) = false) :
    exec (.hostWrite fn a bs) s = .next (if s.causalOk (p / 2 ^ 36) 8 s.hubStamp = true then
      ((s.setClock 8 s.hubStamp).storeAt ((List.range bs.length).map (fun i => p + i)) bs).applied (p / 2 ^ 36) 8 s.hubStamp else s) := by
  have hlen : bs.length ≠ 0 := by simpa using hbs
  obtain ⟨m, hm⟩ := Nat.exists_eq_succ_of_ne_zero hlen
  have hdie := placeDie_hbm (p := p) (by omega)
  change execHostWrite fn a bs s = _
  rw [← fromTo_eq_map_range] at habsent ⊢
  rw [execHostWrite, if_neg (by simp [hon]), hostTarget_carve ha]
  dsimp only
  rw [hplace]
  dsimp only
  rw [hm, fromTo] at habsent ⊢
  unfold State.hubWrite
  dsimp only
  rw [habsent, hdie, if_neg Bool.false_ne_true, if_neg (by omega)]
  change (match (if s.causalOk (p / 2 ^ 36) 8 s.hubStamp = true then _ else _) with | some s' => Host.Outcome.next s' | none => skip s) = _
  cases s.causalOk (p / 2 ^ 36) 8 s.hubStamp <;> rfl

end

end Sys2Proof.Machine
end

section
/-! PROOFS. Host accesses to the carve-out of a function, and the host interface as a whole (R27, R121, R122, R125). -/

namespace Sys2Proof.Machine

open Sys2Proof

/-- The write of component 8 is the hub's: its clock is the stamp's, and no core changes (R121, R122). -/
theorem State.applied_hub (s : State) {h : Nat} (src : Nat) (v : List Nat) (hh : h ≠ 8) :
    (s.applied h src v).cores = s.cores ∧ (s.applied h src v).hub.clock = s.hub.clock := by
  have hcores := s.setClock_cores h (clkMax (s.clock h) v)
  have hclock : (s.setClock h (clkMax (s.clock h) v)).hub.clock = s.hub.clock := by rw [State.setClock, if_neg hh]; rfl
  unfold State.applied
  generalize s.setClock h (clkMax (s.clock h) v) = u at hclock hcores ⊢
  generalize appliedUpTo src _ _ _ = n
  dsimp only
  split
  · exact ⟨hcores, hclock⟩
  · refine ⟨(foldl_field State.cores _ ?_ _ _).trans hcores, (foldl_field (fun s => s.hub.clock) _ ?_ _ _).trans hclock⟩
    all_goals exact fun _ _ => rfl

/-- With no waiter to wake, a store changes nothing of the hub. -/
theorem State.storeAt_hub {s : State} (ps : List Nat) (bs : List Byte) (h : s.waiters = []) : (s.storeAt ps bs).hub = s.hub := by
  unfold State.storeAt State.retest State.clean
  split
  · rfl
  · simp [h]

/-- What a write of the carve-out makes of memory, the cores and the hub's clock. -/
theorem State.carveWritten {s : State} {h : Nat} (ps : List Nat) (bs : List Byte) (hh : h ≠ 8) (hwaiters : s.waiters = []) :
    (((s.setClock 8 s.hubStamp).storeAt ps bs).applied h 8 s.hubStamp).mem = (s.storeAt ps bs).mem ∧
    (((s.setClock 8 s.hubStamp).storeAt ps bs).applied h 8 s.hubStamp).cores = s.cores ∧
    (((s.setClock 8 s.hubStamp).storeAt ps bs).applied h 8 s.hubStamp).hub.clock = s.hubStamp := by
  obtain ⟨hcores, hclock⟩ := ((s.setClock 8 s.hubStamp).storeAt ps bs).applied_hub 8 s.hubStamp hh
  refine ⟨by simp, ?_, ?_⟩
  · rw [hcores, State.storeAt_cores, State.setClock_cores]
  · rw [hclock, State.storeAt_hub (s := s.setClock 8 s.hubStamp) ps bs hwaiters]
    rfl

section

variable {s : State} {fn a n p : Nat}

/-- A read of the carve-out gives the bytes of memory, and merges the clock of their home (R122 step 5). -/
theorem hostRead_mapped (hon : s.fnEnabled fn = true) (ha : a < 2 ^ 64) (hplace : s.secondStage fn a n = some p)
    (hcausal : s.causalOk (p / 2 ^ 36) 8 s.hub.clock = true) (hp : p < 2 ^ 39) (hpresent : s.absentIn p n = false) :
    exec (.hostRead fn a n) s = .next ((s.hostGets (Memory.readBytes s.mem p n)).setClock 8 (clkMax s.hub.clock (s.die (p / 2 ^ 36)).clock)) := by
  have hclock : (s.hostGets (Memory.readBytes s.mem p n)).clock (p / 2 ^ 36) = (s.die (p / 2 ^ 36)).clock := by
    rw [State.clock, if_neg (by omega)]
    rfl
  change execHostRead fn a n s = _
  rw [execHostRead, if_neg (by simp [hon]), hostTarget_carve ha]
  dsimp only
  rw [hplace]
  dsimp only
  rw [placeDie_hbm hp, hpresent, State.causalLoadOk, show s.clock 8 = s.hub.clock from rfl, hcausal, State.loadReturns_of_ne _ (by omega), hclock]
  rfl

end

/-- By the target of the address: host memory, a word of BAR0, or the carve-out. -/
theorem hostAccesses : Claim.HostAccesses := by
  intro s fn a n bs hon
  refine ⟨fun ha => ⟨hostWrite_own hon ha, hostRead_own hon ha⟩,
    fun ha halign => ⟨?_, ?_, fun hlen => ?_, fun hlen hlow => ⟨?_, ?_⟩, fun hlen hpf => ?_⟩,
    fun hshare hin halign hlen => ⟨?_, ?_⟩, fun p ha hplace hin hbs hwaiters habsent => ⟨fun hcausal => ?_, fun hcausal => ?_⟩,
    fun p ha hplace _ hcausal hp hpresent => ?_, fun ha hplace => hostWrite_unmapped hon ha hplace⟩
  · rw [hostRead_bar0 hon, State.bar0Bytes_eight ha halign]
    rfl
  · rw [Nat.add_assoc, hostRead_bar0 hon, State.bar0Bytes_high_half ha halign]
    rfl
  · rw [hostWrite_bar0 hon (by omega), State.writeBar0Bytes_whole]
    · rw [bar0Size_of_low ha, hlen]
    · intro i hi
      rw [bar0Size_of_low ha] at hi
      rw [bar0Size_of_low ha, bar0Size_of_low (by omega)]
    · rw [bar0Size_of_low ha]
      decide
    · rw [bar0Size_of_low ha, halign]
  · rw [hostWrite_bar0 hon (by omega), State.writeBar0Bytes_low_half hlow halign hlen]
  · rw [Nat.add_assoc, hostWrite_bar0 hon (by omega), State.writeBar0Bytes_high_half hlow halign hlen]
  · rw [hostWrite_bar0 hon (by omega), State.writeBar0Bytes_dropped hpf ha halign hlen]
  · rw [hostRead_bar0 hon, State.bar0Bytes_four hshare hin halign]
    rfl
  · rw [hostWrite_bar0 hon hin, State.writeBar0Bytes_whole]
    · rw [bar0Size_of_high hshare, hlen]
    · intro i hi
      rw [bar0Size_of_high hshare, bar0Size_of_high (by omega)]
    · rw [bar0Size_of_high hshare]
      decide
    · rw [bar0Size_of_high hshare, halign]
  · have hwrite := hostWrite_mapped hon ha hplace hin hbs habsent
    rw [State.hubStamp, if_pos hcausal] at hwrite
    have hlen : bs.length ≠ 0 := by simpa using hbs
    exact ⟨_, hwrite, State.carveWritten _ bs (by omega) hwaiters⟩
  · have hwrite := hostWrite_mapped hon ha hplace hin hbs habsent
    rw [State.hubStamp, hcausal, if_neg Bool.false_ne_true] at hwrite
    exact hwrite
  · exact ⟨_, hostRead_mapped hon ha hplace hcausal hp hpresent, rfl, rfl, rfl⟩

/-- Settles O37, by its two parts: the registers of BAR0, and the accesses of the host. -/
theorem hostInterface : Obligations.HostInterface := ⟨hostRegisters, hostAccesses⟩

end Sys2Proof.Machine
end

section
/-! PROOFS. The state after reset (R27, R157, R202, R344, R357, R371). -/

namespace Sys2Proof.Machine

open Sys2Proof

/-- Settles O56: every field is read off `core.reset`; a virtual function is off because its register says so. -/
theorem resetState : Obligations.ResetState := by
  have hfn (n : Nat) : core.reset.fn n = {} := rfl
  refine ⟨rfl, rfl, rfl, fun c => ⟨rfl, rfl, rfl, rfl⟩, fun a => ⟨rfl, rfl⟩, fun u h => rfl, fun d => ⟨rfl, rfl, rfl⟩, rfl, rfl,
    fun n => ⟨rfl, fun r => rfl⟩, rfl, fun n hn => ?_⟩
  have hne : (n == 0) = false := by simpa using Nat.ne_of_gt hn
  simp [State.fnEnabled, hne, hfn]

end Sys2Proof.Machine
end

section
/-! PROOFS. Statements of the family 01_address_spaces.md that fail, each with the state that refutes it. -/

namespace Sys2Proof.Machine

open Sys2Proof

/-! ### FCALL by the firmware of a die control core (R186, R338) -/

/-- Refutes O20: the call statement gives the record of an FCALL the SEQ of the agent that issues it, whatever the core. Core 4096 is a
die control core; the record of its firmware has DC set and SEQ 0 (R186), and the SEQ of firmware is 10. -/
theorem not_taskCalls : ¬ Obligations.TaskCalls := by
  rintro ⟨-, hcalls, -, -⟩
  obtain ⟨-, hsmall⟩ := hcalls { cur := { core := 4096, agent := .firmware } } {} {} 0
  obtain ⟨⟨t, hexec, -, r, hcall, -, -, hseq⟩, -⟩ := hsmall (by decide)
  cases hexec
  cases hcall
  exact absurd hseq (by decide)

/-! ### A slot write that lets a rent operation answer (R18, R73) -/

/-- The state of the refutation: the last slot write of rent operation 0 is on its way, and its answer, 1, is for row 0 of core 0. -/
def rowAnswer : State :=
  { slotWrites := [{ core := 0, slot := 0, desc := 0, op := 0 }]
    slotOps := [{ op := 0, access := { dest := .row 0 }, value := 1 }] }

/-- Refutes O18: once its last slot write is applied, a rent operation answers, and its answer lands in its destination. The statement says
that the application of a slot write leaves memory as it was, without the premise that no operation waiting for it answers into a row of the
vector main file, which is memory. -/
theorem not_rentEffects : ¬ Obligations.RentEffects := by
  rintro ⟨-, hslots⟩
  obtain ⟨hwrite, -⟩ := hslots rowAnswer 0 0 { core := 0, slot := 0, desc := 0, op := 0 } { core := 0, slot := 0, unit := 0, lease := 0, lgen := 0 }
  obtain ⟨t, hexec, -, hmem, -⟩ := hwrite (by decide) (by decide) (by decide)
  have hrow : t.mem = Memory.writeNat [] (rowPlace 0 0) 256 1 := by
    cases hexec
    exact State.land_row_mem _ 0 0 _
  have hone : Memory.read t.mem (rowPlace 0 0) = 1 := by
    rw [hrow]
    exact Memory.read_writeBytes (toBytes 1 256) [] (rowPlace 0 0) 0 Memory.wf_nil (by simp)
  rw [hmem] at hone
  exact absurd hone (by decide)

/-! ### A keyed read whose home is no die (R45, R71) -/

/-- A load of a tier-3 lease at a place past the eight stacks, by a core past the eight dies: its home is component 8, the hub. -/
def farLoad : Access :=
  { id := 1, core := 4160, kind := .load false, dest := .x 1, offs := [0], places := [2 ^ 39] }

/-- The state of the refutation: the load is at its home, its data unit is under another key than that of its head's account, and x1 of its core
holds 256, which is no byte. -/
def farLoadState : State :=
  { transit := [farLoad], keyed := [(2 ^ 31, 1)]
    units := [(0, { leases := [(0, { st := .active, paid := 1, ngran := 1, base := 2 ^ 39, tier := 3 })] })]
    cores := [(4160, { task := { regs := { x := [(1, 256)] } } })] }

theorem farLoad_atHome : AtHome farLoadState farLoad := by
  constructor <;> decide

/-- Refutes O33: an access whose home is the hub is no read of HBM, and the event that performs an access at its die's home skips it, so that x1
keeps its 256, where the statement on keys gives it a deciphered byte. Its premises lack `a.home ≠ 8`, which the statement on plain accesses has. -/
theorem not_homeAccesses : ¬ Obligations.HomeAccesses := by
  rintro ⟨-, -, hkeys, -, -⟩
  obtain ⟨hload, -⟩ := hkeys farLoadState farLoad 1 1 (2 ^ 31) 1 (Config.deciphered (2 ^ 31) 0) rfl farLoad_atHome rfl rfl
    (by decide) (by decide) (by decide) (by decide) (by decide) (by decide) (by decide) rfl
  obtain ⟨t, hexec, -, -, hreg⟩ := hload rfl rfl (by decide) (by decide)
  cases hexec
  have hbyte : (256 : DWord) = BitVec.ofNat 64 (ofBytes [(Config.deciphered (2 ^ 31) 0).extractLsb' (8 * (2 ^ 39 % 256)) 8]) := hreg
  have hnat := congrArg BitVec.toNat hbyte
  have hlt := BitVec.isLt ((Config.deciphered (2 ^ 31) 0).extractLsb' (8 * (2 ^ 39 % 256)) 8)
  simp only [ofBytes, BitVec.toNat_ofNat] at hnat
  rw [show (256 : DWord).toNat = 256 from rfl] at hnat
  omega

end Sys2Proof.Machine
end
